-- ==== Sys2Proof/Word.lean ====
section
/-! DEFINITION. The word types of the model and the plainest operations on them. -/

namespace Sys2Proof

/-- One byte. -/
abbrev Byte := BitVec 8

/-- A 64-bit register value, virtual address or pod pointer (R101). -/
abbrev Word := BitVec 64

/-- A 32-bit instruction word of any code kind (R32). -/
abbrev Code := BitVec 32

/-- A numbered collection: pairs of a number and its content, in rising order of number.
Its operations are in Machine/Table.lean. -/
abbrev Tab (α : Type) := List (Nat × α)

/-- Byte addressed storage: pairs of a key and a byte, in rising order of key, with no pair whose
byte is what an unlisted key reads as. -/
abbrev Mem := List (Nat × BitVec 8)

end Sys2Proof
end

