-- ==== Sys2Proof/Machine/Table.lean ====
section
/-! DEFINITION. The operations on numbered tables and on byte storage: the only ones the meanings use,
and the byte order (little-endian everywhere, R5). -/

namespace Sys2Proof.Machine

/-! ### Numbered tables -/

/-- The content at a number, or the default where the table lists none. -/
def tget {α : Type} : Tab α → Nat → α → α
  | [], _, d => d
  | (j, v) :: t, k, d => if j = k then v else tget t k d

/-- The content at a number, if the table lists it. -/
def tfind {α : Type} : Tab α → Nat → Option α
  | [], _ => none
  | (j, v) :: t, k => if j = k then some v else tfind t k

/-- The table with the content at a number replaced, numbers kept rising. -/
def tset {α : Type} : Tab α → Nat → α → Tab α
  | [], k, v => [(k, v)]
  | (j, w) :: t, k, v =>
    if k < j then (k, v) :: (j, w) :: t
    else if k = j then (k, v) :: t
    else (j, w) :: tset t k v

/-- The table without a number. -/
def tdel {α : Type} (t : Tab α) (k : Nat) : Tab α := t.filter fun e => e.1 != k

/-- The table of a list of contents, numbered from a first number. -/
def tableFrom {α : Type} : Nat → List α → Tab α
  | _, [] => []
  | k, v :: vs => (k, v) :: tableFrom (k + 1) vs

/-- Every content changed by a function of its number. -/
def tmap {α β : Type} (f : Nat → α → β) (t : Tab α) : Tab β := t.map fun e => (e.1, f e.1 e.2)

/-- An element put before the first that it precedes. -/
def insertBy {α : Type} (lt : α → α → Bool) (x : α) : List α → List α
  | [] => [x]
  | y :: ys => if lt x y then x :: y :: ys else y :: insertBy lt x ys

/-- A list in rising order; equals keep their order. -/
def sortBy {α : Type} (lt : α → α → Bool) (l : List α) : List α := l.reverse.foldl (fun r x => insertBy (fun a b => !lt b a) x r) []

/-! ### Byte storage -/

/-- The byte at a key: zero where nothing is listed (R490: the bring-up clears the storage). -/
def memGet : Mem → Nat → Byte
  | [], _ => 0
  | (j, b) :: m, k => if j = k then b else memGet m k

/-- The listed cells of a run of bytes from a key: those that are not zero. -/
def memRun : Nat → List Byte → Mem
  | _, [] => []
  | k, b :: bs => if b = 0 then memRun (k + 1) bs else (k, b) :: memRun (k + 1) bs

/-- The storage with a run of bytes written from a key. Stores are writes of this kind;
clearing is memZero, moving a page memBlit. -/
def memPut (m : Mem) (k : Nat) (bs : List Byte) : Mem :=
  m.filter (fun e => e.1 < k) ++ memRun k bs ++ m.filter (fun e => k + bs.length ≤ e.1)

/-- n bytes from a key. -/
def memRead (m : Mem) (k : Nat) : Nat → List Byte
  | 0 => []
  | n + 1 => memGet m k :: memRead m (k + 1) n

/-- The canonical form: keys strictly rising, no zero byte listed. -/
def memWf : Mem → Bool
  | [] => true
  | [(_, b)] => b != 0
  | (j, b) :: (k, c) :: m => b != 0 && j < k && memWf ((k, c) :: m)

/-! ### Bytes and numbers -/

/-- The unsigned value of little-endian bytes (R5). -/
def leNat : List Byte → Nat
  | [] => 0
  | b :: bs => b.toNat + 256 * leNat bs

/-- n little-endian bytes of a number (R5). -/
def toLe : Nat → Nat → List Byte
  | 0, _ => []
  | n + 1, v => BitVec.ofNat 8 v :: toLe n (v / 256)

/-- n bytes at a key as an unsigned number. -/
def memNat (m : Mem) (k n : Nat) : Nat := leNat (memRead m k n)

/-- The n bits of a number from bit lo upward. -/
def bits (v lo n : Nat) : Nat := v / 2 ^ lo % 2 ^ n

/-- Bit i of a number. -/
def bitAt (v i : Nat) : Bool := v / 2 ^ i % 2 == 1

/-- An n-bit number read as two's complement. -/
def sint (v n : Nat) : Int := if v % 2 ^ n < 2 ^ (n - 1) then (v % 2 ^ n : Nat) else ((v % 2 ^ n : Nat) : Int) - 2 ^ n

/-- An integer reduced to n bits. -/
def uint (i : Int) (n : Nat) : Nat := (i % (2 ^ n : Nat)).toNat

/-- A word sign-extended from its low n bits. -/
def sext (v n : Nat) : Word := BitVec.ofNat 64 (uint (sint v n) 64)

/-- The 64-byte granule of an address (R124). -/
def granule (a : Nat) : Nat := a / 64 * 64

/-- The elements from position i, n of them, padded with a default. -/
def slice {α : Type} (xs : List α) (i n : Nat) : List α := (xs.drop i).take n

/-- The element at a position, or a default. -/
def at' {α : Type} (xs : List α) (i : Nat) (d : α) : α := xs.getD i d

/-- The elements at the first n positions, padded with a default. -/
def padTo {α : Type} (xs : List α) (n : Nat) (d : α) : List α := xs.take n ++ List.replicate (n - xs.length) d

/-- The list with the element at a position replaced. -/
def setAt {α : Type} : List α → Nat → α → List α
  | [], _, _ => []
  | _ :: xs, 0, v => v :: xs
  | x :: xs, i + 1, v => x :: setAt xs i v

/-- Unsigned little-endian field of n bytes at offset o of a block of bytes. -/
def fieldAt (bs : List Byte) (o n : Nat) : Nat := leNat (slice bs o n)

end Sys2Proof.Machine
end

