-- ==== Sys2Proof/Machine/Numeric.lean ====
section
/-! DEFINITION. Number formats, exact values and rounding (R73 to R86, R91, R93). An exact value is a
dyadic number; a value that is no dyadic (a quotient, a special function) is held with enough bits and
a last bit set (a sticky bit), so that every rounding of it is the rounding of the exact value. -/

namespace Sys2Proof.Machine

/-- The element formats (R58). -/
inductive Fmt where
  | fp32 | fp16 | bf16 | e4m3 | e5m2 | e2m1 | int8 | uint8 | int4 | uint4 | int32 | int64 | e8m0
  deriving DecidableEq, Repr

/-- R58: the element format codes; 13 to 15 are reserved. -/
def fmtOf : Nat → Option Fmt
  | 0 => some .fp32 | 1 => some .fp16 | 2 => some .bf16 | 3 => some .e4m3 | 4 => some .e5m2
  | 5 => some .e2m1 | 6 => some .int8 | 7 => some .uint8 | 8 => some .int4 | 9 => some .uint4
  | 10 => some .int32 | 11 => some .int64 | 12 => some .e8m0 | _ => none

/-- Bits of an element (R73, R74). -/
def fmtBits : Fmt → Nat
  | .fp32 => 32 | .fp16 => 16 | .bf16 => 16 | .e4m3 => 8 | .e5m2 => 8 | .e2m1 => 4
  | .int8 => 8 | .uint8 => 8 | .int4 => 4 | .uint4 => 4 | .int32 => 32 | .int64 => 64 | .e8m0 => 8

/-- A floating element format of values (E8M0 is used only as a scale, R74). -/
def isFloat : Fmt → Bool
  | .fp32 | .fp16 | .bf16 | .e4m3 | .e5m2 | .e2m1 => true
  | _ => false

/-- Mantissa width and bias of a floating format (R73). -/
def mantBias : Fmt → Nat × Int
  | .fp32 => (23, 127) | .fp16 => (10, 15) | .bf16 => (7, 127) | .e4m3 => (3, 7) | .e5m2 => (2, 15)
  | _ => (1, 1)

/-- MaxOf as a mantissa and an exponent of two, with the spacing below it as the unit (R73, R78). -/
def maxOf : Fmt → Nat × Int
  | .fp32 => (2 ^ 24 - 1, 104) | .fp16 => (2047, 5) | .bf16 => (255, 120) | .e4m3 => (14, 5)
  | .e5m2 => (7, 13) | _ => (3, 1)

/-- Range of an integer format (R74). -/
def intRange : Fmt → Int × Int
  | .int8 => (-128, 127) | .uint8 => (0, 255) | .int4 => (-8, 7) | .uint4 => (0, 15)
  | .int32 => (-2147483648, 2147483647) | _ => (-9223372036854775808, 9223372036854775807)

/-- A signed integer format. -/
def isSigned : Fmt → Bool
  | .uint8 | .uint4 => false
  | _ => true

/-- The canonical NaN of a format (R76), and the result a NaN input gives (R80, R81). -/
def nanOf : Fmt → Nat
  | .fp32 => 0x7FC00000 | .fp16 => 0x7E00 | .bf16 => 0x7FC0 | .e4m3 => 0x7F | .e5m2 => 0x7E
  | .e8m0 => 0xFF | _ => 0

/-- An exact value: NaN, a signed infinity, or (−1)^neg × m × 2^e. -/
inductive Val where
  | nan
  | inf (neg : Bool)
  | fin (neg : Bool) (m : Nat) (e : Int)
  deriving DecidableEq, Repr

/-- The rounding modes of R57: nearest even, toward zero, stochastic with its 16 random bits (R79). -/
inductive RMode where
  | rne
  | rtz
  | sr (r : Nat)
  deriving DecidableEq, Repr

/-- Zero with a sign. -/
def zeroV (neg : Bool) : Val := .fin neg 0 0

/-- An integer as an exact value. -/
def ofInt (i : Int) : Val := .fin (decide (i < 0)) i.natAbs 0

/-- 2^e. -/
def powV (e : Int) : Val := .fin false 1 e

/-- The value of the bits of an element (R73, R74). -/
def toVal (f : Fmt) (b : Nat) : Val :=
  match f with
  | .e8m0 => if b = 255 then .nan else powV ((b : Int) - 127)
  | .int8 | .int4 | .int32 | .int64 => ofInt (sint b (fmtBits f))
  | .uint8 | .uint4 => ofInt b
  | _ =>
    let w := (mantBias f).1
    let bias := (mantBias f).2
    let n := fmtBits f
    let neg := bitAt b (n - 1)
    let m := b % 2 ^ w
    let ex := b % 2 ^ (n - 1) / 2 ^ w
    let exMax := 2 ^ (n - 1 - w) - 1
    if f = .e4m3 && ex = 15 && m = 7 then .nan
    else if f != .e4m3 && f != .e2m1 && ex = exMax then (if m = 0 then .inf neg else .nan)
    else if ex = 0 then .fin neg m (1 - bias - w)
    else .fin neg (2 ^ w + m) ((ex : Int) - bias - w)

/-- m × 2^e as a whole quotient and remainder over a unit 2^u: (quotient, remainder, divisor). -/
def splitAt (m : Nat) (e u : Int) : Nat × Nat × Nat :=
  if u ≤ e then (m * 2 ^ (e - u).toNat, 0, 1)
  else let d := 2 ^ (u - e).toNat; (m / d, m % d, d)

/-- The candidate a mode picks: the lower one or the next (R78, R79). -/
def pick (mode : RMode) (q r d : Nat) : Nat :=
  match mode with
  | .rne => if d < 2 * r || (2 * r = d && q % 2 = 1) then q + 1 else q
  | .rtz => q
  | .sr x => if 2 ^ 16 ≤ r * 2 ^ 16 / d + x then q + 1 else q

/-- Whether m1 × 2^e1 ≤ m2 × 2^e2. -/
def magLe (m1 : Nat) (e1 : Int) (m2 : Nat) (e2 : Int) : Bool :=
  if e1 ≤ e2 then decide (m1 ≤ m2 * 2 ^ (e2 - e1).toNat) else decide (m1 * 2 ^ (e1 - e2).toNat ≤ m2)

/-- The bits of ±q × 2^u, where q has at most one bit more than the mantissa (R73). -/
def packFloat (f : Fmt) (neg : Bool) (q : Nat) (u : Int) : Nat :=
  let w := (mantBias f).1
  let bias := (mantBias f).2
  let s := if neg then 2 ^ (fmtBits f - 1) else 0
  let q' := if q < 2 ^ (w + 1) then q else q / 2
  let u' := if q < 2 ^ (w + 1) then u else u + 1
  if q' < 2 ^ w then s + q' else s + (u' + w + bias).toNat * 2 ^ w + (q' - 2 ^ w)

/-- ±MaxOf (R80). -/
def packMax (f : Fmt) (neg : Bool) : Nat := packFloat f neg (maxOf f).1 (maxOf f).2

/-- The result of an infinity or of an overflow (R80). -/
def overflowOf (f : Fmt) (neg sat : Bool) : Nat :=
  match f with
  | .e2m1 => packMax f neg
  | .e4m3 => if sat then packMax f neg else 0x7F
  | _ =>
    if sat then packMax f neg
    else (if neg then 2 ^ (fmtBits f - 1) else 0) +
      (2 ^ (fmtBits f - 1 - (mantBias f).1) - 1) * 2 ^ (mantBias f).1

/-- RoundTo for a floating format (R78 to R80). -/
def roundFloat (f : Fmt) (neg : Bool) (m : Nat) (e : Int) (mode : RMode) (sat : Bool) : Nat :=
  let w := (mantBias f).1
  let emin := 1 - (mantBias f).2
  if m = 0 then packFloat f neg 0 0
  else if mode != .rtz && magLe (2 * (maxOf f).1 + 1) ((maxOf f).2 - 1) m e then overflowOf f neg sat
  else
    let k := (m.log2 : Int) + e
    let u := (if k < emin then emin else k) - w
    let s := splitAt m e u
    let q := if s.2.1 = 0 then s.1 else pick mode s.1 s.2.1 s.2.2
    if magLe q u (maxOf f).1 (maxOf f).2 then packFloat f neg q u else packMax f neg

/-- An integer limited to a range. -/
def clampI (lo hi i : Int) : Int := if i < lo then lo else if hi < i then hi else i

/-- The bits of an integer in an integer format. -/
def packInt (f : Fmt) (i : Int) : Nat := uint i (fmtBits f)

/-- A value rounded to an integer in a mode (R81; in SR the unit is 1). -/
def roundInt (neg : Bool) (m : Nat) (e : Int) (mode : RMode) : Int :=
  let s := splitAt m e 0
  let q := if s.2.1 = 0 then s.1 else pick mode s.1 s.2.1 s.2.2
  if neg then -(q : Int) else q

/-- RoundTo(fmt, x, mode) under SAT (R78 to R82). E8M0 is no target of a conversion (R83); its
result here is the canonical NaN and no meaning uses it. -/
def roundTo (f : Fmt) (x : Val) (mode : RMode) (sat : Bool) : Nat :=
  match f with
  | .e8m0 => 0xFF
  | .int8 | .uint8 | .int4 | .uint4 | .int32 | .int64 =>
    match x with
    | .nan => 0
    | .inf neg => packInt f (if neg then (intRange f).1 else (intRange f).2)
    | .fin neg m e => packInt f (clampI (intRange f).1 (intRange f).2 (roundInt neg m e mode))
  | _ =>
    match x with
    | .nan => nanOf f
    | .inf neg => overflowOf f neg sat
    | .fin neg m e => roundFloat f neg m e mode sat

/-- The flush of an output under FTZ (R86): FP32, FP16 and BF16 results below the smallest normal. -/
def flushBits (f : Fmt) (ftz : Bool) (b : Nat) : Nat :=
  match f with
  | .fp32 | .fp16 | .bf16 =>
    if ftz && b % 2 ^ (fmtBits f - 1) < 2 ^ (mantBias f).1 then b / 2 ^ (fmtBits f - 1) * 2 ^ (fmtBits f - 1)
    else b
  | _ => b

/-- The flush of an input under FTZ (R86): a scaled value below 2^−126 enters as a zero. -/
def flushV (ftz : Bool) (x : Val) : Val :=
  match x with
  | .fin neg m e => if ftz && m != 0 && !magLe 1 (-126) m e then zeroV neg else x
  | _ => x

/-- An integer narrowed to an integer format (R82). -/
def narrowInt (f : Fmt) (i : Int) (sat : Bool) : Nat :=
  if sat then packInt f (clampI (intRange f).1 (intRange f).2 i) else packInt f i

/-! ### Arithmetic on exact values (R77) -/

def negV : Val → Val
  | .nan => .nan
  | .inf n => .inf !n
  | .fin n m e => .fin (!n) m e

def absV : Val → Val
  | .nan => .nan
  | .inf _ => .inf false
  | .fin _ m e => .fin false m e

def mulV : Val → Val → Val
  | .nan, _ | _, .nan => .nan
  | .inf a, .inf b => .inf (a != b)
  | .inf a, .fin b m _ | .fin b m _, .inf a => if m = 0 then .nan else .inf (a != b)
  | .fin a m e, .fin b n k => .fin (a != b) (m * n) (e + k)

/-- The signed mantissa of a finite value over a unit 2^u not above its exponent. -/
def overUnit (neg : Bool) (m : Nat) (e u : Int) : Int :=
  let q : Int := m * 2 ^ (e - u).toNat
  if neg then -q else q

def addV : Val → Val → Val
  | .nan, _ | _, .nan => .nan
  | .inf a, .inf b => if a = b then .inf a else .nan
  | .inf a, .fin .. | .fin .., .inf a => .inf a
  | .fin a m e, .fin b n k =>
    if m = 0 && n = 0 then zeroV (a && b)
    else
      let u := if e ≤ k then e else k
      let s := overUnit a m e u + overUnit b n k u
      if s = 0 then zeroV false else .fin (decide (s < 0)) s.natAbs u

/-- The quotient to 200 bits and a sticky bit; x / 0 follows IEEE 754. -/
def divV : Val → Val → Val
  | .nan, _ | _, .nan => .nan
  | .inf _, .inf _ => .nan
  | .inf a, .fin b _ _ => .inf (a != b)
  | .fin a _ _, .inf b => zeroV (a != b)
  | .fin a m e, .fin b n k =>
    if n = 0 then (if m = 0 then .nan else .inf (a != b))
    else
      let m' := m * 2 ^ (200 + n.log2 + 1)
      let q := m' / n
      .fin (a != b) (2 * q + (if m' % n = 0 then 0 else 1)) (e - k - (200 + n.log2 + 1 : Nat) - 1)

/-- Comparison of two values that are not NaN: less, with −0 equal to +0. -/
def ltV : Val → Val → Bool
  | .nan, _ | _, .nan => false
  | .inf a, .inf b => a && !b
  | .inf a, .fin .. => a
  | .fin .., .inf b => !b
  | .fin a m e, .fin b n k =>
    let u := if e ≤ k then e else k
    decide (overUnit a m e u < overUnit b n k u)

def isNan : Val → Bool
  | .nan => true
  | _ => false

def eqV (x y : Val) : Bool := !isNan x && !isNan y && !ltV x y && !ltV y x

def signV : Val → Bool
  | .nan => false
  | .inf n => n
  | .fin n _ _ => n

/-- Maximum (R91): NaN if either is NaN; max(+0, −0) is +0. -/
def maxV (x y : Val) : Val :=
  if isNan x || isNan y then .nan
  else if ltV x y then y else if ltV y x then x else if signV x then y else x

/-- Minimum (R91): NaN if either is NaN; min(+0, −0) is −0. -/
def minV (x y : Val) : Val :=
  if isNan x || isNan y then .nan
  else if ltV x y then x else if ltV y x then y else if signV x then x else y

/-- RNE32 as bits and as a value. -/
def rne32b (x : Val) : Nat := roundTo .fp32 x .rne false
def rne32 (x : Val) : Val := toVal .fp32 (rne32b x)

/-- The sum of a list of values, exact (R88). -/
def sumV (xs : List Val) : Val := xs.foldl addV (zeroV false)

/-- The largest magnitude of a block, or NaN. -/
def maxMag (xs : List Val) : Val := xs.foldl (fun a x => maxV a (absV x)) (zeroV false)

/-- The covering scale of a block with largest magnitude a for a target whose largest value is M
(R83): the least code e with 2^(e − 127) ≥ a / M. -/
def coverScale (a : Val) (M : Nat) : Nat :=
  match a with
  | .nan => 255
  | .inf _ => 254
  | .fin _ m e =>
    if m = 0 then 127
    else
      let k := (m.log2 : Int) + e - (M.log2 : Int)
      let good := fun (j : Int) => magLe m e M j
      let j := if good (k - 1) then k - 1 else if good k then k else k + 1
      if j + 127 ≤ 0 then 0 else if 254 ≤ j + 127 then 254 else (j + 127).toNat

/-- R79, R94: the 16 random bits of ordinal e of a group, from the generator word. -/
def srBits (w : Word) (e : Nat) : Nat := (w.rotateLeft ((5 * (e % 64)) % 64)).toNat % 2 ^ 16

/-- One step of a stochastic-rounding generator (R94). -/
def srStep (x : Word) : Word :=
  let x := x ^^^ (x <<< 13)
  let x := x ^^^ (x >>> 7)
  x ^^^ (x <<< 17)

end Sys2Proof.Machine
end

