-- ==== Sys2Proof/Config.lean ====
section
/-! DEFINITION. What the part fixes as constants, and the free values: opaque constants without a
body, one for each value the spec leaves open. -/

namespace Sys2Proof.Config

/-! ### Fixed figures of the part -/

/-- Base of the scratch window (R124). -/
def win : Nat := 0xFFFFFFFFFFC00000
/-- Base of the copy aperture (R290). -/
def copyAp : Nat := 0xFFFFFFFFFFBFF800
/-- Bytes of a physical or logical scratchpad segment (R164). -/
def segBytes : Nat := 0x10000
/-- Bytes of one HBM region (R15). -/
def regionBytes : Nat := 0x200000000
/-- Tide ns of a slot, slots of a period, tide ns of a period (R158). -/
def slotNs : Nat := 12
def periodSlots : Nat := 4096
def periodNs : Nat := 49152
/-- Bytes of a context area (R434). -/
def ctxBytes : Nat := 0x480000
/-- Capacity of an engine command queue (R133). -/
def queueCap : Nat := 16
/-- SFU and Gaussian table versions of this part (R98, R255); event set version (R467). -/
def sfuVer : Nat := 1
def gtabVer : Nat := 1
def evVer : Nat := 1

/-- The mixing constants of R252. -/
def mixA : Nat := 0xA3C59F2B6E174D89
def mixB : Nat := 0x5B7E1C93F04A28D7
def mixC : Nat := 0xE91F73A50C6BD24B

/-! ### Keys of the flat storage: where each memory of the package lies in `Mem` -/

/-- First key of core c's physical scratchpad is `scratchKey + c * 2^22`. -/
def scratchKey : Nat := 0x10000000000
/-- First key of launch record i is `poolKey + 512 * i` (R316). -/
def poolKey : Nat := 0x20000000000
/-- First key of host memory. -/
def hostKey : Nat := 0x100000000000000000
/-- First key of entries of page tables at other packages: no storage of this package. -/
def farKey : Nat := 0x1000000000000000000

/-! ### Free values: nothing in the model or in a proof can see what they are -/

/-- A value the spec calls unpredictable or leaves open, drawn by a counter of the state (DESIGN CHOICE, log 2). -/
opaque freeWord : Nat → Word
/-- Bytes of the boot ROM image, the patch set and the SFU and Gaussian table images as the boot ROM
hashes them into MEAS0, MEAS2 and MEAS3 (R460; DESIGN CHOICE, log 7). -/
opaque bootImage : Nat → List Byte
/-- The fuse image apart from the fuse map: the device identity public key (R460; DESIGN CHOICE, log 7). -/
opaque idKey : List Byte
/-- The Opduken ROM and patch version (R487; DESIGN CHOICE, log 7). -/
opaque fwVersion : BitVec 32
/-- The device's HSS signature over a report, by top leaf, per-boot leaf and message (R461, R462; DESIGN CHOICE, log 8). -/
opaque deviceSignature : Nat → Nat → List Byte → List Byte
/-- The bytes of an exported session, by its contents in order: the manual gives them no layout, and shows the host
none of the exact counts in them (R457, R474, R489; DESIGN CHOICE, log 26). -/
opaque sealedSession : List Nat → List Byte
/-- Whether the route to an endpoint outside the pod leaves through a scale-out port (R355; DEDUCED, log 9). -/
opaque scaleOutEndpoint : Nat → Bool

/-- Members that a PHASE of scope POD or SYSTEM has on other packages, by job and graph: firmware fixes the
number at JOB_START (R385), from what the manual does not say (DESIGN CHOICE, log 16). -/
opaque farMembers : Nat → Nat → Nat
/-- Packages other than this one that take part in a job: their number, by job (R439; DESIGN CHOICE, log 16). -/
opaque farPackages : Nat → Nat
/-- The other end of a chord link named by (package, port, lane): where its light arrives, or comes from, is a matter
of the fibres and gratings outside the packages (R391, R442; DESIGN CHOICE, log 22). -/
opaque chordPeer : Nat × Nat × Nat → Nat × Nat × Nat

/-- Which leaf of a run whose SIZE agreements do not hold translates an address (R348). -/
opaque runPick : Nat → Nat

end Sys2Proof.Config
end

