-- ==== Sys2Proof/Syntax.lean ====
section
/-! DEFINITION. The instruction set as syntax: one constructor of `Instr` for each row of
spec/opcode_table.json, with the operand types they use. Words of the four code kinds carry the
fields of their encoding; the rows without an encoding (the events of the agents and the commands
of the host) carry what the event names: the port, the channel, the packet, the payload. -/

namespace Sys2Proof

/-! ### Operand types of the instruction words -/

/-- The scope code of R43. -/
inductive Scope where
  | core | bay | die | chip | tenant | pod | system
  deriving DecidableEq, Repr

/-- The order suffix of an AMO (R46): relaxed, ACQ, REL, AR. -/
inductive Ord where
  | relaxed | acq | rel | ar
  deriving DecidableEq, Repr

/-- The comparison code of CMP, CMPI and VCMP (R46). -/
inductive Cond where
  | eq | ne | lt | ge | ltu | geu | bits | nbits
  deriving DecidableEq, Repr

/-- The level code of CANCEL, CWAITC and CREAD (R48, R52). -/
inductive Level where
  | unit | launch | graph | phase | job
  deriving DecidableEq, Repr

/-- The code kinds whose words an engine issues (R32). -/
inductive CodeKind where
  | scalar | vector | matrix | copy | link | corbel
  deriving DecidableEq, Repr

/-- The operand fields of a VE word other than a CTL word (R53, R54). -/
structure VeOps where
  d : BitVec 4
  a : BitVec 4
  b : BitVec 4
  m : BitVec 3
  dly : BitVec 5
  sat : Bool
  negb : Bool
  f2 : Bool
  deriving DecidableEq, Repr

/-- The fields of an MMA word (R56, R57). -/
structure MmaOps where
  tile : BitVec 2
  aG : Bool
  a : BitVec 4
  latch : BitVec 1
  sgnA : Bool
  sgnB : Bool
  acc : BitVec 2
  scl : BitVec 4
  scaled : Bool
  dly : BitVec 5
  fmt : BitVec 3
  deriving DecidableEq, Repr

/-- The fields of MLATCH and MXLATCH (R56). -/
structure LatchOps where
  bG : Bool
  b : BitVec 4
  latch : BitVec 1
  fmt : BitVec 3
  dly : BitVec 5
  deriving DecidableEq, Repr

/-! ### Packets, frames and payloads of the events -/

/-- An asynchronous packet: the header fields of R406 that the receiver uses, and its data. -/
structure Packet where
  size : BitVec 8
  aop : BitVec 8
  hop : BitVec 8
  srcPkg : BitVec 16
  srcVf : BitVec 8
  srcCh : BitVec 8
  srcId : BitVec 16
  dstPkg : BitVec 16
  dstVf : BitVec 8
  nhop : BitVec 8
  route : BitVec 128
  rkey : BitVec 32
  tag : BitVec 32
  offset : BitVec 56
  bmask : BitVec 64
  data : List Byte
  deriving DecidableEq, Repr

/-- The TYPE byte of a packet (R406). -/
inductive PacketKind where
  | read | write | atomic | reduce | handle | reply | nack | retry
  deriving DecidableEq, Repr

/-- A frame on a port or lane (R392): its header fields, payload and scale area, and what the checks
of R411 find on arrival (HCRC; every flit CRC; CRC-64; the end marker). -/
structure Frame where
  typ : BitVec 8
  wfmt : BitVec 8
  srcPkg : BitVec 16
  slot : BitVec 16
  set : BitVec 8
  rpl : Bool
  period : BitVec 32
  desc : BitVec 16
  tile : BitVec 16
  markId : BitVec 16
  payload : List Byte
  scales : List (BitVec 32)
  hcrcGood : Bool
  flitsGood : Bool
  crcGood : Bool
  aborted : Bool
  deriving DecidableEq, Repr

/-- What the alarm slots carry (R411, R439, R440, R333, R463). -/
inductive Alarm where
  /-- a failed tile: originating package, period, slot, port of the originator, descriptor, tile -/
  | badTile (pkg : Nat) (period : Nat) (slot : Nat) (desc : Nat) (tile : Nat)
  /-- a pod failure declared in the period, with the link that failed when one did -/
  | podFailure (job : Nat) (period : Nat) (link : Option (Nat × Nat × Nat))
  /-- a link found failed in the period, by the package, port and lane of one end -/
  | linkFailed (period : Nat) (link : Nat × Nat × Nat)
  /-- the package has completed keystone k of the job locally -/
  | keystone (pkg : Nat) (job : Nat) (k : Nat)
  /-- a cancel of PHASE or JOB level reaches the other packages of the job -/
  | cancel (job : Nat) (phaseOnly : Bool)
  /-- a VF of a package is being torn down -/
  | teardown (pkg : Nat) (vf : Nat)
  /-- a package holds the detour set -/
  | setLoaded (pkg : Nat) (set : Nat)
  /-- a member of a pod-scope PHASE on another package has arrived: graph, job, scope SYSTEM, count -/
  | phaseArrived (pkg : Nat) (job : Nat) (graph : Nat) (system : Bool)
  deriving DecidableEq, Repr

/-- The header of an Isune frame with the device queue pair that carried it (R480, R483).
`reserved` says whether a reserved byte is not zero. -/
structure IsuneHdr where
  qp : BitVec 16
  version : BitVec 16
  opcode : BitVec 16
  tag : BitVec 32
  length : BitVec 32
  vf : BitVec 8
  world : BitVec 8
  kind : BitVec 8
  reserved : Bool
  deriving DecidableEq, Repr

/-- An entry of a VF's range table (R351). -/
structure RangeEntry where
  base : BitVec 48
  limit : BitVec 48
  offset : Word
  world : BitVec 8
  kind : BitVec 8
  path : BitVec 8
  pkg : BitVec 16
  vfn : BitVec 8
  key : BitVec 32
  deriving DecidableEq, Repr

/-- The heap setting of a VF (R344): the fields BASE, LIMIT and OFF. -/
structure HeapSpec where
  base : BitVec 38
  limit : BitVec 38
  off : BitVec 32
  deriving DecidableEq, Repr

/-- An entry of a VF's remote key table (R403). -/
structure KeyEntry where
  v : Bool
  r : Bool
  w : Bool
  amo : Bool
  handle : Bool
  kind : BitVec 8
  gen : BitVec 22
  base : Word
  limit : Word
  recNo : BitVec 16
  unit : BitVec 8
  deriving DecidableEq, Repr

/-- The four timestamps of a tide exchange (R155): when the child sent and the parent got one frame, and when the parent sent and
the child got the other. -/
structure TideStamps where
  childSent : Word
  parentGot : Word
  parentSent : Word
  childGot : Word
  deriving DecidableEq, Repr

/-- What VF_CREATE fixes (R450): world, queue pairs, public key, quotas, page table root, and the
remote keys that firmware writes from .keymap images (index, entry). -/
structure VfSpec where
  vf : BitVec 8
  world : Bool
  qps : List Nat
  scoQps : List Nat
  pubKey : List Byte
  poolFirst : Nat
  poolCount : Nat
  root : BitVec 48
  keys : List (Nat × KeyEntry)
  deriving DecidableEq, Repr

/-- PARTITION_ASSIGN (R451): whole bays, the world bit of each corbel named as (bay, corbel), the
quantum in tide ns, barriers and channels as (die, number). -/
structure PartitionSpec where
  bays : List Nat
  world : Bool
  corbels : List (Nat × Nat)
  quantum : Nat
  barriers : List (Nat × Nat)
  channels : List (Nat × Nat)
  deriving DecidableEq, Repr

/-- One lane of a chord port in a plan: transmit and receive channel (R391). -/
structure LanePlan where
  tx : BitVec 6
  rx : BitVec 6
  deriving DecidableEq, Repr

/-- A chord port in a plan (R391, R414): its plane, its index and radix there, its eight lanes, and
for the check of R391 the receive channels of the peer lanes each lane may meet. -/
structure ChordSpec where
  port : Nat
  plane : Nat
  index : Nat
  radix : Nat
  lanes : List LanePlan
  peers : List (Nat × List (BitVec 6))
  deriving DecidableEq, Repr

/-- Routes to an endpoint package: up to four lists of port numbers (R407). -/
structure RouteSpec where
  dst : Nat
  routes : List (List Nat)
  deriving DecidableEq, Repr

/-- A transfer program of one port in SCHEDULE_LOAD or DETOUR_LOAD (R393): its words and its
descriptors of 32 bytes (R395). -/
structure LinkProg where
  port : Nat
  words : List Code
  descs : List (List Byte)
  deriving DecidableEq, Repr

/-- An event selection and ring of a profiling session (R473). -/
structure SessionSpec where
  events : List (BitVec 16)
  qentry : Bool
  banksnap : Bool
  ringVa : Word
  ringSize : Nat
  deriving DecidableEq, Repr

/-- An exported profiling session (R474, R489): its selection and the counts of each unit, named by
record and unit index. -/
structure SessionBlob where
  spec : SessionSpec
  fixed : List (Nat × Nat × List Word)
  selected : List (Nat × Nat × List Word)
  deriving DecidableEq, Repr

/-- What a read of counters or traces names: VF, record and counter, or a ring offset (R489). -/
structure CounterSel where
  vf : Nat
  recNo : Nat
  unit : Nat
  counter : Nat
  deriving DecidableEq, Repr

/-! ### The instruction set -/

/-- The operations and events of the part, one constructor for each row of the opcode table. -/
inductive Instr where
  -- scalar words (R44 to R52)
  | ill
  | add (d a b : BitVec 6)
  | sub (d a b : BitVec 6)
  | mul (d a b : BitVec 6)
  | mulhs (d a b : BitVec 6)
  | mulhu (d a b : BitVec 6)
  | divs (d a b : BitVec 6)
  | divu (d a b : BitVec 6)
  | rems (d a b : BitVec 6)
  | remu (d a b : BitVec 6)
  | and (d a b : BitVec 6)
  | or (d a b : BitVec 6)
  | xor (d a b : BitVec 6)
  | andn (d a b : BitVec 6)
  | shl (d a b : BitVec 6)
  | shr (d a b : BitVec 6)
  | sar (d a b : BitVec 6)
  | rol (d a b : BitVec 6)
  | mins (d a b : BitVec 6)
  | minu (d a b : BitVec 6)
  | maxs (d a b : BitVec 6)
  | maxu (d a b : BitVec 6)
  | clz (d a : BitVec 6)
  | ctz (d a : BitVec 6)
  | popc (d a : BitVec 6)
  | bswap (d a : BitVec 6)
  | sextb (d a : BitVec 6)
  | sexth (d a : BitVec 6)
  | sextw (d a : BitVec 6)
  | addi (d a : BitVec 6) (imm : BitVec 13)
  | andi (d a : BitVec 6) (imm : BitVec 13)
  | ori (d a : BitVec 6) (imm : BitVec 13)
  | xori (d a : BitVec 6) (imm : BitVec 13)
  | shli (d a : BitVec 6) (imm : BitVec 13)
  | shri (d a : BitVec 6) (imm : BitVec 13)
  | sari (d a : BitVec 6) (imm : BitVec 13)
  | muli (d a : BitVec 6) (imm : BitVec 13)
  | movi (d : BitVec 6) (imm : BitVec 19)
  | movk (d : BitVec 6) (hw : BitVec 2) (imm : BitVec 16)
  | cmp (pd : BitVec 4) (a b : BitVec 6) (cc : Cond) (pa : BitVec 4)
  | cmpi (pd : BitVec 4) (a : BitVec 6) (imm : BitVec 6) (cc : Cond) (pa : BitVec 4)
  | pand (pd pa pb : BitVec 4)
  | por (pd pa pb : BitVec 4)
  | pxor (pd pa pb : BitVec 4)
  | pandn (pd pa pb : BitVec 4)
  | pmov (pd pa : BitVec 4)
  | pnot (pd pa : BitVec 4)
  | pset (pd : BitVec 4)
  | br (pq : BitVec 4) (neg : Bool) (off : BitVec 20)
  | call (pq : BitVec 4) (neg : Bool) (off : BitVec 20)
  | jr (a : BitVec 6)
  | callr (a : BitVec 6)
  | ret
  | brstg (off : BitVec 20)
  | brcl (pq : BitVec 4) (neg : Bool) (off : BitVec 20)
  | pcl (pq : BitVec 4) (neg : Bool) (n1 : BitVec 3)
  | ldu (t a : BitVec 6) (sz : BitVec 2) (imm : BitVec 11)
  | lds (t a : BitVec 6) (sz : BitVec 2) (imm : BitVec 11)
  | st (t a : BitVec 6) (sz : BitVec 2) (imm : BitVec 11)
  | ldm (t a : BitVec 6) (n1 : BitVec 2) (imm : BitVec 11)
  | stm (t a : BitVec 6) (n1 : BitVec 2) (imm : BitVec 11)
  | amoLd (o : Ord) (d a : BitVec 6) (sc : Scope)
  | amoSt (o : Ord) (a b : BitVec 6) (sc : Scope)
  | amoSwap (o : Ord) (d a b : BitVec 6) (sc : Scope)
  | amoCas (o : Ord) (d a b : BitVec 6) (sc : Scope)
  | amoAdd (o : Ord) (d a b : BitVec 6) (sc : Scope)
  | amoAnd (o : Ord) (d a b : BitVec 6) (sc : Scope)
  | amoOr (o : Ord) (d a b : BitVec 6) (sc : Scope)
  | amoXor (o : Ord) (d a b : BitVec 6) (sc : Scope)
  | amoMins (o : Ord) (d a b : BitVec 6) (sc : Scope)
  | amoMinu (o : Ord) (d a b : BitVec 6) (sc : Scope)
  | amoMaxs (o : Ord) (d a b : BitVec 6) (sc : Scope)
  | amoMaxu (o : Ord) (d a b : BitVec 6) (sc : Scope)
  | amoFadd (o : Ord) (d a b : BitVec 6) (sc : Scope)
  | rld (t a : BitVec 6) (sz : BitVec 2) (imm : BitVec 11)
  | rst (t a : BitVec 6) (sz : BitVec 2) (imm : BitVec 11)
  | ramoLd (d a : BitVec 6) (sc : Scope)
  | ramoSt (a b : BitVec 6) (sc : Scope)
  | ramoSwap (d a b : BitVec 6) (sc : Scope)
  | ramoCas (d a b : BitVec 6) (sc : Scope)
  | ramoAdd (d a b : BitVec 6) (sc : Scope)
  | ramoAnd (d a b : BitVec 6) (sc : Scope)
  | ramoOr (d a b : BitVec 6) (sc : Scope)
  | ramoXor (d a b : BitVec 6) (sc : Scope)
  | ramoMins (d a b : BitVec 6) (sc : Scope)
  | ramoMinu (d a b : BitVec 6) (sc : Scope)
  | ramoMaxs (d a b : BitVec 6) (sc : Scope)
  | ramoMaxu (d a b : BitVec 6) (sc : Scope)
  | ramoFadd (d a b : BitVec 6) (sc : Scope)
  | nop
  | trap (imm : BitVec 8)
  | eret
  | uiret
  | waiti
  | halt
  | fence (sc : Scope)
  | qfence (mask : BitVec 7)
  | phase (sc : Scope)
  | tide (a : BitVec 6)
  | keyst (id : BitVec 8)
  | uipoll
  | cancel (lv : Level)
  | csrr (d : BitVec 6) (csr : BitVec 12)
  | csrw (csr : BitVec 12) (a : BitVec 6)
  | csrs (d : BitVec 6) (csr : BitVec 12) (a : BitVec 6)
  | csrc (d : BitVec 6) (csr : BitVec 12) (a : BitVec 6)
  | vrun (a : BitVec 6) (n1 : BitVec 8)
  | mrun (a : BitVec 6) (nt : BitVec 1) (n1 : BitVec 8)
  | sopen (n : BitVec 4)
  | sclose (n : BitVec 4)
  | swait (n : BitVec 4)
  | crun (a : BitVec 6) (pd n : BitVec 4)
  | mtokw (t : BitVec 8)
  | vtokw (t : BitVec 8)
  | sset (s : BitVec 4) (f : BitVec 5) (g : BitVec 6)
  | sget (s : BitVec 4) (f : BitVec 5) (g : BitVec 6)
  | vkset (k : BitVec 4) (a : BitVec 6)
  | gnset (n : BitVec 3) (f : BitVec 5) (g : BitVec 6)
  | gnsetFaddr (n : BitVec 3) (g : BitVec 6)
  | gnget (n : BitVec 3) (f : BitVec 5) (g : BitVec 6)
  | gnpeek (d a b : BitVec 6) (n : BitVec 3)
  | ntset (nt : BitVec 1) (level : BitVec 3) (f : BitVec 5) (g : BitVec 6)
  | binit (a : BitVec 6) (n : BitVec 9)
  | barr (n : BitVec 9)
  | bwait (n : BitVec 9)
  | btest (pd : BitVec 4) (n : BitVec 9)
  | cwaitc (a : BitVec 6) (lv : Level)
  | cread (d : BitVec 6) (lv : Level)
  | lrpatch (a b : BitVec 6)
  | lrarm (a : BitVec 6)
  | lrstat (d a : BitVec 6)
  | lease (l pd : BitVec 4) (kind : BitVec 3) (prio : BitVec 2) (ev : Bool)
  | lrel (l : BitVec 4)
  | lstat (d : BitVec 6) (l : BitVec 4)
  | lwait (l : BitVec 4)
  | hwait (h : BitVec 8) (st : BitVec 2)
  | hset (h : BitVec 8) (st : BitVec 2)
  | htest (pd : BitVec 4) (h : BitVec 8) (st : BitVec 2)
  | pgreq (d a : BitVec 6)
  | pgstat (d a : BitVec 6)
  | nqpop (d a : BitVec 6)
  | mclr (md : BitVec 3)
  | mset (md : BitVec 3)
  | mpop (d : BitVec 6) (ma : BitVec 3)
  | mfirst (d : BitVec 6) (ma : BitVec 3)
  | mand (md ma mb : BitVec 3)
  | cstart (a : BitVec 6)
  | cend
  | cwait (a : BitVec 6)
  -- vector words (R53 to R55, R202 to R219)
  | vadd (col : BitVec 1) (w : VeOps)
  | vsub (col : BitVec 1) (w : VeOps)
  | vmul (col : BitVec 1) (w : VeOps)
  | vfma (col : BitVec 1) (w : VeOps)
  | vmin (col : BitVec 1) (w : VeOps)
  | vmax (col : BitVec 1) (w : VeOps)
  | vabs (col : BitVec 1) (w : VeOps)
  | vneg (col : BitVec 1) (w : VeOps)
  | vand (col : BitVec 1) (w : VeOps)
  | vor (col : BitVec 1) (w : VeOps)
  | vxor (col : BitVec 1) (w : VeOps)
  | vshl (col : BitVec 1) (w : VeOps)
  | vshr (col : BitVec 1) (w : VeOps)
  | vsar (col : BitVec 1) (w : VeOps)
  | vsel (col : BitVec 1) (w : VeOps)
  | vcmp (col : BitVec 1) (cc : Cond) (w : VeOps)
  | vaddk (col : BitVec 1) (w : VeOps)
  | vmulk (col : BitVec 1) (w : VeOps)
  | vfmak (col : BitVec 1) (w : VeOps)
  | vmink (col : BitVec 1) (w : VeOps)
  | vmaxk (col : BitVec 1) (w : VeOps)
  | vfill (col : BitVec 1) (w : VeOps)
  | vsfuExp (w : VeOps)
  | vsfuExp2 (w : VeOps)
  | vsfuLog (w : VeOps)
  | vsfuLog2 (w : VeOps)
  | vsfuRcp (w : VeOps)
  | vsfuRsqrt (w : VeOps)
  | vsfuSqrt (w : VeOps)
  | vsfuTanh (w : VeOps)
  | vsfuSigm (w : VeOps)
  | vsfuSin (w : VeOps)
  | vsfuCos (w : VeOps)
  | vsfuErf (w : VeOps)
  | vcvt (w : VeOps)
  | vqnt (w : VeOps)
  | vdqnt (w : VeOps)
  | vsrnd (w : VeOps)
  | vrsum (w : VeOps)
  | vrmax (w : VeOps)
  | vrmin (w : VeOps)
  | vramax (w : VeOps)
  | vrssq (w : VeOps)
  | vargmx (w : VeOps)
  | vscan (w : VeOps)
  | vmov (w : VeOps)
  | viota (w : VeOps)
  | vgath (w : VeOps)
  | vscat (w : VeOps)
  | vbcast (w : VeOps)
  | vrev (w : VeOps)
  | vilv (w : VeOps)
  | vdilv (w : VeOps)
  | vcomb (w : VeOps)
  | vgen (w : VeOps)
  | shapeN (imm : BitVec 16) (dly : BitVec 5)
  | shapeM (imm : BitVec 16) (dly : BitVec 5)
  | nest (level : BitVec 3) (len : BitVec 6) (k : BitVec 4) (dly : BitVec 5)
  | vtok (t : BitVec 8) (dly : BitVec 5)
  | vwtok (t : BitVec 8) (dly : BitVec 5)
  | vnop (dly : BitVec 5)
  -- matrix words (R56, R57, R234 to R245)
  | mnop (dly : BitVec 5)
  | mma (w : MmaOps)
  | mlatch (w : LatchOps)
  | mswap (t t2 : BitVec 2) (dly : BitVec 5)
  | mgath (idx rows : BitVec 4) (fmt : BitVec 3) (dly : BitVec 5)
  | mzero (t : BitVec 2) (dly : BitVec 5)
  | mdrain (t : BitVec 2) (d dfmt : BitVec 4) (rnd : BitVec 2) (sat : Bool) (dly : BitVec 5)
  | mdrainrq (t : BitVec 2) (d q : BitVec 4) (sgnO : Bool) (dly : BitVec 5)
  | mrsum (t : BitVec 2) (s : BitVec 4) (dly : BitVec 5)
  | mcsum (t : BitVec 2) (s : BitVec 4) (dly : BitVec 5)
  | mwscl (s : BitVec 4) (w : BitVec 1) (dly : BitVec 5)
  | mtok (t : BitVec 8) (dly : BitVec 5)
  | mwtok (t : BitVec 8) (dly : BitVec 5)
  | mxlatch (w : LatchOps)
  -- link step words (R59, R394 to R399, R415, R416)
  | linkAt (slot : BitVec 12)
  | linkSend (port : BitVec 4) (desc t : BitVec 12)
  | linkRecv (port : BitVec 4) (desc t : BitVec 12)
  | linkFwd (port out : BitVec 4)
  | linkRedw (port : BitVec 4) (desc t : BitVec 12)
  | linkReds (port : BitVec 4) (desc t : BitVec 12)
  | linkMark (port : BitVec 4) (id : BitVec 12)
  | linkKey (id : BitVec 8)
  | linkSlack
  | linkEnd
  | linkSetdt (set : BitVec 4)
  | linkTune (port : BitVec 4) (lane : BitVec 3) (ch : BitVec 6)
  -- events the machine brings about by itself
  | reservedWord (k : CodeKind) (w : Code)
  | tidelRead (d : BitVec 6)
  | counterLowRead (d : BitVec 6) (n : BitVec 5)
  | loadDataReturn (r : BitVec 6)
  | activationStart (s : BitVec 4)
  | streamGateGrant (s : BitVec 4)
  | streamAccess (s : BitVec 4)
  | streamAccessReturn (s : BitVec 4)
  | activationFinish (s : BitVec 4)
  | corbelWakeEnd (bay c : Nat)
  | tkInit (bay c : Nat)
  | tkFeed (bay c : Nat)
  | tkEmit (bay c : Nat)
  | corbelCommandEnd (bay c : Nat)
  | copyStart (ch : BitVec 5) (x : Word)
  | copyStatusRead (d : BitVec 6) (ch : BitVec 5)
  | copyTakeUp (die ch : Nat)
  | copyComplete (die ch : Nat)
  | unitPlacement (vf : Nat)
  | scheduledSlot (port : Nat)
  | copyMove (die ch : Nat)
  -- events that carry nothing
  | userInterruptEntry
  | waitiWake
  | dispatchQueueSpace
  | holdCycle
  | courseSlip
  | courseCcOverflow
  | courseStart
  | courseEndComplete
  | cwaitComplete
  | activationAttach
  | streamClose
  | swaitComplete
  | segmentRestoreComplete
  | veEntryStart
  | routerDispatch
  | veEntryFinish
  | vtokAdd
  | vwtokComplete
  | vtokwComplete
  | meEntryStart
  | meEntryFinish
  | mtokAdd
  | mwtokComplete
  | mtokwComplete
  | ntsetComplete
  | freqTableLoaded
  | crunAppend
  | lwaitComplete
  | lrelComplete
  | hwaitComplete
  | preemptionComplete
  | unitDone
  | cwaitcComplete
  | barrArrival
  | bwaitComplete
  | pgreqPost
  | retryResend
  | phaseDepart
  | fenceComplete
  | qfenceComplete
  | remoteSend
  | routeSwap
  | tideLost
  | faultFrameTaken
  | machineCheck
  | keystoneWrite
  | debugStop
  | powerOn
  | hbmTrained
  | hostLinkUp
  | bringUpReady
  | coreCycle
  | powerLoss
  -- events that name a place, a packet or a payload, and the commands of the host
  | segmentSaveComplete (core seg : Nat)
  | loopBufferExit (ae ve me : Bool)
  | leaseQueueGrant (bay : Nat)
  | leaseAging (bay : Nat)
  | corbelWarmTimeout (bay c : Nat)
  | tkSample (bay c : Nat)
  | tkReset (bay c : Nat)
  | xpConf (bay c : Nat)
  | xpTile (bay c : Nat)
  | ifBook (bay c : Nat)
  | ifRun (bay c : Nat)
  | ifReset (bay c : Nat)
  | slKey (bay c : Nat)
  | slIv (bay c : Nat)
  | slEnc (bay c : Nat)
  | slDec (bay c : Nat)
  | slFin (bay c : Nat)
  | scConf (bay c : Nat)
  | scRun (bay c : Nat)
  | scHist (bay c : Nat)
  | scCompact (bay c : Nat)
  | scCarry (bay c : Nat)
  | rlDesc (bay c : Nat)
  | rlMove (bay c : Nat)
  | rlFlush (bay c : Nat)
  | emergencySample (temps : List (BitVec 16)) (power : BitVec 16)
  | thermalTrip (temp : BitVec 16)
  | copyPrologueClaim (die ch : Nat)
  | launchPoolWrite (h : IsuneHdr) (first : Nat) (recs : List (List Byte))
  | jobStart (h : IsuneHdr) (job : Nat) (recs : List Nat)
  | jobCancel (h : IsuneHdr) (job : Nat)
  | gangPlacement (vf : Nat)
  | readyQueueAging (vf : Nat)
  | sliceEnd (outVf inVf : Nat)
  | migratePage (h : IsuneHdr) (va : Word) (ipa : BitVec 48)
  | migratePageRefuse (h : IsuneHdr) (va : Word)
  | migrationCopyEnd (die : Nat)
  | migrationTimeout (die : Nat)
  | hostRdmaWrite (qp : Nat) (va : Word) (data : List Byte)
  | hostRdmaRead (qp : Nat) (va : Word) (n : Nat)
  | hostRdmaAtomic (qp : Nat) (va : Word) (cas : Bool) (cmp arg : Word)
  | hostSend (qp : Nat) (data : List Byte)
  | asyncRead (p : Packet)
  | asyncWrite (p : Packet)
  | asyncAtomic (p : Packet)
  | asyncReduce (p : Packet)
  | asyncHandle (p : Packet)
  | asyncReply (p : Packet)
  | asyncNack (p : Packet)
  | asyncRetry (p : Packet)
  | remoteReplyTimeout (tag : Nat)
  | asyncSlot (port : Nat)
  | markerReceive (port lane : Nat) (id : BitVec 12)
  | rsigRelease (port : Nat)
  | laneRelock (port lane delay : Nat)
  | laneRelockTimeout (port lane : Nat)
  | linkFailed (port lane : Nat)
  | replaySlot (port : Nat)
  | alarmSlot (heard : List Alarm)
  | tideExchange (stamps : TideStamps)
  | elasticRecentre (port : Nat)
  | scrubError (key : Nat) (correctable : Bool)
  | keystoneHeaderWrite (rec : Nat)
  | rollbackRestore (job : Nat)
  | rollbackResume (job : Nat)
  | deviceInfo (h : IsuneHdr)
  | attest (h : IsuneHdr) (nonce : List Byte) (vf : BitVec 8)
  | measureRead (h : IsuneHdr)
  | vfCreate (h : IsuneHdr) (p : VfSpec)
  | vfDestroy (h : IsuneHdr)
  | vfTeardownComplete (vf : Nat)
  | teardownReconcile (pkg vf : Nat)
  | quarantineEnd (vf : Nat)
  | partitionAssign (h : IsuneHdr) (p : PartitionSpec)
  | regionMap (h : IsuneHdr) (regions : List Nat) (world : Bool)
  | rangeSet (h : IsuneHdr) (ranges : List RangeEntry) (heap : HeapSpec) (thresh : BitVec 16)
  | policyInstall (h : IsuneHdr) (blob : List Byte)
  | scopepolSet (h : IsuneHdr) (bits : BitVec 3)
  | keySlotLoad (h : IsuneHdr) (slot : Nat) (key : List Byte)
  | counterRead (h : IsuneHdr) (sel : CounterSel)
  | counterSessionOpen (h : IsuneHdr) (p : SessionSpec)
  | counterSessionClose (h : IsuneHdr)
  | counterSessionExport (h : IsuneHdr)
  | counterSessionImport (h : IsuneHdr) (b : SessionBlob)
  | traceRead (h : IsuneHdr) (offset : Nat)
  | traceSessionOpen (h : IsuneHdr) (p : SessionSpec)
  | traceSessionClose (h : IsuneHdr)
  | traceSessionExport (h : IsuneHdr)
  | traceSessionImport (h : IsuneHdr) (b : SessionBlob)
  | podJoin (h : IsuneHdr) (dims coords : List Nat) (parent : Nat) (tide : Word) (routes : List RouteSpec)
  | tideRoot (h : IsuneHdr) (root : Nat) (ptp : Option Nat)
  | chordPlanLoad (h : IsuneHdr) (ports : List ChordSpec) (routes : List RouteSpec) (tsw : Word)
  | scheduleLoad (h : IsuneHdr) (progs : List LinkProg) (start : Nat) (tree : List Byte)
  | detourLoad (h : IsuneHdr) (set : Nat) (progs : List LinkProg) (avoid : List (Nat × Nat × Nat)) (tree : List Byte)
  | keystoneConf (h : IsuneHdr) (rec : Nat) (slotA slotB segmask : Word) (tiles : Bool)
  | reset (h : IsuneHdr)
  | isuneUnknownOpcode (h : IsuneHdr)
  | smbusPcapWrite (v : BitVec 16)
  | smbusRegisterWrite (reg : BitVec 8) (v : BitVec 16)
  deriving DecidableEq, Repr

end Sys2Proof
end

