-- ==== Sys2Proof/Machine/State.lean ====
section
/-! DEFINITION. The state of the package as plain data, and its value after device reset. -/

namespace Sys2Proof.Machine

/-- Why a step stops the machine. No meaning of this model raises it: the faults of the manual are
taken inside the machine (R419), as next states. It is kept for an access to a key that no memory of
the package holds. Safe. -/
inductive Fault where
  /-- an access to storage the package does not have; raised by nothing; safe -/
  | noSuchStorage (key : Nat)
  deriving DecidableEq, Repr

/-- Why a step refuses an instruction. -/
inductive Refusal where
  /-- raised by Dispatch for a row that has no meaning yet; safe -/
  | notModelled (mnemonic : String)
  deriving DecidableEq, Repr

/-! ### Cause codes -/

/-- Bytes at another package that an agent of the part reads through a range of pod kind (R352): endpoint, key, offset and
length; for an entry of a page table its VF and IPA (R346). -/
structure FarPlace where
  pkg : Nat
  vfn : Nat
  key : BitVec 32
  off : BitVec 56
  n : Nat
  walk : Option (Nat × Nat)
  deriving DecidableEq, Repr

/-- The causes of R424, by name; and `elsewhere`, which is none of them: it says that an access cannot go on before bytes
have come from another package, and makes the agent ask for them and try again (R352). -/
inductive Cause where
  | elsewhere (p : FarPlace)
  | illegalOpcode | privileged | fetchBounds | uiretState | clauseOrder | nestForm
  | debugStop | userTrap
  | dataMisaligned | noncanonical | translation | writeProtect | notResident | atomicPath
  | stage2Miss | pteForm
  | publishFull | scratchBounds | streamForm | streamMisaligned | streamBounds
  | streamOverlap | streamDirection
  | veShape | veFormat | veIndex | tokenOverflow
  | meFormat | meIndex | meState
  | genForm | leaseHandle | leasePrio | corbelBlock | corbelField | corbelState | corbelData
  | corbelKey
  | copyAperture | copyTemplate | detOverlap | handleState | copyRemote
  | capInvalid | capPermission | endpointUnreachable | remoteNack | remoteTimeout | remoteData
  | courseSlip | lateTile | courseState | courseTable | tideLost | keystState
  | barForm | barState | barOrder | barDenied | lrecDenied | lrecState | launchForm
  | scopeDenied | phaseForm | uncorrectable
  | machineCheck | rollbackStop
  deriving DecidableEq, Repr

/-- The agents of a core in the numbering of FCAUSE.AGENT (R422). -/
inductive Agent where
  | sq | ae | col (c : Nat) | router | me | corbel (lease : Nat) | copy
  deriving DecidableEq, Repr

/-! ### A unit and the agents of its core -/

/-- The unit states of R324. -/
inductive UState where
  | waiting | ready | running | held | suspended | faulted | done | cancelled
  deriving DecidableEq, Repr

/-- The states of a buffer handle (R307). -/
inductive HState where
  | free | filling | full | draining
  deriving DecidableEq, Repr

/-- General registers, predicates, loop registers and clause state (R101, R106). `g` holds the
physical registers 0 to 63 (32 to 63 the ring), `shadow` the bank of G24 to G31 not in use, `p` the
predicates P1 to P7 at bits 1 to 7. -/
structure Regs where
  pc : Word
  g : Tab Word
  shadow : Tab Word
  p : BitVec 8
  lc : Word
  ns : BitVec 4
  sv : BitVec 8
  goff : BitVec 5
  clsCount : BitVec 4
  clsPred : Bool
  deriving DecidableEq, Repr

/-- The control and status registers other than the loop registers (R104 to R108, R150, R157, R344,
R372, R422, R444, R468, R469). `frame` is indexed by CSR number less 0xC00, `manifest` less 0x800. -/
structure Csrs where
  uihandler : Word
  uipc : Word
  utvec : Word
  uimask : BitVec 7
  uipend : BitVec 7
  resNr : Bool
  resMulti : Bool
  resPage : BitVec 38
  ftz : Bool
  det : Bool
  coursed : Bool
  fxsel : BitVec 3
  inui : Bool
  fxscale : Tab Word
  vn1 : BitVec 16
  vm1 : BitVec 16
  seedl : Word
  seedh : Word
  scopepol : BitVec 3
  heapb : BitVec 38
  heapl : BitVec 38
  heapo : BitVec 32
  tideh : BitVec 32
  frame : Tab Word
  manifest : Tab Word
  deriving DecidableEq, Repr

/-- The course registers and the progress through the course table (R145 to R152). `taken` counts the
entries taken, `lastDue` the last DUE per engine, `slip` and `cc` are SLIP and COURSE.CC. -/
structure Course where
  active : Bool
  num : BitVec 12
  cc : BitVec 32
  slip : BitVec 32
  slipmax : BitVec 32
  nent : Nat
  entoff : Nat
  taken : Nat
  lastDue : Tab Nat
  deriving DecidableEq, Repr

/-- Counters and their latches (R468 to R470), with the events and absences of counters 16 to 31, and
the bank-conflict matrix, cell (row, bank) at 32 x row + bank (R471). -/
structure Counters where
  val : Tab Word
  latch : Tab (BitVec 32)
  event : Tab (BitVec 16)
  absent : Tab Bool
  conflict : Tab (BitVec 16)
  deriving DecidableEq, Repr

/-- Breakpoints and watchpoints of a unit (R476): PC values, and (base, length, on read, on write). -/
structure Debug where
  breaks : List Word
  watches : List (Word × Nat × Bool × Bool)
  stopRequested : Bool
  stopped : Bool
  deriving DecidableEq, Repr

/-- One element in an operand queue: its raw bits and, where its stream has scales, the raw scale of
its block (R175); for a store, the scale that the writing operation produced, if it produces one. -/
structure Elem where
  bits : Word
  scale : Option (BitVec 32)
  deriving DecidableEq, Repr

/-- An activation (R177, R178): the stream fields it copied, the elements it has in all (fewer once it is
closed, R180), whether it has started, been granted its gate, been closed and finished, the next ordinal to access,
the elements taken from it and given to it, those performed, those in flight, those held in the operand
queue, and for a store or the write half of RMW those given and not yet accessed (`outq`) and the next ordinal
to write (`wrote`). `half` says that one half of the access in work, the element of a load or the scale of a store, has
been made and the other has not. `flushTo` is the
ordinal up to which a partial chunk is written without waiting (R220), `cov` the ME words that a consumed
token covered when it was appended (R246), `exited` says that its loop-buffer exit has been taken (R472). -/
structure Act where
  id : Nat
  f : Tab Word
  total : Nat
  started : Bool
  granted : Bool
  closed : Bool
  finished : Bool
  issued : Nat
  taken : Nat
  given : Nat
  wrote : Nat
  performed : Nat
  half : Bool
  flushTo : Nat
  cov : Nat
  exited : Bool
  inflight : List Elem
  queue : List Elem
  outq : List Elem
  deriving DecidableEq, Repr

/-- A stream register and its attached activations, oldest first (R173, R177). -/
structure Stream where
  f : Tab Word
  acts : List Act
  deriving DecidableEq, Repr

/-- An entry of the AE command queue: an activation to attach, or a close (R177, R180), with the entry's
MODE.FTZ and MODE.DET as they stood when it was appended (R133), its due cycle and ordinal. -/
structure AeEntry where
  close : Bool
  stream : Nat
  f : Tab Word
  id : Nat
  cov : Nat
  ftz : Bool
  det : Bool
  due : Option Nat
  ord : Nat
  deriving DecidableEq, Repr

/-- A generator register: its fields and its frequency table (R250, R253). -/
structure GenReg where
  f : Tab Word
  freq : Tab (BitVec 32)
  deriving DecidableEq, Repr

/-- An entry of the VE command queue with its captures (R191, R258). -/
structure VeEntry where
  off : Nat
  n : Nat
  ftz : Bool
  det : Bool
  n1 : BitVec 16
  m1 : BitVec 16
  k : Tab (BitVec 32)
  gns : Tab GenReg
  due : Option Nat
  ord : Nat
  deriving DecidableEq, Repr

/-- An entry of the ME command queue with its captures (R228, R258). -/
structure MeEntry where
  off : Nat
  n : Nat
  nt : Nat
  ftz : Bool
  det : Bool
  gns : Tab GenReg
  due : Option Nat
  ord : Nat
  deriving DecidableEq, Repr

/-- One level of a nest resolved at entry start (R141): its first word, its body length in words and
its count. An absent level has no record. -/
structure NestLevel where
  level : Nat
  first : Nat
  len : Nat
  count : Nat
  deriving DecidableEq, Repr

/-- A working value inside the VE (R85): FP32 bits, or an integer. -/
inductive Work where
  | f32 (b : BitVec 32)
  | int (i : Int)
  deriving DecidableEq, Repr

/-- A VE word dispatched to a column (R193): the code, its place, the shape and nest counters it
carries, its dispatch number, whether it is the first word of its entry in the column, and then the cycles before it may
issue or in a course the course cycle at which it issues (R144), whether it has issued and the
working type it then found (0 floating, 1 INT32, 2 INT64), the next output ordinal, the inputs taken,
and the partial state of R224 and R217: lane values, lane indexes, retained elements. -/
structure VWord where
  code : Code
  widx : Nat
  ctr : List Nat
  shN : Nat
  shM : Nat
  seq : Nat
  first : Bool
  wait : Nat
  due : Option Nat
  issued : Bool
  wt : Nat
  ord : Nat
  taken : Nat
  lanes : List Work
  lidx : List Int
  kept : List Elem
  deriving DecidableEq, Repr

/-- A token add that waits for the effects before it (R220, R245): the token, the words it covers (those
of lower dispatch number), the streams they write, and, once they are complete, the elements whose
performance is still awaited as (stream, activation, ordinals). -/
structure TokAdd where
  tok : Nat
  seq : Nat
  streams : List Nat
  given : Option (List (Nat × Nat × Nat))
  deriving DecidableEq, Repr

/-- The running VE entry: its block, nest, router position and counters, shape register, cycles before the
router acts again, whether the block is at its end and its loop-buffer exit taken, the masks as the entry
reads them (R195), the streams its words write, the columns that have had a word of the entry, and whether the router
has handled a word in this cycle (R144, R192, R193, R198). -/
structure VeRun where
  e : VeEntry
  words : List Code
  levels : List NestLevel
  widx : Nat
  ctr : List Nat
  shN : Nat
  shM : Nat
  wait : Nat
  atEnd : Bool
  exited : Bool
  masks : Tab (BitVec 65536)
  wrote : List Nat
  met : List Nat
  moved : Bool
  deriving DecidableEq, Repr

/-- The running ME entry: its block, nest and position, whether no word of it has issued yet, the cycles since the accept
cycle of the word that issues next, whether the word in work has issued, its progress and partial data (R228, R249), and the streams written. -/
structure MeRun where
  e : MeEntry
  words : List Code
  levels : List NestLevel
  widx : Nat
  ctr : List Nat
  first : Bool
  ahead : Nat
  issued : Bool
  atEnd : Bool
  exited : Bool
  ord : Nat
  kept : List Elem
  wrote : List Nat
  deriving DecidableEq, Repr

/-- An accumulator tile (R225): words by element index (unlisted words are 0), type, LIVE, sums and
flags. -/
structure Tile where
  w : Tab (BitVec 32)
  int : Bool
  live : Bool
  rs : Tab (BitVec 32)
  cs : Tab (BitVec 32)
  satf : Bool
  sumwrap : Bool
  deriving DecidableEq, Repr

/-- A B latch (R225, R236): elements b[k][j] at 128k + j, format, captured weight scales, state. -/
structure Latch where
  b : Tab (BitVec 16)
  fmt : BitVec 3
  wscale : BitVec 32
  wcodes : Tab Byte
  full : Bool
  deriving DecidableEq, Repr

/-- The gather latch (R225, R237): 128 rows of 128 bytes, byte i of row r at 128r + i. -/
structure GatherLatch where
  b : Tab Byte
  fmt : BitVec 3
  full : Bool
  deriving DecidableEq, Repr

/-- The matrix engine's state other than its queue (R225). -/
structure MeState where
  tiles : Tab Tile
  latches : Tab Latch
  gl : GatherLatch
  asrF : Tab (BitVec 32)
  asrC : Tab Byte
  wsrF : BitVec 32
  wsrC : Tab Byte
  nt : Tab Word
  drain : Word
  deriving DecidableEq, Repr

/-- The lease handle states of R265. -/
inductive LState where
  | free | queued | waking | awake | evicted
  deriving DecidableEq, Repr

/-- A corbel command queued on a lease: its 64 bytes and its ordinal since the LEASE (R277, R422). -/
structure CorbelCmd where
  blk : List Byte
  ord : Nat
  deriving DecidableEq, Repr

/-- A lease handle (R265, R274). `corbel` is the index of the corbel held in the bay, `running` says
the head command has been taken up, `status` its end status once its work is done (R278, R280). -/
structure Lease where
  st : LState
  kind : BitVec 3
  prio : BitVec 2
  leasePrio : BitVec 2
  ev : Bool
  corbel : Option Nat
  granted : Nat
  cmds : List CorbelCmd
  ordNext : Nat
  running : Bool
  ending : Option (BitVec 2 × BitVec 32)
  lastSt : BitVec 2
  done : BitVec 8
  result : BitVec 32
  deriving DecidableEq, Repr

/-- A capability entry (R402) with the send allowance still available. -/
structure CapEntry where
  v : Bool
  r : Bool
  w : Bool
  amo : Bool
  handle : Bool
  pkg : BitVec 12
  vfn : BitVec 8
  allow : Nat
  rkey : BitVec 32
  deriving DecidableEq, Repr

/-- An entry of the publish region (R168): the granule's VA, the byte mask, the pending bytes by
offset in the granule. The entries are data of the unit, not bytes of the region's segments (DESIGN CHOICE, log 87). -/
structure PubEntry where
  gva : Word
  bmask : BitVec 64
  data : Tab Byte
  deriving DecidableEq, Repr

/-- A remote request of the unit that has no reply yet (R129 to R131): its tag, what it is, the
capability used (none for a pod-kind range), pod offset, destination register (or of a
stream's write the elements in it, of a corbel's the lease handle), whether the SQ's word waits for it, the agent that asks, the bytes that it asks for (R352), the copy on a (die, channel), the
stream access it serves as (stream, activation, ordinal), cycles waited, the cycles left before a packet turned back is re-sent (R365, R408), and whether it is held
across a chord change (R415). -/
structure Remote where
  tag : Nat
  kind : PacketKind
  cap : Option Nat
  off : BitVec 56
  pkg : BitVec 16
  dst : Option Nat
  waits : Bool
  agent : Agent
  far : Option FarPlace
  copyCh : Option (Nat × Nat)
  strm : Option (Nat × Nat × Nat)
  cycles : Nat
  resend : Option Nat
  held : Bool
  pkt : Packet
  deriving DecidableEq, Repr

/-- What the SQ waits for (R134, R139 and the entries of the waiting words). -/
inductive Wait where
  | handle (h : Nat) (s : HState)
  | barArrive (n : Nat)
  | barGen (n : Nat) (gen : BitVec 16)
  | lease (l : Nat)
  | lrel (l : Nat)
  | counter (lv : Level) (v : Word)
  | tideAt (v : Word)
  | courseStart (n : BitVec 12) (start slipmax nent entoff : Nat)
  | courseEnd
  | stream (n : Nat)
  | mtok (t : Nat)
  | vtok (t : Nat)
  | waiti
  | ntset (nt level f : Nat) (v : Word)
  | aeSpace (e : AeEntry)
  | veSpace (e : VeEntry)
  | meSpace (e : MeEntry)
  | copySpace (ch : Nat) (x : Word)
  | crun (l pd : Nat) (va : Word)
  | allowance (r : Remote)
  | reply (tag : Nat) (acq : Bool)
  | pgreq (d : Nat) (page : BitVec 38)
  | fence (s : Scope)
  | qfence (m : BitVec 7)
  | phaseArrive (s : Scope)
  | phaseMeet (s : Scope)
  | keyst (id : BitVec 8)
  | freq (n : Nat)
  | retry (cycles : Nat)
  | heldAtomic (tag : Nat) (acq : Bool)
  deriving DecidableEq, Repr

/-- The place and identity of a unit and what its launch record fixed at placement (R102, R165). -/
structure UnitId where
  vf : Nat
  recNo : Nat
  idx : Nat
  count : Nat
  job : Nat
  core : Option Nat
  gang : Bool
  segs : Nat
  pubseg : Nat
  segMap : List Nat
  seedb : Word
  placedAt : Nat
  phaseMark : Nat
  suspendedAt : Nat
  deriving DecidableEq, Repr

/-- The access engine: streams, command queue, activation numbers (R173, R177). -/
structure Ae where
  s : Tab Stream
  queue : List AeEntry
  nextId : Nat
  ord : Nat
  deriving DecidableEq, Repr

/-- The vector engine: command queue, running entry, column queues and for each column its clock (32 more than the cycles
before its accept cycle, or 32 less those since, R144), the words dispatched so far, token
adds not yet made, masks, constants, tokens, the CVT generator (R95, R187, R190, R196, R218). Masks M1 to
M7; unlisted masks are all zeros. -/
structure Ve where
  queue : List VeEntry
  run : Option VeRun
  cols : Tab (List VWord)
  clock : Tab Nat
  seq : Nat
  adds : List TokAdd
  masks : Tab (BitVec 65536)
  k : Tab (BitVec 32)
  toks : Tab (BitVec 16)
  cvt : Word
  ord : Nat
  deriving DecidableEq, Repr

/-- The matrix engine: command queue, running entry, for each resource and state of R234 the cycles for which it is busy or
not complete, and the state of R225; the words issued so far, the
token adds not yet made, and for R246 the last word that wrote or read each tile, the adds of tokens not
yet consumed as (token, words covered), and the words that a consumed token covers. -/
structure Me where
  queue : List MeEntry
  run : Option MeRun
  clock : Tab Nat
  st : MeState
  ord : Nat
  seq : Nat
  adds : List TokAdd
  wrote : Tab Nat
  used : Tab Nat
  live : List (Nat × Nat)
  covered : Nat
  deriving DecidableEq, Repr

/-- The part of a unit's context that memory and synchronisation words use. `snap` is the memory the
unit's ordinary loads read (R375); `arrivals` the arrival record (R335); `donecnt` the copies completed
per channel (R292); `kcount`, `kid` the keystone count and last id (R437); `counter` the UNIT
completion counter (R331). -/
structure Memo where
  pub : List PubEntry
  snap : Mem
  caps : Tab CapEntry
  handles : Tab HState
  leases : Tab Lease
  arrivals : List (Nat × BitVec 16)
  remotes : List Remote
  copies : Nat
  donecnt : Tab (BitVec 8)
  phaseArrived : List (Scope × Nat)
  kcount : Nat
  kid : BitVec 8
  counter : Word
  pages : List (BitVec 38)
  deriving DecidableEq, Repr

/-- A unit: its context (R27, R101, R434) and what its core is doing for it. `pend` lists the physical
registers whose datum has not arrived (R110, R111); `poll` says the boundary after UIPOLL, CEND or
WAITI is an entry point (R135); `stopMask` the agents stopped at a frame point (R422, R427); `stash`
the wait of the word at FPC while a fault is open; `far` holds bytes of other
packages that an agent has asked for and not yet used (R352); `sup` is set at level S, on a management core (R39);
`sess` is the profiling session as it stood at the last placement or resume (R473). -/
structure Unit where
  st : UState
  id : UnitId
  r : Regs
  c : Csrs
  course : Course
  ctr : Counters
  dbg : Debug
  ae : Ae
  ve : Ve
  me : Me
  gns : Tab GenReg
  m : Memo
  wait : Option Wait
  pend : List Nat
  halted : Bool
  poll : Bool
  preempt : Bool
  stopMask : BitVec 12
  stash : Option Wait
  far : List (Agent × FarPlace × List Byte)
  image : List (Word × List Byte)
  restored : Bool
  sup : Bool
  sess : Option SessionSpec
  deriving DecidableEq, Repr

/-! ### Bays, dies, copies -/

/-- The corbel states of R264. -/
inductive CState where
  | off | waking | awake | warm
  deriving DecidableEq, Repr

/-- A SEAL message (R284): IV, AAD, bytes processed so far with the hash state over them, its SL.DEC
commands with the areas they wrote (key or VA, length), the mode once a data command fixed it (true for
encryption), and whether a data command whose LEN is no multiple of 16 has ended the data. -/
structure SealMsg where
  iv : List Byte
  aadLen : Nat
  hash : Nat
  len : Nat
  decs : Nat
  areas : List (Word × Nat)
  enc : Option Bool
  last : Bool
  deriving DecidableEq, Repr

/-- The internal state of a corbel while a lease holds it (R264, R281 to R286): the candidate set and
configuration of a TOPK (fed is the number of elements fed), the block of XP.CONF, the code lengths and
bit position of an INFL, the key and message of a SEAL, the configuration and carry of a SCAN, the block
of RL.DESC. -/
inductive CorbelMem where
  | clear
  | topk (k order fmt fed : Nat) (cands : List (Word × Word))
  | xpose (blk : List Byte)
  | infl (lens : List Byte) (pos : Nat)
  | sealed (key : List Byte) (msg : Option SealMsg)
  | scan (fmt op : Nat) (excl : Bool) (carry : Word)
  | relay (blk : List Byte)
  deriving DecidableEq, Repr

/-- A corbel of a bay (R264): kind, state, cycles left of its wake or warm time, world, holder as
(unit, lease handle). -/
structure Corbel where
  kind : BitVec 3
  st : CState
  timer : Nat
  world : Bool
  holder : Option (Nat × Nat)
  mem : CorbelMem
  deriving DecidableEq, Repr

/-- A request in a bay's lease queue (R267): unit, handle, requested and current priority, age in
cycles since the last rise, order of the original request. -/
structure LeaseReq where
  uid : Nat
  l : Nat
  kind : BitVec 3
  prio : BitVec 2
  cur : BitVec 2
  ev : Bool
  age : Nat
  ord : Nat
  deriving DecidableEq, Repr

/-- A bay (R19, R263, R446, R451): its corbels, lease queue, emergencies, world, the VFs whose
partition it is in, the quantum in ns, the tide time at which the slice began, the hotspot temperature. -/
structure Bay where
  corbels : Tab Corbel
  queue : List LeaseReq
  thermal : Bool
  power : Bool
  world : Bool
  vfs : List Nat
  active : Option Nat
  quantum : Nat
  sliceAt : Nat
  grants : Nat
  deriving DecidableEq, Repr

/-- A queued copy (R291). -/
structure Copy where
  uid : Nat
  tmpl : Nat
  arg : List Byte
  ftz : Bool
  det : Bool
  fxsel : BitVec 3
  fxscale : Word
  n : Nat
  deriving DecidableEq, Repr

/-- A SRC or DST operand after its descriptor is read (R296): kind, element format, base. -/
structure CopyEnd where
  kind : Nat
  fmt : Nat
  base : Word
  deriving DecidableEq, Repr

/-- A handle action of a template (R308): act, remote, capability, handle. -/
structure CopyHandle where
  act : Nat
  rem : Bool
  cap : Nat
  h : Nat
  deriving DecidableEq, Repr

/-- A template after the take-up check (R294): operands, six levels of (count, source stride,
destination stride), the permutation, conversion (rounding, SAT), gather (64-bit, base, row stride),
reduction (op, format, staged), prologue, epilogue, interrupt. -/
structure CopyPlan where
  body : Bool
  src : CopyEnd
  dst : CopyEnd
  levels : List (Nat × Int × Int)
  perm : List Nat
  conv : Option (Nat × Nat × Nat × Bool)
  gather : Option (Bool × Word × Int)
  reduce : Option (Nat × Nat × Bool)
  prologue : List CopyHandle
  epilogue : List CopyHandle
  irq : Bool
  deriving DecidableEq, Repr

/-- Bits of one byte to be written: its offset, the bits concerned, and their values (R75: a nibble leaves the other). -/
structure BytePart where
  off : Nat
  mask : Byte
  val : Byte
  deriving DecidableEq, Repr

/-- The running copy of a channel (R297 to R312): its plan, prologue claims granted, the linear nest
position, the stochastic state and its element count, the next index to fetch and the indexes fetched from
the current row on, source data that came from other packages by pointer, the epilogue word reached, the
first failing epilogue handle, whether the remote action of that word is on its way, is done and was refused, and what
is to be written to granules of the destination that further elements come to (granule number, parts; R299). -/
structure CopyRun where
  c : Copy
  plan : CopyPlan
  claims : Nat
  pos : Nat
  sr : Word
  srCount : Nat
  idxCur : Nat
  idx : List Int
  got : List (Word × List Byte)
  epi : Nat
  failed : Option Nat
  sent : Bool
  remoteDone : Bool
  refused : Bool
  buf : List (Nat × List BytePart)
  deriving DecidableEq, Repr

/-- A copy channel (R289, R304, R446). `aside` holds copies set aside by a fault or withdrawn by a
suspension, `held` the units whose copies are (R312). -/
structure Channel where
  world : Bool
  vfs : List Nat
  queue : List Copy
  run : Option CopyRun
  aside : List CopyRun
  asideQ : List Copy
  nextTag : Nat
  deriving DecidableEq, Repr

/-- A barrier (R334, R336). -/
structure Barrier where
  exp : BitVec 16
  arr : BitVec 16
  gen : BitVec 16
  vf : Option Nat
  deriving DecidableEq, Repr

/-- A DET claim (R306): the copy's unit and channel, kind, domain (VF and core, or endpoint), range. -/
structure DetClaim where
  uid : Nat
  ch : Nat
  kind : Nat
  dom : Nat
  lo : Nat
  hi : Nat
  deriving DecidableEq, Repr

/-- Who gets the old value of an atomic held for a migration (R365): the word of a unit that waits under a tag, with its register;
the source of a packet; a copy's reduce, which takes none; a queue pair of the host port. -/
inductive HeldBack where
  | word (uid tag d : Nat)
  | packet (kind : PacketKind) (p : Packet)
  | reduce
  | host (qp : Nat)
  deriving DecidableEq, Repr

/-- An access held for a migration (R365): a granule write (page offset key, mask, bytes, and the bits written of the
bytes that are written in part, R75), or an
atomic with the operation, operands, size and who gets its old value. -/
inductive HeldOp where
  | write (off : Nat) (bmask : BitVec 64) (data part : Tab Byte)
  | atomic (off n aop : Nat) (arg cmp : Word) (back : HeldBack)
  deriving DecidableEq, Repr

/-- A running migration (R363 to R367): the VF and page, the new IPA, the keys of the old and new copy,
cycles since the block, held accesses in arrival order, the command that answers. -/
structure Migration where
  vf : Nat
  page : BitVec 38
  leafKey : Nat
  newIpa : BitVec 48
  oldKey : Nat
  newKey : Nat
  newHost : Bool
  newPath : BitVec 3
  cycles : Nat
  held : List HeldOp
  hdr : IsuneHdr
  deriving DecidableEq, Repr

/-- A TLB entry (R350): VF, VA page number base, the leaf bits without CNT. Shared by L1 and die TLBs. -/
structure TlbEntry where
  vf : Nat
  vpn : Nat
  leaf : Word
  leafKey : Nat
  deriving DecidableEq, Repr

/-- A die (R13, R28). `redTags` holds for each source id of reduce requests the VF of its last request, the highest
tag applied, and the tags applied of the 256 below it (R304). -/
structure Die where
  barriers : Tab Barrier
  channels : Tab Channel
  det : List DetClaim
  redTags : List (Nat × Nat × Nat × List Nat)
  migration : Option Migration
  tlb : List TlbEntry
  deriving DecidableEq, Repr

/-- A physical segment (R170): 0 FREE, 1 OWNED, 2 PARKED, 3 SAVING, 4 OWNED with its data not yet
restored (R172); the unit it belongs to and its logical number there; the VF that held it last (R448). -/
structure SegOwner where
  st : Nat
  uid : Nat
  logical : Nat
  vf : Option Nat
  deriving DecidableEq, Repr

/-- A core: its segments, the unit that occupies it, its L1 TLB (R13, R27). -/
structure Core where
  segs : Tab SegOwner
  occupant : Option Nat
  l1 : List TlbEntry
  deriving DecidableEq, Repr

/-! ### Work, VFs, links, firmware -/

/-- The states of a launch record (R318). -/
inductive RecSt where
  | idle | waiting | ready | active
  deriving DecidableEq, Repr

/-- The keystone configuration of a record (R436). -/
structure KeystConf where
  slotA : Word
  slotB : Word
  segmask : Word
  tiles : Bool
  deriving DecidableEq, Repr

/-- The status of a launch record (R318, R323) with its run's completion counter, the die chosen for
its barrier (R321), the start tide time of its gang (R328), its job and keystone data, and storage as it stood when the
record became READY, by which a change of its code sections shows (R34). -/
structure Rec where
  st : RecSt
  live : Nat
  ended : Nat
  runs : BitVec 8
  refused : Bool
  launchCtr : Word
  die : Option Nat
  tstart : Nat
  job : Nat
  cancelled : Bool
  releasedAt : Nat
  keyst : Option KeystConf
  code : Option Mem
  deriving DecidableEq, Repr

/-- The states of a VF (R452). -/
inductive VfSt where
  | absent | active | teardown | quarantine
  deriving DecidableEq, Repr

/-- A notification (R359). -/
structure Notif where
  kind : BitVec 4
  page : BitVec 38
  cnt : BitVec 16
  lost : BitVec 16
  seq : BitVec 16
  deriving DecidableEq, Repr

/-- A ready-queue entry (R326): the record, the unit (none for a gang), its level, joining order, and
cycles since it joined or last rose. -/
structure ReadyEntry where
  recNo : Nat
  unit : Option Nat
  level : Nat
  ord : Nat
  age : Nat
  deriving DecidableEq, Repr

/-- A disclosure policy entry (R453). -/
structure PolicyEntry where
  cls : BitVec 8
  kind : BitVec 8
  gran : BitVec 8
  k : BitVec 8
  minper : BitVec 16
  deriving DecidableEq, Repr

/-- An installed disclosure policy (R453, R455). -/
structure Policy where
  fdl : BitVec 8
  serial : Word
  entries : List PolicyEntry
  blob : List Byte
  deriving DecidableEq, Repr

/-- A trace record in the operator's buffer (R475): class, unit, bytes. -/
structure TraceRec where
  vf : Nat
  uid : Nat
  bytes : List Byte
  deriving DecidableEq, Repr

/-- A profiling session (R473, R475): selection, last delivery tide and drops per class and unit. -/
structure Session where
  spec : SessionSpec
  last : List (Nat × Nat × Nat)
  dropped : List (Nat × Nat × Nat)
  deriving DecidableEq, Repr

/-- A virtual function (R450 to R452 and the tables it owns). `rings` holds the WRITE index of each tenant ring, by address and
size: a unit goes on in the ring it took when the session changes (R473, R475). -/
structure Vf where
  st : VfSt
  world : Bool
  qps : List Nat
  scoQps : List Nat
  qpError : Bool
  pubKey : List Byte
  poolFirst : Nat
  poolCount : Nat
  root : BitVec 48
  ranges : List RangeEntry
  heap : HeapSpec
  thresh : BitVec 16
  scopepol : BitVec 3
  policy : Option Policy
  keys : Tab KeyEntry
  lastGen : Tab (BitVec 22)
  slots : Tab (List Byte)
  nq : List Notif
  lost : BitVec 16
  seq : BitVec 16
  requests : List (BitVec 38 × List Nat)
  reqfail : List (BitVec 38)
  ready : List ReadyEntry
  readyOrd : Nat
  session : Option Session
  rings : List (Word × Nat × Nat)
  trace : List TraceRec
  graphs : Tab Word
  received : List (List Byte)
  drops : Nat
  refused : Nat
  lateReduces : Nat
  slacks : Nat
  finished : List (Nat × List Word)
  destroyHdr : Option IsuneHdr
  deriving DecidableEq, Repr

/-- A job (R29, R331, R439 to R442). Key: 65,536 × VF + job number. `kPeriod` is the period after that of the KEY
records of the last complete keystone, `failedAt` the period of a pod failure, `linksBefore` counts the links that had
failed at JOB_START, `linksSeen` those at the last selection of a set (R442), `lastRestored` the keystone of the last rollback. `released` lists the releases by
launches of the job as (keystones the releaser had written, releaser, record) (R441). -/
structure Job where
  recs : List Nat
  released : List (Nat × Nat × Nat)
  running : Bool
  jobCtr : Word
  phaseCtr : Word
  overrun : Nat
  kComplete : Nat
  kReports : List (Nat × Nat)
  kPeriod : Nat
  failedAt : Option Nat
  linksBefore : Nat
  linksSeen : Nat
  restored : Bool
  lastRestored : Option Nat
  phaseFar : List (Nat × Bool × Nat)
  deriving DecidableEq, Repr

/-- The members of a scope that PHASE meets (R385, R386): scope, the launch record, or for POD and SYSTEM the
job's key with the graph as domain, the domain number, the generations completed, and of the open one the
members, fixed at its first arrival, and the arrivals. -/
structure PhaseGen where
  scope : Scope
  recNo : Nat
  dom : Nat
  gen : Nat
  members : List Nat
  arrived : List Nat
  deriving DecidableEq, Repr

/-- What a keystone slot holds of a unit (R437): its context, the keystone's number k, and the pieces of
storage that its part of the slot consists of, as they were written (for the CRC-64 check of R441). -/
structure Saved where
  uid : Nat
  k : Nat
  slot : Word
  unit : Unit
  area : List (Word × List Byte)
  deriving DecidableEq, Repr

/-- The header of a keystone slot (R437). -/
structure KeyHeader where
  recNo : Nat
  k : Nat
  id : BitVec 8
  tide : Word
  counters : List Word
  gens : List (Nat × Nat × BitVec 16)
  recs : List (Nat × Rec)
  complete : Bool
  deriving DecidableEq, Repr

/-- A KEY record of a link engine (R394). -/
structure KeyRec where
  id : BitVec 8
  set : Nat
  widx : Nat
  period : Nat
  uses : Tab Nat
  deriving DecidableEq, Repr

/-- A loaded transfer program (R393). -/
structure Program where
  words : List Code
  descs : List (List Byte)
  deriving DecidableEq, Repr

/-- A chord lane (R391, R416): channels, lit, cycles of tide ns left of a retune, failed. -/
structure Lane where
  tx : BitVec 6
  rx : BitVec 6
  lit : Bool
  tuning : Option Nat
  tuned : BitVec 6
  deriving DecidableEq, Repr

/-- A packet with its TYPE (R406). -/
structure Pkt where
  kind : PacketKind
  p : Packet
  deriving DecidableEq, Repr

/-- A tile that a port has sent, or must send again: lane, period, slot, and of the transfer the set,
descriptor, tile and use (R411, R412). -/
structure LinkTile where
  lane : Nat
  period : Nat
  slot : Nat
  set : Nat
  desc : Nat
  tile : Nat
  use : Nat
  deriving DecidableEq, Repr

/-- A tile whose frame failed on arrival (R411, R412): the frame's source package, period, slot, descriptor and
tile, the receiving word (0 RECV, 1 REDW, 2 REDS), and the transfer here. -/
structure LinkMiss where
  key : Nat × Nat × Nat × Nat × Nat
  op : Nat
  at' : LinkTile
  deriving DecidableEq, Repr

/-- A tile received that is performed at an absolute slot (R397): its descriptor; whether it is the last of its
use, whose signals are then given (R398); and whether its word reduces. -/
structure LinkDone where
  due : Nat
  desc : List Byte
  last : Bool
  reduces : Bool
  deriving DecidableEq, Repr

/-- A link engine and its port (R160, R393 to R399, R408 to R413, R446). `uses` counts the tiles named by descriptor,
`lastKey` is the last KEY passed in the current set, `counted` the absolute slot whose arrivals were counted last,
`arrived` the frame on each lane in the present slot, `sent` the (lane, absolute slot) of
frames sent, `got` the lanes whose
arrival a word has taken, and whether it was good; `startReady` the (set, descriptor) whose RSIG was ready at the start of the present
slot, on a chord port of the present chord slot (R161, R398); `tiles` the tiles sent, `passed` the frames forwarded and where,
`applied` the (descriptor, use, tile) written, `releases` the handles to be released (R398). -/
structure Link where
  world : Bool
  sets : Tab Program
  set : Nat
  widx : Nat
  period : Nat
  atSlot : Option Nat
  running : Bool
  stopped : Bool
  uses : Tab Nat
  keys : List KeyRec
  lastKey : Option (BitVec 8)
  switch : Option Nat
  bad : Tab Nat
  counted : Option Nat
  failed : List Nat
  degraded : Bool
  arrived : List (Nat × Frame)
  sent : List (Nat × Nat)
  got : List (Nat × Bool)
  startReady : List (Nat × Nat)
  tiles : List LinkTile
  reports : List LinkTile
  missed : List LinkMiss
  passed : List ((Nat × Nat × Nat × Nat × Nat) × Nat)
  applied : List (Nat × Nat × Nat)
  dones : List LinkDone
  releases : List LinkTile
  abuf : List Pkt
  markers : List (Nat × BitVec 12)
  elastic : Nat
  delay : Tab Nat
  lanes : Tab Lane
  plane : Nat
  index : Nat
  radix : Nat
  deriving DecidableEq, Repr

/-- A chord plan that waits for its switch time (R414). -/
structure Plan where
  ports : List ChordSpec
  routes : List RouteSpec
  tsw : Word
  marked : Bool
  deriving DecidableEq, Repr

/-- A message to the host: a response or an event (R483, R488). `fields` lists the payload's fields
where the manual names them without a layout, `bytes` where it gives one. -/
structure HostMsg where
  qp : Nat
  opcode : BitVec 16
  tag : BitVec 32
  kind : BitVec 8
  status : Nat
  detail : Nat
  fields : List Nat
  bytes : List Byte
  deriving DecidableEq, Repr

/-- An entry of the measurement log (R460). -/
structure MeasEntry where
  reg : Nat
  opcode : BitVec 16
  tag : BitVec 32
  vf : BitVec 8
  digest : List Byte
  deriving DecidableEq, Repr

/-- Which agent acts in the next step, or which input of the outside arrives. -/
inductive Turn where
  /-- the sequencer of the unit -/
  | sq (uid : Nat)
  /-- VE column col of the unit's core -/
  | column (uid col : Nat)
  /-- the VE router at a CTL word -/
  | router (uid : Nat)
  /-- the matrix engine of the unit's core -/
  | me (uid : Nat)
  /-- the link engine of the port -/
  | link (port : Nat)
  /-- an event row comes about, in the core of the unit where it concerns one -/
  | event (uid : Nat) (i : Instr)
  /-- tide time passes, in ns (input) -/
  | tide (ns : Nat)
  /-- correctable errors are corrected in data that the unit consumes (input; R409) -/
  | corrected (uid n : Nat)
  /-- the occupancy of a port's elastic buffer as it now stands, in flits (input; R160) -/
  | occupancy (port flits : Nat)
  /-- a frame arrives on a lane of a port (input) -/
  | frame (port lane : Nat) (f : Frame)
  /-- the data cache of the unit's core takes a fresh copy of a granule of storage (R375) -/
  | cacheFill (uid granule : Nat)
  /-- an uncorrectable error appears in the granule of storage (input; R433) -/
  | spoil (granule : Nat)
  /-- a beat of row r of the unit loses its bank in a cycle (R166, R471): timing, so an input -/
  | conflict (uid row bank : Nat)
  /-- the debugger sets breakpoints and watchpoints or requests a stop (input; R476) -/
  | debug (uid : Nat) (d : Debug)
  /-- firmware writes a unit's UIMASK (input; R137) -/
  | userMask (uid : Nat) (m : BitVec 7)
  /-- a register is read over the SMBus (input; R493) -/
  | sideband (reg : BitVec 8)
  deriving DecidableEq, Repr

/-- The SMBus registers (R493). -/
structure Smbus where
  temps : Tab (BitVec 16)
  pwr : BitVec 16
  pcap : BitVec 16
  trip : Bool
  answers : List (BitVec 16)
  deriving DecidableEq, Repr

/-- The firmware's own state (R461, R485, R490, R492, R460). `bring` is the bring-up step done, 0 to
5, with 6 for power off. -/
structure Firm where
  bring : Nat
  open_ : List (BitVec 32)
  meas : Tab (List Byte)
  measLog : List MeasEntry
  measLost : Nat
  topLeaf : Nat
  bootLeaf : Nat
  bootTop : Nat
  attests : List (IsuneHdr × List Byte × BitVec 8)
  resetHdr : Option IsuneHdr
  cancels : List (IsuneHdr × Nat)
  calm : Nat
  scrubs : Nat
  frames : List Nat
  deriving DecidableEq, Repr

/-- The pod as this package knows it (R155, R156, R390, R407, R414, R442, R465). `torn` lists the VFs whose teardown it has learnt of
and not reconciled, by package and VF, with the tide time; `alarmsAt` is the period of the last alarm slots used. `alarms` wait for the alarm slots,
`alarmsSent` have gone out, `slew` is the correction of tide time not yet made, `exchanged` the period of the last time
exchange. -/
structure Pod where
  joined : Bool
  dims : List Nat
  pkg : Nat
  parent : Nat
  root : Option Nat
  ptp : Option Nat
  tideBad : Bool
  routes : List RouteSpec
  plan : Option Plan
  holding : Bool
  avoid : Tab (List (Nat × Nat × Nat))
  failed : List (Nat × Nat × Nat)
  setsEverywhere : List (Nat × Nat)
  tree : List Byte
  alarms : List Alarm
  alarmsSent : List Alarm
  slew : Int
  exchanged : Option Nat
  set : Nat
  torn : List (Nat × Nat × Nat)
  alarmsAt : Option Nat
  deriving DecidableEq, Repr

/-- The state of the package. `spoiled` lists the granules that hold uncorrectable errors, with their bytes then (R433). `walks` holds the entries of page tables that were read
at other packages, by VF and IPA, until the next shootdown (R346, R350). `late` holds the replies and packets turned back that found a port's buffer full,
with the cycles until they are sent again (R408). `cur` is the acting unit, `port` the acting link port, `agenda` the turns
to come, `free` the counter of free values, `nextTag` the next reply tag:
these five are the model's own. -/
structure State where
  mem : Mem
  units : Tab Unit
  cores : Tab Core
  bays : Tab Bay
  dies : Tab Die
  recs : Tab Rec
  vfs : Tab Vf
  jobs : Tab Job
  phases : List PhaseGen
  saved : List Saved
  headers : List KeyHeader
  links : Tab Link
  pod : Pod
  firm : Firm
  smb : Smbus
  tide : Word
  cycle : Nat
  fuse : BitVec 128
  regionVf : Tab Nat
  regionWorld : BitVec 64
  spoiled : List (Nat × List Byte)
  walks : List ((Nat × Nat) × Word)
  wireOut : List (Nat × Nat × Frame)
  pktOut : List (Nat × Pkt)
  late : List (Nat × Pkt)
  hostOut : List HostMsg
  cur : Nat
  port : Nat
  agenda : List Turn
  free : Nat
  nextTag : Nat
  deriving DecidableEq, Repr

/-! ### Units before anything is written to them -/

def blankRegs : Regs :=
  { pc := 0, g := [], shadow := [], p := 0, lc := 0, ns := 0, sv := 0, goff := 0, clsCount := 0,
    clsPred := false }

def blankCsrs : Csrs :=
  { uihandler := 0, uipc := 0, utvec := 0, uimask := 0, uipend := 0, resNr := false, resMulti := false,
    resPage := 0, ftz := false, det := false, coursed := false, fxsel := 0, inui := false, fxscale := [],
    vn1 := 63, vm1 := 0, seedl := 0, seedh := 0, scopepol := 0, heapb := 0, heapl := 0, heapo := 0,
    tideh := 0, frame := [], manifest := [] }

def blankMe : MeState :=
  { tiles := [], latches := [], gl := { b := [], fmt := 0, full := false }, asrF := [], asrC := [],
    wsrF := 0x3F800000, wsrC := [], nt := [], drain := 0 }

def blankUnit : Unit :=
  { st := .waiting,
    id := { vf := 0, recNo := 0, idx := 0, count := 0, job := 0, core := none, gang := false, segs := 0,
            pubseg := 0, segMap := [], seedb := 0, placedAt := 0, phaseMark := 0, suspendedAt := 0 },
    r := blankRegs, c := blankCsrs,
    course := { active := false, num := 0, cc := 0, slip := 0, slipmax := 0, nent := 0, entoff := 0,
                taken := 0, lastDue := [] },
    ctr := { val := [], latch := [], event := [], absent := [], conflict := [] },
    dbg := { breaks := [], watches := [], stopRequested := false, stopped := false },
    ae := { s := [], queue := [], nextId := 0, ord := 0 },
    ve := { queue := [], run := none, cols := [], clock := [], seq := 0, adds := [], masks := [], k := [], toks := [], cvt := 0,
            ord := 0 },
    me := { queue := [], run := none, clock := [], st := blankMe, ord := 0, seq := 0, adds := [], wrote := [], used := [],
            live := [], covered := 0 },
    gns := [],
    m := { pub := [], snap := [], caps := [], handles := [], leases := [], arrivals := [], remotes := [],
           copies := 0, donecnt := [], phaseArrived := [], kcount := 0, kid := 0, counter := 0,
           pages := [] },
    wait := none, pend := [], halted := false, poll := false, preempt := false, stopMask := 0,
    stash := none, far := [], image := [], restored := false, sup := false, sess := none }

/-- The number of management core k, above those of every launch's units. -/
def mgmtUid (k : Nat) : Nat := 2 ^ 20 + k

/-- Management core k of D0 (R13, R17): level S, of no VF, launch or counted core; its own position after the 128. Its firmware is
the ROM's, which the spec does not give: its words come from outside (log 12). -/
def mgmtCore (k : Nat) : Unit :=
  { blankUnit with
    st := .running, restored := true, sup := true
    id := { blankUnit.id with vf := 256, recNo := 8192, idx := k, core := some (128 + k) } }

/-- The state right after device reset: nothing powered, every world bit 0, every table empty
(R446, R460, R490), SMBus registers at their reset values (R493), and the values of DESIGN CHOICE, log entry 3. -/
def State.reset : State :=
  { mem := [], units := (List.range 4).map fun k => (mgmtUid k, mgmtCore k), cores := [], bays := [], dies := [], recs := [], vfs := [], jobs := [],
    phases := [], saved := [], headers := [], links := [],
    pod := { joined := false, dims := [1, 1, 1, 1], pkg := 0, parent := 0, root := none, ptp := none,
             tideBad := false, routes := [], plan := none, holding := false, avoid := [], failed := [],
             setsEverywhere := [], tree := [], alarms := [],
             alarmsSent := [], slew := 0, exchanged := none, set := 0, torn := [], alarmsAt := none },
    firm := { bring := 0, open_ := [], meas := [], measLog := [], measLost := 0, topLeaf := 0,
              bootLeaf := 0, bootTop := 0, attests := [], resetHdr := none, cancels := [], calm := 0, scrubs := 0, frames := [] },
    smb := { temps := [], pwr := 0, pcap := 2900, trip := false, answers := [] },
    tide := 0, cycle := 0, fuse := BitVec.allOnes 128, regionVf := [], regionWorld := 0, spoiled := [], walks := [],
    wireOut := [], pktOut := [], late := [], hostOut := [], cur := 0, port := 0, agenda := [], free := 0, nextTag := 0 }

end Sys2Proof.Machine
end

