-- ==== Sys2Proof/Machine/Ops.lean ====
section
/-! DEFINITION. Shared operations of the machine: contents of tables that list nothing, access to the
acting unit, registers, predicates and control registers, counters, taking an exception (R419 to R429)
and returning from one, and the issue of a scalar word (R110, R114). -/

namespace Sys2Proof.Machine

/-! ### Contents of tables that list nothing -/

def blankStream : Stream := { f := [], acts := [] }

def blankGen : GenReg := { f := [(4, 0x3F800000)], freq := [] }

def blankTile : Tile :=
  { w := [], int := false, live := false, rs := [], cs := [], satf := false, sumwrap := false }

def blankLatch : Latch := { b := [], fmt := 0, wscale := 0x3F800000, wcodes := [], full := false }

def blankLease : Lease :=
  { st := .free, kind := 0, prio := 0, leasePrio := 0, ev := false, corbel := none, granted := 0,
    cmds := [], ordNext := 0, running := false, ending := none, lastSt := 0, done := 0, result := 0 }

def blankCap : CapEntry :=
  { v := false, r := false, w := false, amo := false, handle := false, pkg := 0, vfn := 0, allow := 0,
    rkey := 0 }

def blankCorbel : Corbel :=
  { kind := 0, st := .off, timer := 0, world := false, holder := none, mem := .clear }

def blankBay : Bay :=
  { corbels := [], queue := [], thermal := false, power := false, world := false, vfs := [],
    active := none, quantum := 2000000, sliceAt := 0, grants := 0 }

def blankChannel : Channel :=
  { world := false, vfs := [], queue := [], run := none, aside := [], asideQ := [], nextTag := 0 }

def blankBarrier : Barrier := { exp := 0, arr := 0, gen := 0, vf := none }

def blankDie : Die :=
  { barriers := [], channels := [], det := [], redTags := [], migration := none, tlb := [] }

def blankCore : Core := { segs := [], occupant := none, l1 := [] }

def blankRec : Rec :=
  { st := .idle, live := 0, ended := 0, runs := 0, refused := false, launchCtr := 0, die := none,
    tstart := 0, job := 0, cancelled := false, releasedAt := 0, keyst := none, code := none }

def blankVf : Vf :=
  { st := .absent, world := false, qps := [], scoQps := [], qpError := false, pubKey := [], poolFirst := 0,
    poolCount := 0, root := 0, ranges := [], heap := { base := 0, limit := 0, off := 0 }, thresh := 256,
    scopepol := 0, policy := none, keys := [], lastGen := [], slots := [], nq := [], lost := 0, seq := 0,
    requests := [], reqfail := [], ready := [], readyOrd := 0, session := none, rings := [], trace := [], graphs := [],
    received := [], drops := 0, refused := 0, lateReduces := 0, slacks := 0, finished := [], destroyHdr := none }

def blankJob : Job :=
  { recs := [], released := [], running := false, jobCtr := 0, phaseCtr := 0, overrun := 0,
    kComplete := 0, kReports := [], kPeriod := 0, failedAt := none, linksBefore := 0, linksSeen := 0, restored := false,
    lastRestored := none, phaseFar := [] }

/-- A link engine and port that nothing has been loaded into; its elastic buffer at the middle to which R160 brings it (DESIGN
CHOICE, log 92). -/
def blankLink : Link :=
  { world := false, sets := [], set := 0, widx := 0, period := 0, atSlot := none, running := false,
    stopped := false, uses := [], keys := [], lastKey := none, switch := none, bad := [], counted := none,
    failed := [], degraded := false, arrived := [], sent := [], got := [], startReady := [], tiles := [], reports := [], missed := [],
    passed := [], applied := [], dones := [], releases := [], abuf := [], markers := [], elastic := 16, delay := [],
    lanes := [], plane := 0, index := 0, radix := 0 }

/-! ### Parts of the state -/

def State.unit (s : State) (uid : Nat) : Unit := tget s.units uid blankUnit
def State.putUnit (s : State) (uid : Nat) (u : Unit) : State := { s with units := tset s.units uid u }
def State.onUnit (s : State) (uid : Nat) (f : Unit → Unit) : State := s.putUnit uid (f (s.unit uid))

/-- The acting unit. -/
def State.u (s : State) : Unit := s.unit s.cur
def State.setU (s : State) (u : Unit) : State := s.putUnit s.cur u
def State.onU (s : State) (f : Unit → Unit) : State := s.onUnit s.cur f

def State.bay (s : State) (n : Nat) : Bay := tget s.bays n blankBay
def State.setBay (s : State) (n : Nat) (b : Bay) : State := { s with bays := tset s.bays n b }
def State.die (s : State) (n : Nat) : Die := tget s.dies n blankDie
def State.setDie (s : State) (n : Nat) (d : Die) : State := { s with dies := tset s.dies n d }
def State.core (s : State) (n : Nat) : Core := tget s.cores n blankCore
def State.setCore (s : State) (n : Nat) (c : Core) : State := { s with cores := tset s.cores n c }
def State.recOf (s : State) (n : Nat) : Rec := tget s.recs n blankRec
def State.putRec (s : State) (n : Nat) (r : Rec) : State := { s with recs := tset s.recs n r }
def State.vf (s : State) (n : Nat) : Vf := tget s.vfs n blankVf
def State.setVf (s : State) (n : Nat) (v : Vf) : State := { s with vfs := tset s.vfs n v }
def State.onVf (s : State) (n : Nat) (f : Vf → Vf) : State := s.setVf n (f (s.vf n))
def State.job (s : State) (n : Nat) : Job := tget s.jobs n blankJob
def State.setJob (s : State) (n : Nat) (j : Job) : State := { s with jobs := tset s.jobs n j }
def State.link (s : State) (n : Nat) : Link := tget s.links n blankLink
def State.setLink (s : State) (n : Nat) (l : Link) : State := { s with links := tset s.links n l }

def channelOf (s : State) (die ch : Nat) : Channel := tget (s.die die).channels ch blankChannel
def putChannel (s : State) (die ch : Nat) (c : Channel) : State :=
  s.setDie die { s.die die with channels := tset (s.die die).channels ch c }

/-- The key of a job: jobs are numbered within their VF. -/
def jobKey (vf job : Nat) : Nat := 65536 * vf + job

/-- The identity of unit idx of launch record i. -/
def uidOf (i idx : Nat) : Nat := 128 * i + idx

/-- Dies and bays of a logical core: four cores to a bay, eight bays to a die (R19). -/
def bayOf (core : Nat) : Nat := core / 4
def dieOfBay (bay : Nat) : Nat := bay / 8
/-- The die of a position; the management cores stand on D0 (R13). -/
def dieOf (core : Nat) : Nat := if core < 128 then core / 32 else 0

/-- The core a unit occupies, 0 for none. -/
def coreOf (u : Unit) : Nat := u.id.core.getD 0

/-- The enabled positions; logical core n is the n-th (R21). -/
def positions (s : State) : List Nat := (List.range 128).filter fun p => s.fuse.getLsbD p

/-- The logical number of a position. -/
def logicalOf (s : State) (p : Nat) : Nat := (positions s).idxOf p

/-- The next free value, and the state with the counter advanced (DESIGN CHOICE, log 2). -/
def freeVal (s : State) : Word × State := (Config.freeWord s.free, { s with free := s.free + 1 })

/-- n bytes without a stated value, from count k on (log 2). -/
def freeBytes (k n : Nat) : List Byte := (List.range n).map fun i => (Config.freeWord (k + i)).setWidth 8

/-- The unit is on its core (R324), and its segments are in place (R171, R172). -/
def live (u : Unit) : Bool := (u.st == .running || u.st == .held) && u.restored

/-- The unit's agents may issue: not in a hold cycle (R148). -/
def issuing (u : Unit) : Bool := live u && u.st == .running

/-- The numbers of the units that meet a test. -/
def unitsWhere (s : State) (p : Unit → Bool) : List Nat := (s.units.filter fun e => p e.2).map (·.1)

/-! ### Registers (R101, R103) -/

/-- R103: the physical register of a general name under a ring offset. -/
def physG (r : Regs) (n : Nat) : Nat := if n < 32 then n else 32 + (n - r.goff.toNat) % 32

/-- A general register by name: G0 reads as zero. -/
def getG (r : Regs) (n : Nat) : Word := if n = 0 then 0 else tget r.g (physG r n) 0

/-- A general register written by name: a write to G0 is discarded. -/
def setG (r : Regs) (n : Nat) (v : Word) : Regs :=
  if n = 0 then r else { r with g := tset r.g (physG r n) v }

/-- A predicate by name: P0 reads as 1, P8 to P15 view STG.SV (R101, R103). -/
def getP (r : Regs) (n : Nat) : Bool :=
  if n = 0 then true
  else if n < 8 then r.p.getLsbD n
  else decide (n - 8 < r.ns.toNat) && r.sv.getLsbD (n - 8)

/-- Bit i of an n-bit value replaced. -/
def putBit {w : Nat} (v : BitVec w) (i : Nat) (b : Bool) : BitVec w :=
  (v &&& ~~~(BitVec.ofNat w (2 ^ i))) ||| (if b then BitVec.ofNat w (2 ^ i) else 0)

/-- A predicate written by name. -/
def setP (r : Regs) (n : Nat) (b : Bool) : Regs :=
  if n = 0 then r
  else if n < 8 then { r with p := putBit r.p n b }
  else if n - 8 < r.ns.toNat then { r with sv := putBit r.sv (n - 8) b } else r

/-- The low n bits set. -/
def lowMask (n : Nat) : BitVec 8 := BitVec.ofNat 8 (2 ^ n - 1)

/-- The two banks of G24 to G31 exchanged (R135). -/
def swapBanks (r : Regs) : Regs :=
  let inBank := fun (e : Nat × Word) => 24 ≤ e.1 && e.1 < 32
  { r with
    g := r.g.filter (fun e => e.1 < 24) ++ r.shadow.filter inBank ++ r.g.filter (fun e => 32 ≤ e.1)
    shadow := r.g.filter inBank }

def gOf (s : State) (n : BitVec 6) : Word := getG s.u.r n.toNat
def pOf (s : State) (n : BitVec 4) : Bool := getP s.u.r n.toNat

/-- The name of a pending load's destination: bank-dependent registers of the shadow bank apart. -/
def pendKey (u : Unit) (n : Nat) : Nat :=
  let k := physG u.r n
  if 24 ≤ k && k < 32 && u.c.inui then k + 64 else k

/-- A general register of the acting unit written: the register's datum is then in place (R110). -/
def writeG (s : State) (n : BitVec 6) (v : Word) : State :=
  s.onU fun u => { u with r := setG u.r n.toNat v, pend := u.pend.filter (· != pendKey u n.toNat) }

/-- A load's destination: written, and pending until LOAD_DATA_RETURN. -/
def writeLoad (s : State) (n : Nat) (v : Word) : State :=
  s.onU fun u =>
    let k := pendKey u n
    { u with r := setG u.r n v, pend := if n = 0 || u.pend.contains k then u.pend else u.pend ++ [k] }

def writeP (s : State) (n : BitVec 4) (b : Bool) : State :=
  s.onU fun u => { u with r := setP u.r n.toNat b }

/-! ### Counters (R467, R468) -/

/-- The event of each fixed counter, 0 to 15, in the order of R468. -/
def fixedEvents : List Nat :=
  [0x0101, 0x0102, 0x0801, 0x0201, 0x0301, 0x0401, 0x0402, 0x0202, 0x0601, 0x0501, 0x0502, 0x0203,
   0x0701, 0x0702, 0x0A01, 0x0901]

/-- The event counter n counts; 0 when none. -/
def counterEvent (c : Counters) (n : Nat) : Nat :=
  if n < 16 then fixedEvents.getD n 0 else (tget c.event n 0).toNat

/-- Whether the events of a unit are counted (R468): not while SUSPENDED, FAULTED or stopped. -/
def counting (u : Unit) : Bool := u.st != .suspended && u.st != .faulted && !u.dbg.stopped

/-- A unit's counters of an event advanced by n. -/
def addEvent (c : Counters) (ev n : Nat) : Counters :=
  { c with val := (List.range 32).foldl (fun v k =>
      if counterEvent c k = ev && !(tget c.absent k false) then tset v k (tget v k 0 + BitVec.ofNat 64 n)
      else v) c.val }

def count (s : State) (uid ev n : Nat) : State :=
  if n = 0 then s else s.onUnit uid fun u => if counting u then { u with ctr := addEvent u.ctr ev n } else u

/-! ### Causes -/

/-- The code of a cause (R424 and the table of its owning chapter). -/
def causeCode : Cause → Nat
  | .illegalOpcode => 0x01 | .privileged => 0x02 | .fetchBounds => 0x03 | .uiretState => 0x04
  | .clauseOrder => 0x05 | .nestForm => 0x06 | .debugStop => 0x07 | .userTrap => 0x08
  | .dataMisaligned => 0x10 | .noncanonical => 0x11 | .translation => 0x12 | .writeProtect => 0x13
  | .notResident => 0x14 | .atomicPath => 0x15 | .stage2Miss => 0x16 | .pteForm => 0x17
  | .publishFull => 0x20 | .scratchBounds => 0x21 | .streamForm => 0x22 | .streamMisaligned => 0x23
  | .streamBounds => 0x24 | .streamOverlap => 0x25 | .streamDirection => 0x26
  | .veShape => 0x30 | .veFormat => 0x31 | .veIndex => 0x32 | .tokenOverflow => 0x33
  | .meFormat => 0x40 | .meIndex => 0x41 | .meState => 0x42
  | .genForm => 0x50 | .leaseHandle => 0x51 | .leasePrio => 0x52 | .corbelBlock => 0x53
  | .corbelField => 0x54 | .corbelState => 0x55 | .corbelData => 0x56 | .corbelKey => 0x57
  | .copyAperture => 0x60 | .copyTemplate => 0x61 | .detOverlap => 0x62 | .handleState => 0x63
  | .copyRemote => 0x64
  | .capInvalid => 0x70 | .capPermission => 0x71 | .endpointUnreachable => 0x72 | .remoteNack => 0x73
  | .remoteTimeout => 0x74 | .remoteData => 0x75
  | .courseSlip => 0x80 | .lateTile => 0x81 | .courseState => 0x82 | .courseTable => 0x83
  | .tideLost => 0x84 | .keystState => 0x85
  | .barForm => 0x90 | .barState => 0x91 | .barOrder => 0x92 | .barDenied => 0x93 | .lrecDenied => 0x94
  | .lrecState => 0x95 | .launchForm => 0x96
  | .scopeDenied => 0xA0 | .phaseForm => 0xA1 | .uncorrectable => 0xA2
  | .machineCheck => 0xB0 | .rollbackStop => 0xB1
  | .elsewhere _ => 0

/-- The number of an agent in FCAUSE.AGENT and FSTOP (R422). -/
def agentCode : Agent → Nat
  | .sq => 0 | .ae => 1 | .col c => 2 + c | .router => 8 | .me => 9 | .corbel _ => 10 | .copy => 11

/-- What a fault says of itself: its cause, agent and precision, the address and DETAIL it names,
where the sequencer resumes, and the lease handle and ordinal of a failed corbel command. -/
structure FaultInfo where
  cause : Cause
  agent : Agent
  precise : Bool
  addr : Word
  detail : Nat
  fpc : Word
  corb : Option (Nat × Nat)
  deriving DecidableEq, Repr

/-! ### Stream status (R174) -/

/-- Elements of a chunk of a format (R178): 256 bytes, or 512 elements of 4 bits. -/
def chunkElems (f : Fmt) : Nat := 2048 / fmtBits f

/-- The element format of an activation or stream register's CFG. -/
def streamFmt (f : Tab Word) : Fmt := (fmtOf (bits (tget f 0 0).toNat 4 4)).getD .fp32

/-- Total elements of a stream nest (R175): the product of the present counts. -/
def streamTotal (f : Tab Word) : Nat :=
  (List.range 6).foldl (fun n k => let c := (tget f (2 + k) 0).toNat % 65536; if c = 0 then n else n * c) 1

/-- The direction of an activation: 0 load, 1 store, 2 read-modify-write. -/
def actDir (a : Act) : Nat := (tget a.f 0 0).toNat % 4

/-- An activation has performed everything it will perform (R181). -/
def actDone (a : Act) : Bool :=
  if actDir a = 0 then a.issued == a.total && a.inflight.isEmpty && a.started && !a.half else a.performed == a.total

/-- Nothing of an activation is left for its stream: it has performed everything and its elements are taken. -/
def actSpent (a : Act) : Bool := actDone a && a.queue.isEmpty

/-- The ordinals an activation holds places for in the operand queue, from the first to below the last. -/
def actWindow (a : Act) : Nat × Nat :=
  match actDir a with
  | 0 => (a.taken, a.issued)
  | 1 => (a.performed, a.given)
  | _ => (a.performed, a.issued)

/-- The chunks of c elements that hold the ordinals from lo to below hi. -/
def chunksIn (c lo hi : Nat) : Nat := if hi ≤ lo then 0 else (hi - 1) / c - lo / c + 1

/-- Chunks an activation has places for, those in flight included. -/
def actPlaces (a : Act) : Nat := chunksIn (chunkElems (streamFmt a.f)) (actWindow a).1 (actWindow a).2

/-- Chunks an activation holds in the operand queue. -/
def actChunks (a : Act) : Nat :=
  chunksIn (chunkElems (streamFmt a.f)) (actWindow a).1 ((actWindow a).2 - a.inflight.length)

/-- Ordinal of the next element of the oldest unfinished activation; 0 when none (R174 CUR). -/
def streamCur (st : Stream) : Nat :=
  match st.acts.find? (fun a => !actDone a) with
  | some a => if actDir a = 0 then a.issued - a.inflight.length else a.performed
  | none => 0

/-- STAT (R174): BUSY, ACT and CHUNKS. -/
def streamStat (st : Stream) : Nat :=
  (if st.acts.any (fun a => !actDone a) then 1 else 0) + 2 * min st.acts.length 2 +
  256 * min 8 ((st.acts.map actChunks).foldl (· + ·) 0)

def streamOf (u : Unit) (n : Nat) : Stream := tget u.ae.s n blankStream
def putStream (u : Unit) (n : Nat) (st : Stream) : Unit := { u with ae := { u.ae with s := tset u.ae.s n st } }

/-! ### Taking an exception (R419 to R423) -/

/-- The agents of the core that hold a stopping point (R419, R422 FSTOP). -/
def stopAgents (s : State) (uid : Nat) (a : Agent) : Nat :=
  let u := s.unit uid
  let b := fun (n : Nat) (c : Bool) => if c || agentCode a == n then 2 ^ n else 0
  1 + b 1 (u.ae.s.any (fun e => !e.2.acts.isEmpty)) +
  ((List.range 6).map fun c => b (2 + c) (!(tget u.ve.cols c []).isEmpty)).foldl (· + ·) 0 +
  b 8 u.ve.run.isSome + b 9 u.me.run.isSome + b 10 false +
  b 11 (s.dies.any fun d => d.2.channels.any fun c =>
    c.2.aside.any (fun r => r.c.uid == uid) || (match c.2.run with | some r => r.c.uid == uid | none => false))

/-- The channels of the unit's die with copies of the unit set aside (R422 CHANS). -/
def asideChans (s : State) (uid : Nat) : Nat :=
  (s.die (dieOf (coreOf (s.unit uid)))).channels.foldl (fun n c =>
    if c.2.aside.any (fun r => r.c.uid == uid) || c.2.asideQ.any (fun r => r.uid == uid) then n + 2 ^ c.1 else n) 0

/-- A channel with the running copy of a unit set aside (R312). -/
def asideOn (uid : Nat) (c : Channel) : Channel :=
  match c.run with
  | some r => if r.c.uid = uid then { c with run := none, aside := c.aside ++ [r] } else c
  | none => c

/-- R312: the running copies of a unit are set aside on their channels. -/
def setAside (s : State) (uid : Nat) : State :=
  { s with dies := tmap (fun _ d => { d with channels := tmap (fun _ c => asideOn uid c) d.channels }) s.dies }

/-- Counters i0 to i5 of a nest position in the two frame registers (R422). -/
def nestRegs (ctr : List Nat) : Nat × Nat :=
  (ctr.getD 0 0 + 2 ^ 16 * ctr.getD 1 0 + 2 ^ 32 * ctr.getD 2 0 + 2 ^ 48 * ctr.getD 3 0,
   ctr.getD 4 0 + 2 ^ 16 * ctr.getD 5 0)

/-- The three frame registers of an engine (R422): word index, ordinal, counters, shape. -/
def engineRegs (base widx ord : Nat) (ctr : List Nat) (n1 m1 : Nat) : List (Nat × Word) :=
  let r := nestRegs ctr
  [(base, BitVec.ofNat 64 (widx % 256 + 256 + 2 ^ 24 * (ord % 2 ^ 17))),
   (base + 1, BitVec.ofNat 64 r.1),
   (base + 2, BitVec.ofNat 64 (r.2 + 2 ^ 32 * n1 + 2 ^ 48 * m1))]

/-- The fault frame of a unit at a fault (R422), by CSR number less 0xC00. -/
def frameOf (s : State) (uid : Nat) (f : FaultInfo) : Tab Word :=
  let u := s.unit uid
  let code := causeCode f.cause
  let w := BitVec.ofNat 64
  let fixed : List (Nat × Word) :=
    [(0x00, w (code + 256 * (code / 16) + 2 ^ 12 * f.precise.toNat + 2 ^ 14 * u.c.inui.toNat +
        2 ^ 16 * agentCode f.agent + 2 ^ 24 * (f.detail % 256))),
     (0x01, f.fpc), (0x02, f.addr),
     (0x03, w (u.r.clsCount.toNat + 16 * u.r.clsPred.toNat)),
     (0x04, s.tide),
     (0x05, w (stopAgents s uid f.agent + 2 ^ 32 * asideChans s uid)),
     (0x06, match f.corb with
       | some (h, o) => w (h % 16 + 16 * (o % 16) + 256)
       | none => 0)]
  let alt := (List.range 8).map fun k => (0x08 + k, tget u.r.shadow (24 + k) 0)
  let strs := (List.range 16).map fun k =>
    let st := streamOf u k
    (0x10 + k, w (streamCur st % 2 ^ 48 + 2 ^ 48 * (streamStat st / 2 % 4) + 2 ^ 52 * (streamStat st / 256)))
  let cols := (List.range 6).flatMap fun c =>
    match tget u.ve.cols c [] with
    | v :: _ => engineRegs (0x20 + 3 * c) v.widx v.ord v.ctr (v.shN - 1) (v.shM - 1)
    | [] => []
  let router := match u.ve.run with
    | some r => engineRegs 0x32 r.widx 0 r.ctr (r.shN - 1) (r.shM - 1)
    | none => []
  let me := match u.me.run with
    | some r => engineRegs 0x38 r.widx r.ord r.ctr 0 0
    | none => []
  fixed ++ alt ++ strs ++ cols ++ router ++ me

/-! ### Bytes at other packages (R352) -/

/-- The least k for which n is at most 2^k (R406 SIZE). -/
def log2up (n : Nat) : Nat := if n ≤ 1 then 0 else (n - 1).log2 + 1

/-- The request of a core's agent to an endpoint (R129, R352, R406), before its tag and route are chosen. -/
def requestOf (s : State) (uid : Nat) (kind : PacketKind) (cap : Option Nat) (pkg vfn : Nat)
    (key : BitVec 32) (off : BitVec 56) (n aop : Nat) (bmask : BitVec 64) (data : List Byte)
    (dst : Option Nat) (waits : Bool) : Remote :=
  let u := s.unit uid
  { tag := 0, kind := kind, cap := cap, off := off, pkg := BitVec.ofNat 16 pkg, dst := dst
    waits := waits, agent := .sq, far := none, copyCh := none, strm := none, cycles := 0, resend := none, held := false
    pkt := { size := BitVec.ofNat 8 (log2up n), aop := BitVec.ofNat 8 aop, hop := 0
             srcPkg := BitVec.ofNat 16 s.pod.pkg, srcVf := BitVec.ofNat 8 u.id.vf, srcCh := 0
             srcId := BitVec.ofNat 16 (logicalOf s (coreOf u)), dstPkg := BitVec.ofNat 16 pkg
             dstVf := BitVec.ofNat 8 vfn, nhop := 0, route := 0, rkey := key, tag := 0, offset := off
             bmask := bmask, data := data } }

/-- The TAG of a request: the next reply tag that no outstanding request of its source has; a reduce has its own (R304, R406;
DESIGN CHOICE, log 13). -/
def tagOf (s : State) (r : Remote) : BitVec 32 :=
  if r.kind = .reduce then r.pkt.tag
  else
    let out := s.units.flatMap fun u => (u.2.m.remotes.filter fun x =>
      x.pkt.srcCh == r.pkt.srcCh && x.pkt.srcId == r.pkt.srcId).map (·.pkt.tag)
    let tags := (List.range (out.length + 1)).map fun k => BitVec.ofNat 32 (s.nextTag + k)
    (tags.find? fun t => !out.contains t).getD 0

/-- An agent asks for bytes at another package, unless it has: the request goes out at the next RETRY_RESEND. -/
def askFar (s : State) (uid : Nat) (a : Agent) (p : FarPlace) : State :=
  if (s.unit uid).m.remotes.any fun r => r.agent == a && r.far == some p then s
  else
    let r := requestOf s uid .read none p.pkg p.vfn p.key p.off p.n 0 0 [] none false
    let r := { r with tag := s.nextTag, agent := a, far := some p, resend := some 0
                      pkt := { r.pkt with tag := tagOf s r } }
    let s := { s with nextTag := s.nextTag + 1 }
    count (s.onUnit uid fun u => { u with m := { u.m with remotes := u.m.remotes ++ [r] } }) uid 0x0701 1

/-- What agents had asked for at other packages is forgotten: the bytes that came, and the requests still out. -/
def dropFars (p : Agent → Bool) (u : Unit) : Unit :=
  { u with far := u.far.filter fun e => !p e.1
           m := { u.m with remotes := u.m.remotes.filter fun r => r.far.isNone || !p r.agent } }

/-- The bytes that an agent had asked for are used. -/
def dropFar (a : Agent) (u : Unit) : Unit := dropFars (· == a) u

/-- The agent waits for bytes of another package: it tries again, the SQ's word after the next RETRY_RESEND. -/
def awaitFar (s : State) (uid : Nat) (a : Agent) (p : FarPlace) : State :=
  (askFar s uid a p).onUnit uid fun u => if a = .sq then { u with wait := some (.retry 0) } else u

/-- R419, R422: a fault stops the unit. Its copies are set aside, the frame is written, the wait of the
word at FPC is kept for its resumption, and the unit is FAULTED and its frame queued for firmware. (A
unit that is not running records nothing: its agent meets the fault again after resumption, R420.) -/
def stopUnit (s : State) (uid : Nat) (f : FaultInfo) : State :=
  let s := setAside s uid
  let fr := frameOf s uid f
  let s := s.onUnit uid fun u => { dropFars (fun _ => true) u with
    st := .faulted, c := { u.c with frame := fr }, stash := u.wait, wait := none, poll := false, halted := false }
  { s with firm := { s.firm with frames := s.firm.frames ++ [uid] } }

/-- A cause at an agent of a unit: a fault; or the agent waits for bytes of another package (R352). -/
def raiseFault (s : State) (uid : Nat) (f : FaultInfo) : State :=
  if live (s.unit uid) then
    match f.cause with
    | .elsewhere p => awaitFar s uid f.agent p
    | _ => stopUnit s uid f
  else s

/-- A precise fault of the acting unit's SQ word (R109). -/
def sqFault (cause : Cause) (addr : Word) (detail : Nat) (s : State) : State :=
  let s := s.onU fun u => { u with wait := none }
  raiseFault s s.cur { cause, agent := .sq, precise := true, addr, detail, fpc := s.u.r.pc, corb := none }

/-- A fault of another agent of a unit: imprecise but restartable (R421). -/
def agentFault (s : State) (uid : Nat) (agent : Agent) (cause : Cause) (addr : Word) (detail : Nat) : State :=
  raiseFault s uid { cause, agent, precise := false, addr, detail, fpc := (s.unit uid).r.pc, corb := none }

/-! ### Hold cycles (R147, R148) -/

/-- SLIP one further; it stops at its highest value (R148, R150). -/
def slipUp (c : Course) : Course :=
  { c with slip := if c.slip = BitVec.allOnes 32 then c.slip else c.slip + 1 }

/-- R148: COURSE_SLIP, with every agent at its hold point; a names the agent that cannot issue (DEDUCED, log 43). -/
def slipFault (s : State) (uid : Nat) (a : Agent) : State := agentFault s uid a .courseSlip 0 0

/-- R148: the present cycle is a hold cycle of the unit: it is HELD, SLIP rises, and beyond the budget COURSE_SLIP is raised
in that cycle. -/
def holdCycle (s : State) (uid : Nat) (a : Agent) : State :=
  let s := count (s.onUnit uid fun u => { u with st := .held, course := slipUp u.course }) uid 0x0801 1
  if (s.unit uid).course.slipmax < (s.unit uid).course.slip then slipFault s uid a else s

/-- R147: the waits of an SQ word that make hold cycles. The waits for tide time and for interrupts do not; that of CEND
does not, since the course runs on until its entries have finished (DEDUCED, log 81). -/
def waitHolds : Wait → Bool
  | .courseStart .. | .courseEnd | .tideAt _ | .waiti => false
  | _ => true

/-- The wait of the unit's SQ word holds its course. -/
def sqHeld (u : Unit) : Bool := u.course.active && u.wait.any waitHolds

/-- A frame register, and the frame with it replaced. -/
def frameReg (u : Unit) (n : Nat) : Word := tget u.c.frame n 0
def setFrame (u : Unit) (n : Nat) (v : Word) : Unit := { u with c := { u.c with frame := tset u.c.frame n v } }

/-- FCAUSE.REFLECTED (R422). -/
def reflectedBit : Word := 0x2000

/-- R427: reflection enters the unit's UTVEC handler in one step. -/
def reflect (u : Unit) : Unit :=
  let u := setFrame u 0 (frameReg u 0 ||| reflectedBit)
  { u with
    st := .running
    c := { u.c with uipc := frameReg u 1, inui := true }
    r := { swapBanks u.r with clsCount := 0, clsPred := false, pc := u.c.utvec }
    stopMask := BitVec.ofNat 12 ((frameReg u 5).toNat % 2 ^ 12 / 2 * 2) }

/-- The wait of the word at FPC, taken up again when the sequencer resumes there. -/
def resumeWait (u : Unit) (pc : Word) : Option Wait := if pc = frameReg u 1 then u.stash else none

/-- R136, R428: the return from a handler. With a reflected fault open it also restores CLS and restarts
every stopped agent. -/
def returnUi (u : Unit) : Unit :=
  let r := { swapBanks u.r with pc := u.c.uipc &&& ~~~(3 : Word) }
  let u := { u with c := { u.c with inui := false }, r := r }
  if frameReg u 0 &&& reflectedBit = 0 then u
  else
    let f := (frameReg u 3).toNat
    let u := setFrame u 0 (frameReg u 0 &&& ~~~reflectedBit)
    { u with r := { u.r with clsCount := BitVec.ofNat 4 f, clsPred := bitAt f 4 }, stopMask := 0,
             wait := resumeWait u u.r.pc, stash := none }

/-- R430: firmware resumes a FAULTED unit from its frame as it stands. -/
def resumeFrame (u : Unit) : Unit :=
  if u.st = .faulted then
    let f := (frameReg u 3).toNat
    let pc := frameReg u 1 &&& ~~~(3 : Word)
    { u with st := .running, stopMask := 0, wait := resumeWait u pc, stash := none
             r := { u.r with pc := pc, clsCount := BitVec.ofNat 4 f, clsPred := bitAt f 4 } }
  else u

/-- R135: a user interrupt is taken at a word boundary. -/
def takeUi (u : Unit) : Unit :=
  { u with c := { u.c with uipc := u.r.pc, inui := true }, wait := none, poll := false
           r := { swapBanks u.r with pc := u.c.uihandler } }

/-- A pending source of user interrupts is set (R107). -/
def setPend (u : Unit) (bit : Nat) : Unit := { u with c := { u.c with uipend := putBit u.c.uipend bit true } }

/-! ### The issue of a scalar word (R110, R114) -/

/-- What the body of a scalar word comes to: it completes, it completes and transfers control, it
raises a precise cause, it waits, or it has stopped in another way, which the state shows. -/
inductive SqRes where
  | done (s : State)
  | jump (s : State) (pc : Word)
  | trap (cause : Cause) (addr : Word) (detail : Nat)
  | hold (w : Wait) (s : State)
  | stop (s : State)
  deriving DecidableEq, Repr

/-- CLS.COUNT after a governed word completes (R114); a word that is not governed keeps CLS. -/
def clsDown (governed : Bool) (r : Regs) : Regs := if governed then { r with clsCount := r.clsCount - 1 } else r

/-- A word of the acting unit is governed by a clause (R114). -/
def governed (s : State) : Bool := s.u.r.clsCount != 0

/-- The word at the PC completes: the PC advances, the clause counts down when it governs the word
(R114), SQ_ISSUE counts. -/
def retireAs (gov : Bool) (s : State) : State :=
  count (s.onU fun u => { dropFar .sq u with wait := none, r := { clsDown gov u.r with pc := u.r.pc + 4 } }) s.cur 0x0102 1

/-- A word that has waited, or that a clause keeps from acting, completes. -/
def retire (s : State) : State := retireAs (governed s) s

/-- The word completes and transfers control: the clause ends (R114). -/
def retireTo (pc : Word) (s : State) : State :=
  count (s.onU fun u => { dropFar .sq u with wait := none, r := { u.r with pc := pc, clsCount := 0 } }) s.cur 0x0102 1

/-- A word's result, with s the state before it. In a course a wait makes the cycle a hold cycle (R147). -/
def finish (s : State) : SqRes → State
  | .done s' => retireAs (governed s) s'
  | .jump s' pc => retireTo pc s'
  | .trap c a d => sqFault c a d s
  | .hold w s' =>
    let t := s'.onU fun u => { u with wait := some w }
    if sqHeld t.u && t.u.st == .running then holdCycle t t.cur .sq else t
  | .stop s' => s'

/-- Some register named is the destination of a load whose datum has not arrived (R110, R111). -/
def notReady (u : Unit) (rs : List (BitVec 6)) : Bool := rs.any fun n => n != 0 && u.pend.contains (pendKey u n.toNat)

/-- The sequencer issues no word: the unit is stopped, waits in a word, or has halted. -/
def sqIdle (u : Unit) : Bool := !issuing u || u.wait.isSome || u.halted

/-- The boundary of R135 that an earlier word left is over. -/
def unpoll (s : State) : State := s.onU fun u => { u with poll := false }

/-- Issue of a scalar word that reads the registers rs (R110, R114). A governed word under a false
guard only counts down the clause. -/
def sqWord (rs : List (BitVec 6)) (body : State → SqRes) (s : State) : Host.Outcome State Fault Refusal :=
  if sqIdle s.u then .next s
  else if s.u.r.clsCount != 0 && !s.u.r.clsPred then .next (retire s)
  else if notReady s.u rs then .next s
  else
    .next (finish (unpoll s) (body (unpoll s)))

/-- An event of a unit that is being executed: it comes about, or nothing has (DESIGN CHOICE, log 11). -/
def happens (guard : Bool) (s' s : State) : Host.Outcome State Fault Refusal := .next (if guard then s' else s)

end Sys2Proof.Machine
end

