-- ==== Sys2Proof/Machine/Flags.lean ====
section
/-! DEFINITION. The conditions that words compute: the comparisons of CMP and VCMP (R120), the guard of a
branch or clause (R113, R116, R122), the predicate functions (R121). The part has no arithmetic flags. -/

namespace Sys2Proof.Machine

/-- Whether a < b as two's complement. -/
def sltW (a b : Word) : Bool := BitVec.slt a b

/-- R120: a comparison of two 64-bit values. -/
def condHolds (cc : Cond) (a b : Word) : Bool :=
  match cc with
  | .eq => a == b
  | .ne => a != b
  | .lt => sltW a b
  | .ge => !sltW a b
  | .ltu => BitVec.ult a b
  | .geu => !BitVec.ult a b
  | .bits => a &&& b != 0
  | .nbits => a &&& b == 0

/-- The guard of a word: Pq, or its complement with neg = 1. -/
def guardOf (r : Regs) (pq : BitVec 4) (neg : Bool) : Bool := getP r pq.toNat != neg

/-- R115: STG.SV after BRSTG, with a new stage 0 while LC is above zero. -/
def stgNext (r : Regs) : BitVec 8 :=
  ((r.sv <<< 1) ||| (if r.lc = 0 then 0 else 1)) &&& lowMask r.ns.toNat

end Sys2Proof.Machine
end

