-- ==== Sys2Proof/Machine/Operands.lean ====
section
/-! DEFINITION. The functions of the ALU on 64-bit values (R117), the immediate forms (R40, R118), branch
targets (R122) and the effective addresses of the memory words (R42, R126). -/

namespace Sys2Proof.Machine

/-- A signed immediate as a 64-bit value (R40). -/
def imm64 {n : Nat} (i : BitVec n) : Word := i.signExtend 64

/-! ### R117 -/

def aluMulhs (a b : Word) : Word := BitVec.ofInt 64 (a.toInt * b.toInt / 2 ^ 64)
def aluMulhu (a b : Word) : Word := BitVec.ofNat 64 (a.toNat * b.toNat / 2 ^ 64)
def aluDivs (a b : Word) : Word :=
  if b = 0 then BitVec.allOnes 64 else BitVec.ofInt 64 (a.toInt.tdiv b.toInt)
def aluDivu (a b : Word) : Word := if b = 0 then BitVec.allOnes 64 else a / b
def aluRems (a b : Word) : Word := if b = 0 then a else BitVec.ofInt 64 (a.toInt.tmod b.toInt)
def aluRemu (a b : Word) : Word := if b = 0 then a else a % b
def aluAndn (a b : Word) : Word := a &&& ~~~b
/-- The shift amount b[5:0]. -/
def shAmount (b : Word) : Nat := b.toNat % 64
def aluShl (a b : Word) : Word := a <<< shAmount b
def aluShr (a b : Word) : Word := a >>> shAmount b
def aluSar (a b : Word) : Word := a.sshiftRight (shAmount b)
def aluRol (a b : Word) : Word := (a <<< shAmount b) ||| (a >>> (64 - shAmount b))
def aluMins (a b : Word) : Word := if sltW b a then b else a
def aluMinu (a b : Word) : Word := if BitVec.ult b a then b else a
def aluMaxs (a b : Word) : Word := if sltW a b then b else a
def aluMaxu (a b : Word) : Word := if BitVec.ult a b then b else a
/-- Leading zero bits. -/
def aluClz (a : Word) : Word := BitVec.ofNat 64 (((List.range 64).takeWhile fun i => !a.getLsbD (63 - i)).length)
/-- Trailing zero bits. -/
def aluCtz (a : Word) : Word := BitVec.ofNat 64 (((List.range 64).takeWhile fun i => !a.getLsbD i).length)
/-- The number of 1 bits. -/
def aluPopc (a : Word) : Word := BitVec.ofNat 64 (((List.range 64).filter fun i => a.getLsbD i).length)
/-- Byte k becomes byte 7 − k. -/
def aluBswap (a : Word) : Word := BitVec.ofNat 64 (leNat (toLe 8 a.toNat).reverse)
def aluSext (n : Nat) (a : Word) : Word := (a.setWidth n).signExtend 64

/-- R119: MOVK. -/
def insertHw (a : Word) (hw : BitVec 2) (imm : BitVec 16) : Word :=
  (a &&& ~~~((0xFFFF : Word) <<< (16 * hw.toNat))) ||| (imm.setWidth 64 <<< (16 * hw.toNat))

/-! ### Addresses -/

/-- R122: the target of a relative branch of the word at the PC. -/
def branchTarget (s : State) (off : BitVec 20) : Word := s.u.r.pc + imm64 off * 4

/-- R42: bytes of a size code. -/
def sizeOf (sz : BitVec 2) : Nat := 2 ^ sz.toNat

/-- R126: the address of an SM word with an offset scaled by n bytes. -/
def memAddr (s : State) (a : BitVec 6) (imm : BitVec 11) (n : Nat) : Word :=
  gOf s a + imm64 imm * BitVec.ofNat 64 n

/-- R129: the offset a pod pointer names, with a displacement modulo 2^56. -/
def podOffset (p d : Word) : BitVec 56 := (p + d).setWidth 56

/-- R129: the capability index of a pod pointer. -/
def podCap (p : Word) : Nat := p.toNat / 2 ^ 56

/-- The n registers named from t upward (R127). -/
def regRun (t : BitVec 6) (n : Nat) : List (BitVec 6) := (List.range n).map fun k => t + BitVec.ofNat 6 k

end Sys2Proof.Machine
end

