-- ==== Sys2Proof/Machine/Alu.lean ====
section
/-! DEFINITION. The ALU functions, the immediate operations, moves, compares and predicate words
(R117 to R121). -/

namespace Sys2Proof.Machine

abbrev Res := Host.Outcome State Fault Refusal

/-- A register operation (R117): G[rd] = f(G[ra], G[rb]). -/
def aluWord (f : Word → Word → Word) (d a b : BitVec 6) (s : State) : Res :=
  sqWord [a, b] (fun s => .done (writeG s d (f (gOf s a) (gOf s b)))) s

/-- A one-operand function (R117). -/
def aluUnary (f : Word → Word) (d a : BitVec 6) (s : State) : Res :=
  sqWord [a] (fun s => .done (writeG s d (f (gOf s a)))) s

/-- An immediate operation (R118): b = SignExt(imm13, 13). -/
def aluImm (f : Word → Word → Word) (d a : BitVec 6) (imm : BitVec 13) (s : State) : Res :=
  sqWord [a] (fun s => .done (writeG s d (f (gOf s a) (imm64 imm)))) s

/-- A predicate function (R121). -/
def predWord (f : Bool → Bool → Bool) (pd pa pb : BitVec 4) (s : State) : Res :=
  sqWord [] (fun s => .done (writeP s pd (f (pOf s pa) (pOf s pb)))) s

def execAdd (d a b : BitVec 6) (s : State) : Res := aluWord (· + ·) d a b s
def execSub (d a b : BitVec 6) (s : State) : Res := aluWord (· - ·) d a b s
def execMul (d a b : BitVec 6) (s : State) : Res := aluWord (· * ·) d a b s
def execMulhs (d a b : BitVec 6) (s : State) : Res := aluWord aluMulhs d a b s
def execMulhu (d a b : BitVec 6) (s : State) : Res := aluWord aluMulhu d a b s
def execDivs (d a b : BitVec 6) (s : State) : Res := aluWord aluDivs d a b s
def execDivu (d a b : BitVec 6) (s : State) : Res := aluWord aluDivu d a b s
def execRems (d a b : BitVec 6) (s : State) : Res := aluWord aluRems d a b s
def execRemu (d a b : BitVec 6) (s : State) : Res := aluWord aluRemu d a b s
def execAnd (d a b : BitVec 6) (s : State) : Res := aluWord (· &&& ·) d a b s
def execOr (d a b : BitVec 6) (s : State) : Res := aluWord (· ||| ·) d a b s
def execXor (d a b : BitVec 6) (s : State) : Res := aluWord (· ^^^ ·) d a b s
def execAndn (d a b : BitVec 6) (s : State) : Res := aluWord aluAndn d a b s
def execShl (d a b : BitVec 6) (s : State) : Res := aluWord aluShl d a b s
def execShr (d a b : BitVec 6) (s : State) : Res := aluWord aluShr d a b s
def execSar (d a b : BitVec 6) (s : State) : Res := aluWord aluSar d a b s
def execRol (d a b : BitVec 6) (s : State) : Res := aluWord aluRol d a b s
def execMins (d a b : BitVec 6) (s : State) : Res := aluWord aluMins d a b s
def execMinu (d a b : BitVec 6) (s : State) : Res := aluWord aluMinu d a b s
def execMaxs (d a b : BitVec 6) (s : State) : Res := aluWord aluMaxs d a b s
def execMaxu (d a b : BitVec 6) (s : State) : Res := aluWord aluMaxu d a b s
def execClz (d a : BitVec 6) (s : State) : Res := aluUnary aluClz d a s
def execCtz (d a : BitVec 6) (s : State) : Res := aluUnary aluCtz d a s
def execPopc (d a : BitVec 6) (s : State) : Res := aluUnary aluPopc d a s
def execBswap (d a : BitVec 6) (s : State) : Res := aluUnary aluBswap d a s
def execSextb (d a : BitVec 6) (s : State) : Res := aluUnary (aluSext 8) d a s
def execSexth (d a : BitVec 6) (s : State) : Res := aluUnary (aluSext 16) d a s
def execSextw (d a : BitVec 6) (s : State) : Res := aluUnary (aluSext 32) d a s

def execAddi (d a : BitVec 6) (imm : BitVec 13) (s : State) : Res := aluImm (· + ·) d a imm s
def execAndi (d a : BitVec 6) (imm : BitVec 13) (s : State) : Res := aluImm (· &&& ·) d a imm s
def execOri (d a : BitVec 6) (imm : BitVec 13) (s : State) : Res := aluImm (· ||| ·) d a imm s
def execXori (d a : BitVec 6) (imm : BitVec 13) (s : State) : Res := aluImm (· ^^^ ·) d a imm s
def execShli (d a : BitVec 6) (imm : BitVec 13) (s : State) : Res := aluImm aluShl d a imm s
def execShri (d a : BitVec 6) (imm : BitVec 13) (s : State) : Res := aluImm aluShr d a imm s
def execSari (d a : BitVec 6) (imm : BitVec 13) (s : State) : Res := aluImm aluSar d a imm s
def execMuli (d a : BitVec 6) (imm : BitVec 13) (s : State) : Res := aluImm (· * ·) d a imm s

/-- R119. -/
def execMovi (d : BitVec 6) (imm : BitVec 19) (s : State) : Res :=
  sqWord [] (fun s => .done (writeG s d (imm64 imm))) s

/-- R119: MOVK reads its destination as a source. -/
def execMovk (d : BitVec 6) (hw : BitVec 2) (imm : BitVec 16) (s : State) : Res :=
  sqWord [d] (fun s => .done (writeG s d (insertHw (gOf s d) hw imm))) s

/-- R120. -/
def execCmp (pd : BitVec 4) (a b : BitVec 6) (cc : Cond) (pa : BitVec 4) (s : State) : Res :=
  sqWord [a, b] (fun s => .done (writeP s pd (condHolds cc (gOf s a) (gOf s b) && pOf s pa))) s

/-- R120. -/
def execCmpi (pd : BitVec 4) (a : BitVec 6) (imm : BitVec 6) (cc : Cond) (pa : BitVec 4) (s : State) : Res :=
  sqWord [a] (fun s => .done (writeP s pd (condHolds cc (gOf s a) (imm64 imm) && pOf s pa))) s

def execPand (pd pa pb : BitVec 4) (s : State) : Res := predWord (· && ·) pd pa pb s
def execPor (pd pa pb : BitVec 4) (s : State) : Res := predWord (· || ·) pd pa pb s
def execPxor (pd pa pb : BitVec 4) (s : State) : Res := predWord (· != ·) pd pa pb s
def execPandn (pd pa pb : BitVec 4) (s : State) : Res := predWord (fun a b => a && !b) pd pa pb s
def execPmov (pd pa : BitVec 4) (s : State) : Res := predWord (fun a _ => a) pd pa 0 s
def execPnot (pd pa : BitVec 4) (s : State) : Res := predWord (fun a _ => !a) pd pa 0 s
def execPset (pd : BitVec 4) (s : State) : Res := predWord (fun _ _ => true) pd 0 0 s

end Sys2Proof.Machine
end

