-- ==== Sys2Proof/Machine/Aes.lean ====
section
/-! DEFINITION. AES-256 (FIPS 197) and the counter mode and hash of GCM (SP 800-38D) that a SEAL uses (R284).
Blocks are lists of 16 bytes; hash values are numbers, most significant byte first. -/

namespace Sys2Proof.Machine

/-- Multiplication by x in the field of AES. -/
def xtime (a : Byte) : Byte := (a <<< 1) ^^^ (if a.getLsbD 7 then 0x1B else 0)

/-- The product of two bytes in the field of AES, over the low n bits of the second. -/
def gfMul : Nat → Byte → Byte → Byte
  | 0, _, _ => 0
  | n + 1, a, b => (if b.getLsbD 0 then a else 0) ^^^ gfMul n (xtime a) (b >>> 1)

/-- The inverse in the field: a^254. -/
def gfInv (a : Byte) : Byte :=
  let m := gfMul 8
  let a2 := m a a
  let a3 := m a2 a
  let a6 := m a3 a3
  let a12 := m a6 a6
  let a15 := m a12 a3
  let a30 := m a15 a15
  let a60 := m a30 a30
  let a120 := m a60 a60
  let a126 := m a120 a6
  let a127 := m a126 a
  m a127 a127

/-- The substitution of AES. -/
def subByte (a : Byte) : Byte :=
  let b := gfInv a
  b ^^^ b.rotateLeft 1 ^^^ b.rotateLeft 2 ^^^ b.rotateLeft 3 ^^^ b.rotateLeft 4 ^^^ 0x63

/-- Bytes combined by exclusive or, position by position. -/
def xorBytes (a b : List Byte) : List Byte := a.zipWith (· ^^^ ·) b

/-- One word of the key schedule from the words so far, newest last. -/
def nextWord (ws : List (List Byte)) (i : Nat) (rcon : Byte) : List Byte :=
  let t := ws.getD (i - 1) []
  let t :=
    if i % 8 = 0 then xorBytes ((t.drop 1 ++ t.take 1).map subByte) [rcon, 0, 0, 0]
    else if i % 8 = 4 then t.map subByte else t
  xorBytes (ws.getD (i - 8) []) t

/-- The key schedule of AES-256: 60 words. -/
def keyWords : Nat → List (List Byte) → Byte → List (List Byte)
  | 0, ws, _ => ws
  | n + 1, ws, rcon =>
    let i := ws.length
    keyWords n (ws ++ [nextWord ws i rcon]) (if i % 8 = 0 then xtime rcon else rcon)

def words4 : Nat → List Byte → List (List Byte)
  | 0, _ => []
  | n + 1, b => b.take 4 :: words4 n (b.drop 4)

/-- The 15 round keys of a key of 32 bytes. -/
def roundKeys (key : List Byte) : List (List Byte) :=
  let ws := keyWords 52 (words4 8 key) 1
  (List.range 15).map fun r => (slice ws (4 * r) 4).flatten

/-- The rows of a state shifted, columns first. -/
def shiftRows (b : List Byte) : List Byte :=
  (List.range 16).map fun i => b.getD ((i + 4 * (i % 4)) % 16) 0

/-- One column mixed. -/
def mixColumn (c : List Byte) : List Byte :=
  (List.range 4).map fun i =>
    let g := fun k => c.getD ((i + k) % 4) 0
    xtime (g 0) ^^^ (xtime (g 1) ^^^ g 1) ^^^ g 2 ^^^ g 3

def mixColumns (b : List Byte) : List Byte := (List.range 4).flatMap fun c => mixColumn (slice b (4 * c) 4)

/-- A block under the round keys. -/
def aesBlock (rk : List (List Byte)) (b : List Byte) : List Byte :=
  let b := xorBytes b (rk.getD 0 [])
  let b := (List.range 13).foldl (fun b r => xorBytes (mixColumns (shiftRows (b.map subByte))) (rk.getD (r + 1) [])) b
  xorBytes (shiftRows (b.map subByte)) (rk.getD 14 [])

/-- A number of big-endian bytes, and back. -/
def beNat (b : List Byte) : Nat := leNat b.reverse
def toBe (n v : Nat) : List Byte := (toLe n v).reverse

/-- The product in the field of GHASH: bit 0 is the most significant. -/
def ghMul : Nat → Nat → Nat → Nat → Nat
  | 0, z, _, _ => z
  | n + 1, z, v, x =>
    let z := if bitAt x n then z ^^^ v else z
    ghMul n z (if v % 2 = 1 then v / 2 ^^^ 0xE1000000000000000000000000000000 else v / 2) x

/-- GHASH continued over bytes, the last block padded with zeros. -/
def ghash (h : Nat) : Nat → Nat → List Byte → Nat
  | 0, y, _ => y
  | n + 1, y, b => ghash h n (ghMul 128 0 h (y ^^^ beNat (padTo (b.take 16) 16 0))) (b.drop 16)

def ghashOf (h y : Nat) (b : List Byte) : Nat := ghash h ((b.length + 15) / 16) y b

/-- The hash key of a key. -/
def ghKey (rk : List (List Byte)) : Nat := beNat (aesBlock rk (List.replicate 16 0))

/-- The key stream block number n after the initial counter of an IV; number 0 masks the tag. -/
def streamBlock (rk : List (List Byte)) (iv : List Byte) (n : Nat) : List Byte := aesBlock rk (iv ++ toBe 4 (n + 1))

/-- Bytes under the key stream, from block number n on. -/
def ctrBytes (rk : List (List Byte)) (iv : List Byte) : Nat → Nat → List Byte → List Byte
  | 0, _, _ => []
  | f + 1, n, b => xorBytes (b.take 16) (streamBlock rk iv n) ++ ctrBytes rk iv f (n + 1) (b.drop 16)

/-- The tag of a message from its hash and lengths. -/
def gcmTag (rk : List (List Byte)) (iv : List Byte) (y aadLen len : Nat) : List Byte :=
  let y := ghMul 128 0 (ghKey rk) (y ^^^ (2 ^ 64 * (8 * aadLen) + 8 * len))
  xorBytes (toBe 16 y) (streamBlock rk iv 0)

end Sys2Proof.Machine
end

