-- ==== Sys2Proof/Machine/Hash.lean ====
section
/-! DEFINITION. The mixing functions and keys of R251 and R252, and the SHA-256 of FIPS 180-4 that the
manifest and the measurement registers hold (R444, R460). -/

namespace Sys2Proof.Machine

/-- Round of R252. -/
def mixRound (x : Word) : Word :=
  let x := x ^^^ (x >>> 29)
  let x := x * BitVec.ofNat 64 Config.mixC
  x ^^^ (x >>> 32)

/-- Mix of R252. -/
def mix (k : Word) : Word := mixRound (mixRound (mixRound k))

/-- Hash of R252. -/
def hash (k i j : Word) : Word := mix (k + i * BitVec.ofNat 64 Config.mixA + j * BitVec.ofNat 64 Config.mixB)

/-- The launch seed base SB (R251). -/
def seedBase (c : Csrs) : Word := (c.seedl &&& 0xFFFFFFFF) ||| (c.seedh <<< 32)

/-- The key of a seed under a scope (R251): 0 REG, 1 JOB, 2 LAUNCH, 3 UNIT. -/
def keyOf (seed : Word) (scope : Nat) (sb : Word) (idx : Nat) : Word :=
  let b := BitVec.ofNat 64 Config.mixB
  let k := seed
  let k := if scope = 0 then k else mix (k ^^^ ((sb &&& ~~~(0xFFFF : Word)) * b))
  let k := if scope < 2 then k else mix (k ^^^ ((sb &&& 0xFFFF) * b))
  if scope < 3 then k else mix (k ^^^ (BitVec.ofNat 64 idx * b))

/-- The unit key kU (R251). -/
def unitKey (u : Unit) : Word := keyOf 0 3 (seedBase u.c) u.id.idx

/-- R95: an initial generator state; zero is replaced by MIXA. -/
def srInit (x : Word) : Word := let y := mix x; if y = 0 then BitVec.ofNat 64 Config.mixA else y

/-! ### SHA-256 -/

/-- The greatest number below 2^b over a start whose k-th power is at most n, found bit by bit. -/
def rootBits (k n : Nat) : Nat → Nat → Nat
  | 0, x => x
  | b + 1, x => rootBits k n b (if (x + 2 ^ b) ^ k ≤ n then x + 2 ^ b else x)

/-- The first 32 bits of the fractional part of the k-th root of a number below 512. -/
def rootFraction (k p : Nat) : BitVec 32 := BitVec.ofNat 32 (rootBits k (p * 2 ^ (32 * k)) 41 0)

/-- The primes below 324, in order: those of 2 to 323 that no smaller number up to 17 divides. -/
def smallPrimes : List Nat :=
  (List.range 324).filter fun n => decide (2 ≤ n) && (List.range (min n 18)).all fun d => decide (d < 2) || n % d != 0

/-- The constants of the rounds: cube roots of the first 64 primes. -/
def shaK : List (BitVec 32) := (smallPrimes.take 64).map (rootFraction 3)

/-- The initial chaining value: square roots of the first 8 primes. -/
def shaInit : List (BitVec 32) := (smallPrimes.take 8).map (rootFraction 2)

/-- A big-endian 32-bit word of four bytes. -/
def be32 (b : List Byte) : BitVec 32 := BitVec.ofNat 32 (leNat (b.take 4).reverse)

/-- The exclusive or of a word rotated right by three amounts; the last may be a shift. -/
def sigma (p q r : Nat) (shift : Bool) (x : BitVec 32) : BitVec 32 :=
  x.rotateRight p ^^^ x.rotateRight q ^^^ (if shift then x >>> r else x.rotateRight r)

/-- The message schedule, newest word first, from the sixteen words of a block. -/
def shaSchedule : Nat → List (BitVec 32) → List (BitVec 32)
  | 0, w => w
  | n + 1, w =>
    shaSchedule n ((sigma 17 19 10 true (w.getD 1 0) + w.getD 6 0 + sigma 7 18 3 true (w.getD 14 0) + w.getD 15 0) :: w)

/-- One round of the compression, with its constant and schedule word added up. -/
def shaRound (v : List (BitVec 32)) (kw : BitVec 32) : List (BitVec 32) :=
  match v with
  | [a, b, c, d, e, f, g, h] =>
    let choice := g ^^^ (e &&& (f ^^^ g))
    let most := (a &&& (b ||| c)) ||| (b &&& c)
    let t := h + kw + choice + sigma 6 11 25 false e
    [t + most + sigma 2 13 22 false a, a, b, c, d + t, e, f, g]
  | _ => v

/-- The big-endian words of a block. -/
def words32 : Nat → List Byte → List (BitVec 32)
  | 0, _ => []
  | n + 1, b => be32 b :: words32 n (b.drop 4)

/-- The compression of a block. -/
def shaBlock (h : List (BitVec 32)) (b : List Byte) : List (BitVec 32) :=
  let w := (shaSchedule 48 (words32 16 b).reverse).reverse
  let r := (shaK.zip w).foldl (fun h kw => shaRound h (kw.1 + kw.2)) h
  h.zipWith (· + ·) r

/-- The compression of n blocks. -/
def shaBlocks : Nat → List (BitVec 32) → List Byte → List (BitVec 32)
  | 0, h, _ => h
  | n + 1, h, b => shaBlocks n (shaBlock h (b.take 64)) (b.drop 64)

/-- SHA-256 of a string of bytes (FIPS 180-4). -/
def sha256 (m : List Byte) : List Byte :=
  let z := (119 - m.length % 64) % 64
  let p := m ++ [0x80] ++ List.replicate z 0 ++ (toLe 8 (8 * m.length)).reverse
  (shaBlocks (p.length / 64) shaInit p).flatMap fun w => (toLe 4 w.toNat).reverse

end Sys2Proof.Machine
end

