-- ==== Sys2Proof/Machine/Memory.lean ====
section
/-! DEFINITION. Memory: the scratchpad (R164 to R167), translation in two stages (R342 to R353), access
counting and notifications (R357 to R359), held writes (R365), uncorrectable data (R433), the publish
region and its drain (R167 to R169, R374, R504), the snapshot of ordinary loads (R375, R376). -/

namespace Sys2Proof.Machine

/-! ### The scratchpad -/

/-- The bytes below the publish region (R167). -/
def usable (u : Unit) : Nat := (u.id.segs - u.id.pubseg) * Config.segBytes

/-- R165: the storage key of a logical scratch address on the unit's core. -/
def scrKey (u : Unit) (la : Nat) : Nat :=
  Config.scratchKey + coreOf u * 2 ^ 22 + u.id.segMap.getD (la / Config.segBytes) 0 * Config.segBytes +
    la % Config.segBytes

/-- n bytes at a logical scratch address. -/
def scrRead (m : Mem) (u : Unit) (la : Nat) : Nat → List Byte
  | 0 => []
  | n + 1 => memGet m (scrKey u la) :: scrRead m u (la + 1) n

/-- Bytes written at a logical scratch address, segment by segment. -/
def scrPutFrom (u : Unit) : Nat → Mem → Nat → List Byte → Mem
  | 0, m, _, _ => m
  | k + 1, m, la, bs =>
    let n := Config.segBytes - la % Config.segBytes
    if bs.isEmpty then m
    else scrPutFrom u k (memPut m (scrKey u la) (bs.take n)) (la + n) (bs.drop n)

def scrPut (m : Mem) (u : Unit) (la : Nat) (bs : List Byte) : Mem := scrPutFrom u 66 m la bs

def State.scrWrite (s : State) (uid la : Nat) (bs : List Byte) : State :=
  { s with mem := scrPut s.mem (s.unit uid) la bs }

/-- The granule of one of n bytes at a key holds an uncorrectable error (R433); it does so until its bytes are
written anew (DEDUCED, log 20). -/
def spoiledAt (s : State) (k n : Nat) : Bool :=
  s.spoiled.any fun g => decide (g.1 < k + n) && decide (k < g.1 + 64) && memRead s.mem g.1 64 == g.2

/-- An uncorrectable error appears in a granule of storage. -/
def spoil (s : State) (g : Nat) : State :=
  { s with spoiled := s.spoiled.filter (·.1 != granule g) ++ [(granule g, memRead s.mem (granule g) 64)] }

def scrSpoiled (s : State) (u : Unit) (la n : Nat) : Bool := spoiledAt s (scrKey u la) n

/-! ### Virtual addresses (R342) -/

/-- VA[63:54] all equal VA[53]. -/
def canonical (va : Word) : Bool :=
  let h := va.toNat / 2 ^ 53
  h == 0 || h == 2 ^ 11 - 1

/-- The heap triple a unit translates with (R344). -/
def heapOf (u : Unit) : HeapSpec := { base := u.c.heapb, limit := u.c.heapl, off := u.c.heapo }

/-- R345: whether a VA is a heap address. -/
def inHeap (h : HeapSpec) (va : Word) : Bool :=
  decide (h.base.toNat * 2 ^ 16 ≤ va.toNat) && decide (va.toNat < (h.base.toNat + h.limit.toNat) * 2 ^ 16)

/-- Where a translated address lies: storage of the package (HBM or host memory), or an offset at an
endpoint of another package (R352). -/
inductive Place where
  | mem (key : Nat)
  | pod (pkg vfn : Nat) (key : BitVec 32) (off : BitVec 56)
  deriving DecidableEq, Repr

/-- R352: the range an IPA matches, and the place it names. An HBM target must lie in a region of the
VF. -/
def placeOf (s : State) (vf ipa : Nat) : Option (RangeEntry × Place) :=
  match (s.vf vf).ranges.find? fun e =>
      e.limit != 0 && decide (e.base.toNat ≤ ipa) && decide (ipa < e.base.toNat + e.limit.toNat) &&
      (e.world == 1) == (s.vf vf).world with
  | none => none
  | some e =>
    let a := (ipa + e.offset.toNat) % 2 ^ 64
    if e.kind = 0 then
      if a < 2 ^ 39 && tfind s.regionVf (a / Config.regionBytes) == some vf then some (e, .mem a) else none
    else if e.kind = 1 then some (e, .mem (Config.hostKey + a))
    else some (e, .pod e.pkg.toNat e.vfn.toNat e.key (BitVec.ofNat 56 a))

/-- A page table leaf (R347): its entry, the IPA of the entry, and the bytes it maps. -/
structure Leaf where
  e : Nat
  key : Nat
  size : Nat
  deriving DecidableEq, Repr

/-- The leaf's entry lies at another package (R346, R352). -/
def farLeaf (l : Leaf) : Bool := decide (Config.farKey ≤ l.key)

/-- A walk read (R346): through the range table. An entry in a range of pod kind lies on another package and is read there
(R352). -/
def readEntry (s : State) (vf ipa : Nat) : Except Cause (Nat × Nat) :=
  match placeOf s vf ipa with
  | none => .error .stage2Miss
  | some (_, .mem k) => .ok (memNat s.mem k 8, k)
  | some (_, .pod pkg vfn key off) =>
    match s.walks.find? fun e => e.1 == (vf, ipa) with
    | some e => .ok (e.2.toNat, Config.farKey + ipa)
    | none => .error (.elsewhere { pkg, vfn, key, off, n := 8, walk := some (vf, ipa) })

/-- R347, R349: the form of a table entry. -/
def tableForm (e : Nat) : Bool := bits e 2 14 == 0 && bits e 48 16 == 0

/-- R347, R349: the form of a leaf at level 2 or 3. -/
def leafForm (e level : Nat) : Bool :=
  bits e 12 4 == 0 && decide (bits e 7 3 < 5) && (if level = 2 then bits e 10 2 == 2 else decide (bits e 10 2 < 2))

/-- The IPA of the next table, or the base of a leaf. -/
def entryIpa (e : Nat) : Nat := bits e 16 32 * 2 ^ 16

/-- A leaf of a level, when its form holds (R349). -/
def leafIf (ok : Bool) (e key size : Nat) : Except Cause Leaf :=
  if ok then .ok { e, key, size } else .error .pteForm

/-- R346 to R349: the walk at level 3. -/
def walk3 (s : State) (vf va next : Nat) : Except Cause Leaf :=
  match readEntry s vf (next + 8 * bits va 16 13) with
  | .error c => .error c
  | .ok (e, k) =>
    if !bitAt e 0 then .error .translation else leafIf (bitAt e 1 && leafForm e 3) e k (2 ^ 16)

/-- R346 to R349: the walk at level 2. -/
def walk2 (s : State) (vf va next : Nat) : Except Cause Leaf :=
  match readEntry s vf (next + 8 * bits va 29 13) with
  | .error c => .error c
  | .ok (e, k) =>
    if !bitAt e 0 then .error .translation
    else if bitAt e 1 then leafIf (leafForm e 2) e k (2 ^ 29)
    else if tableForm e then walk3 s vf va (entryIpa e) else .error .pteForm

/-- R346 to R349: the walk, level by level, with its causes in order. -/
def walk (s : State) (vf va : Nat) : Except Cause Leaf :=
  match readEntry s vf ((s.vf vf).root.toNat + 8 * bits va 42 12) with
  | .error c => .error c
  | .ok (e, _) =>
    if !bitAt e 0 then .error .translation
    else if !bitAt e 1 && tableForm e then walk2 s vf va (entryIpa e) else .error .pteForm

/-- The bytes of VA that a leaf maps, and those that a TLB entry of it covers: the run of its SIZE (R346, R348). -/
def leafSpan (e : Nat) : Nat := if bits e 10 2 = 2 then 2 ^ 29 else 2 ^ 16
def runSpan (e : Nat) : Nat := if bits e 10 2 = 2 then 2 ^ 30 else if bits e 10 2 = 1 then 2 ^ 21 else 2 ^ 16

/-- A leaf's entry for another place of its run, d leaves further: the OA rises with it (R348). -/
def runEntry (e : Nat) (d : Int) : Nat := uint ((e : Int) + d * leafSpan e) 64

/-- A TLB entry covers an address of a VF (R350). -/
def tlbCovers (t : TlbEntry) (vf va : Nat) : Bool :=
  let span := runSpan t.leaf.toNat
  t.vf == vf && va / span == t.vpn * 2 ^ 16 / span

/-- The leaf of an address as a TLB entry that covers it gives it: at the size that SIZE grants (R348, R350). -/
def tlbGives (t : TlbEntry) (va : Nat) : Leaf :=
  let e := t.leaf.toNat
  let d : Int := (va / leafSpan e : Nat) - (t.vpn * 2 ^ 16 / leafSpan e : Nat)
  { e := runEntry e d, key := ((t.leafKey : Int) + 8 * d).toNat, size := leafSpan e }

/-- R350: the leaf a TLB of the core or of its die holds for an address. -/
def tlbLeaf (s : State) (core vf va : Nat) : Option Leaf :=
  match (s.core core).l1.find? (tlbCovers · vf va) with
  | some t => some (tlbGives t va)
  | none => ((s.die (dieOf core)).tlb.find? (tlbCovers · vf va)).map (tlbGives · va)

/-- The number of leaves of a leaf's run, and the place of an address's leaf in it. -/
def runLen (e : Nat) : Nat := runSpan e / leafSpan e
def runPlace (e va : Nat) : Nat := va % runSpan e / leafSpan e

/-- R348: the leaves of the run agree: equal fields, CNT apart, with OA rising from an aligned IPA. -/
def runAgrees (s : State) (l : Leaf) (va : Nat) : Bool :=
  let i := runPlace l.e va
  let base := runEntry (l.e % 2 ^ 48) (-(i : Int))
  entryIpa base % runSpan l.e == 0 &&
  (farLeaf l || (List.range (runLen l.e)).all fun k => memNat s.mem (l.key - 8 * i + 8 * k) 8 % 2 ^ 48 == runEntry base k)

/-- R348: where the leaves of a run do not agree, any of them translates the address: which one is open (`Config.runPick`,
DESIGN CHOICE, log 85). The flags and the place of CNT stay those of the leaf that the walk reaches. -/
def runChoice (s : State) (l : Leaf) (va : Nat) : Leaf :=
  if bits l.e 10 2 = 0 || runAgrees s l va then l
  else
    let i := runPlace l.e va
    let k := Config.runPick (va / 2 ^ 16 + s.cycle) % runLen l.e
    let x := runEntry (memNat s.mem (l.key - 8 * i + 8 * k) 8) ((i : Int) - k)
    { l with e := l.e % 2 ^ 16 + entryIpa x + l.e / 2 ^ 48 * 2 ^ 48 }

/-- A translation: the place, the leaf's flags, the range's kind and path, the leaf entry, and whether
the address is a heap address. -/
structure Tr where
  place : Place
  res : Bool
  wr : Bool
  wb : Bool
  counted : Bool
  leafPath : Nat
  rangePath : Nat
  kind : Nat
  leaf : Option Leaf
  heap : Bool
  deriving DecidableEq, Repr

/-- The leaf of an address: from a TLB or by a walk. -/
def leafOf (s : State) (core vf va : Nat) : Except Cause Leaf :=
  match tlbLeaf s core vf va with
  | some l => .ok (runChoice s l va)
  | none => (walk s vf va).map fun l => runChoice s l va

/-- R353 up to STAGE2_MISS, without the first two checks. -/
def xlate (s : State) (core vf : Nat) (h : HeapSpec) (va : Word) : Except Cause Tr :=
  if inHeap h va then
    match placeOf s vf ((va.toNat + h.off.toNat * 2 ^ 16) % 2 ^ 48) with
    | none => .error .stage2Miss
    | some (r, p) => .ok
        { place := p, res := true, wr := true, wb := false, counted := false, leafPath := 0,
          rangePath := r.path.toNat, kind := r.kind.toNat, leaf := none, heap := true }
  else
    match leafOf s core vf va.toNat with
    | .error c => .error c
    | .ok l =>
      match placeOf s vf (entryIpa l.e + va.toNat % l.size) with
      | none => .error .stage2Miss
      | some (r, p) => .ok
          { place := p, res := bitAt l.e 2, wr := bitAt l.e 3, wb := bitAt l.e 4,
            counted := bitAt l.e 5 && (bitAt l.e 6 || r.kind != 0), leafPath := bits l.e 7 3,
            rangePath := r.path.toNat, kind := r.kind.toNat, leaf := some l, heap := false }

/-- What an access does, for the checks of R353. `add64` says that an atomic is a 64-bit ADD or CAS. -/
inductive Acc where
  | load
  | store
  | atomic (writes add64 : Bool)
  deriving DecidableEq, Repr

/-- R356: whether a path class carries an atomic. -/
def pathCarries (path : Nat) (add64 : Bool) : Bool :=
  if path < 2 then true else if path < 4 then add64 else false

/-- R356: whether the carried set of an address carries an atomic. -/
def carries (t : Tr) (add64 : Bool) : Bool :=
  (t.heap || pathCarries t.leafPath add64) && pathCarries t.rangePath add64

/-- The checks of R353 after STAGE2_MISS. -/
def checkAcc (t : Tr) : Acc → Except Cause Tr
  | .load => .ok t
  | .store =>
    if !t.wr then .error .writeProtect else if !t.res then .error .notResident else .ok t
  | .atomic w add64 =>
    if w && !t.wr then .error .writeProtect else if !t.res then .error .notResident
    else if !carries t add64 then .error .atomicPath else .ok t

/-- R33: an address of one of the unit's own code sections. -/
def inOwnCode (s : State) (u : Unit) (va : Word) : Bool :=
  let r := Config.poolKey + 512 * u.id.recNo
  let inSec := fun (o : Nat) => (o == 0 || memNat s.mem (r + o) 8 != 0) &&
    decide (memNat s.mem (r + o) 8 ≤ va.toNat) && decide (va.toNat < memNat s.mem (r + o) 8 + memNat s.mem (r + o + 8) 4)
  inSec 0 || inSec 16 || inSec 32

/-- Translate (R353) for an agent other than the SQ's window and aperture: NONCANONICAL, TRANSLATION at
or above COPYAP, the two stages, the access checks. -/
def translateIn (s : State) (core vf : Nat) (h : HeapSpec) (va : Word) (acc : Acc) : Except Cause Tr :=
  if !canonical va then .error .noncanonical
  else if Config.copyAp ≤ va.toNat then .error .translation
  else
    match xlate s core vf h va with
    | .error c => .error c
    | .ok t => checkAcc t acc

/-- Whether an access writes (R353). -/
def accWrites : Acc → Bool
  | .load => false
  | .store => true
  | .atomic w _ => w

/-- Translate in a unit's context and VF (R343); stores to its own code sections are refused (R33). -/
def translate (s : State) (uid : Nat) (va : Word) (acc : Acc) : Except Cause Tr :=
  let u := s.unit uid
  if !canonical va then .error .noncanonical
  else if Config.copyAp ≤ va.toNat then .error .translation
  else
    match xlate s (coreOf u) u.id.vf (heapOf u) va with
    | .error c => .error c
    | .ok t => if accWrites acc && inOwnCode s u va then .error .writeProtect else checkAcc t acc

/-! ### TLBs (R350) -/

def addTlb (cap : Nat) (l : List TlbEntry) (t : TlbEntry) : List TlbEntry :=
  if l.any (tlbCovers · t.vf (t.vpn * 2 ^ 16)) then l else (t :: l).take cap

/-- The leaf of a translation enters the TLBs of the core and its die. -/
def tlbFill (s : State) (core vf : Nat) (va : Word) (t : Tr) : State :=
  match t.leaf with
  | none => s
  | some l =>
    let e : TlbEntry := { vf, vpn := va.toNat / 2 ^ 16, leaf := BitVec.ofNat 64 (l.e % 2 ^ 48), leafKey := l.key }
    let c := s.core core
    let s := s.setCore core { c with l1 := addTlb 64 c.l1 e }
    let d := s.die (dieOf core)
    s.setDie (dieOf core) { d with tlb := addTlb 8192 d.tlb e }

/-- R350: every copy of an entry leaves every TLB of the package. -/
def shootdown (s : State) (leafKey : Nat) : State :=
  { s with
    cores := tmap (fun _ c => { c with l1 := c.l1.filter (·.leafKey != leafKey) }) s.cores
    dies := tmap (fun _ d => { d with tlb := d.tlb.filter (·.leafKey != leafKey) }) s.dies
    walks := [] }

/-! ### Notifications and counts (R357 to R359) -/

/-- R107, R359: NOTIFY in every unit of the VF. -/
def notifyUnits (s : State) (vf : Nat) : State :=
  { s with units := tmap (fun _ u =>
      if u.id.vf = vf && u.st != .done && u.st != .cancelled then setPend u 5 else u) s.units }

/-- R359: a notification is posted, or dropped when the queue is full. -/
def postNotif (s : State) (vf : Nat) (kind : BitVec 4) (page : BitVec 38) (cnt : Nat) : State :=
  let v := s.vf vf
  if 4096 ≤ v.nq.length then
    s.setVf vf { v with lost := if v.lost = 0xFFFF then v.lost else v.lost + 1 }
  else
    let n : Notif := { kind, page, cnt := BitVec.ofNat 16 cnt, lost := v.lost, seq := v.seq }
    let s' := s.setVf vf { v with nq := v.nq ++ [n], lost := 0, seq := v.seq + 1 }
    if v.nq.isEmpty then notifyUnits s' vf else s'

/-- R357, R358: n counted accesses of the page of an address. A leaf at another package is counted there, which is outside this
model (log 2). -/
def countAccess (s : State) (vf : Nat) (va : Word) (t : Tr) (n : Nat) : State :=
  match t.leaf, t.counted with
  | some l, true =>
    if farLeaf l then s else
    let c := memNat s.mem (l.key + 6) 2
    let c' := min 65535 (c + n)
    let s := { s with mem := memPut s.mem (l.key + 6) (toLe 2 c') }
    let th := (s.vf vf).thresh.toNat
    if c < th && th ≤ c' then postNotif s vf 1 (BitVec.ofNat 38 (va.toNat / l.size * l.size / 2 ^ 16)) th else s
  | _, _ => s

/-! ### Held writes (R365, R366) -/

/-- The die that migrates the page of an address, if one does. -/
def migrating (s : State) (vf : Nat) (va : Word) : Option Nat :=
  (s.dies.find? fun d => match d.2.migration with
    | some m => m.vf == vf && m.page == BitVec.ofNat 38 (va.toNat / 2 ^ 16)
    | none => false).map (·.1)

/-- The granule of a held operation, as an offset in the page. -/
def heldAt : HeldOp → Nat
  | .write off .. => granule off
  | .atomic off .. => granule off

/-- R366: a load of a granule that has held entries waits until the replay. -/
def loadBlocked (s : State) (vf : Nat) (va : Word) : Bool :=
  match migrating s vf va with
  | none => false
  | some d => match (s.die d).migration with
    | some m => m.held.any fun h => heldAt h == granule (va.toNat % 2 ^ 16)
    | none => false

/-- R365: an operation enters the hold queue of the owning die, of 64 entries; none when it is full. -/
def hold (s : State) (vf : Nat) (va : Word) (op : HeldOp) : Option State :=
  match migrating s vf va with
  | none => none
  | some d => match (s.die d).migration with
    | some m =>
      if 64 ≤ m.held.length then none
      else some (s.setDie d { s.die d with migration := some { m with held := m.held ++ [op] } })
    | none => none

/-- The pairs of a run of bytes whose mask bit is set, by offset from the first. -/
def maskedFrom : Nat → Nat → List Byte → List (Nat × Byte)
  | _, _, [] => []
  | i, mask, b :: bs => if bitAt mask i then (i, b) :: maskedFrom (i + 1) mask bs else maskedFrom (i + 1) mask bs

/-- Bytes written one by one at offsets from a key. -/
def putPairs (m : Mem) (k : Nat) : List (Nat × Byte) → Mem
  | [] => m
  | (o, b) :: ps => putPairs (memPut m (k + o) [b]) k ps

/-- A byte with some of its bits replaced. -/
def mixByte (old mask val : Byte) : Byte := (old &&& ~~~mask) ||| (val &&& mask)

/-- Two parts of one byte as one; a later one prevails. -/
def joinPart (l : List BytePart) (p : BytePart) : List BytePart :=
  match l with
  | [] => [p]
  | q :: qs =>
    if q.off = p.off then { off := q.off, mask := q.mask ||| p.mask, val := mixByte (q.val &&& q.mask) p.mask p.val } :: qs
    else q :: joinPart qs p

/-- The bytes that parts at offsets from a key leave in storage. -/
def putParts (m : Mem) (k : Nat) (ps : List BytePart) : Mem :=
  putPairs m k (ps.map fun p => (p.off, mixByte (memGet m (k + p.off)) p.mask p.val))

/-- The mask of the bytes that a run of parts touches. -/
def partsMask (ps : List BytePart) : BitVec 64 := BitVec.ofNat 64 (ps.foldl (fun n p => n ||| 2 ^ p.off) 0)

/-- A performed write of parts (by offset from the granule of the address) to storage, all at once, or into the hold
queue; none when the queue is full (R365). The place is storage of the package. -/
def writeParts (s : State) (vf : Nat) (va : Word) (t : Tr) (ps : List BytePart) : Option State :=
  let gva : Word := va &&& ~~~(63 : Word)
  match t.place with
  | .pod .. => some s
  | .mem k =>
    if t.wb then
      hold s vf va (.write (gva.toNat % 2 ^ 16) (partsMask ps) (ps.map fun p => (p.off, p.val))
        ((ps.filter fun p => p.mask != 0xFF).map fun p => (p.off, p.mask)))
    else some { s with mem := putParts s.mem (k - va.toNat % 64) ps }

/-- Whole bytes as parts. -/
def wholeParts (ps : List (Nat × Byte)) : List BytePart := ps.map fun p => { off := p.1, mask := 0xFF, val := p.2 }

/-- The same of whole bytes. -/
def writeGranule (s : State) (vf : Nat) (va : Word) (t : Tr) (ps : List (Nat × Byte)) : Option State :=
  writeParts s vf va t (wholeParts ps)

/-- A run of bytes within one granule. -/
def writeRun (s : State) (vf : Nat) (va : Word) (t : Tr) (bs : List Byte) : Option State :=
  writeGranule s vf va t ((List.range bs.length).zip bs |>.map fun p => (va.toNat % 64 + p.1, p.2))

/-! ### The publish region and the snapshot (R167 to R169, R374 to R376) -/

/-- R168: the entries a publish region holds. -/
def pubCapacity (u : Unit) : Nat := u.id.pubseg * Config.segBytes / 80

/-- A byte merged into an entry. -/
def mergeByte (e : PubEntry) (o : Nat) (b : Byte) : PubEntry :=
  { e with bmask := putBit e.bmask o true, data := tset e.data o b }

/-- A byte stored to the publish region: merged into the granule's entry or into a new last one. -/
def pubByte : List PubEntry → Word → Byte → List PubEntry
  | [], va, b => [mergeByte { gva := va &&& ~~~(63 : Word), bmask := 0, data := [] } (va.toNat % 64) b]
  | e :: es, va, b =>
    if e.gva = va &&& ~~~(63 : Word) then mergeByte e (va.toNat % 64) b :: es else e :: pubByte es va b

/-- R169: an ordinary store of bytes; none when the entries it needs exceed the space left. -/
def pubStore (u : Unit) (va : Word) (bs : List Byte) : Option Unit :=
  let es := ((List.range bs.length).zip bs).foldl (fun es p => pubByte es (va + BitVec.ofNat 64 p.1) p.2) u.m.pub
  if es.length ≤ pubCapacity u then some { u with m := { u.m with pub := es } } else none

/-- A byte of the unit's own pending store, if it has one (R125). -/
def pubGet (es : List PubEntry) (va : Word) : Option Byte :=
  match es.find? (fun e => e.gva == va &&& ~~~(63 : Word)) with
  | some e => if e.bmask.getLsbD (va.toNat % 64) then some (tget e.data (va.toNat % 64) 0) else none
  | none => none

/-- R125, R375: bytes of an ordinary load: the unit's own latest store, otherwise its snapshot. -/
def ordinaryBytes (u : Unit) (va : Word) (k : Nat) : Nat → List Byte
  | 0 => []
  | n + 1 => (pubGet u.m.pub va).getD (memGet u.m.snap k) :: ordinaryBytes u (va + 1) (k + 1) n

/-- R376: the snapshot is refreshed. -/
def refresh (s : State) (uid : Nat) : State := s.onUnit uid fun u => { u with m := { u.m with snap := s.mem } }

/-- R373: the unit's own performed bytes are seen by its later loads. -/
def seeOwn (s : State) (uid k n : Nat) : State :=
  s.onUnit uid fun u => { u with m := { u.m with snap := memPut u.m.snap k (memRead s.mem k n) } }

/-- What a drain comes to: complete, stopped at a failing entry with its cause and GVA (R504), or waiting
for a hold queue (R365) with the entries before performed. -/
inductive DrainRes where
  | ok (s : State)
  | fail (s : State) (c : Cause) (gva : Word)
  | wait (s : State)
  deriving DecidableEq, Repr

end Sys2Proof.Machine
end

