-- ==== Sys2Proof/Machine/Access.lean ====
section
/-! DEFINITION. The accesses of the sequencer that several words share: requests to other packages
(R129 to R131, R352, R406 to R408), atomic operations (R128, R377), loads and the publish drain
(R126, R374, R504). -/

namespace Sys2Proof.Machine

/-! ### Requests to other packages -/

/-- The ports of a route packed in nibbles (R406). -/
def packRoute : List Nat → Nat
  | [] => 0
  | p :: ps => p % 16 + 16 * packRoute ps

/-- The pod size (R390). -/
def podSize (s : State) : Nat := s.pod.dims.foldl (· * ·) 1

/-- R355: the path to an endpoint package leads through a scale-out port; to one in the pod it never does (DEDUCED, log 9). -/
def scaleOut (s : State) (pkg : Nat) : Bool := decide (podSize s ≤ pkg) && Config.scaleOutEndpoint pkg

/-- R407: the route a request to an offset of an endpoint package takes. -/
def routeFor (s : State) (pkg : Nat) (off : BitVec 56) : Option (List Nat) :=
  match s.pod.routes.find? fun r => r.dst == pkg && !r.routes.isEmpty with
  | none => none
  | some r =>
    let h := hash 0 (BitVec.ofNat 64 (off.toNat / 64)) (BitVec.ofNat 64 pkg)
    r.routes[h.toNat / 2 ^ 62 % r.routes.length]?

/-- R408: a packet enters the asynchronous buffer of a port of 256 packets; none when it is full. -/
def toPort (s : State) (port : Nat) (p : Pkt) : Option State :=
  let l := s.link port
  if 256 ≤ l.abuf.length then none else some (s.setLink port { l with abuf := l.abuf ++ [p] })

/-- The port a packet leaves by at this package (R406 HOP, ROUTE). -/
def outPort (p : Packet) : Nat := bits p.route.toNat (4 * p.hop.toNat) 4

/-- A request packet with its route. -/
def withRoute (p : Packet) (r : List Nat) : Packet :=
  { p with nhop := BitVec.ofNat 8 r.length, route := BitVec.ofNat 128 (packRoute r) }

/-- R415: a route crosses a port that the pending plan changes. -/
def crossesChange (s : State) (ps : List Nat) : Bool :=
  s.pod.holding && (match s.pod.plan with
    | some p => p.ports.any fun c => ps.contains c.port
    | none => false)

/-- R131, R417: an earlier request x of the same source to the same line keeps the request r back until it has ended: it
may yet be turned back, or be on its way on another route. -/
def lineBehind (x r : Remote) : Bool :=
  x.pkg == r.pkg && x.off.toNat / 64 == r.off.toNat / 64 && x.pkt.srcCh == r.pkt.srcCh && x.pkt.srcId == r.pkt.srcId

/-- R131, R417: such a request of the unit. -/
def lineWaits (s : State) (uid : Nat) (r : Remote) : Bool := (s.unit uid).m.remotes.any fun x => lineBehind x r

/-- A request enters the first port's buffer, or waits 256 cycles when that is full (R408). -/
def sendRemote (s : State) (uid : Nat) (r : Remote) : State :=
  let route := routeFor s r.pkg.toNat r.off
  let p := match route with
    | some ps => withRoute { r.pkt with tag := tagOf s r } ps
    | none => { r.pkt with tag := tagOf s r }
  let r := { r with tag := s.nextTag, pkt := p, cycles := 0 }
  let s := { s with nextTag := s.nextTag + 1 }
  let add := fun (s : State) (r : Remote) =>
    s.onUnit uid fun u => { u with m := { u.m with remotes := u.m.remotes ++ [r] } }
  let s := if crossesChange s (route.getD []) then add s { r with held := true }
    else if lineWaits s uid r then add s { r with resend := some 0 }
    else match toPort s (outPort p) { kind := r.kind, p := p } with
      | some s' => add s' { r with resend := none }
      | none => add s { r with resend := some 256 }
  count s uid 0x0701 1

/-- No remote access of the unit's SQ is outstanding (R383). -/
def remotesDone (u : Unit) : Bool := u.m.remotes.all fun r => r.agent != .sq

/-! ### Atomic operations -/

/-- The result of an atomic of n bytes (R128): aop codes of R46, 13 for the saturating INT64 add of
a deterministic FADD (R130), 14 and 15 for the FP32 minimum and maximum of a reduce (R302). b is the
operand, c the comparand of CAS. -/
def amoResult (aop n old b c : Nat) : Nat :=
  match aop with
  | 0 => old
  | 1 | 2 => b
  | 3 => if old = c then b else old
  | 4 => (old + b) % 2 ^ (8 * n)
  | 5 => old &&& b
  | 6 => old ||| b
  | 7 => old ^^^ b
  | 8 => if sint old (8 * n) ≤ sint b (8 * n) then old else b
  | 9 => min old b
  | 10 => if sint old (8 * n) ≤ sint b (8 * n) then b else old
  | 11 => max old b
  | 12 => rne32b (addV (toVal .fp32 old) (toVal .fp32 (b % 2 ^ 32)))
  | 14 => rne32b (minV (toVal .fp32 old) (toVal .fp32 (b % 2 ^ 32)))
  | 15 => rne32b (maxV (toVal .fp32 old) (toVal .fp32 (b % 2 ^ 32)))
  | _ => packInt .int64 (clampI (intRange .int64).1 (intRange .int64).2 (sint old 64 + sint b 64))

/-- R93, R128: the operand of a deterministic FADD: q = RoundTo(INT64, x × 2^k, RNE). -/
def fixOperand (c : Csrs) (b : Word) : Word :=
  let k := sint (tget c.fxscale c.fxsel.toNat 0).toNat 8
  BitVec.ofNat 64 (roundTo .int64 (mulV (toVal .fp32 (b.toNat % 2 ^ 32)) (powV k)) .rne true)

/-- The aop carried and the operand of an atomic under MODE.DET (R128, R130). -/
def amoOperand (c : Csrs) (aop : Nat) (b : Word) : Nat × Word :=
  if aop = 12 && c.det then (13, fixOperand c b) else (aop, b)

/-- The access size of an atomic (R128). -/
def amoSize (c : Csrs) (aop : Nat) : Nat := if aop = 12 && !c.det then 4 else 8

/-- Whether an aop is the 64-bit ADD or CAS of R356. -/
def isAdd64 (aop : Nat) : Bool := aop == 3 || aop == 4

/-- An atomic performed at a storage key: the old value and the storage after it (R128). -/
def amoAt (m : Mem) (key aop n b c : Nat) : Nat × Mem :=
  let old := memNat m key n
  let new := amoResult aop n old (b % 2 ^ (8 * n)) (c % 2 ^ (8 * n))
  (old, if new != old || aop = 1 || aop = 2 then memPut m key (toLe n new) else m)

/-! ### Loads -/

/-- R126: SetResflag. -/
def setResflag (s : State) (va : Word) : State :=
  let pg : BitVec 38 := BitVec.ofNat 38 (va.toNat / 2 ^ 16)
  s.onU fun u =>
    if !u.c.resNr then { u with c := { u.c with resNr := true, resPage := pg } }
    else if u.c.resPage != pg then { u with c := { u.c with resMulti := true } } else u

/-! ### Bytes at other packages (R352) -/

/-- The bytes of a place that a unit has been sent. -/
def farPiece (u : Unit) (p : FarPlace) : Option (List Byte) := (u.far.find? fun e => e.2.1 == p).map (·.2.2)

/-- n bytes at an offset of an endpoint, piece by piece of a power of two: those that have come, or what is wanting; an
endpoint without a route is unreachable (DEDUCED, log 84). -/
def farBytes (s : State) (u : Unit) (pkg vfn : Nat) (key : BitVec 32) : Nat → BitVec 56 → Nat → Except Cause (List Byte)
  | 0, _, _ => .ok []
  | f + 1, off, n =>
    if n = 0 then .ok []
    else
      let m := 2 ^ n.log2
      let p : FarPlace := { pkg, vfn, key, off, n := m, walk := none }
      match farPiece u p with
      | none => .error (if (routeFor s pkg off).isNone then .endpointUnreachable else .elsewhere p)
      | some bs =>
        match farBytes s u pkg vfn key f (off + BitVec.ofNat 56 m) (n - m) with
        | .error c => .error c
        | .ok r => .ok (bs ++ r)

/-- What an access of n bytes at a global or window address finds. -/
inductive Found where
  | bytes (b : List Byte) (s : State)
  | absent (s : State)
  | fault (c : Cause)
  | busy
  deriving DecidableEq, Repr

/-- The bytes of a load through a range of pod kind: the unit's own latest stores, the others from the endpoint (R125, R352). -/
def podBytes (s : State) (u : Unit) (va : Word) (n pkg vfn : Nat) (key : BitVec 32) (off : BitVec 56) :
    Except Cause (List Byte) :=
  let own := (List.range n).map fun i => pubGet u.m.pub (va + BitVec.ofNat 64 i)
  if own.all (·.isSome) then .ok (own.map (·.getD 0))
  else (farBytes s u pkg vfn key 7 off n).map fun bs => (own.zip bs).map fun p => p.1.getD p.2

/-- R124, R125, R126: n bytes for a scalar load below COPYAP or in the window. -/
def findLoad (s : State) (va : Word) (n : Nat) : Found :=
  let u := s.u
  if Config.win ≤ va.toNat then
    let la := va.toNat - Config.win
    if usable u < la + n then .fault .scratchBounds
    else if scrSpoiled s u la n then .fault .uncorrectable
    else .bytes (scrRead s.mem u la n) s
  else
    match translate s s.cur va .load with
    | .error c => .fault c
    | .ok t =>
      let seen := tlbFill (countAccess s u.id.vf va t 1) (coreOf u) u.id.vf va t
      if !t.res then .absent s
      else if t.wb && loadBlocked s u.id.vf va then .busy
      else match t.place with
        | .pod p v k o =>
          match podBytes s u va n p v k o with
          | .error c => .fault c
          | .ok bs => .bytes bs seen
        | .mem k => if spoiledAt s k n then .fault .uncorrectable else .bytes (ordinaryBytes u va k n) seen

/-! ### Engine accesses to global memory (R353, R379) -/

/-- A read of bytes of one granule by an engine of a unit: performed values (R379), zeros where the page
is not resident. -/
def engPiece (s : State) (uid : Nat) (va : Word) (n : Nat) : Except Cause (List Byte) :=
  match translate s uid va .load with
  | .error c => .error c
  | .ok t =>
    if !t.res then .ok (List.replicate n 0)
    else match t.place with
      | .pod p v k o => farBytes s (s.unit uid) p v k 7 o n
      | .mem k => if spoiledAt s k n then .error .uncorrectable else .ok (memRead s.mem k n)

/-- A read of n bytes, granule by granule; the first cause ends it, with the address it names. -/
def engRead (s : State) (uid : Nat) : Nat → Word → Nat → Except (Cause × Word) (List Byte)
  | 0, _, _ => .ok []
  | f + 1, va, n =>
    if n = 0 then .ok []
    else
      let m := min n (64 - va.toNat % 64)
      match engPiece s uid va m with
      | .error c => .error (c, va)
      | .ok bs =>
        match engRead s uid f (va + BitVec.ofNat 64 m) (n - m) with
        | .error e => .error e
        | .ok r => .ok (bs ++ r)

/-- The granules of a run of bytes. -/
def granules (va n : Nat) : Nat := (va + n + 63) / 64 - va / 64

/-- A read of n bytes in the context of a unit. -/
def readVa (s : State) (uid : Nat) (va : Word) (n : Nat) : Except (Cause × Word) (List Byte) :=
  engRead s uid (granules va.toNat n) va n

/-- Bytes of a global address read granule by granule, up to the first cause; a page that is
not resident is one (R279, R297). -/
def strictRead (s : State) (uid : Nat) : Nat → Word → Nat → List Byte × Option (Cause × Word)
  | 0, _, _ => ([], none)
  | f + 1, va, n =>
    if n = 0 then ([], none)
    else
      let m := min n (64 - va.toNat % 64)
      match translate s uid va .load with
      | .error c => ([], some (c, va))
      | .ok t =>
        if !t.res then ([], some (.notResident, va))
        else
          match engPiece s uid va m with
          | .error c => ([], some (c, va))
          | .ok bs =>
            let r := strictRead s uid f (va + BitVec.ofNat 64 m) (n - m)
            (bs ++ r.1, r.2)

/-- The accesses to a run of bytes are counted, 1 for each granule (R357), and their translations enter
the TLBs. -/
def countRun (s : State) (uid : Nat) : Nat → Word → Nat → State
  | 0, _, _ => s
  | f + 1, va, n =>
    if n = 0 then s
    else
      let m := min n (64 - va.toNat % 64)
      let s := match translate s uid va .load with
        | .ok t =>
          let u := s.unit uid
          if t.res then tlbFill (countAccess s u.id.vf va t 1) (coreOf u) u.id.vf va t else s
        | .error _ => s
      countRun s uid f (va + BitVec.ofNat 64 m) (n - m)

/-- R126: the acting unit's load at an address whose page is not resident. -/
def flagAbsent (s : State) (va : Word) : State :=
  match translate s s.cur va .load with
  | .ok t => if t.res then s else setResflag s va
  | .error _ => s

def countVa (s : State) (uid : Nat) (va : Word) (n : Nat) : State := countRun s uid (granules va.toNat n) va n

/-- What an engine write of bytes of one granule comes to: performed or held, a cause, or a wait for the
hold queue (R365). -/
inductive EngW where
  | ok (s : State)
  | fail (c : Cause)
  | wait
  deriving DecidableEq, Repr

/-- A write of bytes within one granule by an agent of a unit. -/
def engWrite (s : State) (uid : Nat) (a : Agent) (va : Word) (bs : List Byte) : EngW :=
  match translate s uid va .store with
  | .error c => .fail c
  | .ok t =>
    let u := s.unit uid
    match t.place with
    | .pod pkg v key off =>
      .ok (sendRemote s uid { requestOf s uid .write none pkg v key off bs.length 0
        (BitVec.ofNat 64 (2 ^ bs.length - 1)) bs none false with agent := a })
    | .mem _ =>
      match writeRun s u.id.vf va t bs with
      | some s' => .ok (tlbFill s' (coreOf u) u.id.vf va t)
      | none => .wait

/-- A write of a run of bytes, granule by granule; what was performed before a cause or a wait stands. -/
def engWriteAll (uid : Nat) (a : Agent) : Nat → State → Word → List Byte → State × Option (Option (Cause × Word))
  | 0, s, _, _ => (s, none)
  | f + 1, s, va, bs =>
    if bs.isEmpty then (s, none)
    else
      let m := 64 - va.toNat % 64
      match engWrite s uid a va (bs.take m) with
      | .ok s' => engWriteAll uid a f s' (va + BitVec.ofNat 64 m) (bs.drop m)
      | .fail c => (s, some (some (c, va)))
      | .wait => (s, some none)

/-! ### The drain of the publish region -/

/-- An entry performed at memory, or on its way to another package (R374, R504). -/
def drainEntry (s : State) (uid : Nat) (e : PubEntry) : DrainRes :=
  match translate s uid e.gva .store with
  | .error c => .fail s c e.gva
  | .ok t =>
    match t.place with
    | .mem k =>
      match writeGranule s (s.unit uid).id.vf e.gva t (e.data.map fun p => (p.1, p.2)) with
      | some s' => .ok (if t.wb then s' else seeOwn s' uid k 64)
      | none => .wait s
    | .pod pkg v key off =>
      .ok (sendRemote s uid (requestOf s uid .write none pkg v key off 64 0 e.bmask
        ((List.range 64).map fun i => tget e.data i 0) none false))

/-- The region's entries performed in order; each one performed leaves the region. -/
def drainList (uid : Nat) : List PubEntry → State → DrainRes
  | [], s => .ok s
  | e :: es, s =>
    match drainEntry s uid e with
    | .ok s' => drainList uid es (s'.onUnit uid fun u => { u with m := { u.m with pub := u.m.pub.drop 1 } })
    | r => r

/-- R374: a drain of the publish region of a unit. -/
def drain (s : State) (uid : Nat) : DrainRes := drainList uid (s.unit uid).m.pub s

/-- Scopes at which a drain waits for acknowledgements (R374). -/
def farScope (sc : Scope) : Bool := sc == .pod || sc == .system

/-- R372: whether SCOPEPOL denies a scope. -/
def scopeDenied (c : Csrs) (sc : Scope) : Bool :=
  match sc with
  | .pod => !c.scopepol.getLsbD 0
  | .system => !(c.scopepol.getLsbD 0 && c.scopepol.getLsbD 1)
  | _ => false

/-- R504: the failure of a drain is raised at the word whose drain it is; the entries performed stand. -/
def drainFault (s : State) (uid : Nat) (c : Cause) (gva : Word) : State :=
  raiseFault s uid { cause := c, agent := .sq, precise := false, addr := gva, detail := 0,
                     fpc := (s.unit uid).r.pc, corb := none }

/-- The publish drain that a word performs before its effect: the word waits, or faults as R504 says, or
goes on. -/
def afterDrain (s : State) (w : Wait) (k : State → State) : State :=
  match drain s s.cur with
  | .wait s' => s'.onU fun u => { u with wait := some w }
  | .fail s' c a => drainFault (s'.onU fun u => { u with wait := none }) s.cur c a
  | .ok s' => k s'

end Sys2Proof.Machine
end

