-- ==== Sys2Proof/Machine/Sys.lean ====
section
/-! DEFINITION. Words and events of the sequencer's own control: reserved words (R36 to R38), NOP, TRAP,
ERET, UIRET, WAITI, UIPOLL and the entry of a user interrupt (R135 to R139, R427 to R432). -/

namespace Sys2Proof.Machine

/-- A completed word whose boundary is an entry point of R135. -/
def asPoll (s : State) : State := s.onU fun u => { u with poll := true }

/-- Some source of user interrupts is pending and enabled. -/
def uiPending (u : Unit) : Bool := u.c.uipend &&& u.c.uimask != 0

/-- R139: the waits in which an interrupt is taken. WAITI completes first (R137). -/
def interruptible : Wait → Bool
  | .handle .. | .barGen .. | .lease .. | .counter .. | .tideAt .. | .stream .. | .mtok .. | .vtok ..
  | .ntset .. | .aeSpace .. | .veSpace .. | .meSpace .. | .copySpace .. | .crun .. | .allowance ..
  | .keyst .. | .pgreq .. => true
  | _ => false

/-- R135: a user interrupt may be taken at this boundary. -/
def uiTakeable (u : Unit) : Bool :=
  live u && !u.halted && uiPending u && !u.c.inui && u.r.clsCount == 0 && u.c.uihandler != 0 &&
  (!u.c.coursed || u.poll) &&
  (match u.wait with
   | none => true
   | some w => interruptible w)

/-- USER_INTERRUPT_ENTRY (R135). -/
def execUserInterruptEntry (s : State) : Res := happens (uiTakeable s.u) (s.onU takeUi) s

/-- A reserved scalar word: detected at decode, whatever a clause holds (R37, R114). -/
def reservedScalar (s : State) : State := if sqIdle s.u then s else sqFault .illegalOpcode 0 0 s

/-- ILL (R44). -/
def execIll (s : State) : Res := .next (reservedScalar s)

/-- R48. -/
def execNop (s : State) : Res := sqWord [] (fun s => .done s) s

/-- R431: USER_TRAP, with FPC the word after the TRAP. CLS stays as before the word (R114). -/
def userTrap (imm : BitVec 8) (s : State) : State :=
  raiseFault (count s s.cur 0x0102 1) s.cur
    { cause := .userTrap, agent := .sq, precise := true, addr := 0, detail := imm.toNat, fpc := s.u.r.pc + 4
      corb := none }

/-- R431. -/
def execTrap (imm : BitVec 8) (s : State) : Res := sqWord [] (fun s => .stop (userTrap imm s)) s

/-- R430, R432: the unit whose frame the management core is handling resumes, and the frame leaves the
queue. -/
def eretS (s : State) : State :=
  match s.firm.frames with
  | [] => s
  | uid :: rest => { s.onUnit uid resumeFrame with firm := { s.firm with frames := rest } }

/-- R432: PRIVILEGED at level U. -/
def execEret (s : State) : Res :=
  sqWord [] (fun s => if s.u.sup then .done (eretS s) else .trap .privileged 0 0) s

/-- R136, R428: the return of a handler. CLS counts down for a governed UIRET, before R428 restores it. -/
def uiret (s : State) : State :=
  let g := governed s
  count (s.onU fun u => returnUi { dropFar .sq u with wait := none, r := clsDown g u.r }) s.cur 0x0102 1

/-- R136. -/
def execUiret (s : State) : Res :=
  sqWord [] (fun s => if s.u.c.inui then .stop (uiret s) else .trap .uiretState 0 0) s

/-- R137: WAITI completes when a source is pending and enabled. -/
def tryWaiti (s : State) : SqRes := if uiPending s.u then .done (asPoll s) else .hold .waiti s

/-- R137. -/
def execWaiti (s : State) : Res := sqWord [] tryWaiti s

/-- WAITI_WAKE (R137). -/
def execWaitiWake (s : State) : Res :=
  happens (issuing s.u && s.u.wait == some .waiti && uiPending s.u) (finish s (tryWaiti s)) s

/-- R138: the boundary after it is an entry point. -/
def execUipoll (s : State) : Res := sqWord [] (fun s => .done (asPoll s)) s

end Sys2Proof.Machine
end

