-- ==== Sys2Proof/Machine/Course.lean ====
section
/-! DEFINITION. Course tables and the words of a course (R145, R151 to R153), and the entries that dispatch words take
from a course (R146). Course cycles and holds are in Holds.lean. -/

namespace Sys2Proof.Machine

/-- The n bytes of a field at offset o of a launch record of the pool (R316). -/
def recField (s : State) (i o n : Nat) : Nat := memNat s.mem (Config.poolKey + 512 * i + o) n

/-- R316: CTAB of the unit's record. -/
def courseTab (s : State) (u : Unit) : Word := BitVec.ofNat 64 (recField s u.id.recNo 64 8)

/-- The base and size in bytes of a code section of the unit's launch record (R316): scalar at 0, vector at 16, matrix
at 32. A vector or matrix section at 0 is none, of no bytes. -/
def sectionOf (s : State) (u : Unit) (o : Nat) : Nat × Nat :=
  let base := recField s u.id.recNo o 8
  (base, if o != 0 && base == 0 then 0 else recField s u.id.recNo (o + 8) 4)

/-- R34: the word of code at a storage key is no longer what it was when the launch became READY: what is fetched there is
unpredictable. -/
def codeChanged (s : State) (i k : Nat) : Bool :=
  match (s.recOf i).code with
  | some m => memNat m k 4 != memNat s.mem k 4
  | none => false

/-- The same at an address of the acting unit. -/
def codeChangedAt (s : State) (va : Word) : Bool :=
  match translate s s.cur va .load with
  | .ok t =>
    match t.place with
    | .mem k => codeChanged s s.u.id.recNo k
    | .pod .. => false
  | .error _ => false

/-- The words of a block of a section as they stand in memory; none for one that was changed under the launch (R34). A
page that is not resident is a cause (R353). -/
def blockWords (s : State) (o off n : Nat) : Except (Cause × Word) (List (Option Code)) :=
  let sec := sectionOf s s.u o
  let va := BitVec.ofNat 64 (sec.1 + 4 * off)
  match strictRead s s.cur (granules va.toNat (4 * n)) va (4 * n) with
  | (_, some e) => .error e
  | (bs, none) => .ok ((List.range n).map fun i =>
      if codeChangedAt s (va + BitVec.ofNat 64 (4 * i)) then none else some (BitVec.ofNat 32 (fieldAt bs (4 * i) 4)))

/-- The words that an engine fetches: a changed one is any word (R9, R34; DESIGN CHOICE, log 2). -/
def drawWords (s : State) : List (Option Code) → List Code × State
  | [] => ([], s)
  | w :: ws =>
    let p := match w with
      | some c => (c, s)
      | none => let q := freeVal s; (q.1.setWidth 32, q.2)
    let r := drawWords p.2 ws
    (p.1 :: r.1, r.2)

/-- A field of the unit's course table, read by the SQ: zeros and RESFLAG where its page is not resident, the access counted
(R126, R353, R357). -/
def courseRead (s : State) (off n : Nat) : Except (Cause × Word) (List Byte × State) :=
  let va := courseTab s s.u + BitVec.ofNat 64 off
  match readVa s s.cur va n with
  | .error e => .error e
  | .ok bs => .ok (bs, countVa (flagAbsent (flagAbsent s va) (va + BitVec.ofNat 64 (n - 1))) s.cur va 1)

/-- R331: the UNIT completion counter of the acting unit rises. -/
def unitCounts (s : State) : State := s.onU fun u => { u with m := { u.m with counter := u.m.counter + 1 } }

/-- An AE entry or activation of the unit is unfinished (R181). -/
def aeBusy (u : Unit) : Bool := !u.ae.queue.isEmpty || u.ae.s.any fun e => e.2.acts.any fun a => !a.finished

def veBusy (u : Unit) : Bool := !u.ve.queue.isEmpty || u.ve.run.isSome
def meBusy (u : Unit) : Bool := !u.me.queue.isEmpty || u.me.run.isSome

/-- Every entry queued on the engines of the unit has finished. -/
def enginesIdle (u : Unit) : Bool := !aeBusy u && !veBusy u && !meBusy u

/-- R146: the course entry that a dispatch word takes for an engine (0 AE, 1 VE, 2 ME): its due cycle, none
outside a course. -/
def courseTake (s : State) (eng : Nat) : Except (Cause × Word) (Option Nat × State) :=
  let c := s.u.course
  if !c.active then .ok (none, s)
  else if c.nent ≤ c.taken then .error (.courseTable, 0)
  else
    match courseRead s (c.entoff + 8 * c.taken) 8 with
    | .error e => .error e
    | .ok (bs, s) =>
      let due := fieldAt bs 0 4
      if bits (fieldAt bs 4 4) 0 2 != eng || fieldAt bs 4 4 / 4 != 0 || decide (due < tget c.lastDue eng 0) ||
          decide (due < c.cc.toNat + 4) then .error (.courseTable, 0)
      else
        .ok (some due, s.onU fun u =>
          { u with course := { u.course with taken := u.course.taken + 1,
                                             lastDue := tset u.course.lastDue eng due } })

/-- A dispatch word: it waits while the queue is full (R134), takes its course entry, appends. -/
def dispatch (s : State) (eng : Nat) (full : Bool) (w : Wait) (append : Option Nat → State → State) : SqRes :=
  if full then .hold w s
  else
    match courseTake s eng with
    | .error (c, a) => .trap c a 0
    | .ok (due, s') => .done (append due s')

/-! ### CSTART, CEND, CWAIT -/

/-- R151: the start, once tide time has come. -/
def tryStart (n : BitVec 12) (start slipmax nent entoff : Nat) (s : State) : SqRes :=
  if s.tide.toNat < start then .hold (.courseStart n start slipmax nent entoff) s
  else if !enginesIdle s.u then .trap .courseState 0 0
  else
    .done (s.onU fun u =>
      { u with course := { active := true, num := n, cc := 0, slip := 0, slipmax := BitVec.ofNat 32 slipmax,
                           nent := nent, entoff := entoff, taken := 0, lastDue := [] } })

/-- R145, R151: a course record, checked. -/
def courseRecord (s : State) (n : Nat) : Except (Cause × Word) ((Nat × Nat × Nat × Nat) × State) :=
  match courseRead s 0 4 with
  | .error e => .error e
  | .ok (h, s) =>
    if leNat h ≤ n then .error (.courseTable, 0)
    else
      match courseRead s (16 + 32 * n) 32 with
      | .error e => .error e
      | .ok (r, s) =>
        if fieldAt r 20 12 != 0 || decide (2 ^ 20 < fieldAt r 8 4) || fieldAt r 16 4 % 8 != 0 then
          .error (.courseTable, 0)
        else .ok ((fieldAt r 0 8, fieldAt r 8 4, fieldAt r 12 4, fieldAt r 16 4), s)

/-- R151. -/
def execCstart (a : BitVec 6) (s : State) : Res :=
  sqWord [a] (fun s =>
    let x := (gOf s a).toNat
    if !s.u.c.coursed || s.u.course.active then .trap .courseState 0 0
    else if 4096 ≤ x then .trap .courseTable 0 0
    else
      match courseRecord s x with
      | .error (c, va) => .trap c va 0
      | .ok ((tstart, nent, slipmax, entoff), s) =>
        tryStart (BitVec.ofNat 12 x) ((s.recOf s.u.id.recNo).tstart + tstart) slipmax nent entoff s) s

/-- R152: the end, once the entries taken have finished. -/
def tryEnd (s : State) : SqRes :=
  if !enginesIdle s.u then .hold .courseEnd s
  else .done (asPoll (s.onU fun u => { u with course := { u.course with active := false } }))

/-- R152. -/
def execCend (s : State) : Res :=
  sqWord [] (fun s =>
    if !s.u.course.active then .trap .courseState 0 0
    else if s.u.course.taken < s.u.course.nent then .trap .courseTable 0 0
    else tryEnd s) s

/-- R153. -/
def tryTide (v : Word) (s : State) : SqRes := if v.toNat ≤ s.tide.toNat then .done s else .hold (.tideAt v) s

/-- R153. -/
def execCwait (a : BitVec 6) (s : State) : Res :=
  sqWord [a] (fun s => if s.u.course.active then .trap .courseState 0 0 else tryTide (gOf s a) s) s

/-! ### Completions, holds and slip -/

/-- A wait of the acting unit's word comes to its end, if the word waits so and its condition holds; not in a hold cycle,
in which no word issues (R148). -/
def completes (s : State) (mine : Wait → Bool) (try_ : Wait → State → SqRes) : Res :=
  match s.u.wait with
  | none => .next s
  | some w => happens (issuing s.u && mine w) (finish s (try_ w s)) s

/-- COURSE_START (R151). -/
def execCourseStart (s : State) : Res :=
  completes s (fun w => match w with | .courseStart .. => true | _ => false)
    (fun w s => match w with
      | .courseStart n st sm ne eo => tryStart n st sm ne eo s
      | _ => .stop s)

/-- COURSE_END_COMPLETE (R152). -/
def execCourseEndComplete (s : State) : Res := completes s (· == .courseEnd) (fun _ s => tryEnd s)

/-- CWAIT_COMPLETE (R153). -/
def execCwaitComplete (s : State) : Res :=
  completes s (fun w => match w with | .tideAt _ => true | _ => false)
    (fun w s => match w with
      | .tideAt v => tryTide v s
      | _ => .stop s)

end Sys2Proof.Machine
end

