-- ==== Sys2Proof/Machine/Trace.lean ====
section
/-! DEFINITION. Trace records and their two copies (R457, R472, R475), and the bank-conflict matrix
(R471). -/

namespace Sys2Proof.Machine

/-- The policy entry of a class for counters (kind 0) or traces (kind 1) (R453, R456). -/
def policyEntry (v : Vf) (cls kind : Nat) : Option PolicyEntry :=
  match v.policy with
  | none => none
  | some p => p.entries.find? fun e => e.cls.toNat == cls && e.kind.toNat == kind

/-- The granularity code of a class; 0 without an entry (R456). -/
def policyGran (v : Vf) (cls kind : Nat) : Nat :=
  match policyEntry v cls kind with
  | some e => e.gran.toNat
  | none => 0

/-- A value of a list of (class, unit, value), 0 where none is listed. -/
def tripleGet (l : List (Nat × Nat × Nat)) (cls uid : Nat) : Nat :=
  match l.find? fun e => e.1 == cls && e.2.1 == uid with
  | some e => e.2.2
  | none => 0

/-- The list with that value replaced. -/
def triplePut (l : List (Nat × Nat × Nat)) (cls uid v : Nat) : List (Nat × Nat × Nat) :=
  (cls, uid, v) :: l.filter fun e => !(e.1 == cls && e.2.1 == uid)

/-- The WRITE index of a tenant ring (R475). -/
def ringIndex (v : Vf) (va : Word) (size : Nat) : Option Nat :=
  (v.rings.find? fun r => r.1 == va && r.2.1 == size).map (·.2.2)

/-- The rings with the WRITE index of one replaced. -/
def setRing (v : Vf) (va : Word) (size n : Nat) : Vf :=
  { v with rings := (va, size, n) :: v.rings.filter fun r => !(r.1 == va && r.2.1 == size) }

/-- R475: the record written at the WRITE index of the tenant ring, wrapping, and then the index. -/
def ringWrite (s : State) (uid : Nat) (sp : SessionSpec) (bs : List Byte) : State :=
  let vf := (s.unit uid).id.vf
  match ringIndex (s.vf vf) sp.ringVa sp.ringSize with
  | none => s
  | some w =>
    let cap := sp.ringSize - 64
    let at_ := w % cap
    let n := cap - at_
    let s := (engWriteAll uid .sq 40 s (sp.ringVa + BitVec.ofNat 64 (64 + at_)) (bs.take n)).1
    let s := (engWriteAll uid .sq 40 s (sp.ringVa + 64) (bs.drop n)).1
    let s := (engWriteAll uid .sq 2 s sp.ringVa (toLe 8 (w + bs.length))).1
    s.onVf vf fun v => setRing v sp.ringVa sp.ringSize (w + bs.length)

/-- R457, R475: the operator's copy of a record, no more often than the policy's period; `bs` takes the
number dropped since the last one delivered. -/
def operatorCopy (s : State) (uid cls : Nat) (bs : Nat → List Byte) : State :=
  let vf := (s.unit uid).id.vf
  let v' := s.vf vf
  match v'.session, policyEntry v' cls 1 with
  | some ses, some p =>
    if p.gran != 1 then s
    else
      let last := tripleGet ses.last cls uid
      let drop := tripleGet ses.dropped cls uid
      if last != 0 && s.tide.toNat < last + 1000 * p.minper.toNat then
        let more := v'.session.map fun x => { x with dropped := triplePut x.dropped cls uid (min 65535 (drop + 1)) }
        s.setVf vf { v' with session := more }
      else
        let next := v'.session.map fun x =>
          { x with last := triplePut x.last cls uid s.tide.toNat, dropped := triplePut x.dropped cls uid 0 }
        s.setVf vf { v' with trace := v'.trace ++ [{ vf := vf, uid := uid, bytes := bs drop }], session := next }
  | _, _ => s

/-- R475: the first 32 bytes of a record. -/
def traceHead (s : State) (uid event len flags dropped ord word : Nat) : List Byte :=
  let u := s.unit uid
  toLe 2 event ++ toLe 1 len ++ toLe 1 u.id.vf ++ toLe 1 (logicalOf s (coreOf u)) ++ toLe 1 flags ++ toLe 2 dropped ++
  toLe 8 s.tide.toNat ++ toLe 4 ord ++ toLe 4 word ++
  toLe 4 (if u.course.active then u.course.cc.toNat else 0) ++ toLe 4 u.course.slip.toNat

/-- QENTRY_RECORD (R475): an entry of an engine (0 AE, 1 VE, 2 ME) starts or finishes. -/
def traceEntry (s : State) (uid eng : Nat) (fin : Bool) (ord word : Nat) : State :=
  match (s.unit uid).sess with
  | none => s
  | some sp =>
    if !sp.qentry then s
    else
      let rec_ := fun d => traceHead s uid 0x1001 1 (eng + 4 * fin.toNat) d ord word
      count (operatorCopy (ringWrite s uid sp (rec_ 0)) uid 0x10 rec_) uid 0x1001 1

/-- The cells of the bank-conflict matrix (R471, R475). -/
def matrixBytes (c : Counters) : List Byte :=
  (List.range 512).flatMap fun k => toLe 2 (tget c.conflict k 0).toNat

/-- R472: the snapshot of a loop-buffer exit of the engines in a mask, after which the matrix is clear. -/
def bankSnap (s : State) (uid mask : Nat) : State :=
  match (s.unit uid).sess with
  | none => s
  | some sp =>
    if !sp.banksnap then s
    else
      let rec_ := fun d =>
        (traceHead s uid 0x1101 33 mask d 0 0).take 16 ++ List.replicate 16 0 ++ matrixBytes (s.unit uid).ctr
      let s := count (operatorCopy (ringWrite s uid sp (rec_ 0)) uid 0x11 rec_) uid 0x1101 1
      s.onUnit uid fun u => { u with ctr := { u.ctr with conflict := [] } }

/-- R471: a beat of a row has lost its bank in a cycle. -/
def conflictAt (s : State) (uid row bank : Nat) : State :=
  let k := 32 * (row % 16) + bank % 32
  let up := fun (m : Tab (BitVec 16)) => tset m k (BitVec.ofNat 16 (min 65535 ((tget m k 0).toNat + 1)))
  count (s.onUnit uid fun u => { u with ctr := { u.ctr with conflict := up u.ctr.conflict } }) uid 0x0201 1

end Sys2Proof.Machine
end

