-- ==== Sys2Proof/Machine/Events.lean ====
section
/-! DEFINITION. What firmware sends to the host: responses and events (R483, R484, R488). -/

namespace Sys2Proof.Machine

/-- A message of RoCEv2 on a queue pair (R479): a completion (0) with data, or an error (1). -/
def rdmaMessage (qp status : Nat) (bytes : List Byte) : HostMsg :=
  { qp := qp, opcode := 0, tag := 0, kind := 3, status := status, detail := 0, fields := [], bytes := bytes }

/-- An event on one device queue pair. -/
def eventMsg (qp : Nat) (opcode : BitVec 16) (fields : List Nat) : HostMsg :=
  { qp := qp, opcode := opcode, tag := 0, kind := 2, status := 0, detail := 0, fields := fields, bytes := [] }

/-- R488: an event about a VF: queue pair 1 when it is Secure, 9 when it is not. -/
def vfEvent (s : State) (vf : Nat) (opcode : BitVec 16) (fields : List Nat) : State :=
  { s with hostOut := s.hostOut ++ [eventMsg (if (s.vf vf).world then 1 else 9) opcode fields] }

/-- R488: an event about the device alone goes on both. -/
def deviceEvent (s : State) (opcode : BitVec 16) (fields : List Nat) : State :=
  { s with hostOut := s.hostOut ++ [eventMsg 1 opcode fields, eventMsg 9 opcode fields] }

/-- JOB_EVENT (R488): job, kind, and what the kind adds. -/
def jobEvent (s : State) (vf job kind : Nat) (more : List Nat) : State := vfEvent s vf 0x0103 ([job, kind] ++ more)

/-- A response to a command (R483). -/
def respond (s : State) (h : IsuneHdr) (status detail : Nat) (fields : List Nat) (bytes : List Byte) : State :=
  { s with hostOut := s.hostOut ++ [{ qp := h.qp.toNat, opcode := h.opcode, tag := h.tag, kind := 1, status := status,
                                      detail := detail, fields := fields, bytes := bytes }] }

end Sys2Proof.Machine
end

