-- ==== Sys2Proof/Machine/Leases.lean ====
section
/-! DEFINITION. Headroom, leases and their queue (R262 to R277, R449), and the bay emergencies (R263, R492,
R491). A corbel is named in a lease by 12 x bay + its number in the bay. -/

namespace Sys2Proof.Machine

/-! ### Bays and corbels -/

/-- R28: two corbels of each kind, kinds in order. -/
def corbelAt (b : Bay) (c : Nat) : Corbel := tget b.corbels c { blankCorbel with kind := BitVec.ofNat 3 (c / 2) }

def corbelOf (s : State) (g : Nat) : Corbel := corbelAt (s.bay (g / 12)) (g % 12)

def putCorbel (s : State) (g : Nat) (x : Corbel) : State :=
  let b := s.bay (g / 12)
  s.setBay (g / 12) { b with corbels := tset b.corbels (g % 12) x }

/-- R262: the cost of a kind. -/
def costOf (kind : BitVec 3) : Nat := if kind = 2 || kind = 5 then 2 else 1

/-- A corbel charged against the headroom (R262). -/
def powered (x : Corbel) : Bool := x.st == .waking || x.st == .awake

/-- The charges of a bay. -/
def chargesOf (b : Bay) : Nat :=
  ((List.range 12).map fun c => if powered (corbelAt b c) then costOf (corbelAt b c).kind else 0).foldl (· + ·) 0

/-- R262, R263: the headroom of a bay. -/
def headroom (b : Bay) : Nat := if b.thermal then 2 else 4

/-- A corbel of a kind that serves a world (R449). -/
def suits (b : Bay) (world : Bool) (kind : BitVec 3) (c : Nat) : Bool :=
  (corbelAt b c).kind == kind && (corbelAt b c).world == world

/-- R266, R264: the corbel a request may be granted: a WARM one before an OFF one, within the headroom. -/
def findCorbel (b : Bay) (world : Bool) (kind : BitVec 3) : Option Nat :=
  if b.power || decide (headroom b < chargesOf b + costOf kind) then none
  else
    match (List.range 12).find? fun c => suits b world kind c && (corbelAt b c).st == .warm with
    | some c => some c
    | none => (List.range 12).find? fun c => suits b world kind c && (corbelAt b c).st == .off

/-! ### Lease handles -/

def leaseOf (u : Unit) (l : Nat) : Lease := tget u.m.leases l blankLease
def setLease (u : Unit) (l : Nat) (x : Lease) : Unit := { u with m := { u.m with leases := tset u.m.leases l x } }
def onLease (s : State) (uid l : Nat) (f : Lease → Lease) : State :=
  s.onUnit uid fun u => setLease u l (f (leaseOf u l))

/-- Writes of a lease's commands to other packages that no reply has answered yet. -/
def writesOut (u : Unit) (l : Nat) : Bool := u.m.remotes.any fun r => r.agent == .corbel l && r.far.isNone

/-- The world of a unit's VF (R449). -/
def worldOf (s : State) (uid : Nat) : Bool := (s.vf (s.unit uid).id.vf).world

/-- R264, R266: a grant of corbel c of a bay. -/
def grantTo (s : State) (bayN c uid l : Nat) (prio : BitVec 2) : State :=
  let b := s.bay bayN
  let x := corbelAt b c
  let x' := { x with st := .waking, timer := if x.st = .warm then 60 else 1800, holder := some (uid, l), mem := .clear }
  let s := s.setBay bayN { b with corbels := tset b.corbels c x', grants := b.grants + 1 }
  onLease s uid l fun L => { L with st := .waking, leasePrio := prio, corbel := some (12 * bayN + c), granted := b.grants }

/-- Commands that end without a result: those on the lease when it ends, with their last status (R269, R273,
R274). -/
def dropCmds (st : BitVec 2) (L : Lease) : Lease :=
  if L.cmds.isEmpty then L
  else { L with cmds := [], running := false, ending := none, lastSt := st, done := L.done + BitVec.ofNat 8 L.cmds.length }

/-- A corbel leaves AWAKE or WAKING: its state is cleared, it is WARM for 65,536 cycles, or OFF (R264). -/
def freeCorbel (s : State) (g : Nat) (off : Bool) : State :=
  let x := corbelOf s g
  putCorbel s g (if off then { x with st := .off, timer := 0, holder := none, mem := .clear }
    else { x with st := .warm, timer := 65536, holder := none, mem := .clear })

/-- R269: the eviction of the lease that holds a corbel. -/
def evict (s : State) (g : Nat) (off : Bool) : State :=
  match (corbelOf s g).holder with
  | none => s
  | some (uid, l) =>
    let s := onLease s uid l fun L => { dropCmds 2 L with st := .evicted, corbel := none, lastSt := 2 }
    let s := s.onUnit uid fun u => setPend (dropFar (.corbel l) u) 4
    freeCorbel (count s uid 0x0502 1) g off

/-- R278, R280: the command at the head of a lease ends with a status. -/
def endCmd (s : State) (uid l : Nat) (st : BitVec 2) (result : Option (BitVec 32)) : State :=
  (onLease s uid l fun L => { L with cmds := L.cmds.drop 1, running := false, ending := none, lastSt := st, done := L.done + 1
                                     result := result.getD L.result }).onUnit uid
    fun u => setPend (dropFar (.corbel l) u) 1

/-- R280: what the frame records of a command that fails. -/
def cmdInfo (s : State) (uid l ord : Nat) (c : Cause) (addr : Word) : FaultInfo :=
  { cause := c, agent := .corbel l, precise := false, addr, detail := 0, fpc := (s.unit uid).r.pc, corb := some (l, ord) }

/-! ### The queue (R267) -/

/-- Whether a request stands before another: current priority, cycle of the request, and R270 within it. -/
def reqLt (s : State) (a b : LeaseReq) : Bool :=
  let k := fun (r : LeaseReq) => (((r.cur.toNat * 2 ^ 64 + r.ord) * 4 + r.prio.toNat) * 128 + coreOf (s.unit r.uid)) * 16 + r.l
  decide (k a < k b)

/-- The queue in its order. -/
def queueOrder (s : State) (n : Nat) : List LeaseReq := sortBy (reqLt s) (s.bay n).queue

/-- A request leaves a queue. -/
def dropReq (s : State) (n : Nat) (r : LeaseReq) : State :=
  let b := s.bay n
  s.setBay n { b with queue := b.queue.filter fun q => !(q.uid == r.uid && q.l == r.l) }

/-- R267: the head granted, when it is grantable. -/
def serveHead (s : State) (n : Nat) : Option State :=
  match queueOrder s n with
  | [] => none
  | r :: _ =>
    (findCorbel (s.bay n) (worldOf s r.uid) r.kind).map fun c =>
      (grantTo (dropReq s n r) n c r.uid r.l r.cur).onUnit r.uid fun u => setPend u 3

/-- R267: the bay re-examines its head, and the next after each grant. -/
def serveFor : Nat → State → Nat → State
  | 0, s, _ => s
  | f + 1, s, n =>
    match serveHead s n with
    | some s' => serveFor f s' n
    | none => s

def serve (s : State) (n : Nat) : State := serveFor 16 s n

/-- The order in which leases are evicted (R263): the numerically highest priority first, then the most
recent grant. -/
def victimLt (s : State) (a b : Nat) : Bool :=
  let L := fun g => match (corbelOf s g).holder with
    | some (uid, l) => leaseOf (s.unit uid) l
    | none => blankLease
  decide ((L b).leasePrio.toNat < (L a).leasePrio.toNat) ||
    ((L a).leasePrio == (L b).leasePrio && decide ((L b).granted < (L a).granted))

/-- The corbels of a bay that leases hold, in the order of eviction. -/
def victims (s : State) (n : Nat) : List Nat :=
  sortBy (victimLt s) (((List.range 12).map (12 * n + ·)).filter fun g => (corbelOf s g).holder.isSome && powered (corbelOf s g))

/-- R268, R271: a lease that a request of a priority may evict. -/
def evictable (s : State) (prio : BitVec 2) (g : Nat) : Bool :=
  match (corbelOf s g).holder with
  | none => false
  | some (uid, l) =>
    let u := s.unit uid
    let L := leaseOf u l
    u.st == .suspended || (decide (prio.toNat < L.leasePrio.toNat) && L.ev && (s.vf u.id.vf).scopepol.getLsbD 2)

/-- R268: victims taken until a request becomes grantable: the state and the corbel it takes, one of the
victims of its kind first. -/
def evictFor (s : State) (n : Nat) (world : Bool) (kind : BitVec 3) (gone : List Nat) : List Nat → Option (State × Nat)
  | [] => none
  | g :: gs =>
    let s := evict s g false
    let gone := gone ++ [g % 12]
    match findCorbel (s.bay n) world kind with
    | some c =>
      let mine := gone.find? fun x => suits (s.bay n) world kind x && (corbelAt (s.bay n) x).st == .warm
      some (s, mine.getD c)
    | none => evictFor s n world kind gone gs

/-- R266 to R268, R272, R449: a lease request of a unit; false when it is refused. -/
def request (s : State) (uid l : Nat) (kind : BitVec 3) (prio : BitVec 2) (ev : Bool) : State × Bool :=
  let n := bayOf (coreOf (s.unit uid))
  let w := worldOf s uid
  let b := s.bay n
  let r : LeaseReq := { uid, l, kind, prio, cur := prio, ev, age := 0, ord := s.cycle }
  let queued := (onLease (s.setBay n { b with queue := b.queue ++ [r] }) uid l fun L => { L with st := .queued }, true)
  let refused := (onLease s uid l fun L => { L with st := .free }, false)
  let wait := if b.queue.length < 16 then queued else refused
  if !((List.range 12).any (suits b w kind)) then refused
  else if b.queue.any fun q => decide (q.cur.toNat ≤ prio.toNat) then wait
  else
    match findCorbel b w kind with
    | some c => (grantTo s n c uid l prio, true)
    | none =>
      if b.power then wait
      else
        match evictFor s n w kind [] ((victims s n).filter (evictable s prio)) with
        | some (s', c) => (serve (grantTo s' n c uid l prio) n, true)
        | none => wait

/-! ### Release (R271, R273) -/

/-- The bay whose queue holds the request of a handle. -/
def queuedIn (s : State) (uid l : Nat) : Option (Nat × LeaseReq) :=
  s.bays.findSome? fun b => (b.2.queue.find? fun q => q.uid == uid && q.l == l).map fun r => (b.1, r)

/-- A QUEUED request withdrawn. -/
def withdraw (s : State) (uid l : Nat) : State :=
  let s := onLease s uid l fun L => { dropCmds 3 L with st := .free }
  match queuedIn s uid l with
  | some (n, r) => serve (dropReq s n r) n
  | none => s

/-- A WAKING or AWAKE lease ends: the corbel goes WARM, the handle FREE. -/
def release1 (s : State) (uid l : Nat) : State :=
  match (leaseOf (s.unit uid) l).corbel with
  | none => s
  | some g =>
    let s := (onLease s uid l fun L => { L with st := .free, corbel := none }).onUnit uid (dropFar (.corbel l))
    serve (freeCorbel s g false) (g / 12)

/-- R271: a handle of a unit that has ended is released, a running command aborted. -/
def endLease (uid : Nat) (s : State) (l : Nat) : State :=
  let L := leaseOf (s.unit uid) l
  match L.st with
  | .free => s
  | .evicted => onLease s uid l fun L => { L with st := .free }
  | .queued => withdraw s uid l
  | .waking | .awake => release1 (onLease s uid l (dropCmds (if L.running then 2 else 3))) uid l

def endLeases (s : State) (uid : Nat) : State := (List.range 16).foldl (endLease uid) s

/-! ### LEASE, LREL, LSTAT, LWAIT, CRUN -/

/-- R272. -/
def execLease (l pd : BitVec 4) (kind : BitVec 3) (prio : BitVec 2) (ev : Bool) (s : State) : Res :=
  sqWord [] (fun s =>
    let L := leaseOf s.u l.toNat
    if prio = 0 && !s.u.c.coursed then .trap .leasePrio 0 0
    else if L.st != .free && L.st != .evicted then .trap .leaseHandle 0 0
    else
      let s := onLease s s.cur l.toNat fun L =>
        { L with kind := kind, prio := prio, ev := ev, lastSt := 0, done := 0, ordNext := 0 }
      let r := request s s.cur l.toNat kind prio ev
      .done (writeP r.1 pd r.2)) s

/-- R273, R276: LREL while its lease may have a command running or writes on their way; a lease evicted meanwhile is FREE. -/
def tryLrel (l : Nat) (s : State) : SqRes :=
  let L := leaseOf s.u l
  if L.running || writesOut s.u l then .hold (.lrel l) s
  else .done (if L.st = .evicted then onLease s s.cur l fun L => { L with st := .free } else release1 s s.cur l)

/-- R273: the commands queued behind the running one are discarded. -/
def discardQueued (L : Lease) : Lease :=
  let keep := if L.running then 1 else 0
  let n := L.cmds.length - keep
  if n = 0 then L else { L with cmds := L.cmds.take keep, lastSt := 3, done := L.done + BitVec.ofNat 8 n }

/-- R273. -/
def execLrel (l : BitVec 4) (s : State) : Res :=
  sqWord [] (fun s =>
    match (leaseOf s.u l.toNat).st with
    | .free => .done s
    | .queued => .done (withdraw s s.cur l.toNat)
    | .evicted => .done (onLease s s.cur l.toNat fun L => { L with st := .free })
    | .waking | .awake => tryLrel l.toNat (onLease s s.cur l.toNat discardQueued)) s

/-- LREL_COMPLETE (R273). -/
def execLrelComplete (s : State) : Res :=
  completes s (fun w => match w with | .lrel _ => true | _ => false)
    (fun w s => match w with
      | .lrel l => tryLrel l s
      | _ => .stop s)

/-- R274: the priority LSTAT shows. -/
def leasePrioNow (s : State) (uid l : Nat) : BitVec 2 :=
  let L := leaseOf (s.unit uid) l
  match L.st with
  | .queued => match queuedIn s uid l with
    | some (_, r) => r.cur
    | none => L.prio
  | .waking | .awake => L.leasePrio
  | _ => L.prio

/-- The STATE code of R274. -/
def leaseCode : LState → Nat
  | .free => 0 | .queued => 1 | .waking => 2 | .awake => 3 | .evicted => 4

/-- R274. -/
def leaseStatus (s : State) (uid l : Nat) : Word :=
  let L := leaseOf (s.unit uid) l
  BitVec.ofNat 64 (leaseCode L.st + 8 * L.kind.toNat + 64 * (leasePrioNow s uid l).toNat + 256 * L.ev.toNat +
    4096 * min 8 L.cmds.length + 2 ^ 16 * L.lastSt.toNat + 2 ^ 24 * L.done.toNat + 2 ^ 32 * L.result.toNat)

/-- R274. -/
def execLstat (d : BitVec 6) (l : BitVec 4) (s : State) : Res :=
  sqWord [] (fun s => .done (writeG s d (leaseStatus s s.cur l.toNat))) s

/-- R275, R376: LWAIT completes with a refresh. -/
def tryLwait (l : Nat) (s : State) : SqRes :=
  let L := leaseOf s.u l
  let fin : SqRes := .done (refresh s s.cur)
  match L.st with
  | .free | .evicted => fin
  | .awake => if L.cmds.isEmpty then fin else .hold (.lease l) s
  | _ => .hold (.lease l) s

/-- R275. -/
def execLwait (l : BitVec 4) (s : State) : Res := sqWord [] (tryLwait l.toNat) s

/-- LWAIT_COMPLETE (R275). -/
def execLwaitComplete (s : State) : Res :=
  completes s (fun w => match w with | .lease _ => true | _ => false)
    (fun w s => match w with
      | .lease l => tryLwait l s
      | _ => .stop s)

/-- R277. -/
def tryCrun (l pd : Nat) (va : Word) (s : State) : SqRes :=
  let L := leaseOf s.u l
  let p := BitVec.ofNat 4 pd
  let la := va.toNat - Config.win
  if L.st = .free then .trap .leaseHandle 0 0
  else if L.st = .evicted then .done (writeP s p false)
  else if va.toNat < Config.win || va.toNat % 64 != 0 || decide (usable s.u < la + 64) then .trap .corbelBlock va 0
  else if 8 ≤ L.cmds.length then .hold (.crun l pd va) s
  else if scrSpoiled s s.u la 64 then .trap .uncorrectable va 0
  else
    let s' := onLease s s.cur l fun L =>
      { L with cmds := L.cmds ++ [{ blk := scrRead s.mem s.u la 64, ord := L.ordNext }], ordNext := L.ordNext + 1 }
    .done (writeP s' p true)

/-- R277. -/
def execCrun (a : BitVec 6) (pd n : BitVec 4) (s : State) : Res :=
  sqWord [a] (fun s => tryCrun n.toNat pd.toNat (gOf s a) s) s

/-- CRUN_APPEND (R277). -/
def execCrunAppend (s : State) : Res :=
  completes s (fun w => match w with | .crun .. => true | _ => false)
    (fun w s => match w with
      | .crun l pd va => tryCrun l pd va s
      | _ => .stop s)

/-! ### Events of the bay -/

/-- LEASE_QUEUE_GRANT (R267): the head of a bay's queue granted. -/
def execLeaseQueueGrant (bay : Nat) (s : State) : Res :=
  match serveHead s bay with
  | some s' => .next s'
  | none => .next s

/-- A request that has waited 2^20 cycles rises a level (R267). -/
def ageReq (r : LeaseReq) : LeaseReq :=
  if 2 ^ 20 ≤ r.age then
    { r with age := r.age - 2 ^ 20, cur := if r.cur.toNat ≤ 1 then r.cur else r.cur - 1 }
  else r

/-- LEASE_AGING (R267). -/
def execLeaseAging (bay : Nat) (s : State) : Res :=
  let b := s.bay bay
  happens (b.queue.any fun r => decide (2 ^ 20 ≤ r.age)) (serve (s.setBay bay { b with queue := b.queue.map ageReq }) bay) s

/-- CORBEL_WAKE_END (R264, R266). -/
def execCorbelWakeEnd (bay c : Nat) (s : State) : Res :=
  let g := 12 * bay + c % 12
  let x := corbelOf s g
  match x.holder with
  | none => .next s
  | some (uid, l) =>
    happens (x.st == .waking && x.timer == 0)
      (serve (onLease (putCorbel s g { x with st := .awake }) uid l fun L => { L with st := .awake }) bay) s

/-- CORBEL_WARM_TIMEOUT (R264). -/
def execCorbelWarmTimeout (bay c : Nat) (s : State) : Res :=
  let g := 12 * bay + c % 12
  let x := corbelOf s g
  happens (x.st == .warm && x.timer == 0) (putCorbel s g { x with st := .off }) s

/-! ### Emergencies (R263, R492) -/

/-- R264: an emergency turns the WARM corbels of a bay OFF. -/
def coolDown (s : State) (n : Nat) : State :=
  (List.range 12).foldl (fun s c =>
    if (corbelOf s (12 * n + c)).st == .warm then freeCorbel s (12 * n + c) true else s) s

/-- Leases evicted in order until the charges of a bay fit its headroom, or, in a power emergency, all of
them (R263). -/
def shed (s : State) (n : Nat) : List Nat → State
  | [] => s
  | g :: gs =>
    let b := s.bay n
    if b.power || decide (headroom b < chargesOf b) then shed (evict s g true) n gs else s

/-- The emergencies of a bay set to new values, with what each change does (R263). -/
def setEmergency (s : State) (n : Nat) (thermal power : Bool) : State :=
  let b := s.bay n
  let s := s.setBay n { b with thermal := thermal, power := power }
  let s := if (thermal && !b.thermal) || (power && !b.power) then shed (coolDown s n) n (victims s n) else s
  if b.thermal = thermal && b.power = power then s else serve s n

/-- R492: a bay's thermal emergency after a sample of its hotspot, in units of 0.5 °C. -/
def thermalNext (now : Bool) (t : Nat) : Bool := if 200 < t then true else if t < 190 then false else now

/-- The numbers of a list of truth values as a mask. -/
def maskList (l : List Bool) : Nat := ((List.range l.length).filter fun i => l.getD i false).foldl (fun m i => m + 2 ^ i) 0

/-- An EMERGENCY event for the bays that changed (R488). -/
def emergencyEvent (s : State) (kind : Nat) (old new : List Bool) : State :=
  let up := maskList (new.zipWith (fun a b => a && !b) old)
  let down := maskList (new.zipWith (fun a b => !a && b) old)
  let s := if up = 0 then s else deviceEvent s 0x0105 [up, kind, 1]
  if down = 0 then s else deviceEvent s 0x0105 [down, kind, 0]

/-- EMERGENCY_SAMPLE (R492, R493): the hotspot of each bay in 0.5 °C and the package power in W. A sample
stands for 10 µs; the power emergency clears after 1,000 of them below 95 % of the limit. -/
def execEmergencySample (temps : List (BitVec 16)) (power : BitVec 16) (s : State) : Res :=
  let bays := List.range 32
  let t := fun n => (temps.getD n 0).toNat
  let limit := min 2900 s.smb.pcap.toNat
  let oldT := bays.map fun n => (s.bay n).thermal
  let oldP := bays.map fun n => (s.bay n).power
  let wasP := oldP.any id
  let calm := if 100 * power.toNat < 95 * limit then s.firm.calm + 1 else 0
  let isP := if limit < power.toNat then true else if 1000 ≤ calm then false else wasP
  let newT := bays.map fun n => thermalNext ((s.bay n).thermal) (t n)
  let newP := bays.map fun _ => isP
  let dieTemp := fun d => (List.range 8).foldl (fun m b => max m (t (8 * d + b))) 0
  let s := { s with
    firm := { s.firm with calm := calm }
    smb := { s.smb with pwr := power, temps := (List.range 4).map fun d => (d, BitVec.ofNat 16 (dieTemp d)) } }
  let s := bays.foldl (fun s n => setEmergency s n (newT.getD n false) isP) s
  .next (emergencyEvent (emergencyEvent s 1 oldT newT) 2 oldP newP)

end Sys2Proof.Machine
end

