-- ==== Sys2Proof/Machine/Quant.lean ====
section
/-! DEFINITION. Quantisation of a block with its scale (R83, R84, R207), as VQNT, XP.TILE and the reducing
link words use it, and the tree of lanes of a reduction (R90). -/

namespace Sys2Proof.Machine

/-- The formats a block may be quantised to with a scale format (R207). -/
def quantGood (f : Fmt) (sfmt : Nat) : Bool :=
  match f with
  | .e4m3 | .e5m2 | .int8 => sfmt == 0
  | .e2m1 | .int4 => sfmt == 12
  | _ => false

/-- R84: an FP32 scale s = RNE32(a / M). -/
def fpScale (a : Val) (M : Nat) (ftz : Bool) : Nat :=
  match a with
  | .nan | .inf _ => nanOf .fp32
  | .fin _ m _ => if m = 0 then 0x3F800000 else flushBits .fp32 ftz (rne32b (divV a (ofInt M)))

/-- The scale of a block with largest magnitude a. -/
def quantScale (f : Fmt) (ftz : Bool) (a : Val) : Nat :=
  match f with
  | .e4m3 => fpScale a 448 ftz
  | .e5m2 => fpScale a 57344 ftz
  | .int8 => fpScale a 127 ftz
  | .e2m1 => coverScale a 6
  | _ => coverScale a 7

/-- A zero of the sign of x. -/
def zeroLike (f : Fmt) (x : Val) : Nat := if isFloat f then packFloat f (signV x) 0 0 else 0

/-- An element quantised under the scale of its block. -/
def quantElem (f : Fmt) (s : Nat) (mode : RMode) (x : Val) : Nat :=
  match f with
  | .e2m1 | .int4 => if s = 255 then nanOf f else roundTo f (mulV x (powV (127 - (s : Int)))) mode true
  | _ =>
    let sv := toVal .fp32 s
    if isNan sv then nanOf f
    else if s = 0 then zeroLike f x
    else roundTo f (rne32 (divV x sv)) mode true

/-- A block quantised: its scale and its elements; a masked element is none and becomes 0. -/
def quantBlock (f : Fmt) (ftz : Bool) (xs : List (Option Val × RMode)) : Nat × List Nat :=
  let s := quantScale f ftz (maxMag (xs.filterMap (·.1)))
  (s, xs.map fun x =>
    match x.1 with
    | none => 0
    | some v => quantElem f s x.2 v)

/-- Neighbours of a list combined in pairs. -/
def pairUp {α : Type} (comb : α → α → α) : List α → List α
  | x :: y :: r => comb x y :: pairUp comb r
  | l => l

/-- R90: 64 lanes combined in a tree of six stages. -/
def laneTree {α : Type} (comb : α → α → α) (l : List α) (d : α) : α :=
  ((List.range 6).foldl (fun l _ => pairUp comb l) l).headD d

end Sys2Proof.Machine
end

