-- ==== Sys2Proof/Machine/Corbels.lean ====
section
/-! DEFINITION. Corbel commands (R62, R278 to R286): one event per command takes it up, checks it and does its
work; CORBEL_COMMAND_END ends it. Also the reserved words of every code kind (R36 to R38). -/

namespace Sys2Proof.Machine

/-! ### Operand access (R279) -/

/-- n bytes of elements of e bytes at an address field: those below the first that fails, and its cause. -/
def corbGet (s : State) (uid : Nat) (va : Word) (n e : Nat) : List Byte × Option (Cause × Word) :=
  if va.toNat % e != 0 then ([], some (.dataMisaligned, va))
  else if Config.win ≤ va.toNat then
    let u := s.unit uid
    let la := va.toNat - Config.win
    let k := min n ((usable u - la) / e * e)
    if k != 0 && scrSpoiled s u la k then ([], some (.uncorrectable, va))
    else (scrRead s.mem u la k, if k < n then some (.scratchBounds, va + BitVec.ofNat 64 k) else none)
  else
    let r := strictRead s uid (granules va.toNat n) va n
    (r.1.take (r.1.length / e * e), r.2)

/-- R366: some granule of a run of bytes waits for held entries. -/
def corbBusy (s : State) (uid : Nat) (va : Word) (n : Nat) : Bool :=
  decide (va.toNat < Config.win) && (List.range (granules va.toNat n)).any fun k =>
    loadBlocked s (s.unit uid).id.vf (BitVec.ofNat 64 (granule va.toNat + 64 * k))

/-- A write of elements of e bytes at an address field by a corbel as an agent: the state with the bytes below the first that
fails, and its cause, or none and no cause when it must wait for a hold queue (R365). -/
def corbPut (s : State) (uid : Nat) (a : Agent) (va : Word) (bs : List Byte) (e : Nat) : State × Option (Option (Cause × Word)) :=
  if va.toNat % e != 0 then (s, some (some (.dataMisaligned, va)))
  else if bs.isEmpty then (s, none)
  else if Config.win ≤ va.toNat then
    let la := va.toNat - Config.win
    let k := min bs.length ((usable (s.unit uid) - la) / e * e)
    (s.scrWrite uid la (bs.take k), if k < bs.length then some (some (.scratchBounds, va + BitVec.ofNat 64 k)) else none)
  else
    let r := engWriteAll uid a (granules va.toNat bs.length) s va bs
    (countVa r.1 uid va bs.length, r.2)

/-! ### What a command comes to -/

/-- A write of a command: address, bytes, size of its elements. -/
structure CmdWrite where
  va : Word
  bs : List Byte
  e : Nat
  deriving DecidableEq, Repr

/-- The work of a command: it must wait, or it reads runs of bytes, writes, has an internal state and a result, and may end in
a cause after those writes. `drew` counts the free values it used. -/
structure CmdRes where
  busy : Bool
  reads : List (Word × Nat)
  writes : List CmdWrite
  mem : CorbelMem
  result : Nat
  fault : Option (Cause × Word)
  drew : Nat
  deriving DecidableEq, Repr

def cmdOk (m : CorbelMem) (ws : List CmdWrite) (result : Nat) : CmdRes :=
  { busy := false, reads := [], writes := ws, mem := m, result := result, fault := none, drew := 0 }
def cmdFault (m : CorbelMem) (ws : List CmdWrite) (c : Cause × Word) : CmdRes :=
  { busy := false, reads := [], writes := ws, mem := m, result := 0, fault := some c, drew := 0 }
def cmdBad (m : CorbelMem) (c : Cause) : CmdRes := cmdFault m [] (c, 0)
def cmdBusy (m : CorbelMem) : CmdRes := { cmdOk m [] 0 with busy := true }
/-- A result with the runs that the command has read: where, and how many bytes. -/
def having (rs : List (Word × Nat)) (r : CmdRes) : CmdRes := { r with reads := rs }
/-- A result that ends in a cause when there is one. -/
def cmdEnd (m m' : CorbelMem) (ws : List CmdWrite) (result : Nat) : Option (Cause × Word) → CmdRes
  | none => cmdOk m' ws result
  | some c => cmdFault m ws c

/-- The writes of a command in order. -/
def cmdWrites (uid : Nat) (a : Agent) : State → List CmdWrite → State × Option (Option (Cause × Word))
  | s, [] => (s, none)
  | s, w :: ws =>
    match corbPut s uid a w.va w.bs w.e with
    | (s', none) => cmdWrites uid a s' ws
    | r => r

/-- The command at the head of the lease that holds a corbel, not taken up yet: unit, handle, command. The writes of the
commands before it have been performed (R278). -/
def headCmd (s : State) (g : Nat) : Option (Nat × Nat × CorbelCmd) :=
  let x := corbelOf s g
  match x.holder with
  | none => none
  | some (uid, l) =>
    let L := leaseOf (s.unit uid) l
    match L.cmds with
    | [] => none
    | c :: _ =>
      if x.st == .awake && live (s.unit uid) && !L.running && !writesOut (s.unit uid) l then some (uid, l, c) else none

/-- R280: a command fails: it ends with ERROR, and the core stops; or it waits for bytes of another package (R352). -/
def cmdFails (s : State) (uid l ord : Nat) (c : Cause × Word) : State :=
  match c.1 with
  | .elsewhere p => awaitFar s uid (.corbel l) p
  | _ =>
    raiseFault (endCmd s uid l 1 none) uid (cmdInfo s uid l ord c.1 c.2)

/-- The cause says that bytes of another package are wanting. -/
def wanting (c : Cause) : Bool := match c with | .elsewhere _ => true | _ => false

/-- R284: the bytes below a that an SL.DEC wrote to OUT before it failed belong to its message. -/
def partDec (blk : List Byte) (m : CorbelMem) (a : Word) : CorbelMem :=
  let dst := BitVec.ofNat 64 (fieldAt blk 16 8)
  match m with
  | .sealed key (some msg) => if fieldAt blk 0 1 = 0x43 then .sealed key (some { msg with areas := msg.areas ++ [(dst, (a - dst).toNat)] }) else m
  | _ => m

/-- R279: every byte outside the named runs (first, last) is zero. -/
def zeroElse (blk : List Byte) (named : List (Nat × Nat)) : Bool :=
  (List.range 64).all fun i => i == 0 || named.any (fun r => decide (r.1 ≤ i) && decide (i ≤ r.2)) || blk.getD i 0 == 0

/-- An event of a command with a code: it takes the head command up (R280), does its work and leaves its end
to CORBEL_COMMAND_END. -/
def corbelRow (code : Nat) (named : List (Nat × Nat)) (f : State → Nat → CorbelMem → List Byte → CmdRes)
    (bay c : Nat) (s : State) : State :=
  let g := 12 * bay + c % 12
  let x := corbelOf s g
  match headCmd s g with
  | none => s
  | some (uid, l, cmd) =>
    if fieldAt cmd.blk 0 1 != code then s
    else if code / 16 != x.kind.toNat + 1 || !zeroElse cmd.blk named then cmdFails s uid l cmd.ord (.illegalOpcode, 0)
    else
      let r := f s uid x.mem cmd.blk
      let fails := fun (s : State) (m : CorbelMem) e => cmdFails (putCorbel s g { corbelOf s g with mem := m }) uid l cmd.ord e
      if r.busy then s
      else if r.fault.any fun e => wanting e.1 then cmdFails s uid l cmd.ord (r.fault.getD (.corbelData, 0))
      else
        let s0 := r.reads.foldl (fun s q => countVa s uid q.1 q.2) s
        match cmdWrites uid (.corbel l) s0 r.writes with
        | (_, some none) => s
        | (s', some (some e)) => if wanting e.1 then cmdFails s uid l cmd.ord e else fails s' (partDec cmd.blk x.mem e.2) e
        | (s', none) =>
          match r.fault with
          | some e => fails { s' with free := s'.free + r.drew } r.mem e
          | none =>
            onLease { putCorbel s' g { corbelOf s' g with mem := r.mem } with free := s'.free + r.drew } uid l fun L =>
              { L with running := true, ending := some (0, BitVec.ofNat 32 r.result) }

/-- CORBEL_COMMAND_END (R278, R280): the running command of a corbel ends, its writes performed. -/
def execCorbelCommandEnd (bay c : Nat) (s : State) : Res :=
  match (corbelOf s (12 * bay + c % 12)).holder with
  | none => .next s
  | some (uid, l) =>
    let u := s.unit uid
    let L := leaseOf u l
    match L.ending with
    | none => .next s
    | some (st, res) =>
      happens (L.running && (live u || u.st == .suspended) && !writesOut u l) (endCmd s uid l st (some res)) s

def fieldW (blk : List Byte) (o : Nat) : Word := BitVec.ofNat 64 (fieldAt blk o 8)

/-- The elements of e bytes of a run of bytes, as unsigned numbers. -/
def elems (e : Nat) (bs : List Byte) : List Nat := (List.range (bs.length / e)).map fun i => fieldAt bs (e * i) e

/-- N lies in 1 to 2^20. -/
def badCount (n : Nat) : Bool := n == 0 || decide (2 ^ 20 < n)

/-! ### TOPK (R281) -/

/-- The place of a value in the total order: NaN highest, −0 below +0. -/
def tkKey (fmt : Fmt) (b : Nat) : Int :=
  if isFloat fmt then
    let w := fmtBits fmt - 1
    if isNan (toVal fmt b) then 2 ^ 64 else if bitAt b w then -1 - (b % 2 ^ w : Nat) else (b % 2 ^ w : Nat)
  else sint b 32

/-- Whether one candidate (bits, index) ranks before another. -/
def tkBefore (order : Nat) (fmt : Fmt) (a b : Word × Word) : Bool :=
  let x := tkKey fmt a.1.toNat
  let y := tkKey fmt b.1.toNat
  if x = y then decide (a.2.toNat < b.2.toNat) else if order = 0 then decide (y < x) else decide (x < y)

def tkFmt (f : Nat) : Fmt := (fmtOf f).getD .fp32

/-- TK.INIT. -/
def tkInit (_s : State) (_uid : Nat) (m : CorbelMem) (blk : List Byte) : CmdRes :=
  let k := fieldAt blk 8 2
  let order := fieldAt blk 10 1
  let fmt := fieldAt blk 11 1
  if k = 0 || decide (1024 < k) || decide (1 < order) || !([0, 1, 2, 10].contains fmt) then cmdBad m .corbelField
  else cmdOk (.topk k order fmt 0 []) [] 0

/-- TK.FEED. -/
def tkFeed (s : State) (uid : Nat) (m : CorbelMem) (blk : List Byte) : CmdRes :=
  let n := fieldAt blk 24 4
  if badCount n then cmdBad m .corbelField
  else
    match m with
    | .topk k order fmt fed cands =>
      let f := tkFmt fmt
      let e := fmtBits f / 8
      let va := fieldW blk 8
      if corbBusy s uid va (n * e) then cmdBusy m
      else
        let r := corbGet s uid va (n * e) e
        match r.2 with
        | some c => having [(va, r.1.length)] (cmdFault m [] c)
        | none =>
          let xs := elems e r.1
          let new := (List.range xs.length).zip xs |>.foldl
            (fun cs x => (insertBy (tkBefore order f) (BitVec.ofNat 64 x.2, fieldW blk 16 + BitVec.ofNat 64 x.1) cs).take k) cands
          having [(va, n * e)] (cmdOk (.topk k order fmt (fed + n) new) [] 0)
    | _ => cmdBad m .corbelState

/-- TK.EMIT. -/
def tkEmit (_s : State) (_uid : Nat) (m : CorbelMem) (blk : List Byte) : CmdRes :=
  match m with
  | .topk _ _ fmt _ cands =>
    let e := fmtBits (tkFmt fmt) / 8
    if (fieldW blk 8).toNat % e != 0 then cmdFault m [] (.dataMisaligned, fieldW blk 8)
    else if (fieldW blk 16).toNat % 8 != 0 then cmdFault m [] (.dataMisaligned, fieldW blk 16)
    else
      cmdOk m [{ va := fieldW blk 8, bs := cands.flatMap fun c => toLe e c.1.toNat, e := e },
               { va := fieldW blk 16, bs := cands.flatMap fun c => toLe 8 c.2.toNat, e := 8 }] cands.length
  | _ => cmdBad m .corbelState

/-- A candidate's weight: its value, or +0 where it is negative, −0 or NaN. -/
def tkWeight (f : Fmt) (b : Nat) : Val := let x := toVal f b; if isNan x || signV x then zeroV false else x

/-- The first position whose running sum exceeds a bound. -/
def tkPick (bound : Val) : Val → Nat → List Val → Option Nat
  | _, _, [] => none
  | run, i, w :: ws => let r := rne32 (addV run w); if ltV bound r then some i else tkPick bound r (i + 1) ws

/-- TK.SAMPLE. -/
def tkSample (_s : State) (_uid : Nat) (m : CorbelMem) (blk : List Byte) : CmdRes :=
  match m with
  | .topk _ _ fmt _ cands =>
    if fmt = 10 || cands.isEmpty then cmdBad m .corbelState
    else
      let ws := cands.map fun c => tkWeight (tkFmt fmt) c.1.toNat
      let total := ws.foldl (fun t w => rne32 (addV t w)) (zeroV false)
      let h := bits (hash (fieldW blk 16) (fieldW blk 24) 0).toNat 40 24
      let bound := rne32 (mulV (.fin false h (-24)) total)
      let pick := if eqV total (zeroV false) then 0 else (tkPick bound (zeroV false) 0 ws).getD 0
      cmdOk m [{ va := fieldW blk 8, bs := toLe 8 (cands.getD pick (0, 0)).2.toNat, e := 8 }] pick
  | _ => cmdBad m .corbelState

/-- TK.RESET. -/
def tkReset (_s : State) (_uid : Nat) (_m : CorbelMem) (_blk : List Byte) : CmdRes := cmdOk .clear [] 0

/-- TK_INIT (R281). -/
def execTkInit (bay c : Nat) (s : State) : Res := .next (corbelRow 0x10 [(8, 11)] tkInit bay c s)
/-- TK_FEED (R281). -/
def execTkFeed (bay c : Nat) (s : State) : Res := .next (corbelRow 0x11 [(8, 27)] tkFeed bay c s)
/-- TK_EMIT (R281). -/
def execTkEmit (bay c : Nat) (s : State) : Res := .next (corbelRow 0x12 [(8, 23)] tkEmit bay c s)
/-- TK_SAMPLE (R281). -/
def execTkSample (bay c : Nat) (s : State) : Res := .next (corbelRow 0x13 [(8, 31)] tkSample bay c s)
/-- TK_RESET (R281). -/
def execTkReset (bay c : Nat) (s : State) : Res := .next (corbelRow 0x14 [] tkReset bay c s)

/-! ### XPOSE (R282) -/

/-- A format with a scale per 32 elements, and one with a scale per row. -/
def xpBlocked (f : Nat) : Bool := f == 5 || f == 8

/-- Bytes of n elements of a format, a last nibble counting as a byte. -/
def rowSize (f : Fmt) (n : Nat) : Nat := (n * fmtBits f + 7) / 8

/-- XP.CONF. -/
def xpConf (_s : State) (_uid : Nat) (m : CorbelMem) (blk : List Byte) : CmdRes :=
  let ifmt := fieldAt blk 8 1
  let ofmt := fieldAt blk 9 1
  let rows := fieldAt blk 12 2
  let cols := fieldAt blk 14 2
  let dim := fun n => n = 0 || decide (256 < n)
  if decide (9 < ifmt) || decide (9 < ofmt) || decide (1 < fieldAt blk 10 1) || decide (1 < fieldAt blk 11 1) || dim rows ||
      dim cols || (xpBlocked ofmt && rows % 32 != 0) || (xpBlocked ifmt && cols % 32 != 0) ||
      decide (fieldAt blk 16 4 < rowSize (tkFmt ifmt) cols) || decide (fieldAt blk 20 4 < rowSize (tkFmt ofmt) rows) then
    cmdBad m .corbelField
  else cmdOk (.xpose blk) [] 0

/-- The elements of a row of a format from its bytes; 4-bit elements low nibble first (R75). -/
def unpack (f : Fmt) (bs : List Byte) : List Nat :=
  if fmtBits f = 4 then bs.flatMap fun b => [b.toNat % 16, b.toNat / 16] else elems (fmtBits f / 8) bs

/-- The bytes of a row of elements; a last nibble is merged with the byte that stood there (R75). -/
def packRow (f : Fmt) (old : Byte) : List Nat → List Byte
  | [] => []
  | x :: xs =>
    if fmtBits f = 4 then
      match xs with
      | [] => [BitVec.ofNat 8 (x % 16 + old.toNat / 16 * 16)]
      | y :: ys => BitVec.ofNat 8 (x % 16 + 16 * (y % 16)) :: packRow f old ys
    else toLe (fmtBits f / 8) x ++ packRow f old xs

/-- Every run of a list of reads, up to the first cause. -/
def readRuns (s : State) (uid n e : Nat) : List Word → List (List Byte) × Option (Cause × Word)
  | [] => ([], none)
  | va :: vas =>
    let r := corbGet s uid va n e
    match r.2 with
    | some c => ([], some c)
    | none => let q := readRuns s uid n e vas; (r.1 :: q.1, q.2)

/-- The input scale of element c of a row whose scales are the bytes of a run. -/
def xpScale (ifmt : Nat) (sc : List Byte) (c : Nat) : Val :=
  if xpBlocked ifmt then toVal .e8m0 (fieldAt sc (c / 32) 1)
  else if ifmt = 3 || ifmt = 4 then toVal .fp32 (fieldAt sc 0 4) else .fin false 1 0

/-- A row split into blocks of 32, quantised: scale codes and elements. -/
def quantRow (f : Fmt) (mode : RMode) : Nat → List Val → List Nat × List Nat
  | 0, _ => ([], [])
  | n + 1, xs =>
    if xs.isEmpty then ([], [])
    else
      let q := quantBlock f false ((xs.take 32).map fun x => (some x, mode))
      let r := quantRow f mode n (xs.drop 32)
      (q.1 :: r.1, q.2 ++ r.2)

/-- An output row requantised: the bytes of its scales and its elements. -/
def xpRow (ofmt : Nat) (mode : RMode) (sat : Bool) (xs : List Val) : List Byte × List Nat :=
  let f := tkFmt ofmt
  if xpBlocked ofmt then let q := quantRow f mode 8 xs; (q.1.map fun c => BitVec.ofNat 8 c, q.2)
  else if ofmt = 3 then let q := quantBlock f false (xs.map fun x => (some x, mode)); (toLe 4 q.1, q.2)
  else ([], xs.map fun x => roundTo f x mode sat)

/-- XP.TILE. -/
def xpTile (s : State) (uid : Nat) (m : CorbelMem) (blk : List Byte) : CmdRes :=
  match m with
  | .xpose cf =>
    let ifmt := fieldAt cf 8 1
    let ofmt := fieldAt cf 9 1
    let fi := tkFmt ifmt
    let fo := tkFmt ofmt
    let mode : RMode := if fieldAt cf 10 1 = 1 then .rtz else .rne
    let rows := fieldAt cf 12 2
    let cols := fieldAt cf 14 2
    let istr := fieldAt cf 16 4
    let ostr := fieldAt cf 20 4
    let src := fieldW blk 8
    let dst := fieldW blk 16
    let ssrc := fieldW blk 24
    let sdst := fieldW blk 32
    let scaledIn := xpBlocked ifmt || ifmt == 3 || ifmt == 4
    let scaledOut := xpBlocked ofmt || ofmt == 3
    let scN := if xpBlocked ifmt then cols / 32 else 4
    if (!scaledIn && ssrc != 0) || scaledOut == (sdst == 0) then cmdBad m .corbelField
    else
      let at_ := fun (b : Word) (k st : Nat) => b + BitVec.ofNat 64 (k * st)
      let rowsIn := (List.range rows).map fun r => at_ src r istr
      let scRows := if scaledIn && ssrc != 0 then (List.range rows).map fun r => at_ ssrc r scN else []
      let inN := rowSize fi cols
      if (rowsIn.any fun a => corbBusy s uid a inN) || scRows.any fun a => corbBusy s uid a scN then cmdBusy m
      else
        let x := readRuns s uid inN (max 1 (fmtBits fi / 8)) rowsIn
        let sc := readRuns s uid scN (if xpBlocked ifmt then 1 else 4) scRows
        let read := having ((rowsIn.zip x.1 ++ scRows.zip sc.1).map fun p => (p.1, p.2.length))
        match x.2, sc.2 with
        | some c, _ => read (cmdFault m [] c)
        | none, some c => read (cmdFault m [] c)
        | none, none =>
          let xs := x.1.map (unpack fi)
          let v := fun r c =>
            let e := toVal fi ((xs.getD r []).getD c 0)
            if sc.1.isEmpty then e else mulV e (xpScale ifmt (sc.1.getD r []) c)
          let out := (List.range cols).map fun c => xpRow ofmt mode (fieldAt cf 11 1 = 1) ((List.range rows).map fun r => v r c)
          let old := fun (a : Word) => ((corbGet s uid (a + BitVec.ofNat 64 (rows / 2)) 1 1).1).headD 0
          let data := (List.range cols).zip out |>.map fun q =>
            let a := at_ dst q.1 ostr
            { va := a, bs := packRow fo (if fmtBits fo = 4 && rows % 2 = 1 then old a else 0) q.2.2
              e := max 1 (fmtBits fo / 8) : CmdWrite }
          let scs := (List.range cols).zip out |>.map fun q =>
            { va := at_ sdst q.1 q.2.1.length, bs := q.2.1, e := if xpBlocked ofmt then 1 else 4 : CmdWrite }
          read (cmdOk m (data ++ scs) 0)
  | _ => cmdBad m .corbelState

/-- XP_CONF (R282). -/
def execXpConf (bay c : Nat) (s : State) : Res := .next (corbelRow 0x20 [(8, 23)] xpConf bay c s)
/-- XP_TILE (R282). -/
def execXpTile (bay c : Nat) (s : State) : Res := .next (corbelRow 0x21 [(8, 39)] xpTile bay c s)

/-! ### INFL (R283) -/

/-- IF.BOOK. -/
def ifBook (s : State) (uid : Nat) (m : CorbelMem) (blk : List Byte) : CmdRes :=
  let n := fieldAt blk 16 2
  if n = 0 || decide (4096 < n) then cmdBad m .corbelField
  else if corbBusy s uid (fieldW blk 8) n then cmdBusy m
  else
    let r := corbGet s uid (fieldW blk 8) n 1
    having [(fieldW blk 8, r.1.length)] <| match r.2 with
    | some c => cmdFault m [] c
    | none =>
      let used := r.1.filter (· != 0)
      let weight : Nat := used.foldl (fun n b => n + 2 ^ (15 - b.toNat)) 0
      if used.any (fun b => decide (15 < b.toNat)) || decide (2 ^ 15 < weight) then cmdBad m .corbelData
      else cmdOk (.infl r.1 0) [] 0

/-- The symbols of a length, in order. -/
def symsOf (lens : List Byte) (n : Nat) : List Nat :=
  (List.range lens.length).filter fun i => (lens.getD i 0).toNat == n

/-- What the reading of a code comes to: a symbol and the bits used, no code, or the position of a bit that cannot be had. -/
inductive CodeRead where
  | sym (x used : Nat)
  | noCode
  | short (at_ : Nat)
  deriving DecidableEq, Repr

/-- The part of the code space, in 2^−15, that the codes longer than n bits take. -/
def longerSpace (lens : List Byte) (n : Nat) : Nat :=
  lens.foldl (fun t b => if n < b.toNat then t + 2 ^ (15 - b.toNat) else t) 0

/-- One canonical code read: `code` the bits so far, `first` the first code of the next length (RFC 1951). Bits that no code
begins with are no code. -/
def ifCode (lens : List Byte) (bit : Nat → Option Bool) (p : Nat) : Nat → Nat → Nat → Nat → CodeRead
  | 0, _, _, _ => .noCode
  | f + 1, len, code, first =>
    match bit (p + len - 1) with
    | none => .short (p + len - 1)
    | some b =>
      let code := 2 * code + b.toNat
      let syms := symsOf lens len
      let past := first + syms.length
      if code < past then .sym (syms.getD (code - first) 0) len
      else if past * 2 ^ (15 - len) + longerSpace lens len ≤ code * 2 ^ (15 - len) then .noCode
      else ifCode lens bit p f (len + 1) code (2 * past)

/-- Symbols decoded from a position: those before the first that fails, the position after them, and what failed. -/
def ifSymbols (lens : List Byte) (bit : Nat → Option Bool) : Nat → Nat → List Nat × Nat × Option CodeRead
  | 0, p => ([], p, none)
  | n + 1, p =>
    match ifCode lens bit p 15 1 0 0 with
    | .sym x used => let r := ifSymbols lens bit n (p + used); (x :: r.1, r.2)
    | e => ([], p, some e)

/-- IF.RUN. -/
def ifRun (s : State) (uid : Nat) (m : CorbelMem) (blk : List Byte) : CmdRes :=
  let n := fieldAt blk 32 4
  if badCount n then cmdBad m .corbelField
  else
    match m with
    | .infl lens pos =>
      let limit := fieldAt blk 16 8
      let b0 := pos / 8
      let bytes := (min limit (pos + 15 * n) + 7) / 8 - b0
      let va := fieldW blk 8 + BitVec.ofNat 64 b0
      if corbBusy s uid va bytes then cmdBusy m
      else
        let r := corbGet s uid va bytes 1
        let bit := fun (p : Nat) =>
          if limit ≤ p then none else (r.1[p / 8 - b0]?).map fun b => b.getLsbD (p % 8)
        let d := ifSymbols lens bit n pos
        let ws : List CmdWrite := [{ va := fieldW blk 24, bs := d.1.flatMap (toLe 2), e := 2 }]
        having [(va, min r.1.length ((d.2.1 + 7) / 8 - b0))] <| match d.2.2 with
          | none => cmdOk (.infl lens d.2.1) ws (d.2.1 % 2 ^ 32)
          | some e =>
            let c := match e with
              | .short at_ => if limit ≤ at_ then (.corbelData, 0) else r.2.getD (.corbelData, 0)
              | _ => (.corbelData, 0)
            cmdFault (.infl lens d.2.1) ws c
    | _ => cmdBad m .corbelState

/-- IF.RESET. -/
def ifReset (_s : State) (_uid : Nat) (m : CorbelMem) (_blk : List Byte) : CmdRes :=
  match m with
  | .infl lens _ => cmdOk (.infl lens 0) [] 0
  | _ => cmdOk m [] 0

/-- IF_BOOK (R283). -/
def execIfBook (bay c : Nat) (s : State) : Res := .next (corbelRow 0x30 [(8, 17)] ifBook bay c s)
/-- IF_RUN (R283). -/
def execIfRun (bay c : Nat) (s : State) : Res := .next (corbelRow 0x31 [(8, 35)] ifRun bay c s)
/-- IF_RESET (R283). -/
def execIfReset (bay c : Nat) (s : State) : Res := .next (corbelRow 0x32 [] ifReset bay c s)

/-! ### SEAL (R284) -/

/-- SL.KEY. -/
def slKey (s : State) (uid : Nat) (m : CorbelMem) (blk : List Byte) : CmdRes :=
  let slot := fieldAt blk 8 1
  if 16 ≤ slot then cmdBad m .corbelField
  else
    match tfind (s.vf (s.unit uid).id.vf).slots slot with
    | some key => cmdOk (.sealed key none) [] 0
    | none => cmdBad m .corbelKey

/-- SL.IV. -/
def slIv (s : State) (uid : Nat) (m : CorbelMem) (blk : List Byte) : CmdRes :=
  let n := fieldAt blk 24 4
  if 2 ^ 20 < n then cmdBad m .corbelField
  else
    match m with
    | .sealed key _ =>
      if corbBusy s uid (fieldW blk 8) 12 || corbBusy s uid (fieldW blk 16) n then cmdBusy m
      else
        let iv := corbGet s uid (fieldW blk 8) 12 1
        let aad := if n = 0 then ([], none) else corbGet s uid (fieldW blk 16) n 1
        having [(fieldW blk 8, iv.1.length), (fieldW blk 16, aad.1.length)] <| match iv.2, aad.2 with
        | some c, _ => cmdFault m [] c
        | none, some c => cmdFault m [] c
        | none, none =>
          let rk := roundKeys key
          cmdOk (.sealed key (some { iv := iv.1, aadLen := n, hash := ghashOf (ghKey rk) 0 aad.1, len := 0, decs := 0
                                     areas := [], enc := none, last := false })) [] 0
    | _ => cmdBad m .corbelState

/-- SL.ENC and SL.DEC. -/
def slData (enc : Bool) (s : State) (uid : Nat) (m : CorbelMem) (blk : List Byte) : CmdRes :=
  let n := fieldAt blk 24 4
  let src := fieldW blk 8
  let dst := fieldW blk 16
  let apart := decide (src.toNat + n ≤ dst.toNat) || decide (dst.toNat + n ≤ src.toNat)
  if badCount n || (src != dst && !apart) then cmdBad m .corbelField
  else
    match m with
    | .sealed key (some msg) =>
      let total := (msg.areas.map (·.2)).foldl (· + ·) 0
      if msg.last || (msg.enc.isSome && msg.enc != some enc) then cmdBad m .corbelState
      else if !enc && (decide (64 ≤ msg.decs) || decide (2 ^ 20 < total + n)) then cmdBad m .corbelField
      else if corbBusy s uid src n then cmdBusy m
      else
        let r := corbGet s uid src n 1
        having [(src, r.1.length)] <| match r.2 with
        | some c => cmdFault m [] c
        | none =>
          let rk := roundKeys key
          let out := ctrBytes rk msg.iv ((n + 15) / 16) (msg.len / 16 + 1) r.1
          let h := ghashOf (ghKey rk) msg.hash (if enc then out else r.1)
          let msg' := { msg with hash := h, len := msg.len + n, enc := some enc, last := n % 16 != 0
                                 decs := if enc then msg.decs else msg.decs + 1
                                 areas := if enc then msg.areas else msg.areas ++ [(dst, n)] }
          cmdOk (.sealed key (some msg')) [{ va := dst, bs := out, e := 1 }] 0
    | _ => cmdBad m .corbelState

/-- SL.FIN. -/
def slFin (s : State) (uid : Nat) (m : CorbelMem) (blk : List Byte) : CmdRes :=
  match m with
  | .sealed key (some msg) =>
    let tag := gcmTag (roundKeys key) msg.iv msg.hash msg.aadLen msg.len
    let va := fieldW blk 8
    if msg.enc = some false then
      if corbBusy s uid va 16 then cmdBusy m
      else
        let r := corbGet s uid va 16 1
        having [(va, r.1.length)] <| match r.2 with
        | some c => cmdFault m [] c
        | none =>
          if r.1 = tag then cmdOk (.sealed key none) [] 0
          else cmdOk (.sealed key none) (msg.areas.map fun a => { va := a.1, bs := List.replicate a.2 0, e := 1 }) 1
    else cmdOk (.sealed key none) [{ va := va, bs := tag, e := 1 }] 0
  | _ => cmdBad m .corbelState

/-- SL_KEY (R284). -/
def execSlKey (bay c : Nat) (s : State) : Res := .next (corbelRow 0x40 [(8, 8)] slKey bay c s)
/-- SL_IV (R284). -/
def execSlIv (bay c : Nat) (s : State) : Res := .next (corbelRow 0x41 [(8, 27)] slIv bay c s)
/-- SL_ENC (R284). -/
def execSlEnc (bay c : Nat) (s : State) : Res := .next (corbelRow 0x42 [(8, 27)] (slData true) bay c s)
/-- SL_DEC (R284). -/
def execSlDec (bay c : Nat) (s : State) : Res := .next (corbelRow 0x43 [(8, 27)] (slData false) bay c s)
/-- SL_FIN (R284). -/
def execSlFin (bay c : Nat) (s : State) : Res := .next (corbelRow 0x44 [(8, 15)] slFin bay c s)

/-! ### SCAN (R285) -/

/-- The identity of a scan's operation (R91). -/
def scIdentity (fmt : Fmt) (op : Nat) : Word :=
  BitVec.ofNat 64 (match fmt, op with
    | _, 0 => 0
    | .fp32, 1 => 0xFF800000
    | .fp32, _ => 0x7F800000
    | f, 1 => packInt f (intRange f).1
    | f, _ => packInt f (intRange f).2)

/-- One step of a scan. -/
def scStep (fmt : Fmt) (op : Nat) (carry x : Nat) : Nat :=
  if isFloat fmt then
    let a := toVal fmt carry
    let b := toVal fmt x
    rne32b (if op = 0 then addV a b else if op = 1 then maxV a b else minV a b)
  else
    let a := sint carry (fmtBits fmt)
    let b := sint x (fmtBits fmt)
    packInt fmt (if op = 0 then a + b else if op = 1 then (if a < b then b else a) else if b < a then b else a)

/-- The 64-bit carry over an element of a format: the bytes above a 32-bit one have no stated value (log 2). -/
def scWide (s : State) (fmt : Fmt) (x : Nat) : Word :=
  if fmtBits fmt = 64 then BitVec.ofNat 64 x
  else BitVec.ofNat 64 (x % 2 ^ 32 + (Config.freeWord s.free).toNat / 2 ^ 32 * 2 ^ 32)

/-- SC.CONF. -/
def scConf (s : State) (_uid : Nat) (m : CorbelMem) (blk : List Byte) : CmdRes :=
  let fmt := fieldAt blk 8 1
  let op := fieldAt blk 9 1
  if !([0, 10, 11].contains fmt) || decide (2 < op) || decide (1 < fieldAt blk 10 1) then cmdBad m .corbelField
  else
    let c := scWide s (tkFmt fmt) (scIdentity (tkFmt fmt) op).toNat
    { cmdOk (.scan fmt op (fieldAt blk 10 1 = 1) c) [] 0 with drew := 1 }

/-- The outputs of a scan and its carry. -/
def scOutputs (fmt : Fmt) (op : Nat) (excl : Bool) : Nat → List Nat → List Nat × Nat
  | c, [] => ([], c)
  | c, x :: xs =>
    let c' := scStep fmt op c x
    let r := scOutputs fmt op excl c' xs
    ((if excl then c else c') :: r.1, r.2)

/-- SC.RUN. -/
def scRun (s : State) (uid : Nat) (m : CorbelMem) (blk : List Byte) : CmdRes :=
  let n := fieldAt blk 24 4
  if badCount n then cmdBad m .corbelField
  else
    match m with
    | .scan fmt op excl carry =>
      let f := tkFmt fmt
      let e := fmtBits f / 8
      let va := fieldW blk 8
      if corbBusy s uid va (n * e) then cmdBusy m
      else
        let r := corbGet s uid va (n * e) e
        let o := scOutputs f op excl (carry.toNat % 2 ^ fmtBits f) (elems e r.1)
        let q := cmdEnd m (.scan fmt op excl (scWide s f o.2)) [{ va := fieldW blk 16, bs := o.1.flatMap (toLe e), e := e }] 0 r.2
        having [(va, r.1.length)] { q with drew := 1 }
    | _ => cmdBad m .corbelState

/-- Bins counted key by key: (old value, count) of each bin touched, up to the first bin that fails. -/
def scBins (s : State) (uid : Nat) (hist : Word) (shift nb : Nat) :
    Tab (Nat × Nat) → List Nat → Tab (Nat × Nat) × Option (Cause × Word)
  | t, [] => (t, none)
  | t, k :: ks =>
    let b := k / 2 ^ shift % nb
    match tfind t b with
    | some (o, n) => scBins s uid hist shift nb (tset t b (o, n + 1)) ks
    | none =>
      let r := corbGet s uid (hist + BitVec.ofNat 64 (4 * b)) 4 4
      match r.2 with
      | some c => (t, some c)
      | none => scBins s uid hist shift nb (tset t b (leNat r.1, 1)) ks

/-- SC.HIST. -/
def scHist (s : State) (uid : Nat) (m : CorbelMem) (blk : List Byte) : CmdRes :=
  let n := fieldAt blk 24 4
  let nb := fieldAt blk 28 4
  let shift := fieldAt blk 32 1
  if badCount n || nb = 0 || decide (65536 < nb) || nb &&& (nb - 1) != 0 || decide (63 < shift) then cmdBad m .corbelField
  else
    match m with
    | .scan fmt _ _ _ =>
      let f := tkFmt fmt
      let e := fmtBits f / 8
      if isFloat f then cmdBad m .corbelState
      else if corbBusy s uid (fieldW blk 8) (n * e) || corbBusy s uid (fieldW blk 16) (4 * nb) then cmdBusy m
      else
        let r := corbGet s uid (fieldW blk 8) (n * e) e
        let h := scBins s uid (fieldW blk 16) shift nb [] (elems e r.1)
        let ws := h.1.map fun b =>
          { va := fieldW blk 16 + BitVec.ofNat 64 (4 * b.1), bs := toLe 4 (b.2.1 + b.2.2), e := 4 : CmdWrite }
        let bins := h.1.flatMap fun b => List.replicate b.2.2 (fieldW blk 16 + BitVec.ofNat 64 (4 * b.1), 4)
        having ((fieldW blk 8, r.1.length) :: bins) (cmdEnd m m ws 0 (match h.2 with | some c => some c | none => r.2))
    | _ => cmdBad m .corbelState

/-- SC.COMPACT. -/
def scCompact (s : State) (uid : Nat) (m : CorbelMem) (blk : List Byte) : CmdRes :=
  let n := fieldAt blk 32 4
  if badCount n then cmdBad m .corbelField
  else
    match m with
    | .scan fmt _ _ _ =>
      let e := fmtBits (tkFmt fmt) / 8
      if corbBusy s uid (fieldW blk 8) (n * e) || corbBusy s uid (fieldW blk 16) n then cmdBusy m
      else
        let x := corbGet s uid (fieldW blk 8) (n * e) e
        let fl := corbGet s uid (fieldW blk 16) n 1
        let kept := ((elems e x.1).zip fl.1).filter fun p => p.2 != 0
        having [(fieldW blk 8, x.1.length), (fieldW blk 16, fl.1.length)]
          (cmdEnd m m [{ va := fieldW blk 24, bs := kept.flatMap fun p => toLe e p.1, e := e }] kept.length
            (match x.2 with | some c => some c | none => fl.2))
    | _ => cmdBad m .corbelState

/-- SC.CARRY. -/
def scCarry (s : State) (uid : Nat) (m : CorbelMem) (blk : List Byte) : CmdRes :=
  let dir := fieldAt blk 16 1
  let va := fieldW blk 8
  if 1 < dir then cmdBad m .corbelField
  else
    match m with
    | .scan fmt op excl carry =>
      if dir = 0 then cmdOk m [{ va := va, bs := toLe 8 carry.toNat, e := 8 }] 0
      else if corbBusy s uid va 8 then cmdBusy m
      else
        let r := corbGet s uid va 8 8
        having [(va, r.1.length)] (cmdEnd m (.scan fmt op excl (BitVec.ofNat 64 (leNat r.1))) [] 0 r.2)
    | _ => cmdBad m .corbelState

/-- SC_CONF (R285). -/
def execScConf (bay c : Nat) (s : State) : Res := .next (corbelRow 0x50 [(8, 10)] scConf bay c s)
/-- SC_RUN (R285). -/
def execScRun (bay c : Nat) (s : State) : Res := .next (corbelRow 0x51 [(8, 27)] scRun bay c s)
/-- SC_HIST (R285). -/
def execScHist (bay c : Nat) (s : State) : Res := .next (corbelRow 0x52 [(8, 32)] scHist bay c s)
/-- SC_COMPACT (R285). -/
def execScCompact (bay c : Nat) (s : State) : Res := .next (corbelRow 0x53 [(8, 35)] scCompact bay c s)
/-- SC_CARRY (R285). -/
def execScCarry (bay c : Nat) (s : State) : Res := .next (corbelRow 0x54 [(8, 16)] scCarry bay c s)

/-! ### RELAY (R286) -/

/-- RL.DESC. -/
def rlDesc (_s : State) (_uid : Nat) (m : CorbelMem) (blk : List Byte) : CmdRes :=
  let np := fieldAt blk 16 4
  let ps := fieldAt blk 20 4
  let h := fieldAt blk 28 2
  let d := fieldAt blk 30 2
  let df := fieldAt blk 25 1
  let tok := h * d * (fmtBits (tkFmt df) / 8)
  if np = 0 || decide (65536 < np) || decide (ps < 4096) || decide (2 ^ 21 < ps) || ps &&& (ps - 1) != 0 ||
      decide (4 < fieldAt blk 24 1) || decide (4 < df) || decide (1 < fieldAt blk 26 1) || decide (1 < fieldAt blk 27 1) ||
      h = 0 || decide (256 < h) || d = 0 || decide (1024 < d) || decide (1 < fieldAt blk 32 1) || ps % tok != 0 then
    cmdBad m .corbelField
  else cmdOk (.relay blk) [] 0

/-- The writes of one token into its page. -/
def rlToken (cf : List Byte) (page : Word) (slot : Nat) (xs : List Nat) : List CmdWrite :=
  let h := fieldAt cf 28 2
  let d := fieldAt cf 30 2
  let e := fmtBits (tkFmt (fieldAt cf 25 1)) / 8
  let t := fieldAt cf 20 4 / (h * d * e)
  let at_ := fun k => page + BitVec.ofNat 64 (k * e)
  if fieldAt cf 32 1 = 0 then [{ va := at_ (slot * h * d), bs := xs.flatMap (toLe e), e := e }]
  else (List.range h).map fun j => { va := at_ ((j * t + slot) * d), bs := (slice xs (j * d) d).flatMap (toLe e), e := e }

/-- Tokens moved one after another, up to the first that fails. -/
def rlTokens (s : State) (uid : Nat) (cf : List Byte) : Nat → Nat → List Byte → List CmdWrite × Option (Cause × Word)
  | 0, _, _ => ([], none)
  | n + 1, tok, src =>
    let h := fieldAt cf 28 2
    let d := fieldAt cf 30 2
    let sf := tkFmt (fieldAt cf 24 1)
    let df := tkFmt (fieldAt cf 25 1)
    let size := h * d * (fmtBits sf / 8)
    let t := fieldAt cf 20 4 / (h * d * (fmtBits df / 8))
    if src.length < size then ([], none)
    else if fieldAt cf 16 4 ≤ tok / t then ([], some (.corbelField, 0))
    else
      let pa := corbGet s uid (fieldW cf 8 + BitVec.ofNat 64 (8 * (tok / t))) 8 8
      match pa.2 with
      | some c => ([], some c)
      | none =>
        let mode : RMode := if fieldAt cf 26 1 = 1 then .rtz else .rne
        let xs := (elems (fmtBits sf / 8) (src.take size)).map fun b => roundTo df (toVal sf b) mode (fieldAt cf 27 1 = 1)
        let r := rlTokens s uid cf n (tok + 1) (src.drop size)
        (rlToken cf (BitVec.ofNat 64 (leNat pa.1)) (tok % t) xs ++ r.1, r.2)

/-- RL.MOVE. -/
def rlMove (s : State) (uid : Nat) (m : CorbelMem) (blk : List Byte) : CmdRes :=
  let n := fieldAt blk 24 4
  if badCount n then cmdBad m .corbelField
  else
    match m with
    | .relay cf =>
      let e := fmtBits (tkFmt (fieldAt cf 24 1)) / 8
      let bytes := n * (fieldAt cf 28 2 * fieldAt cf 30 2 * e)
      if corbBusy s uid (fieldW blk 8) bytes || corbBusy s uid (fieldW cf 8) (8 * fieldAt cf 16 4) then cmdBusy m
      else
        let x := corbGet s uid (fieldW blk 8) bytes e
        let tok := fieldAt blk 16 8
        let r := rlTokens s uid cf n tok x.1
        let t := fieldAt cf 20 4 / (fieldAt cf 28 2 * fieldAt cf 30 2 * (fmtBits (tkFmt (fieldAt cf 25 1)) / 8))
        let pages := ((List.range n).map fun i => (tok + i) / t).eraseDups.filter fun p => decide (p < fieldAt cf 16 4)
        having ((fieldW blk 8, x.1.length) :: pages.map fun p => (fieldW cf 8 + BitVec.ofNat 64 (8 * p), 8))
          (cmdEnd m m r.1 0 (match r.2 with | some c => some c | none => x.2))
    | _ => cmdBad m .corbelState

/-- RL.FLUSH: it is taken up once the writes of earlier moves are performed (R278), those sent to other packages too. -/
def rlFlush (_s : State) (_uid : Nat) (m : CorbelMem) (_blk : List Byte) : CmdRes := cmdOk m [] 0

/-- RL_DESC (R286). -/
def execRlDesc (bay c : Nat) (s : State) : Res := .next (corbelRow 0x60 [(8, 32)] rlDesc bay c s)
/-- RL_MOVE (R286). -/
def execRlMove (bay c : Nat) (s : State) : Res := .next (corbelRow 0x61 [(8, 27)] rlMove bay c s)
/-- RL_FLUSH (R286). -/
def execRlFlush (bay c : Nat) (s : State) : Res := .next (corbelRow 0x62 [] rlFlush bay c s)

/-! ### Reserved words (R36 to R38) -/

/-- R62: a code no command of a corbel kind has. -/
def reservedCmd (kind : BitVec 3) (code : Nat) : Bool :=
  !(match kind.toNat with
    | 0 => [0x10, 0x11, 0x12, 0x13, 0x14]
    | 1 => [0x20, 0x21]
    | 2 => [0x30, 0x31, 0x32]
    | 3 => [0x40, 0x41, 0x42, 0x43, 0x44]
    | 4 => [0x50, 0x51, 0x52, 0x53, 0x54]
    | _ => [0x60, 0x61, 0x62] : List Nat).contains code

/-- R280: the first corbel of the acting unit that takes up a block with a reserved code. -/
def reservedBlock (s : State) : State :=
  match (List.range 16).findSome? fun l => (leaseOf s.u l).corbel.bind fun g =>
      (headCmd s g).bind fun h => if reservedCmd (corbelOf s g).kind (fieldAt h.2.2.blk 0 1) then some h else none with
  | some (uid, l, cmd) => cmdFails s uid l cmd.ord (.illegalOpcode, 0)
  | none => s

/-- R36, R38: the cause of a reserved word in an engine of the acting unit's core. -/
def reservedIn (agent : Agent) (s : State) : State := agentFault s s.cur agent .illegalOpcode 0 0

/-- R37: the agent that meets a reserved word of a code kind; a VE word meets it at its column, a CTL word
or one of column 7 at the router, a corbel at take-up. A reserved link word is never issued, and a reserved
copy word is met by COPY_TAKE_UP (R294). -/
def execReservedWord (k : CodeKind) (w : Code) (s : State) : Res :=
  .next (match k with
    | .scalar => reservedScalar s
    | .vector =>
      let c := w.toNat / 2 ^ 29
      reservedIn (if c < 6 then .col c else .router) s
    | .matrix => reservedIn .me s
    | .copy => s
    | .corbel => reservedBlock s
    | .link => s)

end Sys2Proof.Machine
end

