-- ==== Sys2Proof/Machine/Loads.lean ====
section
/-! DEFINITION. Scalar loads and stores, the copy aperture (R124 to R127, R290 to R292), atomics (R128) and
remote accesses (R129, R130). -/

namespace Sys2Proof.Machine

/-! ### Shared checks -/

/-- R476: a watchpoint of the unit matches an access of n bytes. -/
def watched (u : Unit) (va : Word) (n : Nat) (write : Bool) : Bool :=
  u.dbg.watches.any fun w =>
    (if write then w.2.2.2 else w.2.2.1) && decide (va.toNat < w.1.toNat + w.2.1) &&
    decide (w.1.toNat < va.toNat + n)

/-- An address in the copy aperture (R290). -/
def inAperture (va : Word) : Bool := decide (Config.copyAp ≤ va.toNat) && decide (va.toNat < Config.win)

/-- The order of R109 and R353 among the causes of one word. -/
def causeRank : Cause → Nat
  | .endpointUnreachable => 0 | .dataMisaligned => 1 | .noncanonical => 2 | .scratchBounds => 3 | .scopeDenied => 4
  | .translation => 5 | .pteForm => 6 | .stage2Miss => 7 | .writeProtect => 8 | .notResident => 9 | .atomicPath => 10
  | .publishFull => 11 | .elsewhere _ => 13 | _ => 12

/-- The cause that stands highest among those of a word's parts; the first of equals. -/
def worst : List (Cause × Word) → Option (Cause × Word)
  | [] => none
  | c :: cs =>
    match worst cs with
    | none => some c
    | some d => if causeRank c.1 ≤ causeRank d.1 then some c else some d

/-! ### Loads (R126, R127) -/

/-- What a part of a load puts into its register. -/
def extend (sgn : Bool) (n : Nat) (bs : List Byte) : Word :=
  if sgn then sext (leNat bs) (8 * n) else BitVec.ofNat 64 (leNat bs)

/-- R126: the first checks of an access of n bytes. -/
def formCause (va : Word) (n : Nat) : Option Cause :=
  if va.toNat % n != 0 then some .dataMisaligned else if !canonical va then some .noncanonical else none

/-- The causes of a part of a load; the bytes it wants of another package are the last of them. -/
def loadCauses (s : State) (n : Nat) (va : Word) : List (Cause × Word) :=
  let found := match findLoad s va n with
    | .fault c => [c]
    | _ => []
  ((formCause va n).toList ++ found).map fun c => (c, va)

/-- A part of a load that waits for the replay of held entries (R366). -/
def loadBusy (s : State) (n : Nat) (p : BitVec 6 × Word) : Bool :=
  match findLoad s p.2 n with
  | .busy => true
  | _ => false

/-- A part of a load performed: its register written. -/
def loadPart (sgn : Bool) (n : Nat) (s : State) (p : BitVec 6 × Word) : State :=
  match findLoad s p.2 n with
  | .bytes bs s' => writeLoad s' p.1.toNat (extend sgn n bs)
  | .absent s' => writeLoad (setResflag s' p.2) p.1.toNat 0
  | _ => s

/-- A load of parts (register, address) of n bytes, all or none. -/
def loadBody (sgn : Bool) (n : Nat) (ps : List (BitVec 6 × Word)) (s : State) : SqRes :=
  match ps.find? (fun p => watched s.u p.2 n false) with
  | some p => .trap .debugStop p.2 0
  | none =>
    match worst (ps.flatMap fun p => loadCauses s n p.2) with
    | some (c, a) => .trap c a 0
    | none => if ps.any (loadBusy s n) then .hold (.retry 1) s else .done (ps.foldl (loadPart sgn n) s)

/-! ### Stores -/

/-- The causes of a part of a store before PUBLISH_FULL is considered. -/
def storeCauses (s : State) (n : Nat) (va : Word) : List (Cause × Word) :=
  let found :=
    if Config.win ≤ va.toNat then if usable s.u < va.toNat - Config.win + n then [.scratchBounds] else []
    else
      match translate s s.cur va .store with
      | .error c => [c]
      | .ok _ => []
  ((formCause va n).toList ++ found).map fun c => (c, va)

/-- A store part recorded: to the scratchpad, or to the publish region (R124, R125, R169); none when the
region is full. -/
def storePart (n : Nat) (s : Option State) (p : Word × Word) : Option State :=
  s.bind fun s =>
    let bs := toLe n p.2.toNat
    if Config.win ≤ p.1.toNat then some (s.scrWrite s.cur (p.1.toNat - Config.win) bs)
    else
      match translate s s.cur p.1 .store with
      | .error _ => none
      | .ok t =>
        (pubStore s.u p.1 bs).map fun u =>
          tlbFill (countAccess (s.setU u) u.id.vf p.1 t 1) (coreOf u) u.id.vf p.1 t

/-- A store of parts (address, value) of n bytes, all or none. -/
def storeBody (n : Nat) (ps : List (Word × Word)) (s : State) : SqRes :=
  match ps.find? (fun p => watched s.u p.1 n true) with
  | some p => .trap .debugStop p.1 0
  | none =>
    match worst (ps.flatMap fun p => storeCauses s n p.1) with
    | some (c, a) => .trap c a 0
    | none =>
      match ps.foldl (storePart n) (some s) with
      | some s' => .done s'
      | none => .trap .publishFull ((ps.headD (0, 0)).1) 0

/-! ### The copy aperture (R290 to R292) -/

/-- Copies queued or running on a channel (R291, R292 QLEN); those set aside or withdrawn are neither (DEDUCED, log 86). -/
def chanLen (c : Channel) : Nat := c.queue.length + (if c.run.isSome then 1 else 0)

/-- A copy of a unit on the channel is held (R312). -/
def chanHeld (c : Channel) (uid : Nat) : Bool :=
  c.aside.any (fun r => r.c.uid == uid) || c.asideQ.any (fun r => r.uid == uid)

/-- R292: the status of a channel as a unit reads it. -/
def copyStatus (s : State) (ch : Nat) : Word :=
  let c := channelOf s (dieOf (coreOf s.u)) ch
  BitVec.ofNat 64 ((tget s.u.m.donecnt ch 0).toNat + 256 * min 8 (chanLen c) + 4096 * (chanHeld c s.cur).toNat)

/-- R291: the copy that a starting store of x asks for, as the unit stands. -/
def copyOf (s : State) (x : Word) : Copy :=
  let arg := bits x.toNat 16 16 * 64
  { uid := s.cur, tmpl := bits x.toNat 0 16, arg := scrRead s.mem s.u arg 64, ftz := s.u.c.ftz, det := s.u.c.det
    fxsel := s.u.c.fxsel, fxscale := tget s.u.c.fxscale s.u.c.fxsel.toNat 0, n := s.u.m.copies }

/-- R291: the append. -/
def appendCopy (s : State) (ch : Nat) (x : Word) : State :=
  let die := dieOf (coreOf s.u)
  let c := channelOf s die ch
  let s := putChannel s die ch { c with queue := c.queue ++ [copyOf s x] }
  s.onU fun u => { u with m := { u.m with copies := u.m.copies + 1 } }

/-- R291: the starting store of x on channel ch. -/
def copyStartBody (ch : Nat) (x : Word) (s : State) : SqRes :=
  let c := channelOf s (dieOf (coreOf s.u)) ch
  let va := BitVec.ofNat 64 (Config.copyAp + 64 * ch)
  let arg := bits x.toNat 16 16 * 64
  if x.toNat / 2 ^ 32 != 0 || decide (4096 ≤ bits x.toNat 0 16) || c.world != (s.vf s.u.id.vf).world then
    .trap .copyAperture va 0
  else if usable s.u < arg + 64 then .trap .scratchBounds (BitVec.ofNat 64 (Config.win + arg)) 0
  else if scrSpoiled s s.u arg 64 then .trap .uncorrectable (BitVec.ofNat 64 (Config.win + arg)) 0
  else if 8 ≤ chanLen c then .hold (.copySpace ch x) s
  else .done (appendCopy s ch x)

/-- COPY_START (R291): the store of x at offset 0 of channel ch of the aperture. -/
def execCopyStart (ch : BitVec 5) (x : Word) (s : State) : Res := sqWord [] (copyStartBody ch.toNat x) s

/-- COPY_STATUS_READ (R292): the load of offset 8 of channel ch of the aperture into Gd. -/
def execCopyStatusRead (d : BitVec 6) (ch : BitVec 5) (s : State) : Res :=
  sqWord [] (fun s => .done (writeG s d (copyStatus s ch.toNat))) s

/-! ### LDU, LDS, ST, LDM, STM -/

/-- R290: an access to the aperture of the one form allowed there, 8 bytes at an offset of a channel's block, does `act` with
the channel's number; every other one there is refused (DEDUCED, log 34). -/
def apertureBody (va : Word) (n off : Nat) (write : Bool) (act : Nat → State → SqRes) (s : State) : SqRes :=
  if watched s.u va n write then .trap .debugStop va 0
  else if n = 8 && (va.toNat - Config.copyAp) % 64 = off then act ((va.toNat - Config.copyAp) / 64) s
  else .trap .copyAperture va 0

/-- R126. -/
def execLdu (t a : BitVec 6) (sz : BitVec 2) (imm : BitVec 11) (s : State) : Res :=
  sqWord [a] (fun s =>
    let n := sizeOf sz
    let va := memAddr s a imm n
    if inAperture va then apertureBody va n 8 false (fun ch s => .done (writeLoad s t.toNat (copyStatus s ch))) s
    else loadBody false n [(t, va)] s) s

/-- R126. -/
def execLds (t a : BitVec 6) (sz : BitVec 2) (imm : BitVec 11) (s : State) : Res :=
  sqWord [a] (fun s =>
    let n := sizeOf sz
    let va := memAddr s a imm n
    if inAperture va then .trap .copyAperture va 0 else loadBody true n [(t, va)] s) s

/-- R126. -/
def execSt (t a : BitVec 6) (sz : BitVec 2) (imm : BitVec 11) (s : State) : Res :=
  sqWord [t, a] (fun s =>
    let n := sizeOf sz
    let va := memAddr s a imm n
    if inAperture va then apertureBody va n 0 true (fun ch s => copyStartBody ch (gOf s t) s) s
    else storeBody n [(va, gOf s t)] s) s

/-- R127: the addresses of the words of a multiple access. -/
def multAddrs (va : Word) (n : Nat) : List Word := (List.range n).map fun k => va + BitVec.ofNat 64 (8 * k)

/-- R127. -/
def execLdm (t a : BitVec 6) (n1 : BitVec 2) (imm : BitVec 11) (s : State) : Res :=
  sqWord [a] (fun s =>
    let n := n1.toNat + 1
    let vas := multAddrs (memAddr s a imm 8) n
    match vas.find? inAperture with
    | some va => .trap .copyAperture va 0
    | none => loadBody false 8 ((regRun t n).zip vas) s) s

/-- R127. -/
def execStm (t a : BitVec 6) (n1 : BitVec 2) (imm : BitVec 11) (s : State) : Res :=
  sqWord (a :: regRun t (n1.toNat + 1)) (fun s =>
    let n := n1.toNat + 1
    let vas := multAddrs (memAddr s a imm 8) n
    match vas.find? inAperture with
    | some va => .trap .copyAperture va 0
    | none => storeBody 8 (vas.zip ((regRun t n).map (gOf s))) s) s

/-- LOAD_DATA_RETURN (R110, R111): the datum of a scalar load is in its register. -/
def execLoadDataReturn (r : BitVec 6) (s : State) : Res :=
  let k := pendKey s.u r.toNat
  happens (s.u.pend.contains k) (s.onU fun u => { u with pend := u.pend.filter (· != k) }) s

/-! ### Atomics (R128, R378) -/

/-- Earlier remote accesses of the unit that a release waits for: all at POD and SYSTEM, and at lower
scopes those that are not entries of its own drains (R374, R378). -/
def earlierDone (sc : Scope) (u : Unit) : Bool :=
  u.m.remotes.all fun r => r.copyCh.isSome || (!farScope sc && r.cap.isNone)

/-- A drain of the acting unit's publish region, and what follows once it is complete (R374, R504). -/
def drainThen (s : State) (k : State → SqRes) : SqRes :=
  match drain s s.cur with
  | .wait s' => .hold (.retry 256) s'
  | .fail s' c a => .stop (drainFault s' s.cur c a)
  | .ok s' => k s'

/-- R378: the release half of an atomic. -/
def release (o : Ord) (sc : Scope) (s : State) (k : State → SqRes) : SqRes :=
  if o == .rel || o == .ar then
    drainThen s fun s => if earlierDone sc s.u then k s else .hold (.retry 1) s
  else k s

/-- R376: the acquire half of an atomic. -/
def acquire (o : Ord) (s : State) : State := if o == .acq || o == .ar then refresh s s.cur else s

/-- An atomic at storage of the package: the access is counted, and performed or held (R365). -/
def amoStore (o : Ord) (aop n : Nat) (d : BitVec 6) (b c va : Word) (t : Tr) (k : Nat) (s : State) : SqRes :=
  let vf := s.u.id.vf
  if spoiledAt s k n then .trap .uncorrectable va 0
  else if t.wb && aop = 0 && loadBlocked s vf va then .hold (.retry 1) s
  else if t.wb && aop != 0 then
    match hold s vf va (.atomic (va.toNat % 2 ^ 16) n aop b c (.word s.cur s.nextTag d.toNat)) with
    | none => .hold (.retry 256) s
    | some s' =>
      .hold (.heldAtomic s.nextTag (o == .acq || o == .ar)) { countAccess s' vf va t 1 with nextTag := s.nextTag + 1 }
  else
    let r := amoAt s.mem k aop n b.toNat c.toNat
    let s := seeOwn { s with mem := r.2 } s.cur k n
    let s := tlbFill (countAccess s vf va t 1) (coreOf s.u) vf va t
    .done (acquire o (writeG s d (BitVec.ofNat 64 r.1)))

/-- R128: an atomic in the scratch window, performed at the bank. -/
def amoWindow (o : Ord) (aop n : Nat) (d : BitVec 6) (b c va : Word) (s : State) : SqRes :=
  let k := scrKey s.u (va.toNat - Config.win)
  if spoiledAt s k n then .trap .uncorrectable va 0
  else
    let r := amoAt s.mem k aop n b.toNat c.toNat
    .done (acquire o (writeG { s with mem := r.2 } d (BitVec.ofNat 64 r.1)))

/-- The data of an atomic request: the operand, then the comparand of CAS (DESIGN CHOICE, log 13). -/
def amoData (n : Nat) (b c : Word) : List Byte := toLe n b.toNat ++ toLe n c.toNat

/-- The causes of an AMO (R109, R128); ENDPOINT_UNREACHABLE for a range of pod kind without a route (DEDUCED, log 84). -/
def amoCauses (va : Word) (n aop : Nat) (add : Bool) (sc : Scope) (s : State) : List Cause :=
  let found :=
    if Config.win ≤ va.toNat then if usable s.u < va.toNat - Config.win + n then [.scratchBounds] else []
    else
      match translate s s.cur va (.atomic (aop != 0) add) with
      | .error c => [c]
      | .ok t =>
        match t.place with
        | .pod pkg _ _ off => if (routeFor s pkg off).isNone then [.endpointUnreachable] else []
        | .mem _ => []
  (formCause va n).toList ++ (if scopeDenied s.u.c sc then [.scopeDenied] else []) ++ found

/-- R128: an AMO with its operands read: b the operand, c the comparand of CAS. -/
def amoBody (o : Ord) (aop : Nat) (d : BitVec 6) (va b0 c : Word) (sc : Scope) (s : State) : SqRes :=
  let n := amoSize s.u.c aop
  let op := amoOperand s.u.c aop b0
  if watched s.u va n (aop != 0) || watched s.u va n false then .trap .debugStop va 0
  else if inAperture va then .trap .copyAperture va 0
  else
    match worst ((amoCauses va n aop (isAdd64 op.1) sc s).map fun e => (e, va)) with
    | some (e, _) => .trap e va 0
    | none =>
      release o sc s fun s =>
        if Config.win ≤ va.toNat then amoWindow o op.1 n d op.2 c va s
        else
          match translate s s.cur va (.atomic (aop != 0) (isAdd64 op.1)) with
          | .error e => .trap e va 0
          | .ok t =>
            match t.place with
            | .mem k => amoStore o op.1 n d op.2 c va t k s
            | .pod pkg v key off =>
              let s := countAccess s s.u.id.vf va t 1
              .hold (.reply s.nextTag (o == .acq || o == .ar)) (sendRemote s s.cur
                (requestOf s s.cur .atomic none pkg v key off n op.1 0 (amoData n op.2 c) (some d.toNat) true))

/-- AMO words: d the destination, also the comparand of CAS, a the address, b the operand. -/
def amoWord (o : Ord) (aop : Nat) (d a b : BitVec 6) (sc : Scope) (s : State) : Res :=
  sqWord (if aop = 3 then [a, b, d] else [a, b]) (fun s =>
    amoBody o aop d (gOf s a) (gOf s b) (if aop = 3 then gOf s d else 0) sc s) s

def execAmoLd (o : Ord) (d a : BitVec 6) (sc : Scope) (s : State) : Res := amoWord o 0 d a 0 sc s
def execAmoSt (o : Ord) (a b : BitVec 6) (sc : Scope) (s : State) : Res := amoWord o 1 0 a b sc s
def execAmoSwap (o : Ord) (d a b : BitVec 6) (sc : Scope) (s : State) : Res := amoWord o 2 d a b sc s
def execAmoCas (o : Ord) (d a b : BitVec 6) (sc : Scope) (s : State) : Res := amoWord o 3 d a b sc s
def execAmoAdd (o : Ord) (d a b : BitVec 6) (sc : Scope) (s : State) : Res := amoWord o 4 d a b sc s
def execAmoAnd (o : Ord) (d a b : BitVec 6) (sc : Scope) (s : State) : Res := amoWord o 5 d a b sc s
def execAmoOr (o : Ord) (d a b : BitVec 6) (sc : Scope) (s : State) : Res := amoWord o 6 d a b sc s
def execAmoXor (o : Ord) (d a b : BitVec 6) (sc : Scope) (s : State) : Res := amoWord o 7 d a b sc s
def execAmoMins (o : Ord) (d a b : BitVec 6) (sc : Scope) (s : State) : Res := amoWord o 8 d a b sc s
def execAmoMinu (o : Ord) (d a b : BitVec 6) (sc : Scope) (s : State) : Res := amoWord o 9 d a b sc s
def execAmoMaxs (o : Ord) (d a b : BitVec 6) (sc : Scope) (s : State) : Res := amoWord o 10 d a b sc s
def execAmoMaxu (o : Ord) (d a b : BitVec 6) (sc : Scope) (s : State) : Res := amoWord o 11 d a b sc s
def execAmoFadd (o : Ord) (d a b : BitVec 6) (sc : Scope) (s : State) : Res := amoWord o 12 d a b sc s

/-! ### Remote accesses (R129, R130) -/

/-- The access a remote word needs. -/
inductive CapNeed where
  | read | write | amo
  deriving DecidableEq, Repr

def capGrants (c : CapEntry) : CapNeed → Bool
  | .read => c.r
  | .write => c.w
  | .amo => c.amo

/-- The allowance of a capability taken, and the request sent (R129). -/
def sendAllowed (s : State) (r : Remote) : State :=
  match r.cap with
  | none => sendRemote s s.cur r
  | some k =>
    let s := s.onU fun u =>
      let c := tget u.m.caps k blankCap
      { u with m := { u.m with caps := tset u.m.caps k { c with allow := c.allow - 1 } } }
    sendRemote s s.cur r

/-- A remote access goes out, or waits for its send allowance (R129, R139). -/
def remoteGo (s : State) (r : Remote) : SqRes :=
  let free := match r.cap with
    | none => true
    | some k => (tget s.u.m.caps k blankCap).allow != 0
  if !free then .hold (.allowance r) s
  else
    let s' := sendAllowed s r
    if r.waits then .hold (.reply s.nextTag false) s' else .done s'

/-- R129: a remote access of n bytes at an offset of a pod pointer's endpoint, with its checks in order. -/
def remoteBody (kind : PacketKind) (need : CapNeed) (ptr : Word) (off : BitVec 56) (n aop : Nat) (bmask : BitVec 64)
    (data : List Byte) (dst : Option Nat) (denied : Bool) (s : State) : SqRes :=
  let ci := podCap ptr
  let c := tget s.u.m.caps ci blankCap
  let addr := BitVec.ofNat 64 (ci * 2 ^ 56 + off.toNat)
  if !c.v then .trap .capInvalid addr 0
  else if !capGrants c need then .trap .capPermission addr 0
  else if (routeFor s c.pkg.toNat off).isNone then .trap .endpointUnreachable addr 0
  else if off.toNat % n != 0 then .trap .dataMisaligned addr 0
  else if denied then .trap .scopeDenied addr 0
  else if need = .amo && scaleOut s c.pkg.toNat && !isAdd64 aop then .trap .atomicPath addr 0
  else
    remoteGo s (requestOf s s.cur kind (some ci) c.pkg.toNat c.vfn.toNat c.rkey off n aop bmask data dst
      (kind != .write))

/-- R129. -/
def execRld (t a : BitVec 6) (sz : BitVec 2) (imm : BitVec 11) (s : State) : Res :=
  sqWord [a] (fun s =>
    let n := sizeOf sz
    remoteBody .read .read (gOf s a) (podOffset (gOf s a) (imm64 imm * BitVec.ofNat 64 n)) n 0 0 []
      (some t.toNat) false s) s

/-- R129. -/
def execRst (t a : BitVec 6) (sz : BitVec 2) (imm : BitVec 11) (s : State) : Res :=
  sqWord [t, a] (fun s =>
    let n := sizeOf sz
    remoteBody .write .write (gOf s a) (podOffset (gOf s a) (imm64 imm * BitVec.ofNat 64 n)) n 0
      (BitVec.ofNat 64 (2 ^ n - 1)) (toLe n (gOf s t).toNat) none false s) s

/-- R130: the scope of a RAMO is at least POD. -/
def ramoScope (sc : Scope) : Scope := if sc == .system then .system else .pod

/-- RAMO words (R129, R130). -/
def ramoWord (aop : Nat) (d a b : BitVec 6) (sc : Scope) (s : State) : Res :=
  sqWord (if aop = 3 then [a, b, d] else [a, b]) (fun s =>
    let n := amoSize s.u.c aop
    let op := amoOperand s.u.c aop (gOf s b)
    remoteBody .atomic .amo (gOf s a) (podOffset (gOf s a) 0) n op.1 0
      (amoData n op.2 (if aop = 3 then gOf s d else 0)) (some d.toNat) (scopeDenied s.u.c (ramoScope sc)) s) s

def execRamoLd (d a : BitVec 6) (sc : Scope) (s : State) : Res := ramoWord 0 d a 0 sc s
def execRamoSt (a b : BitVec 6) (sc : Scope) (s : State) : Res := ramoWord 1 0 a b sc s
def execRamoSwap (d a b : BitVec 6) (sc : Scope) (s : State) : Res := ramoWord 2 d a b sc s
def execRamoCas (d a b : BitVec 6) (sc : Scope) (s : State) : Res := ramoWord 3 d a b sc s
def execRamoAdd (d a b : BitVec 6) (sc : Scope) (s : State) : Res := ramoWord 4 d a b sc s
def execRamoAnd (d a b : BitVec 6) (sc : Scope) (s : State) : Res := ramoWord 5 d a b sc s
def execRamoOr (d a b : BitVec 6) (sc : Scope) (s : State) : Res := ramoWord 6 d a b sc s
def execRamoXor (d a b : BitVec 6) (sc : Scope) (s : State) : Res := ramoWord 7 d a b sc s
def execRamoMins (d a b : BitVec 6) (sc : Scope) (s : State) : Res := ramoWord 8 d a b sc s
def execRamoMinu (d a b : BitVec 6) (sc : Scope) (s : State) : Res := ramoWord 9 d a b sc s
def execRamoMaxs (d a b : BitVec 6) (sc : Scope) (s : State) : Res := ramoWord 10 d a b sc s
def execRamoMaxu (d a b : BitVec 6) (sc : Scope) (s : State) : Res := ramoWord 11 d a b sc s
def execRamoFadd (d a b : BitVec 6) (sc : Scope) (s : State) : Res := ramoWord 12 d a b sc s

end Sys2Proof.Machine
end

