-- ==== Sys2Proof/Machine/Streams.lean ====
section
/-! DEFINITION. Streams, the access engine and masks (R173 to R188, R246). -/

namespace Sys2Proof.Machine

/-! ### Stream registers (R173 to R176) -/

/-- R174: the writable bits of a field. -/
def streamMask (f : Nat) : Word :=
  if f = 0 then 0x7FF
  else if f = 1 || f = 15 then BitVec.allOnes 64
  else if f < 8 then 0xFFFF
  else if f < 14 || f = 16 then 0xFFFFFFFFFFFF
  else if f = 14 then 0xFFFFF
  else if f = 17 then 0x1FF
  else 0

/-- R176: the value of a field; STAT and CUR are live. -/
def streamField (u : Unit) (n f : Nat) : Word :=
  if f = 18 then BitVec.ofNat 64 (streamStat (streamOf u n))
  else if f = 19 then BitVec.ofNat 64 (streamCur (streamOf u n) % 2 ^ 48)
  else tget (streamOf u n).f f 0

/-- R174: CUR written at level S moves the next element of the oldest unfinished activation (DEDUCED, log 14). -/
def setCur (st : Stream) (v : Nat) : Stream :=
  let move := fun (a : Act) =>
    if actDir a = 0 then { a with issued := v, inflight := [], half := false }
    else { a with performed := v, wrote := v, issued := if actDir a = 2 then v else a.issued, half := false }
  { st with acts := match st.acts.span actDone with
    | (done, a :: rest) => done ++ move a :: rest
    | (done, []) => done }

/-- R176: a field written. -/
def setStreamField (u : Unit) (n f : Nat) (v : Word) : Unit :=
  let st := streamOf u n
  if f = 18 then u
  else if f = 19 then (if u.sup then putStream u n (setCur st (v.toNat % 2 ^ 48)) else u)
  else putStream u n { st with f := tset st.f f (v &&& streamMask f) }

/-- R176. -/
def execSset (n : BitVec 4) (f : BitVec 5) (g : BitVec 6) (s : State) : Res :=
  sqWord [g] (fun s => .done (s.setU (setStreamField s.u n.toNat f.toNat (gOf s g)))) s

/-- R176. -/
def execSget (n : BitVec 4) (f : BitVec 5) (g : BitVec 6) (s : State) : Res :=
  sqWord [] (fun s => .done (writeG s g (streamField s.u n.toNat f.toNat))) s

/-! ### Fields of an activation -/

def cfgOf (f : Tab Word) : Nat := (tget f 0 0).toNat
def dirOf (f : Tab Word) : Nat := bits (cfgOf f) 0 2
def kindOf (f : Tab Word) : Nat := bits (cfgOf f) 2 2
def fmtCode (f : Tab Word) : Nat := bits (cfgOf f) 4 4
def rmaskOf (f : Tab Word) : Nat := bits (cfgOf f) 8 3
def baseOf (f : Tab Word) : Nat := (tget f 1 0).toNat
def blkLen (f : Tab Word) : Nat := bits (tget f 14 0).toNat 0 16
def blkFmt (f : Tab Word) : Nat := bits (tget f 14 0).toNat 16 4
def sbaseOf (f : Tab Word) : Nat := (tget f 15 0).toNat
def gateOf (f : Tab Word) : Nat := bits (tget f 17 0).toNat 0 8
def gated (f : Tab Word) : Bool := bitAt (tget f 17 0).toNat 8

/-- Bytes of an element, 0 for the formats of 4 bits. -/
def elemBytes (f : Tab Word) : Nat := fmtBits (streamFmt f) / 8

/-- Bytes of a scale (R174). -/
def scaleBytes (f : Tab Word) : Nat := if blkFmt f = 12 then 1 else 4

/-- The count of a level, an absent one taken as 1. -/
def levelCount (f : Tab Word) (k : Nat) : Nat := let c := (tget f (2 + k) 0).toNat % 65536; if c = 0 then 1 else c

/-- R175: the offset in elements of ordinal e. -/
def nestOffset (f : Tab Word) : Nat → Nat → Nat → Int
  | 0, _, _ => 0
  | n + 1, k, e => (e % levelCount f k : Nat) * sint (tget f (8 + k) 0).toNat 48 + nestOffset f n (k + 1) (e / levelCount f k)

/-- R75, R175: the byte of an element from a base, and its nibble in the formats of 4 bits. -/
def elemAt (f : Tab Word) (base : Int) (e : Nat) : Int × Nat :=
  let o := nestOffset f 6 0 e
  if elemBytes f = 0 then ((2 * base + o) / 2, ((2 * base + o) % 2).toNat) else (base + o * elemBytes f, 0)

/-- R175: the address of the scale of ordinal e. -/
def scaleAt (f : Tab Word) (base : Int) (e : Nat) : Int :=
  base + (e / blkLen f : Nat) * sint (tget f 16 0).toNat 48

/-! ### SOPEN, SCLOSE, SWAIT (R177, R180, R181) -/

/-- R177: the checks of SOPEN. -/
def openCause (f : Tab Word) : Option Cause :=
  let k := kindOf f
  let hi := fun (v : Nat) => if k = 0 then decide (2 ^ 32 ≤ v) else if k = 2 then decide (2 ^ 16 ≤ v) else false
  if dirOf f = 3 || decide (12 ≤ fmtCode f) || (k = 2 && fmtCode f != 0 && fmtCode f != 10) ||
      (k = 3 && dirOf f = 2) || (blkLen f != 0 && blkFmt f != 0 && blkFmt f != 12) ||
      (blkLen f != 0 && k = 2) || hi (baseOf f) || hi (sbaseOf f) then some .streamForm
  else if (k != 2 && elemBytes f != 0 && (baseOf f % 2 ^ 56) % elemBytes f != 0) ||
      (blkLen f != 0 && (sbaseOf f % 2 ^ 56) % scaleBytes f != 0) then some .streamMisaligned
  else none

/-- R177: the AE entry goes into the command queue, or waits for a place. -/
def tryAe (e : AeEntry) (s : State) : SqRes :=
  dispatch s 0 (decide (Config.queueCap ≤ s.u.ae.queue.length)) (.aeSpace e) fun due s =>
    s.onU fun u => { u with ae := { u.ae with queue := u.ae.queue ++ [{ e with due := due }] } }

/-- An AE entry for stream n of the acting unit as its registers stand, numbered. -/
def aeEntry (close : Bool) (n : Nat) (s : State) : AeEntry × State :=
  ({ close := close, stream := n, f := (streamOf s.u n).f, id := s.u.ae.nextId, cov := s.u.me.covered
     ftz := s.u.c.ftz, det := s.u.c.det, due := none, ord := s.u.ae.ord },
   s.onU fun u => { u with ae := { u.ae with nextId := u.ae.nextId + 1, ord := u.ae.ord + 1 } })

/-- R177. -/
def execSopen (n : BitVec 4) (s : State) : Res :=
  sqWord [] (fun s =>
    match openCause (streamOf s.u n.toNat).f with
    | some c => .trap c 0 n.toNat
    | none => let p := aeEntry false n.toNat s; tryAe p.1 p.2) s

/-- R180. -/
def execSclose (n : BitVec 4) (s : State) : Res :=
  sqWord [] (fun s => let p := aeEntry true n.toNat s; tryAe p.1 p.2) s

/-- R181: every activation of stream n that was appended has finished. -/
def streamIdle (u : Unit) (n : Nat) : Bool :=
  !(u.ae.queue.any fun e => !e.close && e.stream == n) && (streamOf u n).acts.all (·.finished) &&
  !(u.m.remotes.any fun r => match r.strm with | some x => x.1 == n | none => false)

/-- R181, R376: SWAIT completes with a refresh. -/
def trySwait (n : Nat) (s : State) : SqRes :=
  if streamIdle s.u n then .done (refresh s s.cur) else .hold (.stream n) s

/-- R181. -/
def execSwait (n : BitVec 4) (s : State) : Res := sqWord [] (trySwait n.toNat) s

/-- SWAIT_COMPLETE (R181). -/
def execSwaitComplete (s : State) : Res :=
  completes s (fun w => match w with | .stream _ => true | _ => false)
    (fun w s => match w with
      | .stream n => trySwait n s
      | _ => .stop s)

/-! ### The access engine -/

/-- The AE may act for the acting unit. -/
def aeLive (u : Unit) : Bool := issuing u && !u.stopMask.getLsbD 1

/-- R145, R177: an entry may start at its due cycle. -/
def dueHere (u : Unit) (due : Option Nat) : Bool :=
  match due with
  | none => true
  | some d => !u.course.active || decide (d ≤ u.course.cc.toNat)

/-- An activation as the AE takes it from its entry. -/
def actOf (e : AeEntry) : Act :=
  { id := e.id, f := e.f, total := streamTotal e.f, started := false, granted := false, closed := false
    finished := false, issued := 0
    taken := 0, given := 0, wrote := 0, performed := 0, half := false, flushTo := 0, cov := e.cov, exited := false, inflight := []
    queue := [], outq := [] }

/-- The stream's activation with a number replaced. -/
def setAct (st : Stream) (a : Act) : Stream :=
  { st with acts := st.acts.map fun x => if x.id = a.id then a else x }

/-- The acting unit's stream n with an activation replaced. -/
def putAct (s : State) (n : Nat) (a : Act) : State :=
  s.onU fun u => putStream u n (setAct (streamOf u n) a)

/-- ACTIVATION_ATTACH (R177): the head of the AE queue attaches when its stream has at most one. -/
def execActivationAttach (s : State) : Res :=
  match s.u.ae.queue with
  | [] => .next s
  | e :: q =>
    let st := streamOf s.u e.stream
    happens (aeLive s.u && !e.close && decide (st.acts.length < 2) && dueHere s.u e.due)
      (s.onU fun u =>
        let u := putStream u e.stream { st with acts := st.acts ++ [actOf e] }
        { u with ae := { u.ae with queue := q } }) s

/-- Every access of an activation has been issued (R177). -/
def actIssued (a : Act) : Bool := !a.half && (if actDir a = 0 then a.issued == a.total else a.wrote == a.total)

/-- The activation that starts next: the first that has not, once those before it have issued their last
access. -/
def nextToStart : List Act → Option Act
  | [] => none
  | a :: as => if !a.started then some a else if actIssued a then nextToStart as else none

/-- ACTIVATION_START (R177). -/
def execActivationStart (n : BitVec 4) (s : State) : Res :=
  match nextToStart (streamOf s.u n.toNat).acts with
  | none => .next s
  | some a =>
    happens (aeLive s.u) (traceEntry (putAct s n.toNat { a with started := true }) s.cur 0 false a.id 0) s

/-- The state of a handle of a unit (R307). -/
def handleOf (u : Unit) (h : Nat) : HState := tget u.m.handles h .free
def setHandle (u : Unit) (h : Nat) (x : HState) : Unit :=
  { u with m := { u.m with handles := tset u.m.handles h x } }

/-- R179: the states a gate waits for, sets at the start, and sets at the end. -/
def gateWaits (a : Act) : HState := if actDir a = 0 then .full else .free
def gateStart (a : Act) : HState := if actDir a = 0 then .draining else .filling
def gateEnd (a : Act) : HState := if actDir a = 0 || a.closed then .free else .full

/-- STREAM_GATE_GRANT (R179). -/
def execStreamGateGrant (n : BitVec 4) (s : State) : Res :=
  match (streamOf s.u n.toNat).acts.find? (fun a => a.started && gated a.f && !a.granted) with
  | none => .next s
  | some a =>
    happens (aeLive s.u && handleOf s.u (gateOf a.f) == gateWaits a)
      (putAct (s.onU fun u => setHandle u (gateOf a.f) (gateStart a)) n.toNat { a with granted := true }) s

/-! ### Element accesses (R175, R178, R184, R185) -/

/-- What the read of an element or scale of an activation comes to. -/
inductive AeRead where
  | ok (bs : List Byte) (s : State)
  | absent
  | fault (c : Cause) (addr : Word)
  | send (cap : Option Nat) (pkg vfn : Nat) (key : BitVec 32) (off : BitVec 56)
  | busy
  deriving DecidableEq, Repr

/-- R129: the checks of a capability for an engine's access to an offset. -/
def capCause (s : State) (uid ci : Nat) (need : CapEntry → Bool) (off : BitVec 56) : Option Cause :=
  let c := tget (s.unit uid).m.caps ci blankCap
  if !c.v then some .capInvalid
  else if !need c then some .capPermission
  else if (routeFor s c.pkg.toNat off).isNone then some .endpointUnreachable
  else none

/-- The capability an activation or copy operand of pod kind names, and its allowance. -/
def podAllow (s : State) (uid ci : Nat) : Nat := (tget (s.unit uid).m.caps ci blankCap).allow

/-- A read of n bytes for the AE of the acting unit, by the kind of the stream: address a in the scratchpad
(kind 0), VA (kind 1), pod offset (kind 3). -/
def aeRead (s : State) (kind cap : Nat) (a : Int) (n : Nat) : AeRead :=
  let uid := s.cur
  let u := s.u
  if kind = 0 then
    let va := BitVec.ofInt 64 (Config.win + a)
    if a < 0 || decide (usable u < a.toNat + n) then .fault .streamBounds va
    else if scrSpoiled s u a.toNat n then .fault .uncorrectable va
    else .ok (scrRead s.mem u a.toNat n) s
  else if kind = 1 then
    let va := BitVec.ofInt 64 a
    match translate s uid va .load with
    | .error c => .fault c va
    | .ok t =>
      if !t.res then .absent
      else if t.wb && loadBlocked s u.id.vf va then .busy
      else match t.place with
        | .pod p v key off => .send none p v key off
        | .mem k =>
          if spoiledAt s k n then .fault .uncorrectable va
          else .ok (memRead s.mem k n) (tlbFill s (coreOf u) u.id.vf va t)
  else
    let off := BitVec.ofInt 56 a
    match capCause s uid cap (·.r) off with
    | some c => .fault c (BitVec.ofNat 64 (cap * 2 ^ 56 + off.toNat))
    | none =>
      let c := tget u.m.caps cap blankCap
      if c.allow = 0 then .busy else .send (some cap) c.pkg.toNat c.vfn.toNat c.rkey off

/-- R357: the access of a kind-1 element is counted once for each granule an activation comes to. -/
def countElem (s : State) (f : Tab Word) (e : Nat) : State :=
  if kindOf f != 1 then s
  else
    let va := BitVec.ofInt 64 (elemAt f (baseOf f) e).1
    let prev := BitVec.ofInt 64 (elemAt f (baseOf f) (e - 1)).1
    if e = 0 || va.toNat / 64 != prev.toNat / 64 then countVa s s.cur va 1 else s

/-- R357: the access of the scale of ordinal e, counted once for each granule of scales that an activation comes to. -/
def countScale (s : State) (f : Tab Word) (e : Nat) : State :=
  if kindOf f != 1 then s
  else
    let va := BitVec.ofInt 64 (scaleAt f (sbaseOf f) e)
    let prev := BitVec.ofInt 64 (scaleAt f (sbaseOf f) (e - 1))
    if e = 0 || va.toNat / 64 != prev.toNat / 64 then countVa s s.cur va 1 else s

/-- STREAM_BYTES of the element of ordinal e: two elements of 4 bits make a byte. -/
def countBytes (s : State) (f : Tab Word) (e total : Nat) : State :=
  let n := if elemBytes f = 0 then (if e % 2 = 1 || e + 1 = total then 1 else 0) else elemBytes f
  count s s.cur 0x0202 n

/-- R185: a residency bit of the stream's mask. The SQ sees it at once, which R186 allows (DESIGN CHOICE, log 83). -/
def setResidency (u : Unit) (f : Tab Word) (e : Nat) : Unit :=
  let m := rmaskOf f
  if m = 0 then u
  else { u with ve := { u.ve with masks := tset u.ve.masks m (putBit (tget u.ve.masks m 0) (min e 65535) true) } }

/-- A request of the AE for an element or scale goes out, its allowance taken (R129). -/
def aeSend (s : State) (kind : PacketKind) (cap : Option Nat) (pkg vfn : Nat) (key : BitVec 32) (off : BitVec 56)
    (aop : BitVec 8) (n : Nat) (bmask : BitVec 64) (data : List Byte) (elems : Option Nat) (strm : Nat × Nat × Nat) : State :=
  let s := match cap with
    | none => s
    | some k => s.onU fun u =>
      let c := tget u.m.caps k blankCap
      { u with m := { u.m with caps := tset u.m.caps k { c with allow := c.allow - 1 } } }
  sendRemote s s.cur
    { requestOf s s.cur kind cap pkg vfn key off n aop.toNat bmask data elems false with agent := .ae, strm := some strm }

/-- R246: the value a kind-2 load reads, free where no consumed token orders it after the last ME word
that wrote the tile. -/
def tileRead (s : State) (a : Act) (t i : Nat) : Word × State :=
  if tget s.u.me.wrote t 0 ≤ a.cov then (((tget (tget s.u.me.st.tiles t blankTile).w i 0).setWidth 64), s)
  else let p := freeVal s; ((p.1.setWidth 32).setWidth 64, p.2)

/-- The value of n bytes, or of a nibble of one byte. -/
def elemValue (f : Tab Word) (bs : List Byte) (nib : Nat) : Word :=
  if elemBytes f = 0 then BitVec.ofNat 64 (bits (leNat bs) (4 * nib) 4) else BitVec.ofNat 64 (leNat bs)

/-- There is room in the operand queue for the element of ordinal e of an activation (R178). -/
def roomFor (st : Stream) (a : Act) (e : Nat) : Bool :=
  let c := chunkElems (streamFmt a.f)
  let w := actWindow a
  (w.1 < w.2 && (w.2 - 1) / c == e / c) || decide ((st.acts.map actPlaces).foldl (· + ·) 0 < 8)

/-- A fault of the AE at element e of an activation of stream n (R185, R189): the elements before it have arrived or been
performed first. Those given to a store are written without waiting for their chunk. -/
def aeFault (s : State) (n : Nat) (a : Act) (e : Nat) (c : Cause) (addr : Word) : State :=
  if actDir a = 0 then
    if decide (e ≤ a.issued - a.inflight.length) then agentFault s s.cur .ae c addr n else s
  else if a.performed = e then agentFault s s.cur .ae c addr n
  else putAct s n { a with flushTo := max a.flushTo a.given }

/-- The scale of ordinal e read, for a stream with scales. -/
def readScale (s : State) (f : Tab Word) (e : Nat) : AeRead :=
  let cap := sbaseOf f / 2 ^ 56
  let base : Int := if kindOf f = 3 then (sbaseOf f % 2 ^ 56 : Nat) else (sbaseOf f : Nat)
  aeRead s (kindOf f) cap (scaleAt f base e) (scaleBytes f)

/-- The scale of the last element in flight. -/
def scaleLast (l : List Elem) (sc : BitVec 32) : List Elem :=
  l.dropLast ++ (l.drop (l.length - 1)).map fun x => { x with scale := some sc }

/-- The second half of a load access: the scale of the element that entered the flight last (R175, R185). -/
def accessScale (s : State) (n : Nat) (a : Act) : State :=
  let e := a.issued - 1
  let got := fun (sc : BitVec 32) => { a with half := false, inflight := scaleLast a.inflight sc }
  match readScale s a.f e with
  | .ok bs s' => countScale (putAct s' n (got (BitVec.ofNat 32 (leNat bs)))) a.f e
  | .absent => (putAct s n (got 0)).onU fun u => setResidency u a.f (e / blkLen a.f * blkLen a.f)
  | .fault c addr => aeFault s n a e c addr
  | .send cap p vf key off =>
    countScale (aeSend (putAct s n (got 0)) .read cap p vf key off 0 (scaleBytes a.f) 0 [] none (n, a.id, 2 * e + 1)) a.f e
  | .busy => s

/-- The element of ordinal a.issued enters the flight towards the queue, and its scale is read where the stream has
scales. -/
def fly (s : State) (n : Nat) (a : Act) (v : Word) : State :=
  let scaled := blkLen a.f != 0
  let a' := { a with issued := a.issued + 1, half := scaled
                     inflight := a.inflight ++ [{ bits := v, scale := if scaled then some 0 else none }] }
  let s := countBytes (putAct s n a') a.f a.issued a.total
  if scaled then accessScale s n a' else s

/-- The read of the next element of a load or RMW activation (R175, R178, R185). -/
def accessLoad (s : State) (n : Nat) (a : Act) : State :=
  let e := a.issued
  let f := a.f
  if kindOf f = 2 then
    let i := (baseOf f % 16384 : Nat) + nestOffset f 6 0 e
    if i < 0 || 16384 ≤ i then aeFault s n a e .streamBounds 0
    else let p := tileRead s a (baseOf f / 16384) i.toNat; fly p.2 n a p.1
  else
    let base : Int := if kindOf f = 3 then (baseOf f % 2 ^ 56 : Nat) else (baseOf f : Nat)
    let at_ := elemAt f base e
    let nb := max 1 (elemBytes f)
    match aeRead s (kindOf f) (baseOf f / 2 ^ 56) at_.1 nb with
    | .ok bs s' => fly (countElem s' f e) n a (elemValue f bs at_.2)
    | .absent =>
      if actDir a = 2 then aeFault s n a e .notResident (BitVec.ofInt 64 at_.1)
      else fly (count (s.onU fun u => setResidency u f e) s.cur 0x0203 1) n a 0
    | .fault c addr => aeFault s n a e c addr
    | .send cap p vf key off =>
      fly (countElem (aeSend s .read cap p vf key off 0 nb 0 [] none (n, a.id, 2 * e)) f e) n a (BitVec.ofNat 64 at_.2)
    | .busy => s

/-- A write by the AE of the acting unit: performed, or sent to another package, a cause, or a wait. -/
inductive AeWrite where
  | ok (s : State)
  | sent (s : State)
  | fault (c : Cause) (addr : Word)
  | busy
  deriving DecidableEq, Repr

/-- The least offset of parts, and the bytes from there to the last as a packet carries them (R406). -/
def partsLow (ps : List BytePart) : Nat := ps.foldl (fun n p => min n p.off) 64
def partsData (ps : List BytePart) : List Byte :=
  let lo := partsLow ps
  let hi := ps.foldl (fun n p => max n p.off) 0
  (List.range (hi + 1 - lo)).map fun i => ((ps.find? fun p => p.off == lo + i).map (·.val)).getD 0

/-- AOP of a write packet: 0 for whole bytes, 1 and 2 for their low and high nibbles (R75; DESIGN CHOICE, log 13). -/
def partsAop (ps : List BytePart) : BitVec 8 :=
  match ps with
  | p :: _ => if p.mask = 0x0F then 1 else if p.mask = 0xF0 then 2 else 0
  | [] => 0

/-- A write of the parts of one granule, that of address a of the stream's kind, all at once (R124, R184): n elements. -/
def aeWrite (s : State) (kind cap : Nat) (a : Int) (ps : List BytePart) (n : Nat) (strm : Nat × Nat × Nat) : AeWrite :=
  let u := s.u
  let send := fun (s : State) (cap : Option Nat) (p v : Nat) (key : BitVec 32) (off : BitVec 56) =>
    let bs := partsData ps
    aeSend s .write cap p v key (off - BitVec.ofInt 56 (a % 64) + BitVec.ofNat 56 (partsLow ps)) (partsAop ps) bs.length
      (partsMask ps >>> partsLow ps) bs (some n) strm
  if kind = 0 then
    if a < 0 || decide (usable u ≤ a.toNat) then .fault .streamBounds (BitVec.ofInt 64 (Config.win + a))
    else .ok { s with mem := putParts s.mem (scrKey u (a.toNat / 64 * 64)) ps }
  else if kind = 1 then
    let va := BitVec.ofInt 64 a
    match translate s s.cur va .store with
    | .error c => .fault c va
    | .ok t =>
      match t.place with
      | .pod p v key off => .sent (send s none p v key off)
      | .mem _ =>
        match writeParts s u.id.vf va t ps with
        | some s' => .ok (tlbFill s' (coreOf u) u.id.vf va t)
        | none => .busy
  else
    let off := BitVec.ofInt 56 a
    match capCause s s.cur cap (·.w) off with
    | some c => .fault c (BitVec.ofNat 64 (cap * 2 ^ 56 + off.toNat))
    | none =>
      let c := tget u.m.caps cap blankCap
      if c.allow = 0 then .busy else .sent (send s (some cap) c.pkg.toNat c.vfn.toNat c.rkey off)

/-- The parts of one byte run. -/
def runParts (o : Nat) (bs : List Byte) : List BytePart := wholeParts ((List.range bs.length).zip bs |>.map fun p => (o + p.1, p.2))

/-- The parts that an element at an address writes: its bytes, or one nibble (R75). -/
def elemParts (f : Tab Word) (at_ : Int × Nat) (v : Word) : List BytePart :=
  let o := (at_.1 % 64).toNat
  if elemBytes f != 0 then runParts o (toLe (elemBytes f) v.toNat)
  else
    [{ off := o, mask := if at_.2 = 0 then 0x0F else 0xF0, val := BitVec.ofNat 8 (v.toNat % 16 * if at_.2 = 0 then 1 else 16) }]

/-- The scale of a block is written with the block's first element, where the writing word produced one (R175). -/
def scaleToWrite (a : Act) (e : Nat) (x : Elem) : Option (BitVec 32) :=
  if blkLen a.f = 0 || e % blkLen a.f != 0 then none else x.scale

/-- The base of an activation's addresses. -/
def actBase (f : Tab Word) : Int := if kindOf f = 3 then (baseOf f % 2 ^ 56 : Nat) else (baseOf f : Nat)

/-- R178, R220: a chunk is written when it is full, at the end of the activation, or ahead of a token. -/
def mayWrite (a : Act) (e : Nat) : Bool :=
  let c := chunkElems (streamFmt a.f)
  decide (min a.total ((e / c + 1) * c) ≤ a.given) || decide (e < a.flushTo)

/-- The elements of a beat after its first, at address `first`: those that follow in the queue and lie in the same granule
(R164, R182), to another package in the same byte where elements have 4 bits; the next block's scale is written first. -/
def beatRest (a : Act) (pod : Bool) (first : Int) : Nat → List Elem → List (Nat × Elem)
  | _, [] => []
  | e, x :: xs =>
    let d : Int := if pod && elemBytes a.f = 0 then 1 else 64
    if mayWrite a e && (elemAt a.f (actBase a.f) e).1 / d == first / d && (scaleToWrite a e x).isNone then
      (e, x) :: beatRest a pod first (e + 1) xs
    else []

/-- The elements of the beat that begins with ordinal e. -/
def beatOf (a : Act) (pod : Bool) (e : Nat) (x : Elem) : List (Nat × Elem) :=
  (e, x) :: beatRest a pod (elemAt a.f (actBase a.f) e).1 (e + 1) (a.outq.drop 1)

/-- The parts of a beat, byte by byte. -/
def beatParts (f : Tab Word) (b : List (Nat × Elem)) : List BytePart :=
  (b.flatMap fun p => elemParts f (elemAt f (actBase f) p.1) p.2.bits).foldl joinPart []

/-- The access of an address by the stream leaves the package. -/
def leaves (s : State) (f : Tab Word) (a : Int) : Bool :=
  if kindOf f = 3 then true
  else if kindOf f = 0 then false
  else match translate s s.cur (BitVec.ofInt 64 a) .store with
    | .ok { place := .pod .., .. } => true
    | _ => false

/-- k elements from ordinal e have been accessed for a store: their places in the queue are free once they are
performed. -/
def stored (s : State) (n : Nat) (a : Act) (e k : Nat) (performed : Bool) : State :=
  let a' := { a with outq := a.outq.drop k, wrote := e + k, half := false
                     performed := if performed then a.performed + k else a.performed }
  (List.range k).foldl (fun s i => countBytes s a.f (e + i) a.total) (putAct s n a')

/-! ### Nest tables (R229 to R231) -/

/-- R229: the stored bits of a field. -/
def ntMask (f : Nat) : Word :=
  match f with
  | 0 => 0xFFFF | 1 => 0x7FFF | 2 => 3 | 3 => 1 | _ => 0xFFFFFFFF

/-- Field f of level l of nest table n. -/
def ntField (m : MeState) (n l f : Nat) : Nat := (tget m.nt (64 * n + 8 * l + f) 0).toNat
def setNt (m : MeState) (n l f : Nat) (v : Word) : MeState := { m with nt := tset m.nt (64 * n + 8 * l + f) (v &&& ntMask f) }

/-- R230: the present levels of a nest table, innermost first. -/
def ntLevels (m : MeState) (n : Nat) : List NestLevel :=
  (List.range 6).filterMap fun l =>
    if ntField m n l 0 = 0 then none
    else some { level := l, first := bits (ntField m n l 1) 0 8, len := bits (ntField m n l 1) 8 7
                count := ntField m n l 0 }

/-- R231: the tiles that word p of a block may name under a nest, as its counters run. -/
def nestTiles (m : MeState) (nt : Nat) (levels : List NestLevel) (p t : Nat) : List Nat :=
  levels.foldl (fun ts l =>
    if l.first ≤ p && p < l.first + l.len then
      let adv := (tget m.nt (64 * nt + 8 * l.level + 2) 0).toNat
      (ts.flatMap fun x => (List.range (min 4 l.count)).map fun i => (x + i * adv) % 4).eraseDups
    else ts) [t]

/-- R246: the words of an ME entry name tile t, in some iteration of its nest. -/
def blockNames (m : MeState) (nt : Nat) (levels : List NestLevel) (ws : List Code) (t : Nat) : Bool :=
  ((List.range ws.length).zip ws).any fun p =>
    let op := p.2.toNat / 2 ^ 27
    [1, 3, 5, 6, 7, 8, 9].contains op &&
    ((nestTiles m nt levels p.1 (bits p.2.toNat 25 2)).contains t ||
      (op == 3 && (nestTiles m nt levels p.1 (bits p.2.toNat 23 2)).contains t))

/-- R246: words of the unit's ME that are queued or run name tile t. -/
def meNames (s : State) (t : Nat) : Bool :=
  let u := s.u
  (u.me.run.any fun r => blockNames u.me.st r.e.nt r.levels r.words t) ||
  u.me.queue.any fun e =>
    match blockWords s 32 e.off e.n with
    | .ok cs => cs.contains none || blockNames u.me.st e.nt (ntLevels u.me.st e.nt) (cs.filterMap id) t
    | .error _ => true

/-! ### Writes -/

/-- R246: the value a kind-2 store leaves in a tile: free where ME words that use the tile are not ordered
before it. -/
def tileStore (s : State) (a : Act) (t i : Nat) (v : Word) : State :=
  let p := if tget s.u.me.used t 0 ≤ a.cov && !meNames s t then (v, s) else freeVal s
  p.2.onU fun u =>
    let x := tget u.me.st.tiles t blankTile
    let x := { x with w := tset x.w i (p.1.setWidth 32), live := true }
    { u with me := { u.me with st := { u.me.st with tiles := tset u.me.st.tiles t x } } }

/-- The write of a beat of a store or RMW activation from ordinal e on (R175, R178, R184). -/
def accessBeat (s : State) (n : Nat) (a : Act) (e : Nat) (x : Elem) : State :=
  let f := a.f
  let addr := (elemAt f (actBase f) e).1
  let b := beatOf a (leaves s f addr) e x
  match aeWrite s (kindOf f) (baseOf f / 2 ^ 56) addr (beatParts f b) b.length (n, a.id, 2 * e) with
  | .fault c va => aeFault s n a e c va
  | .busy => s
  | .ok s' => stored (countElem s' f e) n a e b.length true
  | .sent s' => stored (countElem s' f e) n a e b.length false

/-- The next write of a store or RMW activation: first the scale of a block, where there is one to write, then the beat of
its element. -/
def accessStore (s : State) (n : Nat) (a : Act) (e : Nat) (x : Elem) : State :=
  let f := a.f
  if kindOf f = 2 then
    let i := (baseOf f % 16384 : Nat) + nestOffset f 6 0 e
    if i < 0 || 16384 ≤ i then aeFault s n a e .streamBounds 0
    else stored (tileStore s a (baseOf f / 16384) i.toNat x.bits) n a e 1 true
  else
    match scaleToWrite a e x, a.half with
    | some sc, false =>
      let base : Int := if kindOf f = 3 then (sbaseOf f % 2 ^ 56 : Nat) else (sbaseOf f : Nat)
      let sa := scaleAt f base e
      match aeWrite s (kindOf f) (sbaseOf f / 2 ^ 56) sa (runParts (sa % 64).toNat (toLe (scaleBytes f) sc.toNat)) 0
          (n, a.id, 2 * e + 1) with
      | .fault c va => aeFault s n a e c va
      | .busy => s
      | .ok s' | .sent s' => putAct (countScale s' f e) n { a with half := true }
    | _, _ => accessBeat s n a e x

/-- The write that an activation may make: its ordinal and element. -/
def pendingWrite (a : Act) : Option (Nat × Elem) :=
  match actDir a, a.outq with
  | 0, _ | _, [] => none
  | _, x :: _ => if mayWrite a a.wrote then some (a.wrote, x) else none

/-- STREAM_ACCESS (R175, R184): the next access of the oldest activation of the stream that has one. -/
def streamAccess (n : Nat) (s : State) : State :=
  let st := streamOf s.u n
  match st.acts.find? (fun a => !actIssued a) with
  | none => s
  | some a =>
    if !a.started || (gated a.f && !a.granted) then s
    else if actDir a = 0 && a.half then accessScale s n a
    else
      match pendingWrite a with
      | some (e, x) => accessStore s n a e x
      | none =>
        if actDir a != 1 && a.issued < a.total && roomFor st a a.issued then accessLoad s n a else s

/-- STREAM_ACCESS. -/
def execStreamAccess (n : BitVec 4) (s : State) : Res := happens (aeLive s.u) (streamAccess n.toNat s) s

/-- A request of the AE for an element or its scale is outstanding. -/
def flying (u : Unit) (n : Nat) (a : Act) : Bool :=
  let e := a.issued - a.inflight.length
  u.m.remotes.any fun r => r.strm == some (n, a.id, 2 * e) || r.strm == some (n, a.id, 2 * e + 1)

/-- STREAM_ACCESS_RETURN (R178): the oldest element in flight enters the operand queue. -/
def execStreamAccessReturn (n : BitVec 4) (s : State) : Res :=
  match (streamOf s.u n.toNat).acts.find? (fun a => !a.inflight.isEmpty) with
  | none => .next s
  | some a =>
    happens (live s.u && !flying s.u n.toNat a && !(a.half && a.inflight.length == 1))
      (putAct s n.toNat { a with inflight := a.inflight.drop 1, queue := a.queue ++ a.inflight.take 1 }) s

/-- ACTIVATION_FINISH (R179, R181): the end action of its gate, and it leaves the stream once its elements
are taken. -/
def execActivationFinish (n : BitVec 4) (s : State) : Res :=
  let n := n.toNat
  match (streamOf s.u n).acts.find? (fun a => actDone a && (!a.finished || actSpent a)) with
  | none => .next s
  | some a =>
    let s' := if a.finished then s else
      let s := if gated a.f then s.onU fun u => setHandle u (gateOf a.f) (gateEnd a) else s
      traceEntry (unitCounts (putAct s n { a with finished := true })) s.cur 0 true a.id 0
    let gone := s'.onU fun u =>
      let st := streamOf u n
      putStream u n { st with acts := st.acts.filter fun x => x.id != a.id }
    happens (live s.u) (if actSpent a then gone else s') s

/-- R180: an activation as a close leaves it: a load ends, a store keeps what it has been given, and of RMW the elements read
ahead are dropped. -/
def closeAct (a : Act) : Option Act :=
  if actDir a = 0 then none
  else some { a with closed := true, total := a.given, flushTo := a.given, issued := min a.issued a.given
                     inflight := [], queue := [] }

/-- R180: the handles of gated load activations that a close ends before they have finished are FREE. -/
def closeGates (u : Unit) (as : List Act) : Unit :=
  as.foldl (fun u a => if actDir a = 0 && gated a.f && !a.finished then setHandle u (gateOf a.f) .free else u) u

/-- STREAM_CLOSE (R180): the close at the head of the AE queue ends the activations of its stream; once
the stream is idle the entry is taken. -/
def execStreamClose (s : State) : Res :=
  match s.u.ae.queue with
  | [] => .next s
  | e :: q =>
    let st := streamOf s.u e.stream
    let acts := st.acts.filterMap fun a => if a.closed then some a else closeAct a
    let s' := (st.acts.filter fun a => actDir a = 0 && !a.finished).foldl
      (fun s a => traceEntry (unitCounts s) s.cur 0 true a.id 0)
      (s.onU fun u => putStream (closeGates u st.acts) e.stream { st with acts := acts })
    let taken := s'.onU fun u => { u with ae := { u.ae with queue := q } }
    happens (aeLive s.u && e.close && dueHere s.u e.due)
      (if acts.isEmpty then traceEntry (traceEntry (unitCounts taken) s.cur 0 false e.ord 0) s.cur 0 true e.ord 0 else s') s

/-! ### Masks (R187, R188) -/

/-- A mask as it stands: M0 reads as all ones. -/
def maskOf (u : Unit) (m : Nat) : BitVec 65536 := if m = 0 then BitVec.allOnes 65536 else tget u.ve.masks m 0

/-- A mask written; nothing writes M0. -/
def setMask (u : Unit) (m : Nat) (v : BitVec 65536) : Unit :=
  if m = 0 then u else { u with ve := { u.ve with masks := tset u.ve.masks m v } }

/-- R188: the number of 1 bits. -/
def maskPop (v : BitVec 65536) : Nat := ((List.range 65536).filter fun i => v.getLsbD i).length

/-- R188: the lowest 1 bit, 65,536 when there is none. -/
def maskFirst (v : BitVec 65536) : Nat := ((List.range 65536).takeWhile fun i => !v.getLsbD i).length

/-- R188. -/
def execMclr (md : BitVec 3) (s : State) : Res := sqWord [] (fun s => .done (s.onU fun u => setMask u md.toNat 0)) s
/-- R188. -/
def execMset (md : BitVec 3) (s : State) : Res :=
  sqWord [] (fun s => .done (s.onU fun u => setMask u md.toNat (BitVec.allOnes 65536))) s
/-- R188. -/
def execMpop (d : BitVec 6) (ma : BitVec 3) (s : State) : Res :=
  sqWord [] (fun s => .done (writeG s d (BitVec.ofNat 64 (maskPop (maskOf s.u ma.toNat))))) s
/-- R188. -/
def execMfirst (d : BitVec 6) (ma : BitVec 3) (s : State) : Res :=
  sqWord [] (fun s => .done (writeG s d (BitVec.ofNat 64 (maskFirst (maskOf s.u ma.toNat))))) s
/-- R188. -/
def execMand (md ma mb : BitVec 3) (s : State) : Res :=
  sqWord [] (fun s => .done (s.onU fun u => setMask u md.toNat (maskOf u ma.toNat &&& maskOf u mb.toNat))) s

end Sys2Proof.Machine
end

