-- ==== Sys2Proof/Machine/Special.lean ====
section
/-! DEFINITION. The special functions of the SFU (R97 to R99) and the Gaussian quantile (R255), as
correctly rounded values: each is evaluated in fixed point to several hundred bits and held with a
sticky bit, its exact cases apart (DEDUCED, log 10). -/

namespace Sys2Proof.Machine

/-- Fraction bits of the fixed-point work. -/
def fxP : Nat := 400

/-- Fraction bits of π for the reduction of arguments up to 2^128. -/
def fxQ : Nat := 700

/-- Integer square root, bit by bit from bit i − 1 downward. -/
def isqrtFrom (n : Nat) : Nat → Nat → Nat
  | 0, r => r
  | i + 1, r => let c := r + 2 ^ i; isqrtFrom n i (if c * c ≤ n then c else r)

/-- Integer square root. -/
def isqrt (n : Nat) : Nat := isqrtFrom n (n.log2 / 2 + 1) 0

/-- Σ (−1)^j z^(2j+1) / (2j+1) in units of 1/one, for z = num/den: arctangent, or with alt false the
inverse hyperbolic tangent. -/
def atanSum (one num den : Int) (alt : Bool) : Nat → Nat → Int → Int → Int
  | 0, _, _, acc => acc
  | k + 1, j, t, acc =>
    let term := t / (2 * j + 1)
    atanSum one num den alt k (j + 1) (t * num * num / (den * den))
      (if alt && j % 2 = 1 then acc - term else acc + term)

/-- atanh(num/den) in units of 2^−fxP. -/
def fxAtanh (num den : Int) : Int :=
  atanSum (2 ^ fxP) num den false 260 0 (2 ^ fxP * num / den) 0

/-- ln 2 in units of 2^−fxP. -/
def fxLn2 : Int := 2 * fxAtanh 1 3

/-- π in units of 2^−fxQ (Machin). -/
def fxPi : Int :=
  16 * atanSum (2 ^ fxQ) 1 5 true 170 0 (2 ^ fxQ / 5) 0 -
  4 * atanSum (2 ^ fxQ) 1 239 true 60 0 (2 ^ fxQ / 239) 0

/-- Σ r^n / n! in units of 2^−fxP, for |r| < 1. -/
def fxExpSum (r : Int) : Nat → Nat → Int → Int → Int
  | 0, _, _, acc => acc
  | k + 1, n, t, acc => fxExpSum r k (n + 1) (t * r / 2 ^ fxP / (n + 1)) (acc + t)

/-- e^x for x in units of 2^−fxP: a mantissa in units of 2^−fxP and an exponent of two. -/
def fxExp (x : Int) : Int × Int :=
  let ln2 := fxLn2
  let k := x / ln2
  (fxExpSum (x - k * ln2) 110 0 (2 ^ fxP) 0, k)

/-- Σ of the alternating series of sine (n odd) or cosine (n even) in units of 2^−fxP. -/
def fxTrigSum (r2 : Int) : Nat → Nat → Int → Int → Int
  | 0, _, _, acc => acc
  | k + 1, n, t, acc =>
    fxTrigSum r2 k (n + 2) (-(t * r2 / 2 ^ fxP / ((n + 1) * (n + 2)))) (acc + t)

/-- A finite value in units of 2^−p, rounded down in magnitude. -/
def toFx (p : Nat) (neg : Bool) (m : Nat) (e : Int) : Int :=
  let i : Int := (splitAt m e (-(p : Int))).1
  if neg then -i else i

/-- An inexact value in units of 2^−p, with its sticky bit. -/
def ofFx (p : Nat) (i : Int) : Val := .fin (decide (i < 0)) (2 * i.natAbs + 1) (-(p : Int) - 1)

/-- Sine and cosine of a finite argument: reduction by π/2, then the series (R98). -/
def fxSinCos (neg : Bool) (m : Nat) (e : Int) (cos : Bool) : Val :=
  let x := toFx fxQ neg m e
  let half := fxPi / 2
  let n := (2 * x + half) / (2 * half)
  let r := (x - n * half) / 2 ^ (fxQ - fxP)
  let r2 := r * r / 2 ^ fxP
  let quad := ((if cos then n + 1 else n) % 4).toNat
  let v := if quad % 2 = 0 then fxTrigSum r2 75 1 r 0 else fxTrigSum r2 75 0 (2 ^ fxP) 0
  ofFx fxP (if quad < 2 then v else -v)

/-- The series of erf without its factor: Σ (−1)^n x^(2n+1) / (n! (2n+1)). -/
def fxErfSum (x2 : Int) : Nat → Nat → Int → Int → Int
  | 0, _, _, acc => acc
  | k + 1, n, t, acc =>
    fxErfSum x2 k (n + 1) (-(t * x2 / 2 ^ fxP / (n + 1))) (acc + t / (2 * n + 1))

/-- √π in units of 2^−fxP. -/
def fxSqrtPi : Int := (isqrt (fxPi.toNat * 2 ^ (2 * fxP - fxQ)) : Nat)

/-- erf(x) for |x| up to 40 in units of 2^−fxP. -/
def fxErf (x : Int) : Int :=
  2 * fxErfSum (x * x / 2 ^ fxP) 700 0 x 0 * 2 ^ fxP / fxSqrtPi

/-- Just below or above a value 2^e: 2^e (1 ∓ 2^−100). -/
def nearPow (neg below : Bool) (e : Int) : Val :=
  .fin neg (if below then 2 ^ 100 - 1 else 2 ^ 100 + 1) (e - 100)

/-- Just below a finite magnitude. -/
def justBelow (neg : Bool) (m : Nat) (e : Int) : Val := .fin neg (m * 2 ^ 100 - 1) (e - 100)

/-- ln of a positive finite value in units of 2^−fxP. -/
def fxLog (m : Nat) (e : Int) : Int :=
  let l := m.log2
  let m2 := m * m
  let up := 2 * 2 ^ (2 * l) ≤ m2
  let k : Int := (l : Int) + e + (if up then 1 else 0)
  let d : Int := if up then 2 ^ (l + 1) else 2 ^ l
  k * fxLn2 + 2 * fxAtanh ((m : Int) - d) ((m : Int) + d)

/-- 1 / sqrt or sqrt of a positive finite value, with a sticky bit. -/
def rootV (m : Nat) (e : Int) (inv : Bool) : Val :=
  let m := if e % 2 = 0 then m else 2 * m
  let e := if e % 2 = 0 then e else e - 1
  if inv then
    let n := 2 ^ 600 / m
    let s := isqrt n
    .fin false (2 * s + (if s * s * m = 2 ^ 600 then 0 else 1)) (-300 - e / 2 - 1)
  else
    let n := m * 2 ^ 400
    let s := isqrt n
    .fin false (2 * s + (if s * s = n then 0 else 1)) (e / 2 - 200 - 1)

/-- The functions of the SFU column by code (R55): the exact value, or a value that every rounding of
R98 rounds alike. The input is not NaN. -/
def sfuVal (f : Nat) (x : Val) : Val :=
  match x with
  | .nan => .nan
  | .inf neg =>
    match f with
    | 0 | 1 => if neg then zeroV false else .inf false
    | 2 | 3 => if neg then .nan else .inf false
    | 4 => zeroV neg
    | 5 => if neg then .nan else zeroV false
    | 6 => if neg then .nan else .inf false
    | 7 | 11 => .fin neg 1 0
    | 8 => if neg then zeroV false else powV 0
    | _ => .nan
  | .fin neg m e =>
    if m = 0 then
      match f with
      | 0 | 1 | 10 => powV 0
      | 2 | 3 => .inf true
      | 4 => .inf neg
      | 5 => .inf neg
      | 8 => powV (-1)
      | _ => zeroV neg
    else
      let big := magLe 1 9 m e
      let tiny := !magLe 1 (-64) m e
      let y := toFx fxP neg m e
      match f with
      | 0 =>
        if big then (if neg then .fin false 1 (-400) else powV 400)
        else if tiny then nearPow false neg 0
        else let r := fxExp y; .fin false (2 * r.1.toNat + 1) (r.2 - fxP - 1)
      | 1 =>
        if big then (if neg then .fin false 1 (-400) else powV 400)
        else if (splitAt m e 0).2.1 = 0 then
          let i : Int := (splitAt m e 0).1
          powV (if neg then -i else i)
        else if tiny then nearPow false neg 0
        else let r := fxExp (y * fxLn2 / 2 ^ fxP); .fin false (2 * r.1.toNat + 1) (r.2 - fxP - 1)
      | 2 =>
        if neg then .nan else if m = 2 ^ m.log2 && (m.log2 : Int) + e = 0 then zeroV false
        else ofFx fxP (fxLog m e)
      | 3 =>
        if neg then .nan else if m = 2 ^ m.log2 then ofInt ((m.log2 : Int) + e)
        else ofFx fxP (fxLog m e * 2 ^ fxP / fxLn2)
      | 4 => divV (.fin neg 1 0) (.fin false m e)
      | 5 => if neg then .nan else rootV m e true
      | 6 => if neg then .nan else rootV m e false
      | 7 =>
        if magLe 1 6 m e then nearPow neg true 0 else if tiny then justBelow neg m e
        else
          let r := fxExp (2 * y.natAbs)
          let t : Int := r.1 * 2 ^ r.2.toNat
          ofFx fxP ((if neg then -1 else 1) * ((t - 2 ^ fxP) * 2 ^ fxP / (t + 2 ^ fxP)))
      | 8 =>
        if tiny then nearPow false neg (-1)
        else if big then (if neg then .fin false 1 (-400) else nearPow false true 0)
        else
          let r := fxExp y
          let t := Val.fin false r.1.toNat (r.2 - fxP)
          match divV t (addV (powV 0) t) with
          | .fin n q k => .fin n (2 * q + 1) (k - 1)
          | v => v
      | 9 => if tiny then justBelow neg m e else fxSinCos neg m e false
      | 10 => if tiny then nearPow false true 0 else fxSinCos neg m e true
      | _ =>
        if magLe 1 3 m e then nearPow neg true 0
        else if tiny then
          match divV (.fin neg (2 * m) (e + fxP)) (ofInt fxSqrtPi) with
          | .fin n q k => .fin n (2 * q + 1) (k - 1)
          | v => v
        else ofFx fxP (fxErf y)

/-- VSFU on an element (R97, R98): 16-bit to the same 16-bit format in one rounding, otherwise FP32
and then the destination under SAT. FTZ applies to the input and the results, to the FP32 result before it is converted too
(DESIGN CHOICE, log 90). -/
def sfuElem (f : Nat) (src dst : Fmt) (bitsIn : Nat) (sat ftz : Bool) : Nat :=
  let v := sfuVal f (flushV ftz (toVal src bitsIn))
  if src = dst && (src = .bf16 || src = .fp16) then flushBits dst ftz (roundTo dst v .rne sat)
  else
    let y := flushBits .fp32 ftz (roundTo .fp32 v .rne false)
    flushBits dst ftz (roundTo dst (toVal .fp32 y) .rne sat)

end Sys2Proof.Machine
end

