-- ==== Sys2Proof/Machine/VeData.lean ====
section
/-! DEFINITION. What the words of the VE columns share: nests (R141), the elements of streams as words
take and give them (R178, R194), masks under their hazards (R187, R195), working types (R85, R199), the
checks at issue (R183, R223), and the step of one output ordinal (R198, R200). -/

namespace Sys2Proof.Machine

/-! ### Nests (R141) -/

/-- Counter i of a nest position. -/
def ctrAt (ctr : List Nat) (i : Nat) : Nat := ctr.getD i 0

/-- The counters with level i one further and every lower level at 0. -/
def ctrUp (ctr : List Nat) (i : Nat) : List Nat :=
  (List.range 6).map fun k => if k < i then 0 else if k = i then ctrAt ctr k + 1 else ctrAt ctr k

/-- The word after word p of a block whose nest levels are listed innermost first, and the counters. -/
def nestNext : List NestLevel → Nat → List Nat → Nat × List Nat
  | [], p, ctr => (p + 1, ctr)
  | l :: ls, p, ctr =>
    if l.first + l.len = p + 1 && ctrAt ctr l.level + 1 < l.count then (l.first, ctrUp ctr l.level)
    else nestNext ls p ctr

/-- The first word after the outermost body of a nest, if the block has one. -/
def nestEnd (ls : List NestLevel) : Option Nat := ls.getLast?.map fun l => l.first + l.len

/-! ### Elements of streams -/

/-- The activation that supplies or takes the next element of a stream (R178). -/
def headAct (st : Stream) : Option Act :=
  st.acts.find? fun a => if actDir a = 0 then decide (a.taken < a.total) else decide (a.given < a.total)

/-- The oldest attached activation of a stream (R178): one of which nothing is left is no longer attached. -/
def oldestAct (st : Stream) : Option Act := st.acts.find? fun a => !actSpent a

/-- An activation has no further element to supply or take. -/
def actTaken (a : Act) : Bool := if actDir a = 0 then decide (a.total ≤ a.taken) else decide (a.total ≤ a.given)

/-- The elements that wait in the operand queue of a stream's loads, each with the fields of its activation, in order: up
to an activation that takes elements (DESIGN CHOICE, log 82) or has elements still to come. -/
def availIn : List Act → List (Elem × Tab Word)
  | [] => []
  | a :: as =>
    if actTaken a then availIn as
    else if actDir a != 0 then []
    else
      let xs := a.queue.map fun x => (x, a.f)
      if a.taken + a.queue.length < a.total then xs else xs ++ availIn as

def availOf (st : Stream) : List (Elem × Tab Word) := availIn st.acts

/-- The next element taken from the queue of stream n of the acting unit. -/
def takeOne (s : State) (n : Nat) : State :=
  match headAct (streamOf s.u n) with
  | some a => if actDir a = 0 then putAct s n { a with taken := a.taken + 1, queue := a.queue.drop 1 } else s
  | none => s

/-- k elements taken from stream n. -/
def takeMany (n : Nat) : Nat → State → State
  | 0, s => s
  | k + 1, s => takeMany n k (takeOne s n)

/-- An element given to stream n (R178); none while it has no activation, no place, or for RMW no old
element read. -/
def giveOne (s : State) (n : Nat) (x : Elem) : Option State :=
  let st := streamOf s.u n
  match headAct st with
  | none => none
  | some a =>
    if actDir a = 1 then
      if roomFor st a a.given then some (putAct s n { a with given := a.given + 1, outq := a.outq ++ [x] }) else none
    else if actDir a = 2 then
      if a.queue.isEmpty then none
      else some (putAct s n { a with given := a.given + 1, taken := a.taken + 1, queue := a.queue.drop 1
                                     outq := a.outq ++ [x] })
    else none

/-- Elements given one after another, counted as VE_ELEM (R467); none if one of them waits. -/
def giveAll : List (Nat × Elem) → State → Option State
  | [], s => some s
  | (n, x) :: r, s =>
    match giveOne s n x with
    | none => none
    | some s' => giveAll r (count s' s'.cur 0x0301 1)

/-- The destination activation of stream n: its fields and, for RMW, the old element (R200). None while
the stream has no activation or the old element has not been read. -/
def destOf (u : Unit) (n : Nat) : Option (Tab Word × Option Elem) :=
  match headAct (streamOf u n) with
  | none => none
  | some a =>
    if actDir a = 2 then
      match a.queue with
      | [] => none
      | x :: _ => some (a.f, some x)
    else some (a.f, none)

/-! ### Working values (R85, R86, R199) -/

/-- An FP32 working value. -/
def workF (v : Val) : Work := .f32 (BitVec.ofNat 32 (rne32b v))

/-- The value of the bits of an element, flushed under FTZ when floating. -/
def fmtVal (ftz : Bool) (fm : Fmt) (b : Nat) : Val := if isFloat fm then flushV ftz (toVal fm b) else toVal fm b

/-- The integer value of the bits of an element of an integer format. -/
def fmtInt (fm : Fmt) (b : Nat) : Int := if isSigned fm then sint b (fmtBits fm) else (b % 2 ^ fmtBits fm : Nat)

/-- R85: the bits of an element widened exactly. -/
def widenFmt (ftz : Bool) (fm : Fmt) (b : Nat) : Work :=
  if isFloat fm then workF (fmtVal ftz fm b) else .int (fmtInt fm b)

def elemVal (ftz : Bool) (x : Elem × Tab Word) : Val := fmtVal ftz (streamFmt x.2) x.1.bits.toNat
def elemInt (x : Elem × Tab Word) : Int := fmtInt (streamFmt x.2) x.1.bits.toNat

/-- R85: an element of a stream widened. -/
def widen (ftz : Bool) (x : Elem × Tab Word) : Work := widenFmt ftz (streamFmt x.2) x.1.bits.toNat

/-- The exact value of a working value. -/
def workVal : Work → Val
  | .f32 b => toVal .fp32 b.toNat
  | .int i => ofInt i

/-- The integer of an integer working value. -/
def workInt : Work → Int
  | .f32 _ => 0
  | .int i => i

/-- The working format of an integer type: 2 INT64, else INT32. -/
def wtFmt (wt : Nat) : Fmt := if wt = 2 then .int64 else .int32

/-- R203: an exact integer reduced to the working width. -/
def redInt (wt : Nat) (sat : Bool) (i : Int) : Int := sint (narrowInt (wtFmt wt) i sat) (fmtBits (wtFmt wt))

/-- R196: a constant under a working type. MODE.FTZ flushes elements of streams, and no constant (DESIGN CHOICE, log 89). -/
def constOf (wt : Nat) (k : BitVec 32) : Work := if wt = 0 then .f32 k else .int k.toInt

/-- R201: a working value written in a format. -/
def outBits (fm : Fmt) (sat ftz : Bool) (w : Work) : Nat :=
  match w with
  | .f32 b => flushBits fm ftz (roundTo fm (toVal .fp32 b.toNat) .rne sat)
  | .int i => if isFloat fm then flushBits fm ftz (roundTo fm (ofInt i) .rne sat) else narrowInt fm i sat

/-- An element of bits without a scale. -/
def rawElem (b : Nat) : Elem := { bits := BitVec.ofNat 64 b, scale := none }

/-- R199: the working type of source formats: 0 floating, 1 INT32, 2 INT64. -/
def wtOf (l : List Fmt) : Nat := if l.any isFloat then 0 else if l.contains .int64 then 2 else 1

/-- Floating and integer formats are mixed. -/
def mixedFmts (l : List Fmt) : Bool := l.any isFloat && l.any fun f => !isFloat f

/-! ### Claims and masks (R194, R195) -/

/-- The streams that a word of the columns names (R55, R202 to R216), from its code. -/
def wordStreams (w : Code) : List Nat :=
  let x := w.toNat
  let col := bits x 29 3
  let op := bits x 23 6
  let d := bits x 19 4
  let a := bits x 15 4
  let b := bits x 11 4
  if col < 2 then
    if op < 6 || op = 0xF || (8 ≤ op && op ≤ 0xD) then [d, a, b]
    else if 0x10 ≤ op && op < 0x18 then [a, b]
    else if op = 0x1D then [d] else [d, a]
  else if col < 5 then [d, a]
  else if op = 1 || op = 9 then [d]
  else if op = 3 then [a, b]
  else if op = 6 || op = 7 then [d, a, b] else [d, a]

/-- The streams a word of the columns writes. -/
def wordDests (w : Code) : List Nat :=
  let x := w.toNat
  let col := bits x 29 3
  let op := bits x 23 6
  if col < 2 && 0x10 ≤ op && op < 0x18 then []
  else if col = 5 && op = 3 then []
  else if col = 5 && op = 7 then [bits x 19 4, bits x 11 4] else [bits x 19 4]

/-- No word dispatched earlier that has not finished names one of the streams. -/
def claimOk (u : Unit) (seq : Nat) (ns : List Nat) : Bool :=
  (List.range 6).all fun c => (tget u.ve.cols c []).all fun x =>
    decide (seq ≤ x.seq) || (wordStreams x.code).all fun n => !ns.contains n

/-- Every word waiting or at work in the columns. -/
def colWords (u : Unit) : List VWord := (List.range 6).flatMap fun c => tget u.ve.cols c []

/-- The word is a VCMP that writes mask m. -/
def writesMask (w : Code) (m : Nat) : Bool :=
  decide (bits w.toNat 29 3 < 2) && bits w.toNat 26 3 == 2 && bits w.toNat 19 4 == m

/-- The number of mask bits a word writes or reads. -/
def maskSpan (v : VWord) : Nat :=
  let w := v.code.toNat
  if bits w 29 3 = 5 && bits w 23 6 = 6 then 2 * v.shN * v.shM
  else if bits w 29 3 = 5 && bits w 23 6 = 8 then v.shN else v.shN * v.shM

/-- The mask bits below which a word has read its governing mask: a RED word reads with each element it
takes, VQNT with each block. -/
def maskRead (v : VWord) : Nat :=
  let w := v.code.toNat
  if bits w 29 3 = 4 then v.taken else if bits w 29 3 = 3 then v.ord + v.kept.length else v.ord

/-- R195: bit e of mask m as a word of dispatch number seq reads it; none while an earlier writer has not
written it. -/
def maskBit (u : Unit) (r : VeRun) (seq m e : Nat) : Option Bool :=
  if m = 0 then some true
  else if (colWords u).any fun x =>
      decide (x.seq < seq) && writesMask x.code m && decide (x.ord ≤ e) && decide (e < maskSpan x) then none
  else some ((tget r.masks m 0).getLsbD e)

/-- R195: bit e of mask m may be written: earlier readers have read it, and earlier writers written it. -/
def maskFree (u : Unit) (seq m e : Nat) : Bool :=
  (colWords u).all fun x =>
    decide (seq ≤ x.seq) || decide (maskSpan x ≤ e) ||
    ((bits x.code.toNat 8 3 != m || decide (e < maskRead x)) && (!writesMask x.code m || decide (e < x.ord)))

/-! ### The plan of a word and its checks at issue (R183, R199, R223) -/

/-- What a word asks of the shared checks: the source streams that fix its working type, the others, its
destinations, whether d is an accumulator that must be RMW, the ordinals checked against 65,536,
GEN_FORM, the working type where sources do not fix it, whether a working type is refused, and a
misaligned base. -/
structure VPlan where
  typed : List Nat
  other : List Nat
  dsts : List Nat
  acc : Bool
  total : Nat
  gen : Bool
  wtFix : Option Nat
  bad : Nat → Bool
  mis : Bool

/-- The fields of the activation at the head of a stream. -/
def headFields (u : Unit) (n : Nat) : Tab Word :=
  match headAct (streamOf u n) with
  | some a => a.f
  | none => []

def headFmt (u : Unit) (n : Nat) : Fmt := streamFmt (headFields u n)

/-- R178, R194: a stream whose oldest attached activation has a direction the word may not use: RMW may be named as d
alone, the first destination. -/
def dirBad (u : Unit) (p : VPlan) : Option Nat :=
  let dir := fun n => (oldestAct (streamOf u n)).map actDir
  match (p.typed ++ p.other).find? (fun n => (dir n).any (· != 0)) with
  | some n => some n
  | none =>
    match p.dsts.find? (fun n => (dir n).any fun x => x == 0 || (x == 1 && p.acc)) with
    | some n => some n
    | none => (p.dsts.drop 1).find? fun n => (dir n).any (· == 2)

/-- The working type of the word as its streams stand. -/
def planWt (u : Unit) (p : VPlan) : Nat :=
  match p.wtFix with
  | some w => w
  | none => wtOf (p.typed.map (headFmt u))

/-- R199: VE_FORMAT at issue. -/
def typeBad (u : Unit) (p : VPlan) : Bool := mixedFmts (p.typed.map (headFmt u)) || p.bad (planWt u p)

/-- R183: the extent of an activation, in half bytes for kinds 0, 1 and 3 and in elements for kind 2. -/
def extentOf (f : Tab Word) : Int × Int :=
  let n : Int := if kindOf f = 2 then 1 else if elemBytes f = 0 then 1 else 2 * elemBytes f
  let base : Int := if kindOf f = 2 then baseOf f else 2 * baseOf f
  let reach := fun (k : Nat) => ((levelCount f k : Int) - 1) * sint (tget f (8 + k) 0).toNat 48 * n
  let lo := (List.range 6).foldl (fun x k => x + min 0 (reach k)) 0
  let hi := (List.range 6).foldl (fun x k => x + max 0 (reach k)) 0
  (base + lo, base + hi + n)

/-- R183: two activations are identical. -/
def sameNest (f g : Tab Word) : Bool :=
  kindOf f == kindOf g && baseOf f == baseOf g && fmtCode f == fmtCode g &&
  (List.range 12).all fun k => tget f (2 + k) 0 == tget g (2 + k) 0

/-- R183: two activations neither identical nor disjoint. -/
def overlaps (f g : Tab Word) : Bool :=
  kindOf f == kindOf g && !sameNest f g && decide ((extentOf f).1 < (extentOf g).2) &&
  decide ((extentOf g).1 < (extentOf f).2)

/-- R183: STREAM_OVERLAP between a source and a destination. -/
def overlapBad (u : Unit) (p : VPlan) : Bool :=
  (p.typed ++ p.other).any fun a => p.dsts.any fun d => overlaps (headFields u a) (headFields u d)

/-- What a turn of a column comes to: its word goes on, has finished, waits, or raises a cause. -/
inductive VStep where
  | go (s : State) (v : VWord)
  | fin (s : State)
  | block
  | fault (c : Cause) (addr : Word) (detail : Nat)
  deriving DecidableEq, Repr

/-- R147, R178: the first element that a word needs of a stream is in the operand queue; a store needs none. -/
def operandHere (u : Unit) (n : Nat) : Bool :=
  (headAct (streamOf u n)).any fun a => actDir a == 1 || !a.queue.isEmpty

/-- R194, R223: the issue of a word: it waits for its streams and their first elements, then its causes in their order. -/
def issueWord (col : Nat) (p : VPlan) (s : State) (v : VWord) : VStep :=
  let u := s.u
  let ns := p.typed ++ p.other ++ p.dsts
  let heads := ns.all fun n => (headAct (streamOf u n)).isSome
  if !(claimOk u v.seq ns && ns.all fun n => (oldestAct (streamOf u n)).isSome) then .block
  else if p.gen then .fault .genForm 0 col
  else if 65536 < p.total then .fault .veShape 0 col
  else
    match dirBad u p with
    | some n => .fault .streamDirection 0 n
    | none =>
      if !heads then .block
      else if typeBad u p then .fault .veFormat 0 col
      else if p.mis then .fault .streamMisaligned 0 col
      else if overlapBad u p then .fault .streamOverlap 0 col
      else if !ns.all (operandHere u) then .block
      else .go s { v with issued := true, wt := planWt u p }

/-! ### One output ordinal -/

/-- The first k elements of each source of a list of (stream, k); none while one has fewer. -/
def readySrcs (u : Unit) : List (Nat × Nat) → Option (List (List (Elem × Tab Word)))
  | [] => some []
  | (n, k) :: r =>
    let l := (availOf (streamOf u n)).take k
    if l.length < k then none else (readySrcs u r).map fun ls => l :: ls

/-- R178: elements of a later activation keep the working type. -/
def typesKeep (wt : Nat) : List (List (Elem × Tab Word)) → Bool
  | [l] => l.all fun x => wtOf [streamFmt x.2] == wt
  | ls =>
    let fs := ls.flatMap fun l => (l.take 1).map fun x => streamFmt x.2
    !mixedFmts fs && wtOf fs == wt

/-- R178: VE_FORMAT at an element whose activation is a later one of its stream. A later activation of a direction that
the word cannot use supplies and takes no element, and the word waits (DESIGN CHOICE, log 82). -/
def laterCause (p : VPlan) (col : Nat) (v : VWord) (xs : List (List (Elem × Tab Word))) : Option (Cause × Nat) :=
  if p.bad v.wt || p.wtFix.any (· != v.wt) ||
      (p.wtFix.isNone && !p.typed.isEmpty && !typesKeep v.wt (xs.take p.typed.length)) then some (.veFormat, col)
  else none

/-- The elements of a list of (stream, k) taken. -/
def takeAll (s : State) (ks : List (Nat × Nat)) : State := ks.foldl (fun s k => takeMany k.1 k.2 s) s

/-- The word after an ordinal: it goes on, or has finished. -/
def advance (s : State) (v : VWord) (outs : Nat) : VStep := if outs ≤ v.ord then .fin s else .go s v

/-- The step of one output ordinal: the mask bit e, the elements needed and those then taken, and what is
given, computed from the bit, the elements and the destinations. `p.typed` streams stand first in need. -/
def ordStep (col : Nat) (p : VPlan) (m e outs : Nat) (need took : List (Nat × Nat))
    (give : Bool → List (List (Elem × Tab Word)) → List (Tab Word × Option Elem) → List (Nat × Elem))
    (s : State) (v : VWord) : VStep :=
  match s.u.ve.run with
  | none => .block
  | some r =>
    match maskBit s.u r v.seq m e, readySrcs s.u need, p.dsts.mapM (destOf s.u) with
    | some b, some xs, some ds =>
      match laterCause p col v xs with
      | some (c, d) => .fault c 0 d
      | none =>
        match giveAll (give b xs ds) s with
        | none => .block
        | some s' => advance (takeAll s' took) { v with ord := v.ord + 1 } outs
    | _, _, _ => .block

/-- R200: the element that a destination of stream n keeps or gets where the mask bit is 0. -/
def maskedOut (d : Tab Word × Option Elem) : Elem :=
  match d.2 with
  | some x => { x with scale := none }
  | none => rawElem 0

/-! ### A turn of a column -/

/-- The column may act for the acting unit. -/
def colLive (u : Unit) (col : Nat) : Bool := issuing u && u.ve.run.isSome && !u.stopMask.getLsbD (2 + col)

def putCol (s : State) (col : Nat) (l : List VWord) : State :=
  s.onU fun u => { u with ve := { u.ve with cols := tset u.ve.cols col l } }

/-- The delay count of an element word (R54). -/
def wordDelay (w : Code) : Nat := bits w.toNat 3 5

/-- R144: the cycle has come at which a word of a column issues. The first word of an entry is timed from the entry's due
cycle, or in FREE mode from the cycle it came to the head of its column; a later one from the column's accept cycle. -/
def wordTime (u : Unit) (col : Nat) (v : VWord) : Bool :=
  if v.first then
    match v.due with
    | some d => !u.course.active || decide (d ≤ u.course.cc.toNat)
    | none => v.wait == 0
  else decide (tget u.ve.clock col 0 + wordDelay v.code ≤ 32)

/-- The column accepts a word: the occupancy of the one before is over (R222). -/
def accepting (u : Unit) (col : Nat) : Bool := decide (tget u.ve.clock col 0 ≤ 32)

/-- R222: the occupancy of a word, from the working type it found at issue. -/
def occupancy (v : VWord) : Nat :=
  let up := fun (x k : Nat) => (x + k - 1) / k
  let n := v.shN * v.shM
  let col := bits v.code.toNat 29 3
  let op := bits v.code.toNat 23 6
  if col < 2 then up n (if v.wt = 2 then 16 else 32)
  else if col = 2 then up n 16
  else if col = 3 then (if op = 1 then 2 else 1) * up n 64
  else if col = 4 then v.shM * up v.shN (if op = 6 then 32 else 64) + 6
  else if op = 2 || op = 3 then up n 16
  else if op = 6 || op = 7 then up (2 * n) 64 else up n 64

/-- A word that has issued holds its column for its occupancy. -/
def occupy (col : Nat) (s : State) (v : VWord) : State :=
  s.onU fun u => { u with ve := { u.ve with clock := tset u.ve.clock col (32 + occupancy v) } }

/-- A word of a column issues (R144, R222), or waits. -/
def issueTurn (col : Nat) (p : VPlan) (s : State) (v : VWord) : VStep :=
  if !accepting s.u col || !wordTime s.u col v then .block
  else
    match issueWord col p s v with
    | .go s' v' => .go (occupy col s' v') v'
    | r => r

/-- R144, R147: in a course a column is late: its occupancy is over and its word not done, or the time of the word that issues
next has come. -/
def colLate (u : Unit) (col : Nat) : Bool :=
  let q := tget u.ve.cols col []
  u.course.active && ((q.head?.any (·.issued) && accepting u col) || (q.find? fun v => !v.issued).any (wordTime u col))

/-- A column that cannot go on. In a course that is late, the cycle is a hold cycle (R147, R148). -/
def colWaits (s : State) (col : Nat) : State := if colLate s.u col then holdCycle s s.cur (.col col) else s

/-- A turn of a column: its head word issues, or takes its next step (R144, R224). -/
def colTurn (col : Nat) (plan : Unit → VWord → VPlan) (step : VPlan → State → VWord → VStep) (s : State) : State :=
  match tget s.u.ve.cols col [] with
  | [] => s
  | v :: rest =>
    if !colLive s.u col then s
    else
      let p := plan s.u v
      match if v.issued then step p s v else issueTurn col p s v with
      | .go s' v' => putCol s' col (v' :: rest)
      | .fin s' => putCol s' col rest
      | .block => colWaits s col
      | .fault c a d => agentFault s s.cur (.col col) c a d

/-- The FTZ and the generators and constants that the running entry captured (R191, R258). -/
def entryFtz (u : Unit) : Bool :=
  match u.ve.run with
  | some r => r.e.ftz
  | none => false

def entryK (u : Unit) (k : BitVec 4) : BitVec 32 :=
  match u.ve.run with
  | some r => tget r.e.k k.toNat 0
  | none => 0

def entryGen (u : Unit) (n : Nat) : GenReg :=
  match u.ve.run with
  | some r => tget r.e.gns n blankGen
  | none => blankGen

end Sys2Proof.Machine
end

