-- ==== Sys2Proof/Machine/Copies.lean ====
section
/-! DEFINITION. Copy channels (R289 to R314): templates and their check, the move, gathers, reductions, the DET
tracker, completion, and the buffer handles (R307 to R311). -/

namespace Sys2Proof.Machine

/-! ### Templates (R60, R61, R293 to R296) -/

/-- R60, R61: a copy step word that is reserved. -/
def copyReserved (w : Nat) : Bool :=
  let z := fun lo n => bits w lo n != 0
  match w / 2 ^ 28 with
  | 0 => w != 1
  | 1 | 2 => bits w 26 2 == 3 || decide (12 < bits w 22 4) || z 6 16
  | 3 => decide (5 < bits w 25 3) || z 6 19
  | 4 => decide (12 < bits w 24 4) || decide (12 < bits w 20 4) || bits w 18 2 == 3 || z 0 17
  | 5 => !((List.range 4).all fun k => [bits w 26 2, bits w 24 2, bits w 22 2, bits w 20 2].contains k) || z 0 20
  | 6 => decide (1 < bits w 26 2) || z 6 20
  | 7 => decide (2 < bits w 25 3) || decide (12 < bits w 21 4) || z 0 20
  | 8 => decide (2 < bits w 26 2) || (!bitAt w 25 && z 17 8) || z 0 9
  | 9 => z 0 27
  | _ => true

/-- The descriptor a step word names. -/
def doffOf (w : Nat) : Option Nat := if [1, 2, 3, 6].contains (w / 2 ^ 28) then some (w % 64) else none

/-- What the scan of a template finds: its step words up to the DONE with their indexes, or a cause. -/
def scanWords (ws : List Nat) : Nat → Nat → List Nat → Except Cause (List (Nat × Nat))
  | 0, _, _ => .error .copyTemplate
  | f + 1, i, desc =>
    if 64 ≤ i then .error .copyTemplate
    else if desc.any fun d => decide (d ≤ i) && decide (i < d + 4) then scanWords ws f (i + 1) desc
    else
      let w := ws.getD i 0
      if copyReserved w then .error .illegalOpcode
      else if w / 2 ^ 28 = 9 then
        if (ws.drop (i + 1)).all (· == 1) then .ok [(i, w)] else .error .illegalOpcode
      else
        match scanWords ws f (i + 1) (match doffOf w with | some d => d :: desc | none => desc) with
        | .error c => .error c
        | .ok l => .ok ((i, w) :: l)

/-- R294: descriptors lie after the words that name them and before the DONE, and coincide or do not
overlap. -/
def descsPlaced (l : List (Nat × Nat)) : Bool :=
  let done := (l.getLast?.map (·.1)).getD 0
  let ds := l.filterMap fun p => (doffOf p.2).map fun d => (p.1, d)
  ds.all (fun p => decide (p.1 < p.2) && decide (p.2 + 3 < done)) &&
  ds.all (fun p => ds.all fun q => p.2 == q.2 || decide (p.2 + 4 ≤ q.2) || decide (q.2 + 4 ≤ p.2))

/-- A handle word. -/
def handleWord (w : Nat) : CopyHandle := { act := bits w 26 2, rem := bitAt w 25, cap := bits w 17 8, h := bits w 9 8 }

/-- A doubleword of the argument block that a select field names (R296); none for 9 to 255. -/
def argSel (arg : List Byte) (sel : Nat) : Option Nat :=
  if sel = 0 then some 0 else if sel ≤ 8 then some (fieldAt arg (8 * (sel - 1)) 8) else none

/-- The 16 bytes of a descriptor. -/
def descAt (t : List Byte) (d : Nat) : List Byte := slice t (4 * d) 16

/-- R296: the operand that SRC or DST names. -/
def endOf (t arg : List Byte) (w : Nat) : Option CopyEnd :=
  let d := descAt t (w % 64)
  if (d.drop 9).any (· != 0) then none
  else (argSel arg (fieldAt d 8 1)).map fun a =>
    { kind := bits w 26 2, fmt := bits w 22 4, base := BitVec.ofNat 64 (fieldAt d 0 8 + a) }

/-- R296: a nest level: count, source stride, destination stride. -/
def levelOf (t arg : List Byte) (w : Nat) : Option (Nat × Int × Int) :=
  let d := descAt t (w % 64)
  let sel := fieldAt d 2 1
  if fieldAt d 3 1 != 0 then none
  else (argSel arg sel).bind fun a =>
    let c := if sel = 0 then fieldAt d 0 2 else a % 65536
    if c = 0 then none else some (c, sint (fieldAt d 4 6) 48, sint (fieldAt d 10 6) 48)

/-- R296: the index array of a gather: 64-bit indexes, base, bytes of an index unit. -/
def gatherOf (t arg : List Byte) (w : Nat) : Option (Bool × Word × Int) :=
  let d := descAt t (w % 64)
  if fieldAt d 9 1 != 0 then none
  else (argSel arg (fieldAt d 8 1)).map fun a =>
    (bits w 26 2 == 1, BitVec.ofNat 64 (fieldAt d 0 8 + a), sint (fieldAt d 10 6) 48)

/-- The size of an element in its address unit: bytes, or one nibble (R297). -/
def unitSize (f : Fmt) : Nat := max 1 (fmtBits f / 8)
def isNibble (f : Fmt) : Bool := fmtBits f == 4

/-- R85, R302: a format widens exactly to the format of a reduction. -/
def widensTo (f r : Fmt) : Bool :=
  match r with
  | .fp32 => isFloat f
  | .int32 => !isFloat f && f != .e8m0 && decide (fmtBits f ≤ 32)
  | .int64 => !isFloat f && f != .e8m0
  | _ => false

/-- R298, R302 to R305: the formats of a body agree. -/
def formatsAgree (p : CopyPlan) (det : Bool) : Bool :=
  let sf := p.src.fmt
  let df := p.dst.fmt
  let red := match p.reduce with
    | none => true
    | some (rop, rf, staged) =>
      let r := tkFmt rf
      [0, 10, 11].contains rf && (p.conv.isSome || widensTo (tkFmt sf) r) &&
      (if staged then
        p.gather.isNone && ((p.levels.getD 1 (1, 0, 0)).2.2 == 0) && df == rf && !(rop == 0 && rf == 10)
      else p.conv.isNone && (if det && rop == 0 && rf == 0 then df == 11 else df == rf))
  let conv := match p.conv with
    | some (fr, into, _, _) => fr == sf && into != 12 && into == (match p.reduce with | some (_, rf, _) => rf | none => df)
    | none => p.reduce.isSome || sf == df
  red && conv

/-- R297: an operand or index array off its alignment: its address. -/
def planMisaligned (p : CopyPlan) : Option Word :=
  let off := fun (e : CopyEnd) => !isNibble (tkFmt e.fmt) && e.base.toNat % unitSize (tkFmt e.fmt) != 0
  if off p.src then some p.src.base
  else if off p.dst then some p.dst.base
  else
    match p.gather with
    | none => none
    | some (wide, base, rstr) =>
      if base.toNat % (if wide then 8 else 4) != 0 then some base
      else if !isNibble (tkFmt p.src.fmt) && rstr % (unitSize (tkFmt p.src.fmt) : Int) != 0 then some base
      else none

/-- The only word of an operation in a body; false when it stands more than once. -/
def onceOf (l : List (Nat × Nat)) (op : Nat) : Bool × Option Nat :=
  match (l.filter fun p => p.2 / 2 ^ 28 == op).map (·.2) with
  | [] => (true, none)
  | [w] => (true, some w)
  | _ => (false, none)

/-- A step word that is neither CNOP, HANDLE nor DONE. -/
def inBody (w : Nat) : Bool := decide (1 ≤ w / 2 ^ 28) && decide (w / 2 ^ 28 ≤ 7)

/-- The body's plan from its words; none for a breach (R294, R296). -/
def bodyPlan (t arg : List Byte) (l : List (Nat × Nat)) (pro epi : List CopyHandle) (irq : Bool) : Option CopyPlan :=
  let one := onceOf l
  let nests := (List.range 6).map fun k => (l.filter fun p => p.2 / 2 ^ 28 == 3 && bits p.2 25 3 == k).map (·.2)
  match (one 1).2, (one 2).2 with
  | some ws, some wd =>
    if [1, 2, 4, 5, 6, 7].any (fun k => !(one k).1) || nests.any (fun n => decide (1 < n.length)) then none
    else
      let levels := nests.map fun n => match n with
        | [] => some (1, 0, 0)
        | w :: _ => levelOf t arg w
      let gw := (one 6).2
      match endOf t arg ws, endOf t arg wd, levels.all (·.isSome), gw.map (gatherOf t arg) with
      | some src, some dst, true, g =>
        if g = some none || (gw.isSome && (nests.getD 0 []).isEmpty) then none
        else some
          { body := true, src := src, dst := dst, levels := levels.filterMap id
            perm := match (one 5).2 with
              | some w => [bits w 26 2, bits w 24 2, bits w 22 2, bits w 20 2]
              | none => [0, 1, 2, 3]
            conv := (one 4).2.map fun w => (bits w 24 4, bits w 20 4, bits w 18 2, bitAt w 17)
            gather := g.bind id
            reduce := (one 7).2.map fun w => (bits w 25 3, bits w 21 4, bitAt w 20)
            prologue := pro, epilogue := epi, irq := irq }
      | _, _, _, _ => none
  | _, _ => none

/-- A template without a body. -/
def barePlan (epi : List CopyHandle) (irq : Bool) : CopyPlan :=
  { body := false, src := { kind := 0, fmt := 0, base := 0 }, dst := { kind := 0, fmt := 0, base := 0 }, levels := []
    perm := [], conv := none, gather := none, reduce := none, prologue := [], epilogue := epi, irq := irq }

/-- R294 to R305: the check of a whole template: its plan, or a cause and the address it names. -/
def planOf (t : List Byte) (c : Copy) : Except (Cause × Word) CopyPlan :=
  let bad : Except (Cause × Word) CopyPlan := .error (.copyTemplate, 0)
  match scanWords (elems 4 t) 64 0 [] with
  | .error e => .error (e, 0)
  | .ok l =>
    let irq := match l.getLast? with
      | some p => bitAt p.2 27
      | none => false
    let hs := l.filter fun p => p.2 / 2 ^ 28 == 8
    let body := l.filter fun p => inBody p.2
    match body.head?, body.getLast? with
    | some first, some last =>
      let pro := (hs.filter fun p => decide (p.1 < first.1)).map fun p => handleWord p.2
      let epi := (hs.filter fun p => decide (last.1 < p.1)).map fun p => handleWord p.2
      if !descsPlaced l || pro.length + epi.length != hs.length || pro.any (fun h => h.rem || h.act == 2) ||
          epi.any (fun h => h.act == 0) then bad
      else
        match bodyPlan t c.arg l pro epi irq with
        | none => bad
        | some p =>
          if !formatsAgree p c.det then bad
          else
            match planMisaligned p with
            | some a => .error (.dataMisaligned, a)
            | none => .ok p
    | _, _ =>
      let epi := hs.map fun p => handleWord p.2
      if epi.any (fun h => h.act == 0) then bad else .ok (barePlan epi irq)

/-! ### The DET tracker (R306) -/

/-- The number of the counter that the destination stride of level k applies to (R297). -/
def dstCounter (p : CopyPlan) (k : Nat) : Nat := if k < 4 then p.perm.getD k k else k

def lvlCount (p : CopyPlan) (k : Nat) : Nat := (p.levels.getD k (1, 0, 0)).1
def lvlSrc (p : CopyPlan) (k : Nat) : Int := (p.levels.getD k (1, 0, 0)).2.1
def lvlDst (p : CopyPlan) (k : Nat) : Int := (p.levels.getD k (1, 0, 0)).2.2

/-- The offset of an operand's base in address units, without the capability of a pointer. -/
def baseUnits (e : CopyEnd) : Int :=
  let b := if e.kind = 2 then e.base.toNat % 2 ^ 56 else e.base.toNat
  if isNibble (tkFmt e.fmt) then 2 * (b : Int) else (b : Int)

/-- Address units to bytes, downward. -/
def unitBytes (f : Fmt) (n : Int) : Int := if isNibble f then n / 2 else n

/-- R306: the range from the lowest to above the highest destination byte. -/
def extentOfDst (p : CopyPlan) : Int × Int :=
  let f := tkFmt p.dst.fmt
  let d : Int := unitSize f
  let spans := (List.range 6).map fun k => ((lvlCount p (dstCounter p k) : Int) - 1) * lvlDst p k
  let lo := spans.foldl (fun a v => if v < 0 then a + v else a) 0
  let hi := spans.foldl (fun a v => if 0 < v then a + v else a) 0
  let b := baseUnits p.dst
  (unitBytes f (b + lo * d), unitBytes f (b + hi * d + d - 1) + 1)

/-- R306: the domain of a destination: VF and core, VF, or VF, endpoint and key. -/
def detDomain (s : State) (uid : Nat) (p : CopyPlan) : Nat :=
  let u := s.unit uid
  match p.dst.kind with
  | 0 => u.id.vf * 128 + coreOf u
  | 1 => u.id.vf
  | _ =>
    let c := tget u.m.caps (podCap p.dst.base) blankCap
    ((u.id.vf * 2 ^ 16 + c.pkg.toNat) * 256 + c.vfn.toNat) * 2 ^ 32 + c.rkey.toNat

/-- R306: the claim of a copy, when it makes one. -/
def claimOf (s : State) (ch : Nat) (c : Copy) (p : CopyPlan) : Option DetClaim :=
  let plain := match p.reduce with
    | some (_, _, false) => false
    | _ => true
  if c.det && p.body && plain then
    let e := extentOfDst p
    some { uid := c.uid, ch := ch, kind := p.dst.kind, dom := detDomain s c.uid p, lo := e.1.toNat, hi := e.2.toNat }
  else none

/-- Two claims of different channels meet. -/
def claimsMeet (a b : DetClaim) : Bool :=
  a.ch != b.ch && a.kind == b.kind && a.dom == b.dom && decide (a.lo < b.hi) && decide (b.lo < a.hi)

/-! ### Faults of a copy (R312) -/

/-- A fault of the running copy of a channel in the core of its unit, with the channel as DETAIL. -/
def copyFault (s : State) (uid ch : Nat) (c : Cause × Word) : State := agentFault s uid .copy c.1 c.2 ch

/-- The copies of a unit may act. -/
def copyLive (s : State) (uid : Nat) : Bool := live (s.unit uid) && !(s.unit uid).stopMask.getLsbD 11

/-! ### Take-up (R289, R294) -/

/-- R95: the state a copy starts to round with. -/
def copySeed (u : Unit) (n : Nat) : Word := srInit (unitKey u ^^^ 3 ^^^ (BitVec.ofNat 64 n <<< 8))

def startRun (u : Unit) (c : Copy) (p : CopyPlan) : CopyRun :=
  { c := c, plan := p, claims := 0, pos := 0, sr := copySeed u c.n, srCount := 0, idxCur := 0, idx := [], got := []
    epi := 0, failed := none, sent := false, remoteDone := false, refused := false, buf := [] }

/-- What a channel takes up next: a copy set aside, first the running one, or the head of its queue. -/
inductive NextCopy where
  | again (r : CopyRun)
  | fresh (c : Copy)
  deriving DecidableEq, Repr

def nextCopy (s : State) (c : Channel) : Option NextCopy :=
  match c.aside.find? fun r => copyLive s r.c.uid with
  | some r => some (.again r)
  | none =>
    match c.asideQ.find? fun r => copyLive s r.uid with
    | some r => some (.fresh r)
    | none => (c.queue.find? fun r => !chanHeld c r.uid && copyLive s r.uid).map .fresh

/-- The channel without a copy that is not yet running. -/
def dropCopy (c : Channel) (x : Copy) : Channel :=
  { c with queue := c.queue.filter (fun y => !(y.uid == x.uid && y.n == x.n))
           asideQ := c.asideQ.filter (fun y => !(y.uid == x.uid && y.n == x.n)) }

/-- R36 to R38, R294: a fault at take-up sets the copy aside before it has moved anything. -/
def takeUpFault (s : State) (die ch : Nat) (x : Copy) (c : Cause × Word) : State :=
  let k := dropCopy (channelOf s die ch) x
  copyFault (putChannel s die ch { k with asideQ := x :: k.asideQ }) x.uid ch c

/-- R302, R300: a kind-2 reduction over a path that carries only 64-bit ADD and CAS. -/
def pathRefuses (s : State) (x : Copy) (p : CopyPlan) : Bool :=
  match p.reduce with
  | some (rop, rf, false) =>
    p.dst.kind == 2 && scaleOut s (tget (s.unit x.uid).m.caps (podCap p.dst.base) blankCap).pkg.toNat &&
    !(rop == 0 && rf == 11)
  | _ => false

/-- R293 to R306: a copy taken up. -/
def takeUp (s : State) (die ch : Nat) (x : Copy) : State :=
  let u := s.unit x.uid
  let va := BitVec.ofNat 64 (recField s u.id.recNo 80 8 + 256 * x.tmpl)
  if corbBusy s x.uid va 256 then s
  else
    let r := strictRead s x.uid (granules va.toNat 256) va 256
    match r.2 with
    | some (.elsewhere p, _) => awaitFar s x.uid .copy p
    | some c => takeUpFault s die ch x c
    | none =>
      match planOf r.1 x with
      | .error c => takeUpFault s die ch x c
      | .ok p =>
        if pathRefuses s x p then takeUpFault s die ch x (.atomicPath, p.dst.base)
        else
          let d := s.die die
          let go := fun (s : State) =>
            let s := (countVa s x.uid va 256).onUnit x.uid (dropFar .copy)
            putChannel s die ch { dropCopy (channelOf s die ch) x with run := some (startRun u x p) }
          match claimOf s ch x p with
          | none => go s
          | some k =>
            if d.det.any (claimsMeet k) then takeUpFault s die ch x (.detOverlap, 0)
            else if 64 ≤ d.det.length then s
            else go (s.setDie die { d with det := d.det ++ [k] })

/-- COPY_TAKE_UP (R289, R293, R294, R312). -/
def execCopyTakeUp (die ch : Nat) (s : State) : Res :=
  let c := channelOf s die ch
  happens c.run.isNone
    (match nextCopy s c with
     | none => s
     | some (.again r) =>
       putChannel s die ch { c with run := some r, aside := c.aside.filter fun y => !(y.c.uid == r.c.uid && y.c.n == r.c.n) }
     | some (.fresh x) => takeUp s die ch x) s

/-! ### Handles (R307 to R311) -/

/-- The state a claim waits for and the one it sets (R308). -/
def claimStates (act : Nat) : HState × HState := if act = 0 then (.free, .filling) else (.full, .draining)

def setRun (s : State) (die ch : Nat) (r : CopyRun) : State :=
  putChannel s die ch { channelOf s die ch with run := some r }

/-- The running copy of a channel, when its unit's copies may act. -/
def runOf (s : State) (die ch : Nat) : Option CopyRun :=
  (channelOf s die ch).run.bind fun r => if copyLive s r.c.uid then some r else none

/-- COPY_PROLOGUE_CLAIM (R308, R310): the next prologue claim granted. -/
def execCopyPrologueClaim (die ch : Nat) (s : State) : Res :=
  match runOf s die ch with
  | none => .next s
  | some r =>
    match r.plan.prologue[r.claims]? with
    | none => .next s
    | some h =>
      let w := claimStates h.act
      happens (handleOf (s.unit r.c.uid) h.h == w.1)
        (setRun (s.onUnit r.c.uid fun u => setHandle u h.h w.2) die ch { r with claims := r.claims + 1 }) s

def hstateOf (st : BitVec 2) : HState :=
  match st.toNat with
  | 0 => .free | 1 => .filling | 2 => .full | _ => .draining

/-- R311: HWAIT claims nothing. -/
def tryHwait (h : Nat) (x : HState) (s : State) : SqRes :=
  if handleOf s.u h = x then .done (refresh s s.cur) else .hold (.handle h x) s

/-- R311. -/
def execHwait (h : BitVec 8) (st : BitVec 2) (s : State) : Res := sqWord [] (tryHwait h.toNat (hstateOf st)) s

/-- HWAIT_COMPLETE (R310, R311). -/
def execHwaitComplete (s : State) : Res :=
  completes s (fun w => match w with | .handle .. => true | _ => false)
    (fun w s => match w with
      | .handle h x => tryHwait h x s
      | _ => .stop s)

/-- R311. -/
def execHset (h : BitVec 8) (st : BitVec 2) (s : State) : Res :=
  sqWord [] (fun s => .done (s.onU fun u => setHandle u h.toNat (hstateOf st))) s

/-- R311. -/
def execHtest (pd : BitVec 4) (h : BitVec 8) (st : BitVec 2) (s : State) : Res :=
  sqWord [] (fun s =>
    let is := handleOf s.u h.toNat == hstateOf st
    .done (writeP (if is then refresh s s.cur else s) pd is)) s

/-! ### Element accesses (R297, R300) -/

/-- What the read of source bytes comes to. -/
inductive CopyRd where
  | ok (bs : List Byte)
  | fault (c : Cause) (addr : Word)
  | need (cap : Option Nat) (pkg vfn : Nat) (key : BitVec 32) (off : BitVec 56) (ptr : Word)
  | busy
  deriving DecidableEq, Repr

/-- A request of the channel for source bytes at a pointer is on its way. -/
def asked (s : State) (uid die ch : Nat) (ptr : Word) : Bool :=
  (s.unit uid).m.remotes.any fun r => r.copyCh == some (die, ch) && r.kind == .read && r.dst == some ptr.toNat

/-- Bytes that came from another package, or the request for them. -/
def farRead (s : State) (r : CopyRun) (die ch : Nat) (cap : Option Nat) (pkg vfn : Nat) (key : BitVec 32)
    (off : BitVec 56) (ptr : Word) : CopyRd :=
  match r.got.find? fun g => g.1 == ptr with
  | some g => .ok g.2
  | none =>
    if asked s r.c.uid die ch ptr then .busy
    else
      match cap with
      | some k => if podAllow s r.c.uid k = 0 then .busy else .need cap pkg vfn key off ptr
      | none => .need cap pkg vfn key off ptr

/-- n bytes of a source operand of a kind, at a byte offset from its base. -/
def copyRead (s : State) (r : CopyRun) (die ch kind : Nat) (base : Word) (off : Int) (n : Nat) : CopyRd :=
  let uid := r.c.uid
  let u := s.unit uid
  let va := base + BitVec.ofInt 64 off
  if kind = 0 then
    if usable u < va.toNat + n then .fault .scratchBounds (BitVec.ofNat 64 Config.win + va)
    else if scrSpoiled s u va.toNat n then .fault .uncorrectable (BitVec.ofNat 64 Config.win + va)
    else .ok (scrRead s.mem u va.toNat n)
  else if kind = 1 then
    match translate s uid va .load with
    | .error c => .fault c va
    | .ok t =>
      if !t.res then .fault .notResident va
      else if t.wb && loadBlocked s u.id.vf va then .busy
      else match t.place with
        | .pod p v key o => farRead s r die ch none p v key o va
        | .mem k => if spoiledAt s k n then .fault .uncorrectable va else .ok (memRead s.mem k n)
  else
    let ci := podCap base
    let o := (base + BitVec.ofInt 64 off).setWidth 56
    let ptr := BitVec.ofNat 64 (ci * 2 ^ 56 + o.toNat)
    match capCause s uid ci (·.r) o with
    | some c => .fault c ptr
    | none =>
      let c := tget u.m.caps ci blankCap
      farRead s r die ch (some ci) c.pkg.toNat c.vfn.toNat c.rkey o ptr

/-- An element of a source: at an offset in address units from its base. -/
def copyElem (s : State) (r : CopyRun) (die ch : Nat) (e : CopyEnd) (off : Int) : CopyRd × Nat :=
  let f := tkFmt e.fmt
  if isNibble f then (copyRead s r die ch e.kind e.base (off / 2) 1, (off % 2).toNat)
  else (copyRead s r die ch e.kind e.base off (fmtBits f / 8), 0)

/-- The bits of an element from its bytes. -/
def elemBits (f : Fmt) (bs : List Byte) (nib : Nat) : Nat := if isNibble f then bits (leNat bs) (4 * nib) 4 else leNat bs

/-! ### Positions (R297) -/

/-- Output positions: those of the nest, with level 1 folded away by a staged reduction (R305). -/
def staged (p : CopyPlan) : Bool :=
  match p.reduce with
  | some (_, _, st) => st
  | none => false

def posTotal (p : CopyPlan) : Nat :=
  if !p.body then 0
  else (List.range 6).foldl (fun n k => if k = 1 && staged p then n else n * lvlCount p k) 1

/-- The counters at a position, with level 1 at 0 for a fold. -/
def countersAt (p : CopyPlan) (pos : Nat) : List Nat :=
  ((List.range 6).foldl (fun (a : List Nat × Nat) k =>
    if k = 1 && staged p then (a.1 ++ [0], a.2) else (a.1 ++ [a.2 % lvlCount p k], a.2 / lvlCount p k)) ([], pos)).1

def ctrI (i : List Nat) (k : Nat) : Int := (i.getD k 0 : Nat)

/-- The source offset of a position in address units; x is the index of its row. -/
def srcOff (p : CopyPlan) (i : List Nat) (x : Int) : Int :=
  let f := tkFmt p.src.fmt
  let sz : Int := unitSize f
  match p.gather with
  | some (_, _, rstr) => (if isNibble f then 2 * (x * rstr) else x * rstr) + ctrI i 0 * lvlSrc p 0 * sz
  | none => ((List.range 6).map fun k => ctrI i k * lvlSrc p k).foldl (· + ·) 0 * sz

/-- The destination offset of a position in address units. -/
def dstOff (p : CopyPlan) (i : List Nat) : Int :=
  ((List.range 6).map fun k => ctrI i (dstCounter p k) * lvlDst p k).foldl (· + ·) 0 * (unitSize (tkFmt p.dst.fmt) : Int)

/-! ### Conversion and folds (R298, R305) -/

/-- The generator state of a group of 64 converted elements. -/
def srAt : Nat → Word → Word
  | 0, w => w
  | n + 1, w => srAt n (srStep w)

/-- R298: an element converted; e is its number among the converted elements. -/
def convert (r : CopyRun) (fr into rnd : Nat) (sat : Bool) (e : Nat) (b : Nat) : Nat :=
  let f := tkFmt fr
  let t := tkFmt into
  if !isFloat f && f != .e8m0 && !isFloat t then narrowInt t (fmtInt f b) sat
  else
    let mode : RMode := if rnd = 0 then .rne else if rnd = 1 then .rtz else .sr (srBits (srAt (e / 64) r.sr) e)
    flushBits t r.c.ftz (roundTo t (fmtVal r.c.ftz f b) mode sat)

/-- The bits a value of a format has in the format of a reduction (R85). -/
def widenBits (f t : Fmt) (b : Nat) : Nat := if isFloat t then rne32b (toVal f b) else packInt t (fmtInt f b)

/-- One step of a fold (R305). -/
def foldStep (rop : Nat) (t : Fmt) (a b : Nat) : Nat :=
  if isFloat t then
    let x := toVal .fp32 a
    let y := toVal .fp32 b
    rne32b (if rop = 0 then addV x y else if rop = 1 then minV x y else maxV x y)
  else
    let x := sint a (fmtBits t)
    let y := sint b (fmtBits t)
    packInt t (if rop = 0 then x + y else if rop = 1 then (if x ≤ y then x else y) else if x ≤ y then y else x)

/-- The slots of a fold read and combined, from slot m on. -/
def foldSlots (s : State) (r : CopyRun) (die ch rop : Nat) (t : Fmt) (i : List Nat) :
    Nat → Nat → Option Nat → CopyRd × Nat
  | 0, _, acc => (.ok [], acc.getD 0)
  | n + 1, m, acc =>
    let p := r.plan
    let i' := setAt i 1 m
    let x := copyElem s r die ch p.src (srcOff p i' 0)
    match x.1 with
    | .ok bs =>
      let b := elemBits (tkFmt p.src.fmt) bs x.2
      let e := i.getD 0 0 + lvlCount p 0 * (m + lvlCount p 1 * (r.pos / lvlCount p 0))
      let v := match p.conv with
        | some (fr, into, rnd, sat) => convert r fr into rnd sat e b
        | none => widenBits (tkFmt p.src.fmt) t b
      foldSlots s r die ch rop t i n (m + 1) (some (match acc with | none => v | some a => foldStep rop t a v))
    | e => (e, 0)

/-- The element to be written at a position. -/
def valueAt (s : State) (r : CopyRun) (die ch : Nat) (i : List Nat) (x : Int) : CopyRd × Nat :=
  let p := r.plan
  match p.reduce with
  | some (rop, rf, true) => foldSlots s r die ch rop (tkFmt rf) i (lvlCount p 1) 0 none
  | _ =>
    let y := copyElem s r die ch p.src (srcOff p i x)
    match y.1 with
    | .ok bs =>
      let b := elemBits (tkFmt p.src.fmt) bs y.2
      (.ok [], match p.conv with
        | some (fr, into, rnd, sat) => convert r fr into rnd sat r.pos b
        | none => b)
    | e => (e, 0)

/-! ### The move -/

/-- A destination element: its byte offset from the base, its nibble, its bits. -/
structure OutElem where
  off : Int
  nib : Nat
  b : Nat
  deriving DecidableEq, Repr

/-- The address of a destination byte, without the capability of a pointer. -/
def dstAddr (p : CopyPlan) (off : Int) : Word :=
  let a := p.dst.base + BitVec.ofInt 64 off
  if p.dst.kind = 2 then (a.setWidth 56).setWidth 64 else a

/-- The address a cause at a destination names (R422). -/
def dstName (p : CopyPlan) (off : Int) : Word :=
  match p.dst.kind with
  | 0 => BitVec.ofNat 64 Config.win + dstAddr p off
  | 1 => dstAddr p off
  | _ => BitVec.ofNat 64 (podCap p.dst.base * 2 ^ 56) ||| dstAddr p off

def outAt (p : CopyPlan) (i : List Nat) (b : Nat) : OutElem :=
  let o := dstOff p i
  if isNibble (tkFmt p.dst.fmt) then { off := o / 2, nib := (o % 2).toNat, b := b } else { off := o, nib := 0, b := b }

/-- The granule of the destination that a position writes to. -/
def dstGran (p : CopyPlan) (pos : Nat) : Nat := (dstAddr p (outAt p (countersAt p pos) 0).off).toNat / 64

/-- One of n positions from pos on writes to the granule. -/
def comesBack (p : CopyPlan) (g : Nat) : Nat → Nat → Bool
  | 0, _ => false
  | n + 1, pos => dstGran p pos == g || comesBack p g n (pos + 1)

/-- What keeps a destination element from being written (R297, R300). -/
def dstCause (s : State) (r : CopyRun) (o : OutElem) : Option Cause :=
  let p := r.plan
  let a := dstAddr p o.off
  match p.dst.kind with
  | 0 => if usable (s.unit r.c.uid) < a.toNat + unitSize (tkFmt p.dst.fmt) then some .scratchBounds else none
  | 1 =>
    match translate s r.c.uid a .store with
    | .error c => some c
    | .ok _ => none
  | _ => capCause s r.c.uid (podCap p.dst.base) (·.w) (a.setWidth 56)

/-- The parts of its granule that an element writes (R75). -/
def partsOf (p : CopyPlan) (o : OutElem) : List BytePart :=
  let k := (dstAddr p o.off).toNat % 64
  let f := tkFmt p.dst.fmt
  if isNibble f then
    [{ off := k, mask := if o.nib = 0 then 0x0F else 0xF0, val := BitVec.ofNat 8 (o.b % 16 * 2 ^ (4 * o.nib)) }]
  else wholeParts (((List.range (fmtBits f / 8)).zip (toLe (fmtBits f / 8) o.b)).map fun q => (k + q.1, q.2))

/-- An element joins what is to be written to its granule. -/
def bufPut (p : CopyPlan) (o : OutElem) : List (Nat × List BytePart) → List (Nat × List BytePart)
  | [] => [((dstAddr p o.off).toNat / 64, partsOf p o)]
  | g :: gs =>
    if g.1 = (dstAddr p o.off).toNat / 64 then (g.1, (partsOf p o).foldl joinPart g.2) :: gs else g :: bufPut p o gs

/-- The index of the row of the present position; none where it has to be fetched first. -/
def rowIndex (r : CopyRun) : Option Int := if r.plan.gather.isSome then r.idx.head? else some 0

/-- The run after the element at its position. -/
def nextPos (r : CopyRun) : CopyRun :=
  let last := (countersAt r.plan r.pos).getD 0 0 + 1 == lvlCount r.plan 0
  { r with pos := r.pos + 1, idx := if r.plan.gather.isSome && last then r.idx.drop 1 else r.idx }

/-- Elements taken in nest order, until a granule of the destination is complete or none can be taken: the run after them,
that granule, and what keeps the next one. -/
def collect (s : State) (die ch : Nat) : Nat → CopyRun → CopyRun × Option Nat × CopyRd
  | 0, r => (r, none, .busy)
  | f + 1, r =>
    let p := r.plan
    match (if posTotal p ≤ r.pos then none else rowIndex r) with
    | none => (r, none, .busy)
    | some x =>
      let i := countersAt p r.pos
      let o := outAt p i 0
      match dstCause s r o with
      | some c => (r, none, .fault c (dstName p o.off))
      | none =>
        let v := valueAt s r die ch i x
        match v.1 with
        | .ok _ =>
          let r' := nextPos { r with buf := bufPut p { o with b := v.2 } r.buf }
          if comesBack p (dstGran p r.pos) (posTotal p - r'.pos) r'.pos then collect s die ch f r'
          else (r', some (dstGran p r.pos), .busy)
        | e => (r, none, e)

/-- A packet of a channel, its allowance taken (R300, R406). -/
def copySend (s : State) (uid die ch : Nat) (kind : PacketKind) (cap : Option Nat) (pkg vfn : Nat) (key : BitVec 32)
    (off : BitVec 56) (n aop : Nat) (bmask : BitVec 64) (data : List Byte) (dst : Option Nat) (tag : BitVec 32) : State :=
  let s := match cap with
    | none => s
    | some k => s.onUnit uid fun u =>
      let c := tget u.m.caps k blankCap
      { u with m := { u.m with caps := tset u.m.caps k { c with allow := c.allow - 1 } } }
  let r := requestOf s uid kind cap pkg vfn key off n aop bmask data dst false
  sendRemote s uid { r with
    agent := .copy, copyCh := some (die, ch)
    pkt := { r.pkt with srcCh := 1, srcId := BitVec.ofNat 16 (32 * die + ch), tag := tag } }

/-- The smallest aligned block of a granule that holds the bytes from lo to hi: offset and size. -/
def blockOf (lo hi : Nat) : Nat × Nat :=
  match [1, 2, 4, 8, 16, 32].find? fun n => lo / n == hi / n with
  | some n => (lo / n * n, n)
  | none => (0, 64)

/-- The parts of a granule by packets: whole bytes, low nibbles, high nibbles, as far as there are any (R75; DESIGN CHOICE,
log 13). -/
def packets (ps : List BytePart) : List (Nat × List BytePart) :=
  [(0, ps.filter (·.mask == 0xFF)), (1, ps.filter (·.mask == 0x0F)), (2, ps.filter (·.mask == 0xF0))].filter fun e =>
    !e.2.isEmpty

/-- Parts of one granule sent to another package; the offset is that of an element of the granule. -/
def farWrite (s : State) (uid die ch : Nat) (cap : Option Nat) (pkg vfn : Nat) (key : BitVec 32) (off : BitVec 56)
    (ps : List BytePart) : State :=
  (packets ps).foldl (fun s e =>
    let lo := e.2.foldl (fun n p => min n p.off) 64
    let hi := e.2.foldl (fun n p => max n p.off) 0
    let b := blockOf lo hi
    copySend s uid die ch .write cap pkg vfn key (BitVec.ofNat 56 (off.toNat / 64 * 64 + b.1)) b.2 e.1
      (partsMask e.2 >>> b.1)
      ((List.range b.2).map fun k => ((e.2.find? fun p => p.off == b.1 + k).map (·.val)).getD 0) none 0) s

/-- A write of a copy: performed or sent, a cause, or a wait. -/
inductive CopyWr where
  | ok (s : State)
  | fault (c : Cause)
  | busy
  deriving DecidableEq, Repr

/-- What is to be written to one granule of the destination, as one action (R299). -/
def copyWrite (s : State) (r : CopyRun) (die ch g : Nat) (ps : List BytePart) : CopyWr :=
  let p := r.plan
  let uid := r.c.uid
  let u := s.unit uid
  let a := BitVec.ofNat 64 (g * 64 + ps.foldl (fun n p => min n p.off) 64)
  match p.dst.kind with
  | 0 => .ok { s with mem := putParts s.mem (scrKey u (g * 64)) ps }
  | 1 =>
    match translate s uid a .store with
    | .error c => .fault c
    | .ok tr =>
      let seen := fun (s : State) => tlbFill (countAccess s u.id.vf a tr 1) (coreOf u) u.id.vf a tr
      match tr.place with
      | .pod pkg v key o => .ok (farWrite (seen s) uid die ch none pkg v key o ps)
      | .mem _ =>
        match writeParts s u.id.vf a tr ps with
        | none => .busy
        | some s' => .ok (seen s')
  | _ =>
    let ci := podCap p.dst.base
    let o := a.setWidth 56
    match capCause s uid ci (·.w) o with
    | some c => .fault c
    | none =>
      let c := tget u.m.caps ci blankCap
      if c.allow < (packets ps).length then .busy
      else .ok (farWrite s uid die ch (some ci) c.pkg.toNat c.vfn.toNat c.rkey o ps)

/-- R302, R303: a reduction as an atomic operation: its code and operand bits. -/
def reduceOp (r : CopyRun) (rop : Nat) (rf : Fmt) (b : Nat) : Nat × Nat :=
  let f := tkFmt r.plan.src.fmt
  let v := widenBits f rf b
  if isFloat rf then
    if rop = 0 then
      if r.c.det then
        (13, roundTo .int64 (mulV (toVal .fp32 v) (powV (sint r.c.fxscale.toNat 8))) .rne true)
      else (12, v)
    else if rop = 1 then (14, v) else (15, v)
  else (if rop = 0 then 4 else if rop = 1 then 8 else 10, v)

/-- R304: the channel's next tag cannot be given yet: 256 are unacknowledged, or another request of the channel has it. -/
def tagsFull (s : State) (die ch : Nat) : Bool :=
  let open_ := s.units.flatMap fun u => u.2.m.remotes.filter fun x => x.copyCh == some (die, ch)
  decide (256 ≤ (open_.filter fun x => x.kind == .reduce).length) ||
    open_.any fun x => x.pkt.tag == BitVec.ofNat 32 (channelOf s die ch).nextTag

/-- R302 to R304: one element combined into the destination at memory, indivisibly. -/
def copyReduce (s : State) (r : CopyRun) (die ch rop : Nat) (rf : Fmt) (o : OutElem) : CopyWr :=
  let p := r.plan
  let uid := r.c.uid
  let u := s.unit uid
  let a := dstAddr p o.off
  let n := fmtBits (tkFmt p.dst.fmt) / 8
  let op := reduceOp r rop rf o.b
  let add64 := op.1 == 4 && n == 8
  let data := toLe 8 op.2 ++ [BitVec.ofNat 8 op.1]
  let send := fun (s : State) cap pkg vfn key off =>
    let c := channelOf s die ch
    let s := putChannel s die ch { c with nextTag := c.nextTag + 1 }
    copySend s uid die ch .reduce cap pkg vfn key off n (if op.1 = 13 then 13 else rop) 0 data none
      (BitVec.ofNat 32 c.nextTag)
  match p.dst.kind with
  | 0 =>
    let k := scrKey u a.toNat
    if spoiledAt s k n then .fault .uncorrectable else .ok { s with mem := (amoAt s.mem k op.1 n op.2 0).2 }
  | 1 =>
    match translate s uid a (.atomic true add64) with
    | .error c => .fault c
    | .ok t =>
      match t.place with
      | .pod pkg v key off =>
        if tagsFull s die ch then .busy else .ok (send (countAccess s u.id.vf a t 1) none pkg v key off)
      | .mem k =>
        if spoiledAt s k n then .fault .uncorrectable
        else if t.wb then
          match hold s u.id.vf a (.atomic (a.toNat % 2 ^ 16) n op.1 (BitVec.ofNat 64 op.2) 0 .reduce) with
          | none => .busy
          | some s' => .ok (countAccess { s' with nextTag := s'.nextTag + 1 } u.id.vf a t 1)
        else
          .ok (tlbFill (countAccess { s with mem := (amoAt s.mem k op.1 n op.2 0).2 } u.id.vf a t 1) (coreOf u) u.id.vf a t)
  | _ =>
    let ci := podCap p.dst.base
    let off := a.setWidth 56
    match capCause s uid ci (·.amo) off with
    | some c => .fault c
    | none =>
      let c := tget u.m.caps ci blankCap
      if c.allow = 0 || tagsFull s die ch then .busy else .ok (send s (some ci) c.pkg.toNat c.vfn.toNat c.rkey off)

/-- The addresses that the element at a position is read from (R297, R305). -/
def srcAddrs (r : CopyRun) : List Word :=
  let p := r.plan
  let i := countersAt p r.pos
  let at_ := fun (i : List Nat) => p.src.base + BitVec.ofInt 64 (unitBytes (tkFmt p.src.fmt) (srcOff p i ((rowIndex r).getD 0)))
  if staged p then (List.range (lvlCount p 1)).map fun m => at_ (setAt i 1 m) else [at_ i]

/-- Read accesses to addresses of the package's virtual memory counted, one for each granule they come to in turn (R357). -/
def countReads (s : State) (uid : Nat) : Option Nat → List Word → State
  | _, [] => s
  | g, a :: as =>
    countReads (if g = some (a.toNat / 64) then s else countVa s uid a 1) uid (some (a.toNat / 64)) as

/-- The addresses read for the elements from a run's position up to pos. -/
def readsTo (pos : Nat) : Nat → CopyRun → List Word
  | 0, _ => []
  | f + 1, r => if pos ≤ r.pos then [] else srcAddrs r ++ readsTo pos f (nextPos r)

/-- The reads of the elements of r that r' has taken, counted; a granule that the element before them came to is not counted
again. -/
def countSrc (s : State) (r r' : CopyRun) : State :=
  if r.plan.src.kind != 1 then s
  else
    let before := if r.pos = 0 || r.plan.gather.isSome then none
      else (srcAddrs { r with pos := r.pos - 1 }).getLast?.map fun a => a.toNat / 64
    countReads s r.c.uid before (readsTo r'.pos (r'.pos - r.pos) r)

/-- A request for source bytes goes out. -/
def askFor (s : State) (r : CopyRun) (die ch n : Nat) : CopyRd → State
  | .need cap pkg vfn key off ptr => copySend s r.c.uid die ch .read cap pkg vfn key off n 0 0 [] (some ptr.toNat) 0
  | _ => s

/-- What waits for further elements written, so that every element below the position is performed (R312). -/
def flushRun (s : State) (r : CopyRun) (die ch : Nat) : State :=
  let q := r.buf.foldl (fun (q : State × List (Nat × List BytePart)) g =>
    match copyWrite q.1 r die ch g.1 g.2 with
    | .ok s' => (count s' r.c.uid 0x0601 g.2.length, q.2)
    | _ => (q.1, q.2 ++ [g])) (s, [])
  setRun q.1 die ch { r with buf := q.2 }

/-- What stopped a run at an element: a cause, a request to send, or a wait. -/
def stopped (s : State) (r : CopyRun) (die ch n : Nat) : CopyRd → State
  | .fault (.elsewhere p) _ => awaitFar s r.c.uid .copy p
  | .fault c a => copyFault (flushRun s r die ch) r.c.uid ch (c, a)
  | .need cap pkg vfn key off ptr => askFor s r die ch n (.need cap pkg vfn key off ptr)
  | _ => s

/-- R301: up to 64 indexes fetched ahead of the rows. -/
def fetchIdx (s : State) (r : CopyRun) (die ch : Nat) (wide : Bool) (base : Word) (last : Nat) :
    Nat → Nat → List Int × CopyRd
  | 0, _ => ([], .busy)
  | f + 1, g =>
    if last ≤ g then ([], .busy)
    else
      let n := if wide then 8 else 4
      match copyRead s r die ch r.plan.src.kind base (g * n : Nat) n with
      | .ok bs => let q := fetchIdx s r die ch wide base last f (g + 1); (sint (leNat bs) (8 * n) :: q.1, q.2)
      | e => ([], e)

/-- An element combined into its destination (R302). -/
def reduceOne (s : State) (r : CopyRun) (die ch rop : Nat) (rf : Fmt) (x : Int) : State :=
  let p := r.plan
  let n := max 1 (fmtBits (tkFmt p.src.fmt) / 8)
  let i := countersAt p r.pos
  let o := outAt p i 0
  if p.dst.kind = 0 && decide (usable (s.unit r.c.uid) < (dstAddr p o.off).toNat + unitSize (tkFmt p.dst.fmt)) then
    copyFault s r.c.uid ch (.scratchBounds, dstName p o.off)
  else
    let v := valueAt s r die ch i x
    match v.1 with
    | .ok _ =>
      match copyReduce s r die ch rop rf { o with b := v.2 } with
      | .fault e => copyFault s r.c.uid ch (e, dstName p o.off)
      | .busy => s
      | .ok s' =>
        let r' := { nextPos r with got := [] }
        countSrc (count (setRun s' die ch r') r.c.uid 0x0601 (unitSize (tkFmt p.dst.fmt))) r r'
    | e => stopped s r die ch n e

/-- The next elements moved, up to the end of a granule of the destination (R299). -/
def moveSome (s : State) (r : CopyRun) (die ch : Nat) : State :=
  let p := r.plan
  let c := collect s die ch 128 r
  let r' := c.1
  match c.2.1 with
  | some g =>
    let ps := (r'.buf.filter fun e => e.1 == g).flatMap (·.2)
    match copyWrite s r die ch g ps with
    | .fault e => stopped s r die ch 0 (.fault e (dstName p (outAt p (countersAt p (r'.pos - 1)) 0).off))
    | .busy => s
    | .ok s' =>
      let r' := { r' with got := [], buf := r'.buf.filter fun e => e.1 != g }
      countSrc (count (setRun s' die ch r') r.c.uid 0x0601 ps.length) r r'
  | none =>
    if r'.pos = r.pos then stopped s r die ch (max 1 (fmtBits (tkFmt p.src.fmt) / 8)) c.2.2
    else let r' := { r' with got := [] }; countSrc (setRun s die ch r') r r'

/-- COPY_MOVE (R297 to R305): indexes fetched, or one element reduced, or the next elements moved. -/
def copyMove (s : State) (r : CopyRun) (die ch : Nat) : State :=
  let p := r.plan
  match (if r.idx.isEmpty then p.gather else none) with
  | some (wide, base, _) =>
    let n := if wide then 8 else 4
    let q := fetchIdx s r die ch wide base (posTotal p / lvlCount p 0) 64 r.idxCur
    if q.1.isEmpty then stopped s r die ch n q.2
    else
      let s' := setRun s die ch { r with idx := q.1, idxCur := r.idxCur + q.1.length, got := [] }
      if p.src.kind != 1 then s'
      else countReads s' r.c.uid none ((List.range q.1.length).map fun k => base + BitVec.ofNat 64 ((r.idxCur + k) * n))
  | none =>
    match p.reduce with
    | some (rop, rf, false) => reduceOne s r die ch rop (tkFmt rf) ((rowIndex r).getD 0)
    | _ => moveSome s r die ch

/-- COPY_MOVE. -/
def execCopyMove (die ch : Nat) (s : State) : Res :=
  match runOf s die ch with
  | none => .next s
  | some r => happens (r.claims == r.plan.prologue.length && decide (r.pos < posTotal r.plan)) (copyMove s r die ch) s

/-! ### Completion (R299, R308, R309, R331) -/

/-- Every request of the channel for a unit has been acknowledged. -/
def chanQuiet (s : State) (uid die ch : Nat) : Bool := !((s.unit uid).m.remotes.any fun r => r.copyCh == some (die, ch))

/-- R308: a local epilogue action. -/
def epilogueLocal (s : State) (r : CopyRun) (h : CopyHandle) : State × CopyRun :=
  let x := handleOf (s.unit r.c.uid) h.h
  let next := { r with epi := r.epi + 1 }
  if h.act = 2 then (s.onUnit r.c.uid fun u => setHandle u h.h .free, next)
  else if x = .free || x = .filling then (s.onUnit r.c.uid fun u => setPend (setHandle u h.h .full) 2, next)
  else (s, { next with failed := match r.failed with | some f => some f | none => some h.h })

/-- R309: a remote action sent, or a cause. -/
def epilogueRemote (s : State) (r : CopyRun) (die ch : Nat) (h : CopyHandle) : State :=
  let uid := r.c.uid
  let off : BitVec 56 := BitVec.ofNat 56 h.h
  match capCause s uid h.cap (·.handle) off with
  | some c => copyFault s uid ch (c, BitVec.ofNat 64 (h.cap * 2 ^ 56 + h.h))
  | none =>
    let c := tget (s.unit uid).m.caps h.cap blankCap
    if c.allow = 0 then s
    else
      copySend (setRun s die ch { r with sent := true }) uid die ch .handle (some h.cap) c.pkg.toNat c.vfn.toNat c.rkey off 1 0
        0 [BitVec.ofNat 8 h.act] none 0

/-- R299, R306, R331: the copy is complete. -/
def finishCopy (s : State) (r : CopyRun) (die ch : Nat) : State :=
  let uid := r.c.uid
  let d := s.die die
  let s := s.setDie die { d with det := d.det.filter fun k => !(k.uid == uid && k.ch == ch) }
  let s := putChannel s die ch { channelOf s die ch with run := none }
  let s := s.onUnit uid fun u =>
    { u with m := { u.m with donecnt := tset u.m.donecnt ch (tget u.m.donecnt ch 0 + 1), counter := u.m.counter + 1 } }
  match r.failed with
  | some h => agentFault s uid .copy .handleState 0 h
  | none => if r.plan.irq then s.onUnit uid fun u => setPend u 0 else s

/-- The epilogue from the word reached on. -/
def epilogue (die ch : Nat) : Nat → State → CopyRun → State
  | 0, s, r => setRun s die ch r
  | f + 1, s, r =>
    match r.plan.epilogue[r.epi]? with
    | none => finishCopy s r die ch
    | some h =>
      if !h.rem then let p := epilogueLocal s r h; epilogue die ch f p.1 p.2
      else if r.remoteDone then
        let next := { r with epi := r.epi + 1, sent := false, remoteDone := false, refused := false }
        if r.refused then copyFault (setRun s die ch next) r.c.uid ch (.copyRemote, 0) else epilogue die ch f s next
      else if r.sent then setRun s die ch r
      else epilogueRemote (setRun s die ch r) r die ch h

/-- COPY_COMPLETE (R299, R308, R309): after the last write is acknowledged, the epilogue, up to a remote
action that has not been answered, and then the end of the copy. -/
def execCopyComplete (die ch : Nat) (s : State) : Res :=
  match runOf s die ch with
  | none => .next s
  | some r =>
    happens (r.claims == r.plan.prologue.length && decide (posTotal r.plan ≤ r.pos) && chanQuiet s r.c.uid die ch)
      (epilogue die ch 65 s r) s

/-! ### Suspension and end (R313) -/

/-- A channel as a suspension leaves it: the running copy of a unit set aside, its queued ones withdrawn. -/
def parkOn (uid : Nat) (c : Channel) : Channel :=
  let c := asideOn uid c
  { c with queue := c.queue.filter (·.uid != uid), asideQ := c.asideQ ++ c.queue.filter (·.uid == uid) }

/-- A channel as a resume leaves it: withdrawn copies appended again in their order. -/
def unparkOn (uid : Nat) (c : Channel) : Channel :=
  { c with asideQ := c.asideQ.filter (·.uid != uid), queue := c.queue ++ c.asideQ.filter (·.uid == uid) }

/-- A channel without the copies of a unit. -/
def abortOn (uid : Nat) (c : Channel) : Channel :=
  { c with queue := c.queue.filter (·.uid != uid), asideQ := c.asideQ.filter (·.uid != uid)
           aside := c.aside.filter (·.c.uid != uid)
           run := c.run.bind fun r => if r.c.uid = uid then none else some r }

/-- Every channel changed. -/
def onChannels (s : State) (f : Channel → Channel) : State :=
  { s with dies := tmap (fun _ d => { d with channels := tmap (fun _ c => f c) d.channels }) s.dies }

/-- R313: CANCEL aborts the copies of a unit and releases its claims. -/
def abortCopies (s : State) (uid : Nat) : State :=
  let s := onChannels s (abortOn uid)
  { s with dies := tmap (fun _ d => { d with det := d.det.filter (·.uid != uid) }) s.dies }

/-- R313, R325: every copy a unit started is complete. -/
def copiesDone (s : State) (uid : Nat) : Bool :=
  s.dies.all fun d => d.2.channels.all fun c =>
    c.2.queue.all (·.uid != uid) && c.2.asideQ.all (·.uid != uid) && c.2.aside.all (·.c.uid != uid) &&
    (match c.2.run with | some r => r.c.uid != uid | none => true)

end Sys2Proof.Machine
end

