-- ==== Sys2Proof/Machine/Commands.lean ====
section
/-! DEFINITION. Isune commands: the checks of their header, their responses, and the measurement registers
(R447, R460, R480, R483 to R486, R490). -/

namespace Sys2Proof.Machine

/-- The queue pair is a device queue pair, and they are ready (R480, R490). -/
def deviceQp (s : State) (h : IsuneHdr) : Bool :=
  decide (1 ≤ h.qp.toNat) && decide (h.qp.toNat ≤ 16) && (s.firm.bring == 4 || s.firm.bring == 5)

/-- The world of a device queue pair: QP 1 to 8 are Secure (R480). -/
def qpSecure (h : IsuneHdr) : Bool := decide (h.qp.toNat ≤ 8)

/-- What a command asks of its header. -/
structure CmdNeeds where
  secure : Bool
  vf : Bool
  early : Bool
  create : Bool
  deriving DecidableEq, Repr

/-- A command that a queue pair of either world takes, after bring-up. -/
def anyCmd : CmdNeeds := { secure := false, vf := false, early := false, create := false }

/-- A command for one active VF. -/
def vfCmd : CmdNeeds := { anyCmd with vf := true }

/-- A command of Secure queue pairs alone. -/
def secureCmd : CmdNeeds := { anyCmd with secure := true }

/-- R484, R490: the status a header earns; none when the command may act. VF 0xFF is VF 255 in a command for one VF, and VF_CREATE
names its VF in the payload (DEDUCED, logs 49 and 50). -/
def headerStatus (s : State) (h : IsuneHdr) (n : CmdNeeds) : Option Nat :=
  let v := s.vf h.vf.toNat
  if h.version != 1 || h.reserved || decide (2 ^ 22 < h.length.toNat) then some 1
  else if h.world != (if qpSecure h then 1 else 0) then some 5
  else if h.kind != 0 then some 13
  else if !n.early && s.firm.bring != 5 then some 14
  else if s.firm.open_.contains h.tag then some 12
  else if n.secure && !qpSecure h then some 5
  else if n.create then none
  else if h.vf = 0xFF && !n.vf then none
  else if v.st != .active then some 4
  else if v.world && !qpSecure h then some 5
  else none

/-- What a command comes to: a response (status, detail, payload), or steps that end later (R485). -/
inductive CmdAns where
  | answer (s : State) (status detail : Nat) (fields : List Nat) (bytes : List Byte)
  | later (s : State)
  deriving DecidableEq, Repr

/-- A response without a payload. -/
def answer (s : State) (status detail : Nat) : CmdAns := .answer s status detail [] []

/-- A command of a device queue pair, taken as a whole (R485). -/
def command (n : CmdNeeds) (h : IsuneHdr) (body : State → CmdAns) (s : State) : Res :=
  if !deviceQp s h then .next s
  else
    match headerStatus s h n with
    | some c => .next (respond s h c 0 [] [])
    | none =>
      match body s with
      | .answer s' c d fs bs => .next (respond s' h c d fs bs)
      | .later s' => .next { s' with firm := { s'.firm with open_ := s'.firm.open_ ++ [h.tag] } }

/-- A command of several steps answers when its last step ends (R485). -/
def answerLater (s : State) (h : IsuneHdr) (status detail : Nat) (fields : List Nat) : State :=
  respond { s with firm := { s.firm with open_ := s.firm.open_.filter (· != h.tag) } } h status detail fields []

/-! ### Measurement (R460) -/

/-- A measurement register. -/
def measOf (s : State) (n : Nat) : List Byte := padTo (tget s.firm.meas n []) 32 0

/-- An extend of register n by a digest, with its log entry. -/
def extendMeas (s : State) (n : Nat) (opcode : BitVec 16) (tag : BitVec 32) (vf : BitVec 8) (prefix_ d : List Byte) : State :=
  let e : MeasEntry := { reg := n, opcode := opcode, tag := tag, vf := vf, digest := d }
  let l := s.firm.measLog ++ [e]
  { s with firm := { s.firm with
      meas := tset s.firm.meas n (sha256 (measOf s n ++ prefix_ ++ d))
      measLog := l.drop (l.length - 4096)
      measLost := s.firm.measLost + (l.length - 4096) } }

/-- A digest of a payload whose bytes the manual does not lay out (DESIGN CHOICE, log 2). -/
def freeDigest (s : State) : List Byte × State :=
  ((List.range 4).flatMap fun i => toLe 8 (Config.freeWord (s.free + i)).toNat, { s with free := s.free + 4 })

/-- R460: the extend of a command that has succeeded. -/
def measure (s : State) (n : Nat) (h : IsuneHdr) : State :=
  let d := freeDigest s
  extendMeas d.2 n h.opcode h.tag h.vf [] d.1

/-- A command that has succeeded without a payload to return, and is measured. -/
def measured (s : State) (n : Nat) (h : IsuneHdr) : CmdAns := answer (measure s n h) 0 0

end Sys2Proof.Machine
end

