-- ==== Sys2Proof/Machine/Pool.lean ====
section
/-! DEFINITION. The launch pool: records and their checks (R316, R317), releases (R319 to R321), the words
LRPATCH, LRARM, LRSTAT (R322, R323), LAUNCH_POOL_WRITE and JOB_START (R486). -/

namespace Sys2Proof.Machine

/-! ### Records -/

/-- First key of launch record i. -/
def recKey (i : Nat) : Nat := Config.poolKey + 512 * i

def recUnits (s : State) (i : Nat) : Nat := recField s i 112 2
def recSegs (s : State) (i : Nat) : Nat := recField s i 114 1
def recPub (s : State) (i : Nat) : Nat := recField s i 115 1
def recCoursed (s : State) (i : Nat) : Bool := bitAt (recField s i 116 1) 0
def recDet (s : State) (i : Nat) : Bool := bitAt (recField s i 116 1) 1
def recPrio (s : State) (i : Nat) : Nat := recField s i 117 1
def recGraph (s : State) (i : Nat) : Nat := recField s i 122 2
def recBnum (s : State) (i : Nat) : Nat := recField s i 124 2
def recBcnt (s : State) (i : Nat) : Nat := recField s i 126 2
def recSucc (s : State) (i : Nat) : List Nat := (List.range 8).map fun k => recField s i (128 + 2 * k) 2
def recMap (s : State) (i : Nat) : List Nat := (List.range (recUnits s i)).map fun u => recField s i (256 + u) 1

/-- The VA and size of the code sections of a record: scalar, vector, matrix (R316). -/
def recSections (s : State) (i : Nat) : List (Nat × Nat) :=
  [(recField s i 0 8, recField s i 8 4), (recField s i 16 8, recField s i 24 4), (recField s i 32 8, recField s i 40 4)]

/-- The VF in whose range a record lies (R316). -/
def vfOfRec (s : State) (i : Nat) : Option Nat :=
  (s.vfs.find? fun v => v.2.st != .absent && decide (v.2.poolFirst ≤ i) && decide (i < v.2.poolFirst + v.2.poolCount)).map (·.1)

/-! ### Cores of a VF (R20 to R22, R451) -/

/-- The position of a logical core. -/
def position (s : State) (l : Nat) : Option Nat := (positions s)[l]?

/-- The logical cores of a VF's partitions, rising, with their positions (R451). -/
def partitionCores (s : State) (vf : Nat) : List (Nat × Nat) :=
  ((List.range 128).zip (positions s)).filter fun e => (s.bay (bayOf e.2)).vfs.contains vf

/-! ### The checks of a record (R317) -/

/-- The reserved bytes of a record. -/
def recReserved : List Nat :=
  [12, 13, 14, 15, 28, 29, 30, 31, 44, 45, 46, 47] ++ (List.range 112).map (144 + ·) ++ (List.range 64).map (448 + ·)

/-- A core number that no TLB serves: firmware walks the tables themselves. -/
def noCore : Nat := 1024

/-- An address in a VF's context, outside any unit. -/
def vfTranslate (s : State) (vf : Nat) (va : Word) (acc : Acc) : Except Cause Tr :=
  translateIn s noCore vf (s.vf vf).heap va acc

/-- A run of n bytes lies below the copy aperture (R342), and every page of it translates to a resident page of which p holds. -/
def pagesOk (s : State) (vf : Nat) (acc : Acc) (p : Tr → Bool) (va n : Nat) : Bool :=
  decide (va + max n 1 ≤ Config.copyAp) && (List.range ((va + max n 1 - 1) / 2 ^ 16 + 1 - va / 2 ^ 16)).all fun k =>
    match vfTranslate s vf (BitVec.ofNat 64 ((va / 2 ^ 16 + k) * 2 ^ 16)) acc with
    | .ok t => t.res && p t
    | .error _ => false

/-- R33: a section's form. -/
def sectionForm (limit : Nat) (e : Nat × Nat) : Bool := e.1 % 256 == 0 && e.2 % 4 == 0 && decide (e.2 ≤ limit)

/-- Sections that a record has: a vector or matrix section at 0 is none. -/
def presentSections (s : State) (i : Nat) : List (Nat × Nat) :=
  match recSections s i with
  | [sc, ve, me] => [sc] ++ [ve, me].filter (·.1 != 0)
  | l => l

/-- Check 3. -/
def codeForm (s : State) (i : Nat) : Bool :=
  match recSections s i with
  | [sc, ve, me] =>
    let entry := recField s i 48 8
    sectionForm (2 ^ 24) sc && (ve.1 == 0 || sectionForm (2 ^ 20) ve) && (me.1 == 0 || sectionForm (2 ^ 20) me) &&
    entry % 4 == 0 && decide (sc.1 ≤ entry) && decide (entry < sc.1 + sc.2)
  | _ => false

/-- Distinct entries. -/
def distinct : List Nat → Bool
  | [] => true
  | x :: xs => !xs.contains x && distinct xs

def barrierOf (s : State) (die n : Nat) : Barrier := tget (s.die die).barriers n blankBarrier
def putBarrier (s : State) (die n : Nat) (b : Barrier) : State :=
  s.setDie die { s.die die with barriers := tset (s.die die).barriers n b }

/-- R321: the die a launch with a barrier is placed on. -/
def launchDie (s : State) (i vf : Nat) : Option Nat :=
  (List.range 4).find? fun d =>
    (barrierOf s d (recBnum s i)).vf == some vf &&
    decide (recUnits s i ≤ ((partitionCores s vf).filter fun e => dieOf e.2 == d).length)

/-- The checks of R317, in order. -/
def recChecks (s : State) (i vf : Nat) : List (Nat × Bool) :=
  let n := recUnits s i
  let coursed := recCoursed s i
  let map := recMap s i
  let part := partitionCores s vf
  let v := s.vf vf
  [(1, recReserved.all (fun o => recField s i o 1 == 0) && recField s i 116 1 / 4 == 0 && recBnum s i / 512 == 0),
   (2, decide (1 ≤ n) && decide (n ≤ 128) && decide (1 ≤ recSegs s i) && decide (recSegs s i ≤ 64) &&
       decide (recPub s i ≤ 16) && decide (recPub s i < recSegs s i) && decide (recPrio s i ≤ 3) &&
       decide (1 ≤ recField s i 120 2) && decide (recField s i 120 2 ≤ 128)),
   (3, codeForm s i),
   (4, (presentSections s i).all fun e => pagesOk s vf .load (fun _ => true) e.1 e.2),
   (5, recPrio s i != 0 || coursed),
   (6, !coursed || (recField s i 64 8 != 0 && map.all (fun m => decide (m < recField s i 120 2)) && distinct map)),
   (7, coursed || map.all fun m => m == 0xFF || decide (m < part.length)),
   (8, decide (recField s i 120 2 ≤ (positions s).length)),
   (9, (recSucc s i).all fun x => x == 0xFFFF || (decide (v.poolFirst ≤ x) && decide (x < v.poolFirst + v.poolCount))),
   (10, recBcnt s i == 0 || (decide (n ≤ 32) && (launchDie s i vf).isSome)),
   (11, pagesOk s vf .store (fun t => t.kind == 0) (recField s i 96 8) (n * Config.ctxBytes)),
   (12, recField s i 72 8 == 0 || pagesOk s vf .load (fun _ => true) (recField s i 72 8) 4096),
   (13, recBcnt s i == 0 || (match launchDie s i vf with
      | some d => (barrierOf s d (recBnum s i)).arr == 0
      | none => false))]

/-- R317: the first check that a record fails. -/
def recFails (s : State) (i vf : Nat) : Option Nat := ((recChecks s i vf).find? fun c => !c.2).map (·.1)

/-! ### Units of a record (R324) -/

/-- The units of a record's current or last run. -/
def unitsOf (s : State) (i : Nat) : List Nat := (s.units.filter fun e => e.1 / 128 == i).map (·.1)

/-- Fresh units of a record, in a state. -/
def makeUnits (s : State) (i vf : Nat) (st : UState) : State :=
  let others := s.units.filter fun e => e.1 / 128 != i
  let job := (s.recOf i).job
  let n := min (recUnits s i) 128
  let fresh := fun k : Nat =>
    { blankUnit with st := st, id := { blankUnit.id with vf := vf, recNo := i, idx := k, count := n, job := job } }
  (List.range n).foldl (fun s k => s.putUnit (uidOf i k) (fresh k)) { s with units := others }

/-! ### Ready queues (R326) -/

/-- Entries join a VF's ready queues. -/
def joinReady (s : State) (vf i level : Nat) (units : List (Option Nat)) : State :=
  s.onVf vf fun v => units.foldl (fun (v : Vf) u =>
    { v with ready := v.ready ++ [{ recNo := i, unit := u, level := level, ord := v.readyOrd, age := 0 }]
             readyOrd := v.readyOrd + 1 }) v

/-- A record leaves the ready queues. -/
def leaveReady (s : State) (vf i : Nat) : State := s.onVf vf fun v => { v with ready := v.ready.filter (·.recNo != i) }

/-! ### Release (R319 to R321) -/

/-- The job of a record. -/
def jobOfRec (s : State) (i : Nat) : Nat := jobKey ((vfOfRec s i).getD 0) (s.recOf i).job

def onJob (s : State) (k : Nat) (f : Job → Job) : State := s.setJob k (f (s.job k))

/-- R321: the BINIT of a launch's barrier. -/
def launchBinit (s : State) (i : Nat) (die : Option Nat) : State :=
  match die with
  | none => s
  | some d => putBarrier s d (recBnum s i) { barrierOf s d (recBnum s i) with exp := BitVec.ofNat 16 (recBcnt s i) }

/-- R320: a refused record returns to IDLE, and firmware reports it. -/
def refuse (s : State) (i vf check : Nat) : State :=
  let s := s.putRec i { s.recOf i with st := .idle, live := 0, refused := true }
  vfEvent { s with units := s.units.filter fun e => e.1 / 128 != i } vf 0x0102 [i, check]

/-- R320, R326: a record becomes READY, if it is well formed. -/
def becomeReady (s : State) (i vf : Nat) : State × Bool :=
  match recFails s i vf with
  | some c => (refuse s i vf c, false)
  | none =>
    let die := if recBcnt s i = 0 then none else launchDie s i vf
    let r := s.recOf i
    let s := s.putRec i { r with st := .ready, live := 0, ended := 0, refused := false, launchCtr := 0, die := die
                                 tstart := 0, cancelled := false, code := some s.mem }
    let s := makeUnits (launchBinit s i die) i vf .ready
    let entries := if recCoursed s i then [none] else (List.range (recUnits s i)).map some
    (joinReady s vf i (recPrio s i) entries, true)

/-- R319: a release of a record for a job, by a launch or by none; false when it made the record READY and it
was refused. -/
def releaseRec (s : State) (i job : Nat) (by_ : Option Nat) : State × Bool :=
  let vf := (vfOfRec s i).getD 0
  let r := s.recOf i
  match r.st with
  | .ready | .active => (onJob s (jobOfRec s i) fun j => { j with overrun := j.overrun + 1 }, true)
  | st =>
    let r := if st = .idle then { r with job := job } else r
    let live := if st = .idle then recField s i 118 2 - 1 else r.live - 1
    let key := jobKey vf r.job
    let mark := match by_ with
      | some b => ((s.headers.filter fun h => h.recNo == b && h.complete).map (·.k)).foldl max 0
      | none => 0
    let s := onJob s key fun j =>
      { j with recs := if j.recs.contains i then j.recs else j.recs ++ [i]
               released := match by_ with
                 | some b => j.released ++ [(mark, b, i)]
                 | none => j.released }
    let s := s.putRec i { r with st := .waiting, live := live, releasedAt := (s.job key).phaseCtr.toNat, cancelled := false }
    let s := if st = .idle then makeUnits s i vf .waiting else s
    if live = 0 then becomeReady s i vf else (s, true)

/-! ### LRPATCH, LRARM, LRSTAT -/

/-- R322: the record that a word names, when the unit's VF may name it. -/
def lrecOf (s : State) (a : BitVec 6) : Option Nat :=
  let i := (gOf s a).toNat
  let v := s.vf s.u.id.vf
  if decide (i < 8192) && decide (v.poolFirst ≤ i) && decide (i < v.poolFirst + v.poolCount) then some i else none

/-- R322. -/
def execLrpatch (a b : BitVec 6) (s : State) : Res :=
  sqWord [a, b] (fun s =>
    match lrecOf s a with
    | none => .trap .lrecDenied 0 0
    | some i =>
      let va := gOf s b
      let la := va.toNat - Config.win
      let st := (s.recOf i).st
      if va.toNat < Config.win || va.toNat % 64 != 0 || decide (usable s.u < la + 64) then .trap .scratchBounds va 0
      else if st = .ready || st = .active then .trap .lrecState 0 0
      else if scrSpoiled s s.u la 64 then .trap .uncorrectable va 0
      else .done { s with mem := memPut s.mem (recKey i + 384) (scrRead s.mem s.u la 64) }) s

/-- R322, R320: a refusal raises LAUNCH_FORM at the word, and is reported. -/
def execLrarm (a : BitVec 6) (s : State) : Res :=
  sqWord [a] (fun s =>
    match lrecOf s a with
    | none => .trap .lrecDenied 0 0
    | some i =>
      let r := releaseRec s i s.u.id.job (some s.u.id.recNo)
      if r.2 then .done r.1 else .stop (sqFault .launchForm 0 0 r.1)) s

/-- The STATE code of R323. -/
def recCode : RecSt → Nat
  | .idle => 0 | .waiting => 1 | .ready => 2 | .active => 3

/-- R323. -/
def recStatus (r : Rec) : Word :=
  BitVec.ofNat 64 (recCode r.st + 256 * r.live + 2 ^ 24 * (r.ended % 256) + 2 ^ 32 * r.runs.toNat + 2 ^ 40 * r.refused.toNat)

/-- R322, R323. -/
def execLrstat (d a : BitVec 6) (s : State) : Res :=
  sqWord [a] (fun s =>
    match lrecOf s a with
    | none => .trap .lrecDenied 0 0
    | some i => .done (writeG s d (recStatus (s.recOf i)))) s

/-! ### Commands -/

/-- Records of a list within a VF's range. -/
def inRange (v : Vf) (i : Nat) : Bool := decide (v.poolFirst ≤ i) && decide (i < v.poolFirst + v.poolCount)

/-- Whole records written from index i on (R316). -/
def writeRecs : Nat → List (List Byte) → State → State
  | _, [], s => s
  | i, b :: bs, s =>
    let s := { s with mem := memPut s.mem (recKey i) (padTo b 512 0) }
    writeRecs (i + 1) bs (s.putRec i { s.recOf i with runs := 0 })

/-- LAUNCH_POOL_WRITE (R486). -/
def execLaunchPoolWrite (h : IsuneHdr) (first : Nat) (recs : List (List Byte)) (s : State) : Res :=
  command vfCmd h (fun s =>
    let v := s.vf h.vf.toNat
    let is := (List.range recs.length).map (first + ·)
    if recs.any fun b => b.length != 512 then answer s 1 0
    else
      match is.find? (fun i => !inRange v i) with
      | some i => answer s 6 i
      | none =>
        match is.find? (fun i => (s.recOf i).st != .idle) with
        | some i => answer s 15 i
        | none => answer (writeRecs first recs s) 0 0) s

/-- R331: the counters of a job begin at 0. -/
def startJob (s : State) (vf job : Nat) : State :=
  let s := onJob s (jobKey vf job) fun _ => { blankJob with running := true, linksBefore := s.pod.failed.length, linksSeen := s.pod.failed.length }
  s.onVf vf fun v => { v with graphs := v.graphs.filter fun g => g.1 / 65536 != job }

/-- JOB_START (R319, R486). -/
def execJobStart (h : IsuneHdr) (job : Nat) (recs : List Nat) (s : State) : Res :=
  command vfCmd h (fun s =>
    let vf := h.vf.toNat
    match recs.find? (fun i => !inRange (s.vf vf) i) with
    | some i => answer s 6 i
    | none =>
      if s.firm.cancels.any fun c => c.2 == jobKey vf job then answer s 7 0
      else answer (recs.foldl (fun s i => (releaseRec s i job none).1) (startJob s vf job)) 0 0) s

end Sys2Proof.Machine
end

