-- ==== Sys2Proof/Machine/Place.lean ====
section
/-! DEFINITION. Placement of units and gangs (R102, R171, R172, R326 to R329, R402, R444), ageing of ready
queues, time slices, pre-emption and suspension (R247, R271, R313, R330), and the save engine (R170 to R172). -/

namespace Sys2Proof.Machine

/-! ### Segments of a core (R170, R171) -/

def segOf (c : Core) (p : Nat) : SegOwner := tget c.segs p { st := 0, uid := 0, logical := 0, vf := none }

/-- A run of storage cleared. -/
def memZero (m : Mem) (k n : Nat) : Mem := m.filter fun e => decide (e.1 < k) || decide (k + n ≤ e.1)

/-- First key of a physical segment. -/
def segKey (core p : Nat) : Nat := Config.scratchKey + core * 2 ^ 22 + p * Config.segBytes

def freeSegs (c : Core) : List Nat := (List.range 64).filter fun p => (segOf c p).st == 0

/-- A corbel runs a command of the unit. -/
def commandRuns (u : Unit) : Bool := u.m.leases.any fun l => l.2.running

/-- The PARKED segments of other units that no running command of theirs needs (R271): the oldest suspension first, and there
the highest number first. -/
def parkedSegs (s : State) (c : Core) (uid : Nat) : List Nat :=
  let since := fun p => (s.unit (segOf c p).uid).id.suspendedAt
  sortBy (fun a b => decide (since a < since b) || (since a == since b && decide (b < a)))
    ((List.range 64).filter fun p =>
      (segOf c p).st == 2 && (segOf c p).uid != uid && !commandRuns (s.unit (segOf c p).uid))

/-- The segment on a core that holds logical segment k of a suspended unit. -/
def parkedAt (c : Core) (uid k : Nat) : Option Nat :=
  (List.range 64).find? fun p => (segOf c p).st == 2 && (segOf c p).uid == uid && (segOf c p).logical == k

/-- R171, R172: the physical segments of n logical ones on a core: those the unit has parked there, and
the supply in order; none when it does not suffice. -/
def claimSegs (s : State) (c : Core) (uid n : Nat) : Option (List Nat) :=
  let kept := (List.range n).map (parkedAt c uid)
  let supply := freeSegs c ++ parkedSegs s c uid
  if supply.length < (kept.filter (·.isNone)).length then none
  else
    some (kept.foldl (fun (r : List Nat × List Nat) k => match k with
      | some p => (r.1 ++ [p], r.2)
      | none => (r.1 ++ [r.2.headD 0], r.2.drop 1)) ([], supply)).1

/-- A segment given to a unit: zeroed when another VF held it (R448). -/
def giveSeg (s : State) (core uid vf p k : Nat) (fresh : Bool) : State :=
  let c := s.core core
  let o := segOf c p
  let s := if o.vf != some vf then { s with mem := memZero s.mem (segKey core p) Config.segBytes } else s
  s.setCore core { c with segs := tset c.segs p { st := if fresh then 1 else 4, uid := uid, logical := k, vf := some vf } }

/-- One claimed segment: kept, given, or SAVING until its owner's data is written out (R171). -/
def takeSeg (s : State) (core uid vf p k : Nat) (fresh : Bool) : State :=
  let c := s.core core
  let o := segOf c p
  if o.st = 2 && o.uid = uid then s.setCore core { c with segs := tset c.segs p { o with st := 1 } }
  else if o.st = 2 then s.setCore core { c with segs := tset c.segs p { o with st := 3 } }
  else giveSeg s core uid vf p k fresh

/-- Every segment of a unit's map is its own, in one of the given states. -/
def segsAre (s : State) (uid : Nat) (ok : Nat → Bool) : Bool :=
  let u := s.unit uid
  u.id.segMap.all fun p => let o := segOf (s.core (coreOf u)) p; o.uid == uid && ok o.st

/-- The unit's segments on every core become FREE. -/
def freeUnitSegs (s : State) (uid : Nat) : State :=
  { s with cores := tmap (fun _ c => { c with segs := tmap (fun _ o =>
      if o.uid = uid && o.st != 0 && o.st != 3 then { o with st := 0 } else o) c.segs }) s.cores }

/-! ### The profiling session of a unit (R473, R474) -/

/-- The event ids of this part (R467). -/
def partEvents : List Nat :=
  [0x0101, 0x0102, 0x0201, 0x0202, 0x0203, 0x0301, 0x0302, 0x0401, 0x0402, 0x0501, 0x0502, 0x0601, 0x0701, 0x0702,
   0x0703, 0x0801, 0x0802, 0x0901, 0x0A01, 0x1001, 0x1101]

/-- A unit with its VF's session as it stands now. -/
def takeSession (s : State) (u : Unit) : Unit :=
  match (s.vf u.id.vf).session with
  | none => { u with sess := none, ctr := { u.ctr with event := [], absent := [] } }
  | some ses =>
    let evs := (List.range ses.spec.events.length).zip ses.spec.events
    { u with sess := some ses.spec
             ctr := { u.ctr with event := evs.map (fun e => (16 + e.1, e.2))
                                 absent := evs.map fun e => (16 + e.1, e.2 != 0 && !partEvents.contains e.2.toNat) } }

/-! ### The state at placement (R102, R402, R444) -/

/-- R402: an entry of a capability table; invalid when its fields break the layout. -/
def capOf (s : State) (b : List Byte) : CapEntry :=
  let f := fieldAt b 3 1
  let allow := fieldAt b 4 1
  let pkg := fieldAt b 0 2
  if f / 32 != 0 || allow = 0 || decide (64 < allow) || fieldAt b 5 3 != 0 || fieldAt b 12 4 != 0 ||
      decide (podSize s ≤ pkg) then blankCap
  else
    { v := bitAt f 0, r := bitAt f 1, w := bitAt f 2, amo := bitAt f 3, handle := bitAt f 4, pkg := BitVec.ofNat 12 pkg
      vfn := BitVec.ofNat 8 (fieldAt b 2 1), allow := allow, rkey := BitVec.ofNat 32 (fieldAt b 8 4) }

/-- Fixed-size pieces of a list. -/
def chunksOf (n : Nat) : Nat → List Byte → List (List Byte)
  | 0, _ => []
  | f + 1, b => b.take n :: chunksOf n f (b.drop n)

/-- R402: the bytes of a unit's capability table, of the table it has. -/
def capBytes (s : State) (uid : Nat) : List Byte × Option (Cause × Word) :=
  let va := recField s (s.unit uid).id.recNo 72 8
  if va = 0 then ([], none) else strictRead s uid (granules va 4096) (BitVec.ofNat 64 va) 4096

/-- R402: the capability entries of a unit. -/
def loadCaps (s : State) (uid : Nat) : Tab CapEntry :=
  match capBytes s uid with
  | (_, some _) => []
  | (bs, none) => if bs.isEmpty then [] else tableFrom 0 ((chunksOf 16 256 bs).map (capOf s))

/-- R444: a digest in four registers from a number on. -/
def hashRegs (n : Nat) (d : List Byte) : Tab Word :=
  (List.range 4).map fun k => (n + k, BitVec.ofNat 64 (fieldAt d (8 * k) 8))

/-- R34: the bytes of a code section, as a unit reads them. -/
def sectionBytes (s : State) (uid : Nat) (e : Nat × Nat) : List Byte × Option (Cause × Word) :=
  strictRead s uid (granules e.1 e.2) (BitVec.ofNat 64 e.1) e.2

/-- R34: the bytes of each section of a unit's record; a vector or matrix section at 0 is none (R316). -/
def sectionReads (s : State) (uid : Nat) : List (List Byte × Option (Cause × Word)) :=
  let es := recSections s (s.unit uid).id.recNo
  ((List.range es.length).zip es).map fun p => if p.1 != 0 && p.2.1 = 0 then ([], none) else sectionBytes s uid p.2

/-- R444: the bytes of this package's set 0 programs and descriptors, ports in order. -/
def schedBytes (s : State) : List Byte :=
  (List.range 12).flatMap fun p =>
    match tfind (s.link p).sets 0 with
    | some g => (g.words.flatMap fun w => toLe 4 w.toNat) ++ g.descs.flatMap id
    | none => []

/-- R444: the manifest of a unit, and the cause and address of a section that could not be read. -/
def manifestOf (s : State) (uid : Nat) : Tab Word × Option (Cause × Word) :=
  let i := (s.unit uid).id.recNo
  let reads := sectionReads s uid
  let digest := fun k => let e := (recSections s i).getD k (0, 0)
    if e.1 = 0 && k != 0 then [] else hashRegs (4 * k) (sha256 (reads.getD k ([], none)).1)
  let sched := if (s.links.any fun l => (tfind l.2.sets 0).isSome) then hashRegs 12 (sha256 (schedBytes s)) else []
  match reads.findSome? (·.2) with
  | some c => ([], some c)
  | none =>
    (digest 0 ++ digest 1 ++ digest 2 ++ sched ++
      [(16, BitVec.ofNat 64 (recField s i 116 1 % 4)), (17, BitVec.ofNat 64 (Config.sfuVer + 2 ^ 16 * Config.gtabVer)),
       (18, BitVec.ofNat 64 (recField s i 88 8)), (19, BitVec.ofNat 64 (recField s i 120 2 % 256))] ++
      hashRegs 20 (padTo s.pod.tree 32 0) ++ [(24, 1)], none)

/-- R102: the registers of a unit at placement. -/
def firstRegs (s : State) (u : Unit) : Regs :=
  let i := u.id.recNo
  let args := (List.range 8).map fun k => (1 + k, BitVec.ofNat 64 (recField s i (384 + 8 * k) 8))
  { blankRegs with
    pc := BitVec.ofNat 64 (recField s i 48 8)
    g := args ++ [(9, BitVec.ofNat 64 u.id.idx), (10, BitVec.ofNat 64 u.id.count)] }

/-- R102, R105, R344, R372: the control registers of a unit at placement. -/
def firstCsrs (s : State) (u : Unit) : Csrs :=
  let i := u.id.recNo
  let v := s.vf u.id.vf
  let sb := recField s i 88 8
  { blankCsrs with
    uihandler := BitVec.ofNat 64 (recField s i 56 8) &&& ~~~(3 : Word)
    det := recDet s i, coursed := recCoursed s i
    seedl := BitVec.ofNat 64 (sb % 2 ^ 32), seedh := BitVec.ofNat 64 (sb / 2 ^ 32)
    scopepol := v.scopepol, heapb := v.heap.base, heapl := v.heap.limit, heapo := v.heap.off }

/-- R95, R102: a unit at placement, apart from what is read through its own tables. -/
def firstUnit (s : State) (u : Unit) : Unit :=
  let u := { blankUnit with
    st := .running, id := u.id, r := firstRegs s u, c := firstCsrs s u, restored := true, far := u.far }
  let k := unitKey u
  takeSession s
    { u with ve := { u.ve with cvt := srInit (k ^^^ 1) }, me := { u.me with st := { u.me.st with drain := srInit (k ^^^ 2) } } }

/-- R34: a section that placement cannot read raises its cause at the entry word. -/
def entryFault (s : State) (uid : Nat) : Option (Cause × Word) → State
  | none => s
  | some (c, va) =>
    raiseFault s uid { cause := c, agent := .sq, precise := true, addr := va, detail := 0, fpc := (s.unit uid).r.pc, corb := none }

/-- A fresh unit placed on a core with its segments. -/
def placeFresh (s : State) (uid : Nat) : State :=
  let s := s.putUnit uid (firstUnit s (s.unit uid))
  let caps := loadCaps s uid
  let m := manifestOf s uid
  let s := s.onUnit uid fun u => { dropFar .sq u with
    m := { u.m with caps := caps, snap := s.mem }, c := { u.c with manifest := m.1 } }
  entryFault s uid m.2

/-- Bytes of another package that a placement reads and that have not come (R352): of the capability table, or of a code
section. -/
def wantedFar (s : State) (uid : Nat) : Option FarPlace :=
  (capBytes s uid :: sectionReads s uid).findSome? fun r =>
    match r.2 with
    | some (.elsewhere p, _) => some p
    | _ => none

/-- A unit takes a core: its segments claimed, its map and place set, then its state as at placement, or, for a
suspended one, as it was (R102, R172). -/
def placeUnit (s : State) (uid pos : Nat) (segs : List Nat) : State :=
  let u := s.unit uid
  let i := u.id.recNo
  let fresh := u.st != .suspended
  let vf := u.id.vf
  let r := s.recOf i
  let s := s.putRec i { r with st := .active }
  let s := ((List.range segs.length).zip segs).foldl (fun s e => takeSeg s pos uid vf e.2 e.1 fresh) s
  let s := s.setCore pos { s.core pos with occupant := some uid }
  let job := s.job (jobKey vf u.id.job)
  let s := s.onUnit uid fun u => { u with
    st := .running, preempt := false
    id := { u.id with core := some pos, gang := recCoursed s i, segs := recSegs s i, pubseg := recPub s i, segMap := segs
                      seedb := BitVec.ofNat 64 (recField s i 88 8), placedAt := s.cycle
                      phaseMark := if fresh then job.phaseCtr.toNat else u.id.phaseMark
                      suspendedAt := if fresh then 0 else u.id.suspendedAt } }
  let s := if fresh then placeFresh s uid else s
  s.onUnit uid fun u => { u with restored := fresh && segsAre s uid (· == 1) }

/-- The reads of a placement, as the unit would make them on its core. -/
def placeWants (s : State) (uid pos : Nat) : Option FarPlace :=
  if (s.unit uid).st == .suspended then none
  else
    let s := s.onUnit uid fun u => { u with id := { u.id with core := some pos } }
    wantedFar (s.putUnit uid (firstUnit s (s.unit uid))) uid

/-- Units placed, all in one cycle, once what their placement reads at other packages is there; until then it is asked for. -/
def placeAll (s : State) (ps : List (Nat × Nat × List Nat)) (k : State → State) : State :=
  match ps.findSome? fun p => (placeWants s p.1 p.2.1).map fun f => (p.1, f) with
  | some (uid, f) => askFar s uid .sq f
  | none => ps.foldl (fun s p => placeUnit s p.1 p.2.1 p.2.2) (k s)

/-! ### UNIT_PLACEMENT, GANG_PLACEMENT -/

/-- The head of a VF's ready queues: the highest level, and there the first to join (R326). -/
def readyHead (s : State) (vf : Nat) : Option ReadyEntry :=
  (sortBy (fun (a b : ReadyEntry) => decide (a.level < b.level) || (a.level == b.level && decide (a.ord < b.ord)))
    (s.vf vf).ready).head?

def dropReady (s : State) (vf : Nat) (e : ReadyEntry) : State :=
  s.onVf vf fun v => { v with ready := v.ready.filter (·.ord != e.ord) }

/-- A bay serves a VF now: it is in its partition, and has the slice (R329). -/
def serves (b : Bay) (vf : Nat) : Bool := b.vfs.contains vf && (b.active.isNone || b.active == some vf)

/-- A unit none of whose segments is being written out. -/
def noSaving (s : State) (uid : Nat) : Bool := !(s.cores.any fun c => c.2.segs.any fun o => o.2.st == 3 && o.2.uid == uid)

/-- R327, R321: whether a unit can be placed on a position now, and with which segments. -/
def canPlace (s : State) (uid vf pos : Nat) : Option (List Nat) :=
  let u := s.unit uid
  let r := s.recOf u.id.recNo
  if (s.core pos).occupant.isSome || !serves (s.bay (bayOf pos)) vf || !(r.die.isNone || r.die == some (dieOf pos)) ||
      !noSaving s uid then none
  else claimSegs s (s.core pos) uid (recSegs s u.id.recNo)

/-- R31, R327: the logical core a FREE unit is bound to: the one its MAP entry names, by package number (DESIGN CHOICE, log 5),
or the one it was suspended on; none when any will do. -/
def boundCore (s : State) (u : Unit) : Option Nat :=
  let m := (recMap s u.id.recNo).getD u.id.idx 0xFF
  if m != 0xFF then some m
  else if u.st = .suspended then some (logicalOf s (coreOf u)) else none

/-- R327: the first position where a FREE unit can be placed. -/
def unitPlace (s : State) (uid vf : Nat) : Option (Nat × List Nat) :=
  let b := boundCore s (s.unit uid)
  ((partitionCores s vf).filter fun e => b.isNone || b == some e.1).findSome? fun e => (canPlace s uid vf e.2).map fun g => (e.2, g)

/-- R329: the unit of a level numerically above p, most recently placed, is asked to leave its core. -/
def displace (s : State) (vf p : Nat) : State :=
  let us := s.units.filter fun e => e.2.id.vf == vf && e.2.st == .running && !e.2.id.gang && decide (p < recPrio s e.2.id.recNo)
  if us.any (·.2.preempt) then s
  else
    match (sortBy (fun (a b : Nat × Unit) => decide (b.2.id.placedAt < a.2.id.placedAt)) us).head? with
    | some e => s.onUnit e.1 fun u => { u with preempt := true }
    | none => s

/-- UNIT_PLACEMENT (R326, R327, R329): the head entry of a VF's queues, a FREE unit, is placed; where no core
takes it, a unit of a lower level is pre-empted. -/
def execUnitPlacement (vf : Nat) (s : State) : Res :=
  match readyHead s vf with
  | none => .next s
  | some e =>
    match e.unit with
    | none => .next s
    | some k =>
      let uid := uidOf e.recNo k
      if (s.vf vf).st != .active then .next s
      else
        match unitPlace s uid vf with
        | some (pos, segs) => .next (placeAll s [(uid, pos, segs)] fun s => dropReady s vf e)
        | none => .next (displace s vf e.level)

/-- R328: the places of every unit of a gang, all at once. -/
def gangPlaces (s : State) (vf i : Nat) (us : List Nat) : Option (List (Nat × Nat × List Nat)) :=
  let cores := partitionCores s vf
  let place := fun uid =>
    match cores.find? fun e => e.1 == (recMap s i).getD (s.unit uid).id.idx 0xFF with
    | some e => (canPlace s uid vf e.2).map fun g => (uid, e.2, g)
    | none => none
  if us.all fun u => (place u).isSome then some (us.filterMap place) else none

/-- R328: the start tide time of a launch placed now. -/
def gangStart (s : State) (i : Nat) : Nat :=
  let t := recField s i 104 8
  if t != 0 then t else (s.tide.toNat + 8000 + Config.periodNs - 1) / Config.periodNs * Config.periodNs

/-- READY_QUEUE_AGING (R326): an entry that has waited 2^22 cycles moves up one level, not into level 0. -/
def ageReady (e : ReadyEntry) : ReadyEntry :=
  if 2 ^ 22 ≤ e.age then { e with age := e.age - 2 ^ 22, level := if e.level ≤ 1 then e.level else e.level - 1 } else e

/-- READY_QUEUE_AGING. -/
def execReadyQueueAging (vf : Nat) (s : State) : Res :=
  happens ((s.vf vf).ready.any fun e => decide (2 ^ 22 ≤ e.age)) (s.onVf vf fun v => { v with ready := v.ready.map ageReady }) s

/-! ### Slices, pre-emption and suspension (R329, R330) -/

/-- The units of a VF that run on the given bays. -/
def runningOn (s : State) (vf : Nat) (bays : List Nat) : List Nat :=
  unitsWhere s fun u => u.id.vf == vf && (u.st == .running || u.st == .held) && bays.contains (bayOf (coreOf u))

/-- SLICE_END (R329): at the end of its quantum, the outgoing VF's units are asked to leave, and the incoming VF's queues are served. -/
def execSliceEnd (outVf inVf : Nat) (s : State) : Res :=
  let bays := (s.bays.filter fun b => b.2.active == some outVf && b.2.vfs.contains inVf).map (·.1)
  let s' := (runningOn s outVf bays).foldl (fun s u => s.onUnit u fun u => { u with preempt := true }) s
  happens (!bays.isEmpty && outVf != inVf && bays.all fun n => decide ((s.bay n).sliceAt + (s.bay n).quantum ≤ s.tide.toNat))
    (bays.foldl (fun s n => s.setBay n { s.bay n with active := some inVf, sliceAt := s.tide.toNat }) s') s

/-- R247: tiles that are not live come back as zeros. -/
def dropDead (m : MeState) : MeState := { m with tiles := m.tiles.filter fun t => t.2.live }

/-- VA of offset o in the context area of a unit (R434). -/
def contextAt (s : State) (uid o : Nat) : Word :=
  let u := s.unit uid
  BitVec.ofNat 64 (recField s u.id.recNo 96 8 + u.id.idx * Config.ctxBytes + o)

/-- The bytes of a tile in element order, and of its sums and flags (R434). -/
def tileBytes (t : Tile) : List Byte := (List.range 16384).flatMap fun e => toLe 4 (tget t.w e 0).toNat

def tileSums (t : Tile) : List Byte :=
  ((List.range 128).flatMap fun j => toLe 4 (tget t.rs j 0).toNat) ++ ((List.range 128).flatMap fun j => toLe 4 (tget t.cs j 0).toNat) ++
  toLe 8 (t.int.toNat + 2 ^ 8 * t.live.toNat + 2 ^ 16 * t.satf.toNat + 2 ^ 24 * t.sumwrap.toNat)

/-- What the save engine writes of a suspended unit beside its segments, by offset (R247, R434): its live tiles with their sums
and flags; the bytes of the areas without a stated layout are free (DESIGN CHOICE, logs 2 and 32). -/
def contextPieces (s : State) (u : Unit) : List (Nat × List Byte) :=
  (u.me.st.tiles.filter fun t => t.2.live).flatMap (fun t =>
    [(0x400000 + t.1 * 0x10000, tileBytes t.2), (0x440000 + t.1 * 0x800, tileSums t.2)]) ++
  [(0x442000, freeBytes s.free 0x3E000)]

/-- A run of bytes written by the save engine: false while it waits for a hold queue or for a table of another package; a
page that cannot be written is left. -/
def saveBytes (uid : Nat) (q : State × Bool) (va : Word) (bs : List Byte) : State × Bool :=
  if !q.2 then q
  else
    match engWriteAll uid .sq (granules va.toNat bs.length) q.1 va bs with
    | (s, some (some (.elsewhere p, _))) => (askFar s uid .sq p, false)
    | (s, some none) => (s, false)
    | (s, _) => (s, true)

/-- R247, R434: the save engine writes a unit's context area; false while it has to wait. -/
def saveContext (s : State) (uid : Nat) : State × Bool :=
  let image := (contextPieces s (s.unit uid)).map fun p => (contextAt s uid p.1, p.2)
  let q := image.foldl (fun q p => saveBytes uid q p.1 p.2) ({ s with free := s.free + 0x3E000 }, true)
  (q.1.onUnit uid fun u => { u with image := image }, q.2)

/-- R170, R313, R330: a unit leaves its core, its segments parked and its copies set aside. -/
def suspendUnit (s : State) (uid : Nat) : State :=
  let u := s.unit uid
  let pos := coreOf u
  let c := s.core pos
  let s := onChannels s (parkOn uid)
  let s := s.setCore pos { c with occupant := none, segs := tmap (fun _ o =>
    if o.uid = uid && o.st = 1 then { o with st := 2 } else o) c.segs }
  s.onUnit uid fun u => { dropFars (fun _ => true) u with
    st := .suspended, wait := none, poll := false, preempt := false, halted := false
    id := { u.id with suspendedAt := s.cycle + 1 }, me := { u.me with st := dropDead u.me.st } }

/-! ### Where the engines of a unit can be stopped (R143, R178, R330) -/

/-- A nest position is the start of an iteration (R143). -/
def atIteration (ls : List NestLevel) (widx : Nat) (ctr : List Nat) : Bool :=
  (widx == 0 && ctr.all (· == 0)) || ls.any fun l => l.first == widx && (List.range l.level).all fun k => ctr.getD k 0 == 0

/-- The running entry of the VE is at such a start, its columns empty. -/
def veAtBoundary (u : Unit) : Bool :=
  match u.ve.run with
  | none => true
  | some r => (r.atEnd || atIteration r.levels r.widx r.ctr) && u.ve.cols.all (·.2.isEmpty)

/-- The running entry of the ME is at such a start. -/
def meAtBoundary (u : Unit) : Bool :=
  match u.me.run with
  | none => true
  | some r => r.atEnd || (!r.issued && r.ord == 0 && atIteration r.levels r.widx r.ctr)

/-- A stream activation is at a chunk boundary, with no access under way (R178). -/
def actAtBoundary (a : Act) : Bool :=
  let c := chunkElems (streamFmt a.f)
  !a.started || a.finished ||
  (a.inflight.isEmpty && !a.half && a.wrote == a.performed &&
    (actDir a == 1 || a.issued % c == 0 || a.issued == a.total) &&
    (actDir a == 0 || a.performed % c == 0 || a.performed == a.total || a.performed == a.flushTo))

/-- R330: every engine of the unit is at a point where pre-emption stops it. -/
def enginesAtBoundary (u : Unit) : Bool :=
  veAtBoundary u && meAtBoundary u && u.ae.s.all fun e => e.2.acts.all actAtBoundary

/-- R330: the sequencer is at a word boundary, or in a wait that the word takes up again. -/
def atBoundary (u : Unit) : Bool :=
  match u.wait with
  | none => true
  | some (.phaseArrive _) | some (.phaseMeet _) | some .waiti => true
  | some w => interruptible w

/-- PREEMPTION_COMPLETE (R330): the acting unit, no member of a gang, is suspended and joins its queue again. -/
def execPreemptionComplete (s : State) : Res :=
  let u := s.u
  let q := saveContext s s.cur
  happens (u.st == .running && u.preempt && !u.id.gang && atBoundary u && enginesAtBoundary u)
    (if q.2 then joinReady (suspendUnit q.1 s.cur) u.id.vf u.id.recNo (recPrio s u.id.recNo) [some u.id.idx] else q.1) s

/-- R438, R330: a gang whose units have all written the same keystone is suspended as a whole. -/
def suspendGang (s : State) (i : Nat) : State :=
  let us := (unitsOf s i).filter fun u => (s.unit u).st == .running
  let vf := (vfOfRec s i).getD 0
  let q := us.foldl (fun (q : State × Bool) u => if q.2 then saveContext q.1 u else q) (s, true)
  if q.2 then joinReady (us.foldl suspendUnit q.1) vf i (recPrio s i) [none] else q.1

/-! ### The save engine (R171, R172, R434) -/

/-- VA of logical segment k in the context area of a unit (R434). -/
def saveArea (s : State) (uid k : Nat) : Word := contextAt s uid (k * Config.segBytes)

/-- SEGMENT_SAVE_COMPLETE (R171): a SAVING segment is written out, and passes to the unit that claimed it; until all of it is
written it does not. -/
def execSegmentSaveComplete (core seg : Nat) (s : State) : Res :=
  let o := segOf (s.core core) seg
  let q := saveBytes o.uid (s, true) (saveArea s o.uid o.logical) (memRead s.mem (segKey core seg) Config.segBytes)
  let s1 := q.1
  let c := s1.core core
  let s2 := match c.occupant with
    | none => s1.setCore core { c with segs := tset c.segs seg { o with st := 0 } }
    | some uid =>
      let u := s1.unit uid
      let fresh := u.id.suspendedAt == 0
      let s1 := giveSeg s1 core uid u.id.vf seg (u.id.segMap.idxOf seg) fresh
      s1.onUnit uid fun u => { u with restored := u.restored || (fresh && segsAre s1 uid (· == 1)) }
  happens (o.st == 3) (if q.2 then s2 else s1) s

/-- R172: the data of a logical segment of a resumed unit: parked on another core, or in its save area; a cause when it
cannot be read back. -/
def restoreSeg (uid : Nat) (s : Except Cause State) (k : Nat) : Except Cause State :=
  s.bind fun s =>
    let u := s.unit uid
    let pos := coreOf u
    let p := u.id.segMap.getD k 0
    let c := s.core pos
    let put := fun (s : State) (bs : List Byte) =>
      let s := { s with mem := memPut s.mem (segKey pos p) bs }
      s.setCore pos { s.core pos with segs := tset (s.core pos).segs p { segOf (s.core pos) p with st := 1 } }
    if (segOf c p).st != 4 then .ok s
    else
      match (s.cores.find? fun d => (parkedAt d.2 uid k).isSome) with
      | some (n, d) =>
        let q := (parkedAt d uid k).getD 0
        let bs := memRead s.mem (segKey n q) Config.segBytes
        let s := s.setCore n { d with segs := tset d.segs q { segOf d q with st := 0 } }
        .ok (put s bs)
      | none =>
        match strictRead s uid 1024 (saveArea s uid k) Config.segBytes with
        | (_, some e) => .error e.1
        | (bs, none) => .ok (put s bs)

/-- The segments of a resumed unit restored, or why one cannot be. -/
def restoreAll (s : State) (uid : Nat) : Except Cause State :=
  (List.range (s.unit uid).id.segMap.length).foldl (restoreSeg uid) (.ok s)

/-- R434: whether the context area of a suspended unit still holds what was written there, or why it cannot be read. -/
def contextKept (s : State) (uid : Nat) : Except Cause Bool :=
  (s.unit uid).image.foldl (fun (q : Except Cause Bool) p => q.bind fun ok =>
    match strictRead s uid (granules p.1.toNat p.2.length) p.1 p.2.length with
    | (_, some e) => .error e.1
    | (bs, none) => .ok (ok && bs == p.2)) (.ok true)

/-- R9, R434: the state of a unit whose context area was written meanwhile: its registers, constants, tokens and tiles hold any
values. -/
def anyContext (k : Nat) (u : Unit) : Unit :=
  let w := fun i => Config.freeWord (k + i)
  { u with
    r := { u.r with pc := w 0 &&& ~~~(3 : Word), g := (List.range 63).map (fun n => (n + 1, w (1 + n)))
                    shadow := (List.range 8).map (fun n => (24 + n, w (65 + n))), p := (w 73).setWidth _, lc := w 74 }
    c := { u.c with uihandler := w 75 &&& ~~~(3 : Word), uipc := w 76 &&& ~~~(3 : Word), utvec := w 77 &&& ~~~(3 : Word) }
    ve := { u.ve with k := (List.range 16).map fun n => (n, (w (78 + n)).setWidth 32) }
    me := { u.me with st := { u.me.st with tiles := (List.range 4).map fun t =>
      (t, { blankTile with live := true, w := (List.range 16384).map fun e => (e, (w (128 + 16384 * t + e)).setWidth 32) }) } } }

/-- A resumed unit goes on: its copies are appended again, its session taken (R313, R473); `kept` says that its context area
was left alone. -/
def resumeUnit (s : State) (uid : Nat) (kept : Bool) : State :=
  let k := s.free
  let s := onChannels (if kept then s else { s with free := s.free + 65664 }) (unparkOn uid)
  s.onUnit uid fun u =>
    takeSession s { (if kept then u else anyContext k u) with restored := true, image := [], id := { u.id with suspendedAt := 0 } }

end Sys2Proof.Machine
end

