-- ==== Sys2Proof/Machine/Work.lean ====
section
/-! DEFINITION. The ends of units and launches (R318, R319, R324, R325, R331), HALT, CANCEL and JOB_CANCEL
(R333), the placement of gangs (R328), completion counters (R331, R332). -/

namespace Sys2Proof.Machine

/-! ### The end of a launch (R318, R319, R331, R456) -/

/-- The sums of the counters of a launch's units. -/
def counterSums (s : State) (i : Nat) : List Word :=
  (List.range 32).map fun k => ((unitsOf s i).map fun u => tget (s.unit u).ctr.val k 0).foldl (· + ·) 0

/-- Counts kept of finished launches: those of record i replaced, those of its job (from 65,536 on) added
(R456). -/
def keepSums (v : Vf) (i job : Nat) (sums : List Word) : Vf :=
  let get := fun k => ((v.finished.find? fun e => e.1 == k).map (·.2)).getD (List.replicate 32 0)
  let rest := v.finished.filter fun e => e.1 != i && e.1 != 65536 + job
  { v with finished := rest ++ [(i, sums), (65536 + job, (get (65536 + job)).zipWith (· + ·) sums)] }

/-- The GRAPH counter's key: a graph number is one within its VF and job. -/
def graphKey (job graph : Nat) : Nat := 65536 * job + graph

/-- Releases of the successors of a launch, in slot order. -/
def releaseSucc (s : State) (i : Nat) : State :=
  ((recSucc s i).filter (· != 0xFFFF)).foldl (fun s k => (releaseRec s k (s.recOf i).job (some i)).1) s

/-- R29: a job all of whose launches are complete has ended. -/
def settleJob (s : State) (key : Nat) : State :=
  if (s.job key).recs.all fun k => (s.recOf k).st == .idle then onJob s key fun j => { j with running := false } else s

/-- LAUNCH_FINISH (R29, R318, R319, R331). -/
def finishRec (s : State) (i : Nat) : State :=
  let r := s.recOf i
  let vf := (vfOfRec s i).getD 0
  let sums := counterSums s i
  let gk := graphKey r.job (recGraph s i)
  let s := s.putRec i { r with st := .idle, live := 0, runs := r.runs + 1, code := none }
  let s := onJob s (jobKey vf r.job) fun j => { j with jobCtr := j.jobCtr + 1 }
  let s := s.onVf vf fun v => keepSums { v with graphs := tset v.graphs gk (tget v.graphs gk 0 + 1) } i r.job sums
  settleJob (if r.cancelled then s else releaseSucc s i) (jobKey vf r.job)

/-! ### The end of a unit (R271, R325, R331, R333) -/

/-- A unit with what its end discards: queued entries, and after a cancel the publish region and requests. -/
def endedUnit (st : UState) (u : Unit) : Unit :=
  let m := if st = .cancelled then { u.m with pub := [], remotes := [] } else u.m
  { u with st := st, wait := none, stash := none, pend := [], halted := false, poll := false, preempt := false, m := m
           ae := { u.ae with queue := [], s := tmap (fun _ (x : Stream) => { x with acts := [] }) u.ae.s }
           ve := { u.ve with queue := [], run := none, cols := [], adds := [] }
           me := { u.me with queue := [], run := none, adds := [] } }

/-- The unit leaves its core, the ready queues and firmware's frame queue. -/
def unbindUnit (s : State) (uid : Nat) : State :=
  let u := s.unit uid
  let i := u.id.recNo
  let s := match u.id.core with
    | some c => if (s.core c).occupant == some uid then s.setCore c { s.core c with occupant := none } else s
    | none => s
  let s := freeUnitSegs s uid
  let s := s.onVf u.id.vf fun v => { v with ready := v.ready.filter fun e => !(e.recNo == i && e.unit == some u.id.idx) }
  { s with firm := { s.firm with frames := s.firm.frames.filter (· != uid) } }

/-- A unit that has not ended. -/
def alive (u : Unit) : Bool := u.st != .done && u.st != .cancelled

/-- A unit becomes DONE or CANCELLED; `own` says that it ended itself (R319, R325, R331, R333). -/
def endUnit (s : State) (uid : Nat) (st : UState) (own : Bool) : State :=
  let u := s.unit uid
  let i := u.id.recNo
  if !alive u then s
  else
    let s := if st = .cancelled then abortCopies s uid else s
    let s := unbindUnit (endLeases s uid) uid
    let s := s.onUnit uid (endedUnit st)
    let r := s.recOf i
    let r := { r with ended := r.ended + 1, launchCtr := r.launchCtr + 1
                      cancelled := r.cancelled || (st == .cancelled && !own) }
    let s := s.putRec i r
    if (unitsOf s i).any fun u => alive (s.unit u) then s
    else finishRec (leaveReady s u.id.vf i) i

def cancelUnits (s : State) (us : List Nat) : State := us.foldl (fun s u => endUnit s u .cancelled false) s

/-- A record that waits for its predecessors returns to IDLE, its units CANCELLED. -/
def idleRec (s : State) (i : Nat) : State :=
  if (s.recOf i).st = .waiting then
    let s := (unitsOf s i).foldl (fun s u => s.onUnit u fun u => { u with st := .cancelled }) s
    s.putRec i { s.recOf i with st := .idle, live := 0 }
  else s

/-! ### CANCEL (R333) -/

/-- The units of a record that a cancel of PHASE level covers: placed since the last boundary, or not yet. -/
def sinceBoundary (s : State) (i ctr : Nat) : List Nat :=
  (unitsOf s i).filter fun u => (s.unit u).st == .ready || (s.unit u).id.phaseMark == ctr

/-- A cancel on this package of what a level covers, from record i of a job (R333). -/
def cancelHere (s : State) (lv : Level) (i key : Nat) : State :=
  let j := s.job key
  let recs := j.recs
  let inGraph := fun k => recGraph s k == recGraph s i
  let live := fun (k : Nat) => (s.recOf k).st == .ready || (s.recOf k).st == .active
  match lv with
  | .unit => s
  | .launch => cancelUnits s (unitsOf s i)
  | .graph =>
    let rs := recs.filter inGraph
    (rs.filter live).foldl (fun s k => cancelUnits s (unitsOf s k)) (rs.foldl idleRec s)
  | .phase =>
    (recs.filter live).foldl (fun s k => cancelUnits s (sinceBoundary s k j.phaseCtr.toNat)) (recs.foldl idleRec s)
  | .job =>
    let s := (recs.filter live).foldl (fun s k => cancelUnits s (unitsOf s k)) (recs.foldl idleRec s)
    onJob s key fun j => { j with running := false }

/-- The code of a level (R48). -/
def levelCode : Level → Nat
  | .unit => 0 | .launch => 1 | .graph => 2 | .phase => 3 | .job => 4

/-- The wider levels reach the other packages through the alarm slots (R159, R333). -/
def alarmOut (s : State) (a : Alarm) : State :=
  if podSize s ≤ 1 then s else { s with pod := { s.pod with alarms := s.pod.alarms ++ [a] } }

/-- R333: the issuing unit is among those cancelled. -/
def execCancel (lv : Level) (s : State) : Res :=
  sqWord [] (fun s =>
    let u := s.u
    let i := u.id.recNo
    let key := jobKey u.id.vf u.id.job
    let s := count s s.cur 0x0102 1
    let s := match lv with
      | .unit => endUnit s s.cur .cancelled true
      | .phase => alarmOut (cancelUnits (cancelHere s .phase i key) [s.cur]) (.cancel key true)
      | .job => alarmOut (cancelHere s .job i key) (.cancel key false)
      | _ => cancelHere s lv i key
    .stop (jobEvent s u.id.vf u.id.job 4 [levelCode lv, i])) s

/-- JOB_CANCEL (R333, R485, R486): it acts as CANCEL JOB, and answers with the overrun count once the other
packages have been told. -/
def execJobCancel (h : IsuneHdr) (job : Nat) (s : State) : Res :=
  command vfCmd h (fun s =>
    let vf := h.vf.toNat
    let key := jobKey vf job
    let s := jobEvent (alarmOut (cancelHere s .job 0 key) (.cancel key false)) vf job 4 [4]
    if podSize s ≤ 1 then .answer s 0 0 [(s.job key).overrun] []
    else .later { s with firm := { s.firm with cancels := s.firm.cancels ++ [(h, key)] } }) s

/-! ### HALT and UNIT_DONE (R325) -/

/-- R325: the sequencer stops at the word. -/
def execHalt (s : State) : Res :=
  sqWord [] (fun s => .stop (count (s.onU fun u => { u with halted := true }) s.cur 0x0102 1)) s

/-- UNIT_DONE (R325, R428): entries and copies finished, the publish region drained as by a release of scope
TENANT, the unit is DONE. A reflected fault that is open keeps it from it. -/
def execUnitDone (s : State) : Res :=
  let u := s.u
  if !(u.st == .running && u.halted && enginesIdle u && copiesDone s s.cur && frameReg u 0 &&& reflectedBit == 0) then .next s
  else
    match drain s s.cur with
    | .wait s' => .next s'
    | .fail s' c a => .next (drainFault s' s.cur c a)
    | .ok s' => .next (if earlierDone .tenant s'.u then endUnit s' s.cur .done true else s')

/-! ### GANG_PLACEMENT (R328), SEGMENT_RESTORE_COMPLETE (R172) -/

/-- R328: the gang at the head of a VF's queues placed, or cancelled when it comes too late. -/
def placeGang (s : State) (vf : Nat) (e : ReadyEntry) (ps : List (Nat × Nat × List Nat)) : State :=
  let i := e.recNo
  let first := (s.recOf i).st == .ready
  if first && recField s i 104 8 != 0 && decide (recField s i 104 8 < s.tide.toNat + 8000) then
    let job := (s.recOf i).job
    jobEvent (cancelUnits (dropReady s vf e) (unitsOf s i)) vf job 1 [i]
  else
    placeAll s ps fun s =>
      let s := dropReady s vf e
      if first then s.putRec i { s.recOf i with tstart := gangStart s i } else s

/-- GANG_PLACEMENT (R328, R329): the gang at the head is placed; where its cores cannot take it, a FREE unit of a lower level is
pre-empted. -/
def execGangPlacement (vf : Nat) (s : State) : Res :=
  match readyHead s vf with
  | none => .next s
  | some e =>
    let us := (unitsOf s e.recNo).filter fun u => (s.unit u).st == .ready || (s.unit u).st == .suspended
    match e.unit, gangPlaces s vf e.recNo us with
    | none, some ps => happens ((s.vf vf).st == .active) (placeGang s vf e ps) s
    | none, none => happens ((s.vf vf).st == .active) (displace s vf e.level) s
    | some _, _ => .next s

/-- R433: a context area that cannot be read back cancels the unit, and firmware reports it. -/
def contextLost (s : State) (uid : Nat) : State :=
  let u := s.unit uid
  jobEvent (endUnit s uid .cancelled false) u.id.vf u.id.job 5 [u.id.recNo, u.id.idx]

/-- SEGMENT_RESTORE_COMPLETE (R172, R433): every segment of the acting unit holds its data again. -/
def execSegmentRestoreComplete (s : State) : Res :=
  let u := s.u
  happens (u.st == .running && !u.restored && u.id.suspendedAt != 0 && segsAre s s.cur fun st => st == 1 || st == 4)
    (match (restoreAll s s.cur).bind fun s => (contextKept s s.cur).map fun k => (s, k) with
      | .ok (s', kept) => resumeUnit s' s.cur kept
      | .error (.elsewhere p) => askFar s s.cur .sq p
      | .error _ => contextLost s s.cur) s

/-! ### Completion counters (R331, R332) -/

/-- The value of a completion counter for the acting unit. -/
def levelValue (s : State) (lv : Level) : Word :=
  let u := s.u
  let j := s.job (jobKey u.id.vf u.id.job)
  match lv with
  | .unit => u.m.counter
  | .launch => (s.recOf u.id.recNo).launchCtr
  | .graph => tget (s.vf u.id.vf).graphs (graphKey u.id.job (recGraph s u.id.recNo)) 0
  | .phase => j.phaseCtr
  | .job => j.jobCtr

/-- R332: who observes a rise is ordered after what the units counted have done. -/
def execCread (d : BitVec 6) (lv : Level) (s : State) : Res :=
  sqWord [] (fun s => .done (writeG (refresh s s.cur) d (levelValue s lv))) s

/-- R332, R376. -/
def tryCwaitc (lv : Level) (v : Word) (s : State) : SqRes :=
  if v.toNat ≤ (levelValue s lv).toNat then .done (refresh s s.cur) else .hold (.counter lv v) s

/-- R332. -/
def execCwaitc (a : BitVec 6) (lv : Level) (s : State) : Res := sqWord [a] (fun s => tryCwaitc lv (gOf s a) s) s

/-- CWAITC_COMPLETE (R332). -/
def execCwaitcComplete (s : State) : Res :=
  completes s (fun w => match w with | .counter .. => true | _ => false)
    (fun w s => match w with
      | .counter lv v => tryCwaitc lv v s
      | _ => .stop s)

end Sys2Proof.Machine
end

