-- ==== Sys2Proof/Machine/Barriers.lean ====
section
/-! DEFINITION. Barriers (R334 to R339). -/

namespace Sys2Proof.Machine

/-- The barrier n of the acting unit's die (R335). -/
def myBarrier (s : State) (n : Nat) : Barrier := barrierOf s (dieOf (coreOf s.u)) n
def setMyBarrier (s : State) (n : Nat) (b : Barrier) : State := putBarrier s (dieOf (coreOf s.u)) n b

/-- R336: the barrier is assigned to another VF. -/
def barDenied (s : State) (n : Nat) : Bool :=
  match (myBarrier s n).vf with
  | none => false
  | some v => v != s.u.id.vf

/-- R335: the arrival record's entry for barrier n. -/
def arrivalOf (u : Unit) (n : Nat) : Option (BitVec 16) := (u.m.arrivals.find? fun e => e.1 == n).map (·.2)

/-- R337. -/
def execBinit (a : BitVec 6) (n : BitVec 9) (s : State) : Res :=
  sqWord [a] (fun s =>
    let c := (gOf s a).toNat
    let b := myBarrier s n.toNat
    if barDenied s n.toNat then .trap .barDenied 0 0
    else if c = 0 || decide (65535 < c) then .trap .barForm 0 0
    else if b.arr != 0 then .trap .barState 0 0
    else .done (setMyBarrier s n.toNat { b with exp := BitVec.ofNat 16 c })) s

/-- R334: an arrival counted; the generation completes when it is the last. -/
def arrived (b : Barrier) : Barrier :=
  if b.arr + 1 = b.exp then { b with arr := 0, gen := b.gen + 1 } else { b with arr := b.arr + 1 }

/-- The arrival recorded (R335, R337). -/
def recordArrival (s : State) (n : Nat) (g : BitVec 16) : State :=
  s.onU fun u => { u with m := { u.m with arrivals := (u.m.arrivals.filter fun e => e.1 != n) ++ [(n, g)] } }

/-- R337: BARR, once the unit's earlier accesses are performed. -/
def tryBarr (n : Nat) (s : State) : SqRes :=
  let b := myBarrier s n
  let e := arrivalOf s.u n
  if barDenied s n then .trap .barDenied 0 0
  else if b.exp = 0 then .trap .barState 0 0
  else if e == some b.gen || (e.isNone && decide (16 ≤ s.u.m.arrivals.length)) then .trap .barOrder 0 0
  else if !remotesDone s.u then .hold (.barArrive n) s
  else .done (setMyBarrier (recordArrival s n b.gen) n (arrived b))

/-- R337. -/
def execBarr (n : BitVec 9) (s : State) : Res := sqWord [] (tryBarr n.toNat) s

/-- BARR_ARRIVAL (R337, R338). -/
def execBarrArrival (s : State) : Res :=
  completes s (fun w => match w with | .barArrive _ => true | _ => false)
    (fun w s => match w with
      | .barArrive n => tryBarr n s
      | _ => .stop s)

/-- R337, R376: BWAIT ends when the generation of its entry has completed, and removes the entry. -/
def tryBwait (n : Nat) (g : BitVec 16) (s : State) : SqRes :=
  if (myBarrier s n).gen = g then .hold (.barGen n g) s
  else
    .done (refresh (s.onU fun u => { u with m := { u.m with arrivals := u.m.arrivals.filter fun e => e.1 != n } }) s.cur)

/-- R337. -/
def execBwait (n : BitVec 9) (s : State) : Res :=
  sqWord [] (fun s =>
    if barDenied s n.toNat then .trap .barDenied 0 0
    else
      match arrivalOf s.u n.toNat with
      | none => .done (refresh s s.cur)
      | some g => tryBwait n.toNat g s) s

/-- BWAIT_COMPLETE (R337). -/
def execBwaitComplete (s : State) : Res :=
  completes s (fun w => match w with | .barGen .. => true | _ => false)
    (fun w s => match w with
      | .barGen n g => tryBwait n g s
      | _ => .stop s)

/-- R337, R376: BTEST keeps the entry. -/
def execBtest (pd : BitVec 4) (n : BitVec 9) (s : State) : Res :=
  sqWord [] (fun s =>
    if barDenied s n.toNat then .trap .barDenied 0 0
    else
      let gone := match arrivalOf s.u n.toNat with
        | none => true
        | some g => (myBarrier s n.toNat).gen != g
      .done (writeP (if gone then refresh s s.cur else s) pd gone)) s

end Sys2Proof.Machine
end

