-- ==== Sys2Proof/Machine/Branch.lean ====
section
/-! DEFINITION. Branches, calls, register jumps, counted loops and clauses (R113 to R116, R122, R123). A
target outside the scalar section raises FETCH_BOUNDS when it is fetched (Machine/Fetch.lean). -/

namespace Sys2Proof.Machine

/-- The link register of CALL and CALLR written: G31 = PC + 4. -/
def link31 (s : State) : State := writeG s 31 (s.u.r.pc + 4)

/-- R122. -/
def execBr (pq : BitVec 4) (neg : Bool) (off : BitVec 20) (s : State) : Res :=
  sqWord [] (fun s => if guardOf s.u.r pq neg then .jump s (branchTarget s off) else .done s) s

/-- R122. -/
def execCall (pq : BitVec 4) (neg : Bool) (off : BitVec 20) (s : State) : Res :=
  sqWord [] (fun s => if guardOf s.u.r pq neg then .jump (link31 s) (branchTarget s off) else .done s) s

/-- R123: the target of a register jump. -/
def jumpTarget (s : State) (a : BitVec 6) : Word := gOf s a &&& ~~~(3 : Word)

/-- R123. -/
def execJr (a : BitVec 6) (s : State) : Res := sqWord [a] (fun s => .jump s (jumpTarget s a)) s

/-- R123: the target is read before the link is written. -/
def execCallr (a : BitVec 6) (s : State) : Res := sqWord [a] (fun s => .jump (link31 s) (jumpTarget s a)) s

/-- R123. -/
def execRet (s : State) : Res := sqWord [31] (fun s => .jump s (jumpTarget s 31)) s

/-- LC lowered by one while it is above zero. -/
def lcDown (r : Regs) : Regs := { r with lc := if r.lc = 0 then 0 else r.lc - 1 }

/-- R115. -/
def execBrstg (off : BitVec 20) (s : State) : Res :=
  sqWord [] (fun s =>
    let sv := stgNext s.u.r
    let t := branchTarget s off
    if sv = 0 then .done (s.onU fun u => { u with r := { lcDown u.r with sv := sv } })
    else .jump (s.onU fun u => { u with r := { lcDown u.r with sv := sv, goff := u.r.goff + 1 } }) t) s

/-- R116. -/
def execBrcl (pq : BitVec 4) (neg : Bool) (off : BitVec 20) (s : State) : Res :=
  sqWord [] (fun s =>
    let t := branchTarget s off
    if guardOf s.u.r pq neg && s.u.r.lc != 0 then .jump (s.onU fun u => { u with r := lcDown u.r }) t
    else .done s) s

/-- R113. -/
def execPcl (pq : BitVec 4) (neg : Bool) (n1 : BitVec 3) (s : State) : Res :=
  sqWord [] (fun s =>
    if s.u.r.clsCount != 0 then .trap .clauseOrder 0 0
    else .done (s.onU fun u =>
      { u with r := { u.r with clsPred := guardOf u.r pq neg, clsCount := n1.setWidth 4 + 1 } })) s

end Sys2Proof.Machine
end

