-- ==== Sys2Proof/Machine/Csr.lean ====
section
/-! DEFINITION. Control and status registers: which level may write them, what they read, what a write
stores under the access codes of their fields (R6, R7, R39, R104 to R108, R132, R150, R157, R197, R344,
R372, R422, R444, R469, R470). -/

namespace Sys2Proof.Machine

/-- R104: the control registers that only level S writes. -/
def csrSOnly (n : Nat) : Bool :=
  (0x10 ≤ n && n ≤ 0x12) || n == 0x33 || n == 0x51 || n == 0xA0 || n == 0xA1 || n == 0x900 ||
  (0xC00 ≤ n && n ≤ 0xC7F)

/-- R432: at level S the registers above are those of the unit whose frame the management core is
handling, when it handles one (DESIGN CHOICE, log 12). -/
def csrUnit (s : State) (n : Nat) : Nat :=
  if s.u.sup && csrSOnly n then s.firm.frames.headD s.cur else s.cur

/-- R422: the fields of a fault frame register. -/
def frameMask (n : Nat) : Word :=
  if n = 0 then 0xFF0F7FFF
  else if n ≤ 2 || n = 4 then BitVec.allOnes 64
  else if n = 3 then 0x1F
  else if n = 5 then 0xFFFFFFFF00000FFF
  else if n = 6 then 0x1FF
  else if n = 7 then 0
  else if n < 0x10 then BitVec.allOnes 64
  else if n < 0x20 then 0x00F3FFFFFFFFFFFF
  else if n < 0x35 then (if n % 3 = 2 then 0x1FFFF0001FF else BitVec.allOnes 64)
  else if n = 0x38 then 0x1FFFF0001FF
  else if n = 0x39 then BitVec.allOnes 64
  else if n = 0x3A then 0xFFFFFFFF
  else 0

/-- R105: MODE. -/
def modeWord (c : Csrs) : Word :=
  BitVec.ofNat 64 (c.ftz.toNat + 2 * c.det.toNat + 4 * c.coursed.toNat + 16 * c.fxsel.toNat +
    256 * c.inui.toNat)

/-- R108: RESFLAG. -/
def resflagWord (c : Csrs) : Word :=
  BitVec.ofNat 64 (c.resNr.toNat + 2 * c.resMulti.toNat + 2 ^ 16 * c.resPage.toNat)

/-- R150: COURSE. -/
def courseWord (c : Course) : Word :=
  BitVec.ofNat 64 (c.active.toNat + 16 * c.num.toNat + 2 ^ 32 * c.cc.toNat)

/-- R469: CSTATn. -/
def cstatWord (c : Counters) (n : Nat) : Word :=
  let ab := tget c.absent n false
  let ev := if ab then 0 else counterEvent c n
  BitVec.ofNat 64 (ev + 2 ^ 16 * ab.toNat + 2 ^ 17 * (decide (16 ≤ n) && (ab || ev != 0)).toNat)

/-- What a control register of a unit reads. -/
def csrValue (u : Unit) (tide : Word) (n : Nat) : Word :=
  match n with
  | 0x10 => u.c.heapb.setWidth 64 <<< 16
  | 0x11 => u.c.heapl.setWidth 64 <<< 16
  | 0x12 => u.c.heapo.setWidth 64 <<< 16
  | 0x18 => u.c.utvec
  | 0x20 => u.c.uihandler
  | 0x21 => u.c.uipc
  | 0x22 => u.c.uimask.setWidth 64
  | 0x23 => u.c.uipend.setWidth 64
  | 0x30 => u.r.lc
  | 0x31 => BitVec.ofNat 64 (u.r.ns.toNat + 256 * u.r.sv.toNat)
  | 0x32 => u.r.goff.setWidth 64
  | 0x33 => BitVec.ofNat 64 (u.r.clsCount.toNat + 16 * u.r.clsPred.toNat)
  | 0x40 => resflagWord u.c
  | 0x50 => u.course.slip.setWidth 64
  | 0x51 => u.course.slipmax.setWidth 64
  | 0x52 => courseWord u.course
  | 0x60 => (tide.setWidth 32).setWidth 64
  | 0x61 => u.c.tideh.setWidth 64
  | 0x70 => modeWord u.c
  | 0x80 => BitVec.ofNat 64 (u.c.vn1.toNat + 2 ^ 16 * u.c.vm1.toNat)
  | 0xA0 => u.c.seedl
  | 0xA1 => u.c.seedh
  | 0x900 => u.c.scopepol.setWidth 64
  | _ =>
    if 0x90 ≤ n && n < 0x98 then tget u.c.fxscale (n - 0x90) 0
    else if 0x100 ≤ n && n < 0x140 then
      let k := (n - 0x100) / 2
      if n % 2 = 0 then ((tget u.ctr.val k 0).setWidth 32).setWidth 64 else (tget u.ctr.latch k 0).setWidth 64
    else if 0x140 ≤ n && n < 0x160 then cstatWord u.ctr (n - 0x140)
    else if 0x800 ≤ n && n < 0x900 then tget u.c.manifest (n - 0x800) 0
    else if 0xC00 ≤ n && n < 0xC80 then frameReg u (n - 0xC00)
    else 0

/-- The latches a read moves (R157, R469, R470). -/
def csrLatch (u : Unit) (tide : Word) (n : Nat) : Unit :=
  if n = 0x60 then { u with c := { u.c with tideh := (tide >>> 32).setWidth 32 } }
  else if 0x100 ≤ n && n < 0x140 && n % 2 = 0 then
    let k := (n - 0x100) / 2
    { u with ctr := { u.ctr with latch := tset u.ctr.latch k ((tget u.ctr.val k 0 >>> 32).setWidth 32) } }
  else u

/-- At most 8, for STG.NS and CLS.COUNT (R106). -/
def atMost8 (v : Word) : BitVec 4 := if v.toNat % 16 ≤ 8 then v.setWidth 4 else 8

/-- A write of v to a control register; `ones` are the bits a W1C field clears (R132). Fields that are
read only, reserved bits and registers of no writable field keep their values (R6, R7). -/
def csrPut (u : Unit) (n : Nat) (v ones : Word) : Unit :=
  match n with
  | 0x10 => { u with c := { u.c with heapb := (v >>> 16).setWidth 38 } }
  | 0x11 => { u with c := { u.c with heapl := (v >>> 16).setWidth 38 } }
  | 0x12 => { u with c := { u.c with heapo := (v >>> 16).setWidth 32 } }
  | 0x18 => { u with c := { u.c with utvec := v &&& ~~~(3 : Word) } }
  | 0x20 => { u with c := { u.c with uihandler := v &&& ~~~(3 : Word) } }
  | 0x21 => { u with c := { u.c with uipc := v &&& ~~~(3 : Word) } }
  | 0x22 => { u with c := { u.c with uimask := v.setWidth 7 } }
  | 0x23 => { u with c := { u.c with uipend := u.c.uipend &&& ~~~(ones.setWidth 7) } }
  | 0x30 => { u with r := { u.r with lc := v } }
  | 0x31 =>
    let ns := atMost8 v
    { u with r := { u.r with ns := ns, sv := (v >>> 8).setWidth 8 &&& lowMask ns.toNat } }
  | 0x32 => { u with r := { u.r with goff := v.setWidth 5 } }
  | 0x33 => { u with r := { u.r with clsCount := atMost8 v, clsPred := v.getLsbD 4 } }
  | 0x40 =>
    { u with c := { u.c with resNr := v.getLsbD 0, resMulti := v.getLsbD 1, resPage := (v >>> 16).setWidth 38 } }
  | 0x51 => { u with course := { u.course with slipmax := v.setWidth 32 } }
  | 0x70 => { u with c := { u.c with ftz := v.getLsbD 0, fxsel := (v >>> 4).setWidth 3 } }
  | 0x80 => { u with c := { u.c with vn1 := v.setWidth 16, vm1 := (v >>> 16).setWidth 16 } }
  | 0xA0 => { u with c := { u.c with seedl := v } }
  | 0xA1 => { u with c := { u.c with seedh := v } }
  | 0x900 => { u with c := { u.c with scopepol := v.setWidth 3 } }
  | _ =>
    if 0x90 ≤ n && n < 0x98 then { u with c := { u.c with fxscale := tset u.c.fxscale (n - 0x90) v } }
    else if 0xC00 ≤ n && n < 0xC80 then setFrame u (n - 0xC00) (v &&& frameMask (n - 0xC00))
    else u

/-- The value of a control register for a word of the acting unit. -/
def csrGet (s : State) (n : Nat) : Word := csrValue (s.unit (csrUnit s n)) s.tide n

/-- A read with its latches. -/
def csrTouch (s : State) (n : Nat) : State := s.onUnit (csrUnit s n) fun u => csrLatch u s.tide n

/-- A write by a word of the acting unit. -/
def csrStore (s : State) (n : Nat) (v ones : Word) : State :=
  s.onUnit (csrUnit s n) fun u => csrPut u n v ones

/-- R39, R47: the checks of a word that names a control register. -/
def csrCheck (s : State) (n : BitVec 12) (write : Bool) (k : State → State) : SqRes :=
  if write && csrSOnly n.toNat && !s.u.sup then .trap .privileged 0 0 else .done (k s)

/-- A read of a control register into a general register (R132). -/
def csrReadWord (d : BitVec 6) (n : BitVec 12) (s : State) : Res :=
  sqWord [] (fun s => csrCheck s n false fun s => writeG (csrTouch s n.toNat) d (csrGet s n.toNat)) s

/-- R132. -/
def execCsrr (d : BitVec 6) (csr : BitVec 12) (s : State) : Res := csrReadWord d csr s

/-- R132. -/
def execCsrw (csr : BitVec 12) (a : BitVec 6) (s : State) : Res :=
  sqWord [a] (fun s => csrCheck s csr true fun s => csrStore s csr.toNat (gOf s a) (gOf s a)) s

/-- R132: G[rd] = old, then a write of a function of old and G[ra]. A write to RING takes effect from
the next word, so G[rd] is written first. -/
def csrModify (f : Word → Word → Word) (d : BitVec 6) (csr : BitVec 12) (a : BitVec 6) (s : State) : Res :=
  sqWord [a] (fun s => csrCheck s csr true fun s =>
    let old := csrGet s csr.toNat
    let x := gOf s a
    csrStore (writeG (csrTouch s csr.toNat) d old) csr.toNat (f old x) x) s

/-- R132. -/
def execCsrs (d : BitVec 6) (csr : BitVec 12) (a : BitVec 6) (s : State) : Res := csrModify (· ||| ·) d csr a s

/-- R132. -/
def execCsrc (d : BitVec 6) (csr : BitVec 12) (a : BitVec 6) (s : State) : Res :=
  csrModify (fun o x => o &&& ~~~x) d csr a s

/-- TIDEL_READ (R157): the read of TIDEL, which latches TIDEH. -/
def execTidelRead (d : BitVec 6) (s : State) : Res := csrReadWord d 0x60 s

/-- COUNTER_LOW_READ (R469, R470): the read of CLOn, which latches CHIn. -/
def execCounterLowRead (d : BitVec 6) (n : BitVec 5) (s : State) : Res :=
  csrReadWord d (0x100 + 2 * n.setWidth 12) s

/-- R154: the tide time in the cycle in which the word issues. -/
def execTide (a : BitVec 6) (s : State) : Res := sqWord [] (fun s => .done (writeG s a s.tide)) s

end Sys2Proof.Machine
end

