-- ==== Sys2Proof/Machine/Generators.lean ====
section
/-! DEFINITION. Generators: registers, keys, element values, the Gaussian table and the words that write
and read them (R250 to R260). -/

namespace Sys2Proof.Machine

/-! ### The Gaussian table (R255) -/

/-- 1 / √2 in units of 2^−fxP. -/
def fxIrt2 : Int := (isqrt (2 ^ (2 * fxP - 1)) : Nat)

/-- A finite value in units of 2^−fxP, 0 for others. -/
def valFx : Val → Int
  | .fin neg m e => toFx fxP neg m e
  | _ => 0

/-- Whether the value half way from BF16 code c − 1 to code c lies below the quantile where Φ is
1/2 + num/8192. -/
def gaussBelow (c num : Nat) : Bool :=
  decide (c < 0x4200) &&
  decide (fxErf ((valFx (toVal .bf16 c) + valFx (toVal .bf16 (c - 1))) / 2 * fxIrt2 / 2 ^ fxP) * 4096 < num * 2 ^ fxP)

/-- The greatest code above r, built from bit i − 1 downward, whose lower boundary lies below the quantile. -/
def gaussFrom (num : Nat) : Nat → Nat → Nat
  | 0, r => r
  | i + 1, r => gaussFrom num i (if gaussBelow (r + 2 ^ i) num then r + 2 ^ i else r)

/-- Entry n of GTAB: RNEB of the quantile at (n + 0.5) / 4096. -/
def gtab (n : Nat) : Nat :=
  if 2048 ≤ n then gaussFrom (2 * n + 1 - 4096) 15 0 else 0x8000 + gaussFrom (4095 - 2 * n) 15 0

/-! ### Fields and checks (R250, R258) -/

def genField (g : GenReg) (f : Nat) : Nat := (tget g.f f 0).toNat
def genKind (g : GenReg) : Nat := bits (genField g 0) 0 4
def genFmt (g : GenReg) : Fmt := (fmtOf (bits (genField g 0) 6 4)).getD .fp32
def genT (g : GenReg) : Bool := bitAt (genField g 0) 10
def genAdd (g : GenReg) : Bool := bitAt (genField g 0) 11

/-- R250: the rule of DIM. -/
def dimGood (d : Nat) : Bool := d % 2 == 0 && decide (2 ≤ d) && decide (d ≤ 256)

/-- R258: GEN_FORM for a word that reads a register. -/
def genBad (g : GenReg) : Bool :=
  let k := genKind g
  let o := bits (genField g 0) 6 4
  decide (8 ≤ k) || decide (12 ≤ o) || ((k == 3 || k == 4) && !dimGood (genField g 8)) ||
  (k == 6 && genField g 5 == 0) || (genAdd g && decide (k < 5)) ||
  (genAdd g && !(o == 0 || o == 1 || o == 2 || o == 4))

/-- R251: the key of a register for the unit that reads it. -/
def genKey (u : Unit) (g : GenReg) : Word :=
  keyOf (tget g.f 1 0) (bits (genField g 0) 4 2) (seedBase u.c) u.id.idx

/-! ### Element values (R254) -/

/-- The kept value of a mask kind at (I, J). -/
def maskKeep (g : GenReg) (h i j : Nat) : Bool :=
  let d : Int := (i : Int) + sint (genField g 6) 48 - j
  match genKind g with
  | 5 => decide (0 ≤ d)
  | 6 => decide (0 ≤ d) && decide (d < genField g 5)
  | _ => decide (bits h 48 16 < genField g 7)

/-- R254: the value of a mask kind. -/
def maskVal (add keep : Bool) : Val := if add then (if keep then zeroV false else .inf true) else if keep then powV 0 else zeroV false

/-- The value of kinds 0 to 4, in FP32; for a ROPE kind the exact cosine or sine, which the formats of
16 bits round once. -/
def realVal (g : GenReg) (h i j : Nat) : Val :=
  let sc := toVal .fp32 (genField g 4)
  match genKind g with
  | 0 => if bitAt h 63 then negV sc else sc
  | 1 => rne32 (mulV (toVal .bf16 (gtab (bits h 52 12))) sc)
  | 2 => rne32 (mulV (.fin false (bits h 40 24) (-24)) sc)
  | k =>
    let fr := toVal .fp32 (tget g.freq (j % genField g 8 / 2) 0).toNat
    let a := rne32 (mulV (ofInt i) fr)
    let v := sfuVal (if k = 3 then 10 else 9) a
    if genFmt g = .bf16 || genFmt g = .fp16 then v else rne32 v

/-- R254: the bits of the generator in OFMT at (I, J), with key k and the FTZ of its reader. -/
def genBits (k : Word) (g : GenReg) (ftz : Bool) (i j : Nat) : Nat :=
  let h := (hash k (BitVec.ofNat 64 i) (BitVec.ofNat 64 j)).toNat
  let o := genFmt g
  if 5 ≤ genKind g then roundTo o (maskVal (genAdd g) (maskKeep g h i j)) .rne false
  else flushBits o ftz (roundTo o (realVal g h i j) .rne true)

/-- R256: the coordinates of reader row r and column c, with the offsets of R231. -/
def genIJ (g : GenReg) (drow dcol r c : Nat) : Nat × Nat :=
  let x := if genT g then c else r
  let y := if genT g then r else c
  ((genField g 2 + drow + x) % 2 ^ 48, (genField g 3 + dcol + y) % 2 ^ 48)

/-- The element at reader row r and column c. -/
def genElem (k : Word) (g : GenReg) (ftz : Bool) (drow dcol r c : Nat) : Nat :=
  let p := genIJ g drow dcol r c
  genBits k g ftz p.1 p.2

/-! ### GNSET, GNGET, GNPEEK -/

def genOf (u : Unit) (n : Nat) : GenReg := tget u.gns n blankGen
def setGen (u : Unit) (n : Nat) (g : GenReg) : Unit := { u with gns := tset u.gns n g }

/-- R250: the writable bits of a field. -/
def genMask (f : Nat) : Word :=
  match f with
  | 0 => 0xFFF
  | 1 | 9 => BitVec.allOnes 64
  | 2 | 3 | 6 => 0xFFFFFFFFFFFF
  | 4 | 5 => 0xFFFFFFFF
  | 7 => 0xFFFF
  | 8 => 0x1FF
  | _ => 0

/-- R259. -/
def execGnset (n : BitVec 3) (f : BitVec 5) (g : BitVec 6) (s : State) : Res :=
  sqWord [g] (fun s =>
    let r := genOf s.u n.toNat
    .done (s.setU (setGen s.u n.toNat { r with f := tset r.f f.toNat (gOf s g &&& genMask f.toNat) }))) s

/-- R259. -/
def execGnget (n : BitVec 3) (f : BitVec 5) (g : BitVec 6) (s : State) : Res :=
  sqWord [] (fun s => .done (writeG s g (tget (genOf s.u n.toNat).f f.toNat 0))) s

/-- R253: the causes of the load of a table entry. -/
def freqCause (s : State) (va : Word) : Option (Cause × Word) :=
  match findLoad s va 4 with
  | .fault c => some (c, va)
  | _ => none

/-- R253: an entry loaded: +0 and RESFLAG where its page is not resident. -/
def freqEntry (p : State × Tab (BitVec 32)) (x : Nat × Word) : State × Tab (BitVec 32) :=
  match findLoad p.1 x.2 4 with
  | .bytes bs s' => (s', tset p.2 x.1 (BitVec.ofNat 32 (leNat bs)))
  | .absent s' => (setResflag s' x.2, tset p.2 x.1 0)
  | _ => p

/-- R253: an entry that waits for the replay of held writes. -/
def freqBusy (s : State) (va : Word) : Bool :=
  match findLoad s va 4 with
  | .busy => true
  | _ => false

/-- R253: a write of FADDR: its checks, and the load of the table. -/
def loadFreq (n : Nat) (va : Word) (s : State) : SqRes :=
  let g := genOf s.u n
  let vas := (List.range (genField g 8 / 2)).map fun k => va + BitVec.ofNat 64 (4 * k)
  if !dimGood (genField g 8) then .trap .genForm 0 0
  else if va.toNat % 4 != 0 then .trap .dataMisaligned va 0
  else if !canonical va then .trap .noncanonical va 0
  else if vas.any (fun v => decide (Config.copyAp ≤ v.toNat)) then .trap .translation va 0
  else
    match worst (vas.filterMap (freqCause s)) with
    | some (c, a) => .trap c a 0
    | none =>
      if vas.any (freqBusy s) then .hold (.retry 1) s
      else
        let p := ((List.range vas.length).zip vas).foldl freqEntry (s, [])
        .hold (.freq n) (p.1.setU (setGen p.1.u n { f := tset g.f 9 va, freq := p.2 }))

/-- R253, R259: the word completes once its table load has. -/
def execGnsetFaddr (n : BitVec 3) (g : BitVec 6) (s : State) : Res :=
  sqWord [g] (fun s => loadFreq n.toNat (gOf s g) s) s

/-- FREQ_TABLE_LOADED (R259). -/
def execFreqTableLoaded (s : State) : Res :=
  completes s (fun w => match w with | .freq _ => true | _ => false) (fun _ s => .done s)

/-- R260. -/
def execGnpeek (d a b : BitVec 6) (n : BitVec 3) (s : State) : Res :=
  sqWord [a, b] (fun s =>
    let g := genOf s.u n.toNat
    if genBad g then .trap .genForm 0 n.toNat
    else
      .done (writeG s d (BitVec.ofNat 64
        (genElem (genKey s.u g) g s.u.c.ftz 0 0 ((gOf s a).toNat % 2 ^ 48) ((gOf s b).toNat % 2 ^ 48))))) s

end Sys2Proof.Machine
end

