-- ==== Sys2Proof/Machine/VeAlu.lean ====
section
/-! DEFINITION. The words of the ALU, SFU, CVT and RED columns (R202 to R212). -/

namespace Sys2Proof.Machine

/-! ### ALU words (R202, R203) -/

/-- Ordinals n of a word. -/
def vn (v : VWord) : Nat := v.shN * v.shM

/-- The plan of an elementwise word: sources, destination d, whether d is an accumulator, and whether only
integer types are allowed. -/
def elemPlan (d : BitVec 4) (srcs : List Nat) (acc intOnly : Bool) (v : VWord) : VPlan :=
  { typed := srcs, other := [], dsts := [d.toNat], acc := acc, total := vn v, gen := false, wtFix := none
    bad := fun wt => intOnly && wt == 0, mis := false }

/-- Each source once, one element of it. -/
def each (srcs : List Nat) : List (Nat × Nat) := srcs.eraseDups.map fun n => (n, 1)

/-- An operation of an ALU word: on values (a, b′, d_old) before RNE32, and on integers of a working type
before they are reduced to its width. -/
structure AluOp where
  f : Val → Val → Val → Val
  i : Nat → Int → Int → Int → Int

/-- d_old as an exact value, and as an integer in an integer type: a floating one rounded RNE, saturating (DESIGN CHOICE,
log 91). -/
def oldVal (ftz : Bool) (d : Tab Word × Option Elem) : Val :=
  match d.2 with
  | some x => elemVal ftz (x, d.1)
  | none => zeroV false

def oldInt (wt : Nat) (d : Tab Word × Option Elem) : Int :=
  match d.2 with
  | some x =>
    if isFloat (streamFmt d.1) then
      sint (roundTo (wtFmt wt) (elemVal false (x, d.1)) .rne true) (fmtBits (wtFmt wt))
    else elemInt (x, d.1)
  | none => 0

/-- b′: −b under negb. -/
def negW (neg : Bool) (w : Work) : Work :=
  if neg then
    match w with
    | .f32 b => .f32 (b ^^^ 0x80000000)
    | .int i => .int (-i)
  else w

/-- The working result of an ALU operation. -/
def aluWork (op : AluOp) (wt : Nat) (sat ftz : Bool) (a b : Work) (d : Tab Word × Option Elem) : Work :=
  if wt = 0 then workF (op.f (workVal a) (workVal b) (oldVal ftz d))
  else .int (redInt wt sat (op.i wt (workInt a) (workInt b) (oldInt wt d)))

/-- The first element of the i-th source, widened. -/
def srcWork (ftz : Bool) (xs : List (List (Elem × Tab Word))) (i : Nat) : Work :=
  match xs.getD i [] with
  | x :: _ => widen ftz x
  | [] => .int 0

/-- The first destination. -/
def dest0 (ds : List (Tab Word × Option Elem)) : Tab Word × Option Elem := ds.headD ([], none)

/-- A turn of an ALU column at an elementwise word with sources srcs, its second operand from a stream or
from a constant. -/
def aluTurn (col : BitVec 1) (w : VeOps) (srcs : List Nat) (k acc intOnly : Bool) (op : AluOp) (s : State) : State :=
  colTurn col.toNat (fun _ v => elemPlan w.d srcs acc intOnly v)
    (fun p s v =>
      let ftz := entryFtz s.u
      ordStep col.toNat p w.m.toNat v.ord (vn v) (srcs.map fun n => (n, 1)) (each srcs) (fun bit xs ds =>
        let d := dest0 ds
        if !bit then [(w.d.toNat, maskedOut d)]
        else
          let b := if k then constOf v.wt (entryK s.u w.b) else srcWork ftz xs 1
          let y := aluWork op v.wt w.sat ftz (srcWork ftz xs 0) (negW w.negb b) d
          [(w.d.toNat, rawElem (outBits (streamFmt d.1) w.sat ftz y))]) s v) s

/-- Sources a and b. -/
def srcAB (w : VeOps) : List Nat := [w.a.toNat, w.b.toNat]

def opAdd : AluOp := { f := fun a b _ => addV a b, i := fun _ a b _ => a + b }
def opSub : AluOp := { f := fun a b _ => addV a (negV b), i := fun _ a b _ => a - b }
def opMul : AluOp := { f := fun a b _ => mulV a b, i := fun _ a b _ => a * b }
/-- One rounding of the exact a × b′ + d_old. -/
def opFma : AluOp := { f := fun a b d => addV (mulV a b) d, i := fun _ a b d => a * b + d }
def opMin : AluOp := { f := fun a b _ => minV a b, i := fun _ a b _ => if a ≤ b then a else b }
def opMax : AluOp := { f := fun a b _ => maxV a b, i := fun _ a b _ => if a ≤ b then b else a }
def opAbs : AluOp := { f := fun a _ _ => absV a, i := fun _ a _ _ => a.natAbs }
def opNeg : AluOp := { f := fun a _ _ => negV a, i := fun _ a _ _ => -a }

/-- A bitwise operation on working integers. -/
def opBits (g : Word → Word → Word) : AluOp :=
  { f := fun a _ _ => a, i := fun _ a b _ => (g (BitVec.ofInt 64 a) (BitVec.ofInt 64 b)).toInt }

def execVadd (col : BitVec 1) (w : VeOps) (s : State) : Res := .next (aluTurn col w (srcAB w) false false false opAdd s)
def execVsub (col : BitVec 1) (w : VeOps) (s : State) : Res := .next (aluTurn col w (srcAB w) false false false opSub s)
def execVmul (col : BitVec 1) (w : VeOps) (s : State) : Res := .next (aluTurn col w (srcAB w) false false false opMul s)
def execVfma (col : BitVec 1) (w : VeOps) (s : State) : Res := .next (aluTurn col w (srcAB w) false true false opFma s)
def execVmin (col : BitVec 1) (w : VeOps) (s : State) : Res := .next (aluTurn col w (srcAB w) false false false opMin s)
def execVmax (col : BitVec 1) (w : VeOps) (s : State) : Res := .next (aluTurn col w (srcAB w) false false false opMax s)
def execVabs (col : BitVec 1) (w : VeOps) (s : State) : Res := .next (aluTurn col w [w.a.toNat] false false false opAbs s)
def execVneg (col : BitVec 1) (w : VeOps) (s : State) : Res := .next (aluTurn col w [w.a.toNat] false false false opNeg s)
def execVand (col : BitVec 1) (w : VeOps) (s : State) : Res :=
  .next (aluTurn col w (srcAB w) false false true (opBits (· &&& ·)) s)
def execVor (col : BitVec 1) (w : VeOps) (s : State) : Res :=
  .next (aluTurn col w (srcAB w) false false true (opBits (· ||| ·)) s)
def execVxor (col : BitVec 1) (w : VeOps) (s : State) : Res :=
  .next (aluTurn col w (srcAB w) false false true (opBits (· ^^^ ·)) s)
def execVaddk (col : BitVec 1) (w : VeOps) (s : State) : Res := .next (aluTurn col w [w.a.toNat] true false false opAdd s)
def execVmulk (col : BitVec 1) (w : VeOps) (s : State) : Res := .next (aluTurn col w [w.a.toNat] true false false opMul s)
def execVfmak (col : BitVec 1) (w : VeOps) (s : State) : Res := .next (aluTurn col w [w.a.toNat] true true false opFma s)
def execVmink (col : BitVec 1) (w : VeOps) (s : State) : Res := .next (aluTurn col w [w.a.toNat] true false false opMin s)
def execVmaxk (col : BitVec 1) (w : VeOps) (s : State) : Res := .next (aluTurn col w [w.a.toNat] true false false opMax s)

/-! ### Shifts (R202) -/

/-- A shift of a working integer of w bits. -/
def shiftLeft (w : Nat) (a : Int) (k : Nat) : Int := if w ≤ k then 0 else a * 2 ^ k
def shiftRight (w : Nat) (a : Int) (k : Nat) : Int := if w ≤ k then 0 else (uint a w / 2 ^ k : Nat)
def shiftArith (w : Nat) (a : Int) (k : Nat) : Int := a / 2 ^ (min k (w - 1))

/-- b[5:0] of the shift count; of a floating element the manual gives no integer, and it is free (DESIGN CHOICE, log 15). -/
def shiftCount (free : Nat) (x : Elem × Tab Word) : Nat :=
  if isFloat (streamFmt x.2) then (Config.freeWord free).toNat % 64 else uint (elemInt x) 6

/-- The free value used by a floating shift count is spent. -/
def spendFree (u : Unit) (n : Nat) : VStep → VStep
  | .go s v => .go (if isFloat (headFmt u n) then { s with free := s.free + 1 } else s) v
  | .fin s => .fin (if isFloat (headFmt u n) then { s with free := s.free + 1 } else s)
  | r => r

/-- R199: the working type of a shift of a value by a count: a floating count does not fix it, an INT64 one does. -/
def shiftWt (a k : Fmt) : Nat := if isFloat k then wtOf [a] else wtOf [a, k]

/-- A turn of an ALU column at a shift (R199, R202). -/
def shiftTurn (col : BitVec 1) (w : VeOps) (op : Nat → Int → Nat → Int) (s : State) : State :=
  colTurn col.toNat
    (fun u v =>
      { elemPlan w.d [] false true v with
        other := srcAB w, wtFix := some (shiftWt (headFmt u w.a.toNat) (headFmt u w.b.toNat)) })
    (fun p s v =>
      let ftz := entryFtz s.u
      spendFree s.u w.b.toNat (ordStep col.toNat p w.m.toNat v.ord (vn v) [(w.a.toNat, 1), (w.b.toNat, 1)]
        (each (srcAB w)) (fun bit xs ds =>
          let d := dest0 ds
          if !bit then [(w.d.toNat, maskedOut d)]
          else
            let k := match xs.getD 1 [] with
              | x :: _ => shiftCount s.free x
              | [] => 0
            let y := redInt v.wt false (op (fmtBits (wtFmt v.wt)) (workInt (srcWork ftz xs 0)) k)
            [(w.d.toNat, rawElem (outBits (streamFmt d.1) false ftz (.int y)))]) s v)) s

def execVshl (col : BitVec 1) (w : VeOps) (s : State) : Res := .next (shiftTurn col w shiftLeft s)
def execVshr (col : BitVec 1) (w : VeOps) (s : State) : Res := .next (shiftTurn col w shiftRight s)
def execVsar (col : BitVec 1) (w : VeOps) (s : State) : Res := .next (shiftTurn col w shiftArith s)

/-! ### VSEL, VFILL, VCMP -/

/-- VSEL (R202): the mask selects and does not govern. -/
def execVsel (col : BitVec 1) (w : VeOps) (s : State) : Res :=
  .next (colTurn col.toNat (fun _ v => elemPlan w.d (srcAB w) false false v)
    (fun p s v =>
      let ftz := entryFtz s.u
      ordStep col.toNat p w.m.toNat v.ord (vn v) ((srcAB w).map fun n => (n, 1)) (each (srcAB w)) (fun bit xs ds =>
        let y := srcWork ftz xs (if bit then 0 else 1)
        let y := match y with
          | .int i => .int (redInt v.wt w.sat i)
          | y => y
        [(w.d.toNat, rawElem (outBits (streamFmt (dest0 ds).1) w.sat ftz y))]) s v) s)

/-- VFILL (R202, R203): K′ in d's type. -/
def execVfill (col : BitVec 1) (w : VeOps) (s : State) : Res :=
  .next (colTurn col.toNat
    (fun u v =>
      { elemPlan w.d [] false false v with wtFix := some (if isFloat (headFmt u w.d.toNat) then 0 else 1) })
    (fun p s v =>
      let ftz := entryFtz s.u
      ordStep col.toNat p w.m.toNat v.ord (vn v) [] [] (fun bit _ ds =>
        let d := dest0 ds
        if !bit then [(w.d.toNat, maskedOut d)]
        else
          let y := match negW w.negb (constOf v.wt (entryK s.u w.b)) with
            | .int i => .int (redInt 1 w.sat i)
            | y => y
          [(w.d.toNat, rawElem (outBits (streamFmt d.1) w.sat ftz y))]) s v) s)

/-- R204: a comparison of integers of w bits. -/
def cmpInt (cc : Cond) (w : Nat) (a b : Int) : Bool :=
  condHolds cc (if cc == .ltu || cc == .geu then BitVec.ofNat 64 (uint a w) else BitVec.ofInt 64 a)
    (if cc == .ltu || cc == .geu then BitVec.ofNat 64 (uint b w) else BitVec.ofInt 64 b)

/-- R204: a comparison of floating values. -/
def cmpFloat (cc : Cond) (a b : Val) : Bool :=
  let un := isNan a || isNan b
  match cc with
  | .eq => eqV a b
  | .ne => !eqV a b
  | .lt => ltV a b
  | .ge => !un && !ltV a b
  | .ltu => un || ltV a b
  | .geu => un || !ltV a b
  | _ => false

/-- R204: a comparison of working values. -/
def cmpWork (cc : Cond) (wt : Nat) (a b : Work) : Bool :=
  if wt = 0 then cmpFloat cc (workVal a) (workVal b) else cmpInt cc (fmtBits (wtFmt wt)) (workInt a) (workInt b)

/-- R187, R195: bit e of mask m is written, in the unit and as the running entry reads it. -/
def writeMaskBit (s : State) (m e : Nat) (b : Bool) : State :=
  s.onU fun u =>
    { u with ve := { u.ve with
        masks := tset u.ve.masks m (putBit (tget u.ve.masks m 0) e b)
        run := u.ve.run.map fun r => { r with masks := tset r.masks m (putBit (tget r.masks m 0) e b) } } }

/-- The step of one ordinal of VCMP (R195, R204). -/
def cmpStep (col : Nat) (cc : Cond) (w : VeOps) (p : VPlan) (s : State) (v : VWord) : VStep :=
  match s.u.ve.run with
  | none => .block
  | some r =>
    match maskBit s.u r v.seq w.m.toNat v.ord, readySrcs s.u [(w.a.toNat, 1), (w.b.toNat, 1)] with
    | some bit, some xs =>
      match laterCause p col v xs with
      | some (c, d) => .fault c 0 d
      | none =>
        if !maskFree s.u v.seq w.d.toNat v.ord then .block
        else
          let ftz := entryFtz s.u
          let c := bit && cmpWork cc v.wt (srcWork ftz xs 0) (srcWork ftz xs 1)
          advance (takeAll (writeMaskBit s w.d.toNat v.ord c) (each (srcAB w))) { v with ord := v.ord + 1 } (vn v)
    | _, _ => .block

/-- VCMP (R204). -/
def execVcmp (col : BitVec 1) (cc : Cond) (w : VeOps) (s : State) : Res :=
  .next (colTurn col.toNat
    (fun _ v =>
      { typed := srcAB w, other := [], dsts := [], acc := false, total := vn v, gen := false, wtFix := none
        bad := fun wt => wt == 0 && (cc == .bits || cc == .nbits), mis := false })
    (cmpStep col.toNat cc w) s)

/-! ### SFU words (R97 to R99, R205) -/

/-- SFU_ELEM for an output given (R467). -/
def countSfu : VStep → VStep
  | .go s v => .go (count s s.cur 0x0302 1) v
  | .fin s => .fin (count s s.cur 0x0302 1)
  | r => r

/-- A turn of the SFU column at function fn. -/
def sfuTurn (fn : Nat) (w : VeOps) (s : State) : State :=
  colTurn 2
    (fun _ v => { elemPlan w.d [w.a.toNat] false false v with bad := fun wt => wt != 0 })
    (fun p s v =>
      countSfu (ordStep 2 p w.m.toNat v.ord (vn v) [(w.a.toNat, 1)] [(w.a.toNat, 1)] (fun bit xs ds =>
        let d := dest0 ds
        match bit, xs.getD 0 [] with
        | true, x :: _ =>
          [(w.d.toNat, rawElem (sfuElem fn (streamFmt x.2) (streamFmt d.1) x.1.bits.toNat w.sat (entryFtz s.u)))]
        | _, _ => [(w.d.toNat, maskedOut d)]) s v)) s

def execVsfuExp (w : VeOps) (s : State) : Res := .next (sfuTurn 0 w s)
def execVsfuExp2 (w : VeOps) (s : State) : Res := .next (sfuTurn 1 w s)
def execVsfuLog (w : VeOps) (s : State) : Res := .next (sfuTurn 2 w s)
def execVsfuLog2 (w : VeOps) (s : State) : Res := .next (sfuTurn 3 w s)
def execVsfuRcp (w : VeOps) (s : State) : Res := .next (sfuTurn 4 w s)
def execVsfuRsqrt (w : VeOps) (s : State) : Res := .next (sfuTurn 5 w s)
def execVsfuSqrt (w : VeOps) (s : State) : Res := .next (sfuTurn 6 w s)
def execVsfuTanh (w : VeOps) (s : State) : Res := .next (sfuTurn 7 w s)
def execVsfuSigm (w : VeOps) (s : State) : Res := .next (sfuTurn 8 w s)
def execVsfuSin (w : VeOps) (s : State) : Res := .next (sfuTurn 9 w s)
def execVsfuCos (w : VeOps) (s : State) : Res := .next (sfuTurn 10 w s)
def execVsfuErf (w : VeOps) (s : State) : Res := .next (sfuTurn 11 w s)

/-! ### CVT words (R206 to R209) -/

/-- The rounding mode of a code (R66), with the random bits of ordinal e. -/
def cvtMode (code : Nat) (g : Word) (e : Nat) : RMode :=
  if code = 0 then .rne else if code = 1 then .rtz else .sr (srBits g e)

/-- R94: the CVT generator steps after the last ordinal of a group of 64 or of the word. -/
def cvtStep (g : Word) (e n : Nat) : Word := if e % 64 = 63 || e + 1 = n then srStep g else g

/-- The CVT generator after an ordinal rounded stochastically. -/
def stepCvt (on : Bool) (e n : Nat) : VStep → VStep
  | .go s v => .go (if on then s.onU fun u => { u with ve := { u.ve with cvt := cvtStep u.ve.cvt e n } } else s) v
  | .fin s => .fin (if on then s.onU fun u => { u with ve := { u.ve with cvt := cvtStep u.ve.cvt e n } } else s)
  | r => r

/-- A turn of the CVT column at a word that converts element by element. -/
def cvtTurn (w : VeOps) (sr : Bool) (bad : Unit → Nat → Bool)
    (conv : Word → Nat → Bool → Elem × Tab Word → Fmt → Nat) (s : State) : State :=
  colTurn 3
    (fun u v => { elemPlan w.d [w.a.toNat] false false v with bad := bad u })
    (fun p s v =>
      stepCvt sr v.ord (vn v) (ordStep 3 p w.m.toNat v.ord (vn v) [(w.a.toNat, 1)] [(w.a.toNat, 1)] (fun bit xs ds =>
        let d := dest0 ds
        match bit, xs.getD 0 [] with
        | true, x :: _ => [(w.d.toNat, rawElem (conv s.u.ve.cvt v.ord (entryFtz s.u) x (streamFmt d.1)))]
        | _, _ => [(w.d.toNat, maskedOut d)]) s v)) s

/-- R206: a source element converted in its own value. -/
def cvtElem (w : VeOps) (g : Word) (e : Nat) (ftz : Bool) (x : Elem × Tab Word) (fm : Fmt) : Nat :=
  if isFloat (streamFmt x.2) || isFloat fm then
    flushBits fm ftz (roundTo fm (elemVal ftz x) (cvtMode w.b.toNat g e) w.sat)
  else narrowInt fm (elemInt x) w.sat

/-- VCVT (R206). -/
def execVcvt (w : VeOps) (s : State) : Res :=
  .next (cvtTurn w (w.b == 2) (fun _ _ => false) (cvtElem w) s)

/-- R175, R208: the scale delivered with an element, as a value. -/
def scaleVal (ftz : Bool) (x : Elem × Tab Word) : Val :=
  let b := (x.1.scale.getD 0).toNat
  flushV ftz (if blkFmt x.2 = 12 then toVal .e8m0 b else toVal .fp32 b)

/-- R208: RNE32(x × scale), converted. -/
def dqntElem (w : VeOps) (_ : Word) (_ : Nat) (ftz : Bool) (x : Elem × Tab Word) (fm : Fmt) : Nat :=
  let v := toVal (streamFmt x.2) x.1.bits.toNat
  outBits fm w.sat ftz (workF (flushV ftz (mulV v (scaleVal ftz x))))

/-- VDQNT (R208). -/
def execVdqnt (w : VeOps) (s : State) : Res :=
  .next (cvtTurn w false
    (fun u _ => match headAct (streamOf u w.a.toNat) with
      | some a => blkLen a.f == 0
      | none => false) (dqntElem w) s)

/-- R209: rounded stochastically to the word's format, then to d's. -/
def srndElem (w : VeOps) (g : Word) (e : Nat) (ftz : Bool) (x : Elem × Tab Word) (fm : Fmt) : Nat :=
  let t := (fmtOf w.b.toNat).getD .fp16
  let y := roundTo t (elemVal ftz x) (.sr (srBits g e)) w.sat
  flushBits fm ftz (roundTo fm (toVal t (flushBits t ftz y)) .rne w.sat)

/-- VSRND (R209). -/
def execVsrnd (w : VeOps) (s : State) : Res := .next (cvtTurn w true (fun _ wt => wt != 0) (srndElem w) s)

/-- Bytes of a run of k elements. -/
def rowBytes (fm : Fmt) (k : Nat) : Nat := (k * fmtBits fm + 7) / 8

/-- R207: the outputs of the block that VQNT comes to; the last one may be partial. -/
def qntLen (d : Act) (v : VWord) : Nat := min (blkLen d.f) (min (vn v - v.ord) (d.total - d.given))

/-- R207, R217: VE_FORMAT for VQNT; a block that is in work stands on its boundary. -/
def qntBad (u : Unit) (w : VeOps) (v : VWord) : Bool :=
  match headAct (streamOf u w.d.toNat) with
  | none => false
  | some d =>
    !quantGood (streamFmt d.f) (blkFmt d.f) || blkLen d.f == 0 ||
    (v.kept.isEmpty && d.given % blkLen d.f != 0) ||
    decide (1024 < rowBytes (headFmt u w.a.toNat) (qntLen d v))

/-- The bits of mask m for k ordinals from e; none while one is awaited. -/
def maskRun (u : Unit) (r : VeRun) (seq m e : Nat) : Nat → Option (List Bool)
  | 0 => some []
  | k + 1 =>
    match maskBit u r seq m e with
    | none => none
    | some b => (maskRun u r seq m (e + 1) k).map (b :: ·)

/-- The rounding modes of the ordinals of a block, and the generator after them. -/
def qntModes (code n : Nat) : Nat → Nat → Word → List RMode × Word
  | 0, _, g => ([], g)
  | k + 1, e, g =>
    let r := qntModes code n k (e + 1) (if code = 2 then cvtStep g e n else g)
    (cvtMode code g e :: r.1, r.2)

/-- R207: the block that begins at the word's next output, quantised from the source's queue. -/
def qntBlock (w : VeOps) (r : VeRun) (d : Act) (s : State) (v : VWord) : VStep :=
  let k := qntLen d v
  match maskRun s.u r v.seq w.m.toNat v.ord k, readySrcs s.u [(w.a.toNat, k)] with
  | some bs, some [xs] =>
    if !typesKeep v.wt [xs] then .fault .veFormat 0 3
    else
      let m := qntModes w.b.toNat (vn v) k v.ord s.u.ve.cvt
      let vals := (bs.zip xs).map fun p => if p.1 then some (elemVal r.e.ftz p.2) else none
      let q := quantBlock (streamFmt d.f) r.e.ftz (vals.zip m.1)
      .go (s.onU fun u => { u with ve := { u.ve with cvt := m.2 } })
        { v with taken := k, kept := q.2.map fun b => { bits := BitVec.ofNat 64 b, scale := some (BitVec.ofNat 32 q.1) } }
  | _, _ => .block

/-- The step of VQNT: a block is quantised, then its elements are given one by one; the source's elements stay in the
queue until the last of them is given (R217). -/
def qntStep (w : VeOps) (p : VPlan) (s : State) (v : VWord) : VStep :=
  match s.u.ve.run, headAct (streamOf s.u w.d.toNat) with
  | some r, some d =>
    match v.kept with
    | [] =>
      match laterCause { p with typed := [] , wtFix := some v.wt } 3 v [] with
      | some (c, x) => .fault c 0 x
      | none => qntBlock w r d s v
    | x :: rest =>
      match giveOne s w.d.toNat x with
      | none => .block
      | some s' =>
        let s' := count s' s'.cur 0x0301 1
        advance (if rest.isEmpty then takeMany w.a.toNat v.taken s' else s') { v with ord := v.ord + 1, kept := rest } (vn v)
  | _, _ => .block

/-- VQNT (R207). -/
def execVqnt (w : VeOps) (s : State) : Res :=
  .next (colTurn 3 (fun u v => { elemPlan w.d [w.a.toNat] false false v with bad := fun _ => qntBad u w v })
    (qntStep w) s)

/-! ### RED words (R90, R91, R210 to R212) -/

/-- A reduction: its identity, its lane operation and its tree operation, by working type and SAT. -/
structure RedOp where
  ident : Nat → Work
  lane : Nat → Bool → Work → Work → Work
  comb : Nat → Bool → Work → Work → Work

/-- A binary operation on working values with one RNE32, or reduced integers. -/
def work2 (f : Val → Val → Val) (i : Int → Int → Int) (wt : Nat) (sat : Bool) (a b : Work) : Work :=
  if wt = 0 then workF (f (workVal a) (workVal b)) else .int (redInt wt sat (i (workInt a) (workInt b)))

def redSum : RedOp :=
  { ident := fun wt => if wt = 0 then .f32 0 else .int 0, lane := work2 addV (· + ·), comb := work2 addV (· + ·) }

def redMax : RedOp :=
  { ident := fun wt => if wt = 0 then .f32 0xFF800000 else .int (intRange (wtFmt wt)).1
    lane := work2 maxV max, comb := work2 maxV max }

def redMin : RedOp :=
  { ident := fun wt => if wt = 0 then .f32 0x7F800000 else .int (intRange (wtFmt wt)).2
    lane := work2 minV min, comb := work2 minV min }

/-- R210: |x| as VABS forms it. -/
def absWork (wt : Nat) (sat : Bool) (x : Work) : Work :=
  if wt = 0 then workF (absV (workVal x)) else .int (redInt wt sat (workInt x).natAbs)

def redAmax : RedOp :=
  { ident := fun wt => if wt = 0 then .f32 0 else .int 0
    lane := fun wt sat l x => work2 maxV max wt sat l (absWork wt sat x), comb := work2 maxV max }

def redSsq : RedOp :=
  { ident := fun wt => if wt = 0 then .f32 0 else .int 0
    lane := work2 (fun l x => addV l (mulV x x)) (fun l x => l + x * x), comb := work2 addV (· + ·) }

/-- The lanes of a row, all at the identity where none has been touched. -/
def lanesOf (op : RedOp) (v : VWord) : List Work := if v.lanes.isEmpty then List.replicate 64 (op.ident v.wt) else v.lanes

/-- Element c of a row enters its lane. -/
def laneAdd (op : RedOp) (sat : Bool) (v : VWord) (c : Nat) (x : Work) : List Work :=
  let l := lanesOf op v
  setAt l (c % 64) (op.lane v.wt sat (at' l (c % 64) (op.ident v.wt)) x)

/-- The value of the lanes. -/
def laneVal (op : RedOp) (wt : Nat) (sat : Bool) (l : List Work) : Work := laneTree (op.comb wt sat) l (op.ident wt)

/-- One element taken by a RED word: the mask bit, and the element. -/
def redTake (w : VeOps) (p : VPlan) (s : State) (v : VWord) (next : Bool → Elem × Tab Word → VWord) : VStep :=
  match s.u.ve.run with
  | none => .block
  | some r =>
    match maskBit s.u r v.seq w.m.toNat v.taken, readySrcs s.u [(w.a.toNat, 1)] with
    | some bit, some [x :: rest] =>
      match laterCause { p with dsts := [] } 4 v [x :: rest] with
      | some (c, d) => .fault c 0 d
      | none => .go (takeOne s w.a.toNat) (next bit x)
    | _, _ => .block

/-- The result of a row given by a RED word. -/
def redGive (w : VeOps) (p : VPlan) (s : State) (v : VWord) (outs : Nat) (y : Fmt → Nat) (v' : VWord) : VStep :=
  match destOf s.u w.d.toNat with
  | none => .block
  | some d =>
    match laterCause { p with typed := [], wtFix := some v.wt } 4 v [] with
    | some (c, x) => .fault c 0 x
    | none =>
      match giveAll [(w.d.toNat, rawElem (y (streamFmt d.1)))] s with
      | none => .block
      | some s' => advance s' v' outs

/-- The step of a reduction: the elements of row v.ord, then its result (R210). -/
def redStep (w : VeOps) (op : RedOp) (p : VPlan) (s : State) (v : VWord) : VStep :=
  let ftz := entryFtz s.u
  if v.taken < (v.ord + 1) * v.shN then
    redTake w p s v fun bit x =>
      { v with
        taken := v.taken + 1
        lanes := if bit then laneAdd op w.sat v (v.taken - v.ord * v.shN) (widen ftz x) else lanesOf op v }
  else
    redGive w p s v v.shM (fun fm => outBits fm w.sat ftz (laneVal op v.wt w.sat (lanesOf op v)))
      { v with ord := v.ord + 1, lanes := [] }

/-- A turn of the RED column at a reduction. -/
def redTurn (w : VeOps) (op : RedOp) (s : State) : State :=
  colTurn 4 (fun _ v => elemPlan w.d [w.a.toNat] false false v) (redStep w op) s

def execVrsum (w : VeOps) (s : State) : Res := .next (redTurn w redSum s)
def execVrmax (w : VeOps) (s : State) : Res := .next (redTurn w redMax s)
def execVrmin (w : VeOps) (s : State) : Res := .next (redTurn w redMin s)
def execVramax (w : VeOps) (s : State) : Res := .next (redTurn w redAmax s)
def execVrssq (w : VeOps) (s : State) : Res := .next (redTurn w redSsq s)

/-- R211: a key whose order is that of VARGMX. -/
def argKey : Work → Int
  | .int i => i
  | .f32 b =>
    let m : Nat := b.toNat % 2 ^ 31
    if 0x7F800000 < m then 2 ^ 40 else if b.toNat < 2 ^ 31 then (m : Int) else -(m : Int) - 1

/-- R211: of two pairs (value, column), the one that wins; column −1 is no pair. -/
def argWin (p q : Work × Int) : Work × Int :=
  if q.2 < 0 then p else if p.2 < 0 then q
  else if argKey p.1 < argKey q.1 then q
  else if argKey q.1 < argKey p.1 then p
  else if q.2 < p.2 then q else p

/-- The 64 pairs of the row in work. -/
def argLanes (v : VWord) : List (Work × Int) :=
  if v.lanes.isEmpty then List.replicate 64 (.int 0, -1) else v.lanes.zip v.lidx

/-- The step of VARGMX (R211). -/
def argStep (w : VeOps) (p : VPlan) (s : State) (v : VWord) : VStep :=
  let l := argLanes v
  if v.taken < (v.ord + 1) * v.shN then
    redTake w p s v fun bit x =>
      let c := v.taken - v.ord * v.shN
      let l' := if bit then setAt l (c % 64) (argWin (at' l (c % 64) (.int 0, -1)) (widen (entryFtz s.u) x, (c : Int))) else l
      { v with taken := v.taken + 1, lanes := l'.map (·.1), lidx := l'.map (·.2) }
  else
    redGive w p s v v.shM (fun fm => narrowInt fm (laneTree argWin l (.int 0, -1)).2 w.sat)
      { v with ord := v.ord + 1, lanes := [], lidx := [] }

/-- VARGMX (R211). -/
def execVargmx (w : VeOps) (s : State) : Res :=
  .next (colTurn 4
    (fun u v =>
      { elemPlan w.d [w.a.toNat] false false v with
        bad := fun _ => (headAct (streamOf u w.d.toNat)).any fun a => isFloat (streamFmt a.f) })
    (argStep w) s)

/-- The step of VSCAN (R212): an element is taken and its prefix given. -/
def scanStep (w : VeOps) (p : VPlan) (s : State) (v : VWord) : VStep :=
  let c := v.ord % v.shN
  let ftz := entryFtz s.u
  let v := if c = 0 then { v with lanes := [] } else v
  match redTake w p s v (fun bit x =>
      { v with taken := v.taken + 1
               lanes := if bit then laneAdd redSum w.sat v c (widen ftz x) else lanesOf redSum v }) with
  | .go s' v' =>
    let y := laneVal redSum v.wt w.sat (if w.f2 then lanesOf redSum v else v'.lanes)
    redGive w p s' v' (vn v) (fun fm => outBits fm w.sat ftz y) { v' with ord := v.ord + 1 }
  | r => r

/-- VSCAN (R212). -/
def execVscan (w : VeOps) (s : State) : Res :=
  .next (colTurn 4 (fun _ v => elemPlan w.d [w.a.toNat] false false v) (scanStep w) s)

end Sys2Proof.Machine
end

