-- ==== Sys2Proof/Machine/VeMove.lean ====
section
/-! DEFINITION. The words of the MOVE column (R213 to R217). -/

namespace Sys2Proof.Machine

/-- A turn of the MOVE column at a word that gives one element to d for each of `outs` ordinals: what it
needs and takes at an ordinal, and the element it writes when the mask bit is 1. -/
def moveTurn (w : VeOps) (plan : Unit → VWord → VPlan) (outs : VWord → Nat) (need took : VWord → List (Nat × Nat))
    (elem : Bool → VWord → List (List (Elem × Tab Word)) → Tab Word → Nat) (s : State) : State :=
  colTurn 5 plan
    (fun p s v =>
      ordStep 5 p w.m.toNat v.ord (outs v) (need v) (took v) (fun bit xs ds =>
        let d := dest0 ds
        [(w.d.toNat, if bit then rawElem (elem (entryFtz s.u) v xs d.1) else maskedOut d)]) s v) s

/-- The i-th of the elements of the first source, widened and written in d's format. -/
def moveElem (sat : Bool) (i : VWord → Nat) (ftz : Bool) (v : VWord) (xs : List (List (Elem × Tab Word))) (d : Tab Word) : Nat :=
  match ((xs.getD 0 []).drop (i v)).head? with
  | some x => outBits (streamFmt d) sat ftz (widen ftz x)
  | none => 0

/-- VMOV (R213). -/
def execVmov (w : VeOps) (s : State) : Res :=
  .next (moveTurn w (fun _ v => elemPlan w.d [w.a.toNat] false false v) vn (fun _ => [(w.a.toNat, 1)])
    (fun _ => [(w.a.toNat, 1)]) (moveElem w.sat fun _ => 0) s)

/-- VIOTA (R213): K[b] as INT32 + e. -/
def execViota (w : VeOps) (s : State) : Res :=
  .next (moveTurn w (fun _ v => { elemPlan w.d [] false false v with wtFix := some 1 }) vn (fun _ => []) (fun _ => [])
    (fun ftz v _ d =>
      outBits (streamFmt d) w.sat ftz (.int (redInt 1 w.sat ((entryK s.u w.b).toInt + v.ord)))) s)

/-- VBCAST (R213): the row's one element stays in the queue until the row is written (R217). -/
def execVbcast (w : VeOps) (s : State) : Res :=
  .next (moveTurn w (fun _ v => elemPlan w.d [w.a.toNat] false false v) vn (fun _ => [(w.a.toNat, 1)])
    (fun v => if (v.ord + 1) % v.shN = 0 then [(w.a.toNat, 1)] else []) (moveElem w.sat fun _ => 0) s)

/-- VREV (R213): the row stays in the queue until it is written (R217). -/
def execVrev (w : VeOps) (s : State) : Res :=
  .next (moveTurn w
    (fun u v =>
      { elemPlan w.d [w.a.toNat] false false v with
        bad := fun _ => (headAct (streamOf u w.a.toNat)).any fun a => decide (1024 < rowBytes (streamFmt a.f) v.shN) })
    vn (fun v => [(w.a.toNat, v.shN)]) (fun v => if (v.ord + 1) % v.shN = 0 then [(w.a.toNat, v.shN)] else [])
    (moveElem w.sat fun v => v.shN - 1 - v.ord % v.shN) s)

/-- VILV (R213). -/
def execVilv (w : VeOps) (s : State) : Res :=
  .next (moveTurn w (fun _ v => { elemPlan w.d (srcAB w) false false v with total := 2 * vn v }) (fun v => 2 * vn v)
    (fun _ => (srcAB w).map fun n => (n, 1)) (fun v => if v.ord % 2 = 1 then each (srcAB w) else [])
    (fun ftz v xs d => outBits (streamFmt d) w.sat ftz (srcWork ftz xs (v.ord % 2))) s)

/-- VDILV (R213): bit e governs both outputs; b is a destination. -/
def execVdilv (w : VeOps) (s : State) : Res :=
  .next (colTurn 5
    (fun _ v => { elemPlan w.d [w.a.toNat] false false v with dsts := [w.d.toNat, w.b.toNat], total := 2 * vn v })
    (fun p s v =>
      let ftz := entryFtz s.u
      ordStep 5 p w.m.toNat v.ord (vn v) [(w.a.toNat, 2)] [(w.a.toNat, 2)] (fun bit xs ds =>
        let d := dest0 ds
        let b := dest0 (ds.drop 1)
        if bit then
          [(w.d.toNat, rawElem (moveElem w.sat (fun _ => 0) ftz v xs d.1)),
           (w.b.toNat, rawElem (moveElem w.sat (fun _ => 1) ftz v xs b.1))]
        else [(w.d.toNat, maskedOut d), (w.b.toNat, rawElem 0)]) s v) s)

/-- VGEN (R216, R256): row and column of the shape are the reader coordinates; a masked-off output is zero whatever d's
direction (R216, DEDUCED, log 40). -/
def execVgen (w : VeOps) (s : State) : Res :=
  .next (colTurn 5
    (fun u v =>
      let g := entryGen u w.b.toNat
      { elemPlan w.d [] false false v with gen := genBad g, wtFix := some (wtOf [genFmt g]) })
    (fun p s v =>
      let g := entryGen s.u w.b.toNat
      let ftz := entryFtz s.u
      ordStep 5 p w.m.toNat v.ord (vn v) [] [] (fun bit _ ds =>
        let y := widenFmt ftz (genFmt g) (genElem (genKey s.u g) g ftz 0 0 (v.ord / v.shN) (v.ord % v.shN))
        [(w.d.toNat, rawElem (if bit then outBits (streamFmt (dest0 ds).1) w.sat ftz y else 0))]) s v) s)

/-! ### VCOMB (R92, R215) -/

/-- Slot t's element j enters the sums: the lanes hold the N running sums, then slot 0's elements. -/
def combAdd (v : VWord) (x : Work) : List Work :=
  let j := v.taken % v.shN
  if v.taken < v.shN then v.lanes.take j ++ [x] ++ v.lanes.drop j ++ [x]
  else
    match at' v.lanes j (.int 0), x with
    | .f32 a, .f32 b => setAt v.lanes j (workF (addV (toVal .fp32 a.toNat) (toVal .fp32 b.toNat)))
    | y, x => setAt v.lanes j (.int (workInt y + workInt x))

/-- The step of VCOMB: the slots are taken, then the outputs given; a masked-off one is slot 0's element. -/
def combStep (w : VeOps) (p : VPlan) (s : State) (v : VWord) : VStep :=
  let ftz := entryFtz s.u
  if v.taken < vn v then
    match readySrcs s.u [(w.a.toNat, 1)] with
    | some [x :: rest] =>
      match laterCause { p with dsts := [] } 5 v [x :: rest] with
      | some (c, d) => .fault c 0 d
      | none => .go (takeOne s w.a.toNat) { v with taken := v.taken + 1, lanes := combAdd v (widen ftz x) }
    | _ => .block
  else
    ordStep 5 { p with typed := [], wtFix := some v.wt } w.m.toNat v.ord v.shN [] [] (fun bit _ ds =>
      let y := at' v.lanes (if bit then v.ord else v.shN + v.ord) (.int 0)
      [(w.d.toNat, rawElem (outBits (streamFmt (dest0 ds).1) w.sat ftz y))]) s v

/-- VCOMB (R215). -/
def execVcomb (w : VeOps) (s : State) : Res :=
  .next (colTurn 5
    (fun _ v => { elemPlan w.d [w.a.toNat] false false v with bad := fun _ => decide (64 < v.shN) })
    (combStep w) s)

/-! ### VGATH, VSCAT (R214) -/

/-- The scratch address that an index reaches, if its s bytes lie in the usable scratchpad. -/
def gathAddr (u : Unit) (base : BitVec 32) (idx : Int) (sz : Nat) : Option Nat :=
  let a := base.toNat + idx.toNat * sz
  if idx < 0 || decide (usable u < a + sz) then none else some a

/-- The format of the head activation of a stream is one of 4 bits. -/
def headNibble (u : Unit) (n : Nat) : Bool := (headAct (streamOf u n)).any fun a => elemBytes a.f == 0
def headFloat (u : Unit) (n : Nat) : Bool := (headAct (streamOf u n)).any fun a => isFloat (streamFmt a.f)

/-- The base of a table of elements of stream n is no multiple of the element's size. -/
def baseOff (u : Unit) (k : BitVec 4) (n : Nat) : Bool := (entryK u k).toNat % max 1 (fmtBits (headFmt u n) / 8) != 0

/-- R214: the cause that the index of the ordinal in work raises, if its mask bit is 1. -/
def gathCause (s : State) (m : Nat) (v : VWord) (idx tab : Nat) (k : BitVec 4) : Option (Cause × Word) :=
  match s.u.ve.run, (availOf (streamOf s.u idx)).head? with
  | some r, some x =>
    match maskBit s.u r v.seq m v.ord with
    | some true =>
      let sz := elemBytes (headFields s.u tab)
      match gathAddr s.u (entryK s.u k) (elemInt x) sz with
      | none => some (.veIndex, 0)
      | some a => if scrSpoiled s s.u a sz then some (.uncorrectable, BitVec.ofNat 64 (Config.win + a)) else none
    | _ => none
  | _, _ => none

/-- VGATH (R214). -/
def execVgath (w : VeOps) (s : State) : Res :=
  .next (colTurn 5
    (fun u v =>
      { elemPlan w.d [] false false v with
        other := [w.a.toNat], wtFix := some 1, mis := baseOff u w.b w.d.toNat
        bad := fun _ => headFloat u w.a.toNat || headNibble u w.d.toNat })
    (fun p s v =>
      match if p.bad v.wt then none else gathCause s w.m.toNat v w.a.toNat w.d.toNat w.b with
      | some (c, a) => if (headAct (streamOf s.u w.d.toNat)).isSome then .fault c a 5 else .block
      | none =>
        ordStep 5 p w.m.toNat v.ord (vn v) [(w.a.toNat, 1)] [(w.a.toNat, 1)] (fun bit xs ds =>
          match bit, xs.getD 0 [] with
          | true, x :: _ =>
            let sz := elemBytes (dest0 ds).1
            match gathAddr s.u (entryK s.u w.b) (elemInt x) sz with
            | some a => [(w.d.toNat, rawElem (leNat (scrRead s.mem s.u a sz)))]
            | none => [(w.d.toNat, rawElem 0)]
          | _, _ => [(w.d.toNat, rawElem 0)]) s v) s)

/-- The step of one ordinal of VSCAT: the element's bytes are written at the index. -/
def scatStep (w : VeOps) (p : VPlan) (s : State) (v : VWord) : VStep :=
  match s.u.ve.run with
  | none => .block
  | some r =>
    match maskBit s.u r v.seq w.m.toNat v.ord, readySrcs s.u [(w.a.toNat, 1), (w.b.toNat, 1)] with
    | some bit, some [x :: _, i :: _] =>
      match laterCause p 5 v [] with
      | some (c, d) => .fault c 0 d
      | none =>
        let sz := elemBytes x.2
        let done := fun (s : State) => advance (takeAll s (each (srcAB w))) { v with ord := v.ord + 1 } (vn v)
        if !bit then done s
        else
          match gathAddr s.u (entryK s.u w.d) (elemInt i) sz with
          | none => .fault .veIndex 0 5
          | some a => done (s.scrWrite s.cur a (toLe sz x.1.bits.toNat))
    | _, _ => .block

/-- VSCAT (R214). -/
def execVscat (w : VeOps) (s : State) : Res :=
  .next (colTurn 5
    (fun u v =>
      { typed := [], other := srcAB w, dsts := [], acc := false, total := vn v, gen := false, wtFix := some 1
        bad := fun _ => headFloat u w.b.toNat || headNibble u w.a.toNat, mis := baseOff u w.d w.a.toNat })
    (scatStep w) s)

end Sys2Proof.Machine
end

