-- ==== Sys2Proof/Machine/VeEntry.lean ====
section
/-! DEFINITION. Entries of the vector engine: VRUN, VKSET, VTOKW, the router with its CTL words, tokens, and
the events of the router and of the queues (R133, R134, R190 to R198, R218 to R221, R472). -/

namespace Sys2Proof.Machine

/-! ### Tokens (R218, R245, R246) -/

/-- The count of a token. -/
def tokOf (u : Unit) (t : Nat) : BitVec 16 := tget u.ve.toks t 0
def setTok (u : Unit) (t : Nat) (v : BitVec 16) : Unit := { u with ve := { u.ve with toks := tset u.ve.toks t v } }

/-- The oldest add of a token by the ME leaves the list, and the words before it are covered (R246). -/
def coverTok (m : Me) (t : Nat) : Me :=
  match m.live.find? (fun x => x.1 == t) with
  | some x => { m with live := m.live.erase x, covered := max m.covered x.2 }
  | none => m

/-- A token is consumed. -/
def takeTok (u : Unit) (t : Nat) : Unit := { setTok u t (tokOf u t - 1) with me := coverTok u.me t }

/-- R221, R245, R376: MTOKW and VTOKW complete with a refresh. -/
def tryTok (w : Nat → Wait) (t : Nat) (s : State) : SqRes :=
  if tokOf s.u t = 0 then .hold (w t) s else .done (refresh (s.onU fun u => takeTok u t) s.cur)

/-- VTOKW (R221). -/
def execVtokw (t : BitVec 8) (s : State) : Res := sqWord [] (tryTok .vtok t.toNat) s

/-- VTOKW_COMPLETE (R221). -/
def execVtokwComplete (s : State) : Res :=
  completes s (fun w => match w with | .vtok _ => true | _ => false)
    (fun w s => match w with
      | .vtok t => tryTok .vtok t s
      | _ => .stop s)

/-! ### VRUN and VKSET -/

/-- VKSET (R196). -/
def execVkset (k : BitVec 4) (a : BitVec 6) (s : State) : Res :=
  sqWord [a] (fun s =>
    let v : BitVec 32 := (gOf s a).setWidth 32
    .done (s.onU fun u => { u with ve := { u.ve with k := tset u.ve.k k.toNat v } })) s

/-- R34: the translation causes of the code pages of a block. -/
def codeCause (s : State) (va n : Nat) : Option (Cause × Word) :=
  ((List.range (n / 65536 + 2)).map fun k => BitVec.ofNat 64 (if k = 0 then va else min (va / 65536 * 65536 + k * 65536) (va + n - 1))).findSome? fun a =>
    match translate s s.cur a .load with
    | .error c => some (c, a)
    | .ok t => if t.res then none else some (.notResident, a)

/-- R50, R191: the checks of a block of n words at word offset off of a section. -/
def blockCause (s : State) (o : Nat) (off : Word) (n : Nat) : Option (Cause × Word) :=
  let sec := sectionOf s s.u o
  if sec.2 / 4 < off.toNat + n then some (.fetchBounds, 0) else codeCause s (sec.1 + 4 * off.toNat) (4 * n)

/-- R191: the VE entry goes into the command queue, or waits for a place. -/
def tryVe (e : VeEntry) (s : State) : SqRes :=
  dispatch s 1 (decide (Config.queueCap ≤ s.u.ve.queue.length)) (.veSpace e) fun due s =>
    s.onU fun u => { u with ve := { u.ve with queue := u.ve.queue ++ [{ e with due := due }], ord := u.ve.ord + 1 } }

/-- R191, R258: what a VE entry captures. -/
def veEntry (s : State) (off n : Nat) : VeEntry :=
  { off := off, n := n, ftz := s.u.c.ftz, det := s.u.c.det, n1 := s.u.c.vn1, m1 := s.u.c.vm1, k := s.u.ve.k
    gns := s.u.gns, due := none, ord := s.u.ve.ord }

/-- VRUN (R191). -/
def execVrun (a : BitVec 6) (n1 : BitVec 8) (s : State) : Res :=
  sqWord [a] (fun s =>
    match blockCause s 16 (gOf s a) (n1.toNat + 1) with
    | some (c, va) => .trap c va 0
    | none => tryVe (veEntry s (gOf s a).toNat (n1.toNat + 1)) s) s

/-- DISPATCH_QUEUE_SPACE (R134): the dispatch word or copy start that waits for a place in a queue. The
ME's entry and the command block are in MeEntry.lean and Lease.lean; the wait names the queue. -/
def veSpaceTry (w : Wait) (s : State) : SqRes :=
  match w with
  | .veSpace e => tryVe e s
  | .aeSpace e => tryAe e s
  | .copySpace ch x =>
    if 8 ≤ chanLen (channelOf s (dieOf (coreOf s.u)) ch) then .hold (.copySpace ch x) s else .done (appendCopy s ch x)
  | w => .hold w s

/-! ### The start of an entry (R192) -/

/-- A NEST header at word p (R219): its level resolved. -/
def headerAt (k : Tab (BitVec 32)) (p : Nat) (w : Code) : Option NestLevel :=
  let x := w.toNat
  if bits x 29 3 = 6 && bits x 23 6 = 2 && decide (bits x 20 3 < 6) && bits x 14 6 != 0 && bits x 7 3 = 0 && bits x 0 2 = 0 then
    some { level := bits x 20 3, first := p + 1, len := bits x 14 6
           count := (tget k (bits x 10 4) 0).toNat % 65536 }
  else none

/-- The headers of a block in word order. -/
def headersOf (k : Tab (BitVec 32)) (ws : List Code) : List NestLevel :=
  ((List.range ws.length).zip ws).filterMap fun p => headerAt k p.1 p.2

/-- Header l stands in the body of m. -/
def bodyHas (m l : NestLevel) : Bool := decide (m.first < l.first) && decide (l.first ≤ m.first + m.len)

/-- Level l with its header lies in the body of m. -/
def nestsIn (m l : NestLevel) : Bool := bodyHas m l && decide (l.first + l.len ≤ m.first + m.len)

/-- R142, R192: NEST_FORM for the headers of a block of n words: a body that is too long or has count 0, two headers of one
level, or two levels of which the lower does not lie in the body of the higher. -/
def nestBad (hs : List NestLevel) (n : Nat) : Bool :=
  hs.any fun l =>
    decide (n < l.first + l.len) || l.count == 0 ||
    hs.any fun m => if m.level = l.level then m.first != l.first else decide (l.level < m.level) && !nestsIn m l

/-- The levels of a nest, innermost first. -/
def levelsUp (hs : List NestLevel) : List NestLevel :=
  (List.range 6).filterMap fun k => hs.find? fun l => l.level == k

/-- The delay of a CTL word at the router (R144, R219). -/
def ctlDelay (w : Code) : Nat := if bits w.toNat 29 3 = 6 then bits w.toNat 2 5 else 0

/-- The router comes to word p, or to the end of the block. -/
def routerAt (r : VeRun) (p : Nat) (ctr : List Nat) : VeRun :=
  match r.words[p]? with
  | some w => { r with widx := p, ctr := ctr, wait := ctlDelay w }
  | none => { r with widx := p, ctr := ctr, wait := 0, atEnd := true }

/-- The router is done with the word in work: it handles one word in a cycle (R193, R219). -/
def routerNext (r : VeRun) : VeRun :=
  let q := nestNext r.levels r.widx r.ctr
  { routerAt r q.1 q.2 with moved := true }

/-- The router may act for the acting unit. -/
def routerLive (u : Unit) : Bool := issuing u && !u.stopMask.getLsbD 8

/-- A running entry as it starts (R141, R195, R198). -/
def veRunOf (u : Unit) (e : VeEntry) (ws : List Code) : VeRun :=
  routerAt
    { e := e, words := ws, levels := levelsUp (headersOf e.k ws), widx := 0, ctr := [0, 0, 0, 0, 0, 0]
      shN := e.n1.toNat + 1, shM := e.m1.toNat + 1, wait := 0, atEnd := false, exited := false
      masks := u.ve.masks, wrote := [], met := [], moved := false } 0 [0, 0, 0, 0, 0, 0]

/-- The running entry of the acting unit's VE replaced. -/
def putRun (s : State) (r : Option VeRun) : State := s.onU fun u => { u with ve := { u.ve with run := r } }

/-- VE_ENTRY_START (R190 to R192). -/
def execVeEntryStart (s : State) : Res :=
  match s.u.ve.queue with
  | [] => .next s
  | e :: q =>
    happens (routerLive s.u && s.u.ve.run.isNone && dueHere s.u e.due)
      (match blockWords s 16 e.off e.n with
       | .error (c, a) => agentFault s s.cur .router c a 0
       | .ok cs =>
         let (ws, s) := drawWords s cs
         if nestBad (headersOf e.k ws) ws.length then agentFault s s.cur .router .nestForm 0 0
         else
           let s' := s.onU fun u => { dropFar .router u with ve := { u.ve with queue := q, run := some (veRunOf u e ws) } }
           traceEntry s' s.cur 1 false e.ord e.off) s

/-! ### The router (R193, R219) -/

/-- A word dispatched to its column, with the shape and position it carries (R193, R198), and when it is the entry's first
there, with the time at which it issues (R144). -/
def dispatched (u : Unit) (r : VeRun) (w : Code) : VWord :=
  let first := !r.met.contains (bits w.toNat 29 3)
  { code := w, widx := r.widx, ctr := r.ctr, shN := r.shN, shM := r.shM, seq := u.ve.seq
    first := first, wait := if first then wordDelay w else 0
    due := if first then r.e.due.map (· + wordDelay w) else none
    issued := false, wt := 0, ord := 0, taken := 0, lanes := [], lidx := [], kept := [] }

/-- The router may append a word to a column queue; a hold does not keep it from that (R148, R193). -/
def mayDispatch (u : Unit) (r : VeRun) : Bool := live u && !u.stopMask.getLsbD 8 && !r.atEnd && !r.moved

/-- ROUTER_DISPATCH (R193): the element word at the router goes to its column's queue of 8. -/
def execRouterDispatch (s : State) : Res :=
  match s.u.ve.run with
  | none => .next s
  | some r =>
    match r.words[r.widx]? with
    | none => .next s
    | some w =>
      let c := bits w.toNat 29 3
      let q := tget s.u.ve.cols c []
      happens (mayDispatch s.u r && decide (c < 6) && decide (q.length < 8))
        (s.onU fun u =>
          let r' := { r with wrote := (r.wrote ++ wordDests w).eraseDups, met := (r.met ++ [c]).eraseDups }
          { u with ve := { u.ve with cols := tset u.ve.cols c (q ++ [dispatched u r w]), seq := u.ve.seq + 1
                                     run := some (routerNext r') } }) s

/-- A turn of the router at a CTL word: once its delay is over its effect happens and the router goes on. -/
def routerTurn (f : State → VeRun → Option (State × VeRun)) (s : State) : State :=
  match s.u.ve.run with
  | none => s
  | some r =>
    if !routerLive s.u || r.atEnd || r.wait != 0 || r.moved then s
    else
      match f s r with
      | none => s
      | some (s', r') => putRun s' (some (routerNext r'))

/-- SHAPE.N (R219). -/
def execShapeN (imm : BitVec 16) (_dly : BitVec 5) (s : State) : Res :=
  .next (routerTurn (fun s r => some (s, { r with shN := imm.toNat + 1 })) s)

/-- SHAPE.M (R219). -/
def execShapeM (imm : BitVec 16) (_dly : BitVec 5) (s : State) : Res :=
  .next (routerTurn (fun s r => some (s, { r with shM := imm.toNat + 1 })) s)

/-- NEST (R219): a pass of the header sets its level's counter to 0. -/
def execNest (level : BitVec 3) (_len : BitVec 6) (_k : BitVec 4) (_dly : BitVec 5) (s : State) : Res :=
  .next (routerTurn (fun s r => some (s, { r with ctr := setAt r.ctr level.toNat 0 })) s)

/-- VNOP (R219). -/
def execVnop (_dly : BitVec 5) (s : State) : Res := .next (routerTurn (fun s r => some (s, r)) s)

/-- VTOK (R220): the add waits for the words dispatched before it; the router goes on. -/
def execVtok (t : BitVec 8) (_dly : BitVec 5) (s : State) : Res :=
  .next (routerTurn (fun s r =>
    let a : TokAdd := { tok := t.toNat, seq := s.u.ve.seq, streams := r.wrote, given := none }
    some (s.onU fun u => { u with ve := { u.ve with adds := u.ve.adds ++ [a] } }, r)) s)

/-- VWTOK (R219): the router waits until the token is at least 1, and takes it. -/
def takeAtRouter (t : Nat) (s : State) (r : VeRun) : Option (State × VeRun) :=
  if tokOf s.u t = 0 then none else some (s.onU fun u => takeTok u t, r)

/-- VWTOK (R219). -/
def execVwtok (t : BitVec 8) (_dly : BitVec 5) (s : State) : Res := .next (routerTurn (takeAtRouter t.toNat) s)

/-- VWTOK_COMPLETE (R219): the wait of the VWTOK at the router ends. -/
def execVwtokComplete (s : State) : Res :=
  match s.u.ve.run.bind fun r => r.words[r.widx]? with
  | some w =>
    if bits w.toNat 29 3 = 6 && bits w.toNat 23 6 = 4 then .next (routerTurn (takeAtRouter (bits w.toNat 7 8)) s)
    else .next s
  | none => .next s

/-! ### Token adds (R220) -/

/-- The elements that the store and RMW activations of streams have been given. -/
def givenOf (u : Unit) (ns : List Nat) : List (Nat × Nat × Nat) :=
  ns.flatMap fun n => (streamOf u n).acts.filterMap fun a => if actDir a = 0 then none else some (n, a.id, a.given)

/-- R178: the partial chunks concerned are written without waiting. -/
def flushTo (u : Unit) (g : List (Nat × Nat × Nat)) : Unit :=
  g.foldl (fun u x =>
    let st := streamOf u x.1
    putStream u x.1 { st with acts := st.acts.map fun a =>
      if a.id = x.2.1 then { a with flushTo := max a.flushTo x.2.2 } else a }) u

/-- An activation's elements have been performed: it has performed them, or it has left its stream. -/
def performedTo (u : Unit) (x : Nat × Nat × Nat) : Bool :=
  (streamOf u x.1).acts.all fun a => a.id != x.2.1 || decide (x.2.2 ≤ a.performed)

/-- A token add: TOKEN_OVERFLOW at the adding word (R218), or 1 more. -/
def addTok (s : State) (agent : Agent) (t : Nat) (done : State → State) : State :=
  if tokOf s.u t = 0xFFFF then agentFault s s.cur agent .tokenOverflow 0 t
  else done (s.onU fun u => setTok u t (tokOf u t + 1))

/-- VTOK_ADD (R220): the oldest add takes note of the elements its words have given once they have
finished, and is made once those are performed. -/
def execVtokAdd (s : State) : Res :=
  match s.u.ve.adds with
  | [] => .next s
  | a :: rest =>
    let put := fun (s : State) (l : List TokAdd) => s.onU fun u => { u with ve := { u.ve with adds := l } }
    happens (live s.u && (colWords s.u).all fun v => decide (a.seq ≤ v.seq))
      (match a.given with
       | none =>
         let g := givenOf s.u a.streams
         put (s.onU fun u => flushTo u g) ({ a with given := some g } :: rest)
       | some g =>
         if g.all (performedTo s.u) then addTok s .router a.tok fun s => put s rest else s) s

/-- VE_ENTRY_FINISH (R190): every word of the block has issued and every column has completed. -/
def execVeEntryFinish (s : State) : Res :=
  match s.u.ve.run with
  | none => .next s
  | some r =>
    happens (routerLive s.u && r.atEnd && (colWords s.u).isEmpty)
      (traceEntry (unitCounts (putRun s none)) s.cur 1 true r.e.ord r.e.off) s

end Sys2Proof.Machine
end

