-- ==== Sys2Proof/Machine/Desc.lean ====
section
/-! DEFINITION. Descriptors of transfer programs: their fields, areas, formats and signals (R395, R396, R398). -/

namespace Sys2Proof.Machine

/-! ### Fields (R395) -/

def dKind (d : List Byte) : Nat := fieldAt d 0 1
def dWire (d : List Byte) : Nat := fieldAt d 1 1
def dLocal (d : List Byte) : Nat := fieldAt d 2 1
def dSr (d : List Byte) : Bool := bitAt (fieldAt d 3 1) 0
def dLane (d : List Byte) : Nat := fieldAt d 4 1
def dVf (d : List Byte) : Nat := fieldAt d 5 1
def dRec (d : List Byte) : Nat := fieldAt d 6 2
def dUnit (d : List Byte) : Nat := fieldAt d 8 1
def dTiles (d : List Byte) : Nat := fieldAt d 10 2
def dRsig (d : List Byte) : Nat := fieldAt d 12 2
def dDsig (d : List Byte) : Nat := fieldAt d 14 2
def dAddr (d : List Byte) : Nat := fieldAt d 16 8
def dStep (d : List Byte) : Nat := fieldAt d 24 4
def dSeed (d : List Byte) : Nat := fieldAt d 28 4

/-- R396: bytes of a tile's local area; none for a pair of formats that is refused. -/
def footprint (d : List Byte) : Option Nat :=
  match dWire d, dLocal d with
  | 0, 0 => some 4096
  | 1, 1 => some 4096
  | 2, 2 => some 4224
  | 2, 1 => some 16384
  | _, _ => none

/-- The kind of a signal, 0 none, 1 handle, 2 token, and its number. -/
def sigKind (x : Nat) : Nat := x / 2 ^ 14
def sigNum (x : Nat) : Nat := x % 256

/-- The unit that a descriptor names. -/
def descUid (d : List Byte) : Nat := uidOf (dRec d) (dUnit d)

/-- The unit that a descriptor names, when it is placed. -/
def descUnit (s : State) (d : List Byte) : Option Nat :=
  let u := s.unit (descUid d)
  if u.id.vf = dVf d && u.id.core.isSome && (u.st == .running || u.st == .held || u.st == .faulted) then some (descUid d) else none

/-! ### Areas (R396, R397) -/

/-- Bytes of a VF's memory on this package, granule by granule; none where a granule cannot be read. -/
def areaRead (s : State) (vf : Nat) : Nat → Nat → Nat → Option (List Byte)
  | 0, _, _ => some []
  | f + 1, va, n =>
    if n = 0 then some []
    else
      let m := min n (64 - va % 64)
      match vfTranslate s vf (BitVec.ofNat 64 va) .load with
      | .error _ => none
      | .ok t =>
        match t.place with
        | .pod .. => none
        | .mem k =>
          if !t.res || spoiledAt s k m then none
          else (areaRead s vf f (va + m) (n - m)).map fun r => memRead s.mem k m ++ r

/-- Bytes written to a VF's memory on this package, granule by granule. -/
def areaWrite (vf : Nat) : Nat → State → Nat → List Byte → State
  | 0, s, _, _ => s
  | f + 1, s, va, bs =>
    if bs.isEmpty then s
    else
      let m := 64 - va % 64
      let s := match vfTranslate s vf (BitVec.ofNat 64 va) .store with
        | .error _ => s
        | .ok t => (writeRun s vf (BitVec.ofNat 64 va) t (bs.take m)).getD s
      areaWrite vf f s (va + m) (bs.drop m)

/-- Local address of a tile. -/
def tileAddr (d : List Byte) (t : Nat) : Nat := dAddr d + t * dStep d

/-- R396: the area of a tile may be used in the slot. -/
def tilePlaced (s : State) (d : List Byte) (t : Nat) : Bool :=
  if dKind d = 1 then true
  else
    match descUnit s d with
    | none => false
    | some uid => decide (tileAddr d t + (footprint d).getD 0 ≤ usable (s.unit uid))

/-- The bytes of a tile; none when its area may not be used, or holds an uncorrectable error (R410). -/
def linkTileRead (s : State) (d : List Byte) (t : Nat) : Option (List Byte) :=
  let n := (footprint d).getD 0
  let a := tileAddr d t
  if !tilePlaced s d t then none
  else if dKind d = 1 then areaRead s (dVf d) (n / 64 + 2) a n
  else
    let u := s.unit (descUid d)
    if (List.range (n / 64)).any fun k => scrSpoiled s u (a + 64 * k) 64 then none else some (scrRead s.mem u a n)

/-- A tile written, granule by granule. -/
def linkTileWrite (s : State) (d : List Byte) (t : Nat) (bs : List Byte) : State :=
  if dKind d = 1 then areaWrite (dVf d) (bs.length / 64 + 2) s (tileAddr d t) bs
  else s.scrWrite (descUid d) (tileAddr d t) bs

/-! ### Formats (R84, R396) -/

/-- FP32 words of bytes. -/
def fp32s (bs : List Byte) : List Nat := (List.range (bs.length / 4)).map fun k => fieldAt bs (4 * k) 4

/-- Bytes of FP32 words. -/
def fp32Bytes (xs : List Nat) : List Byte := xs.flatMap (toLe 4)

/-- RNE32(q × s) of an E4M3 element and its FP32 scale. -/
def widenElem (q s : Nat) : Nat := rne32b (mulV (toVal .e4m3 q) (toVal .fp32 s))

/-- Elements of E4M3 widened with the scales of their blocks of 128. -/
def widenTile (bs : List Byte) (scales : List Nat) : List Nat :=
  ((List.range bs.length).zip bs).map fun e => widenElem e.2.toNat (scales.getD (e.1 / 128) 0)

/-- The rounding of element e of a tile: RNE, or stochastic from the tile's own state (R94, R396). -/
def tileMode (d : List Byte) (t use e : Nat) : RMode :=
  if dSr d then
    let w := srInit (BitVec.ofNat 64 (dSeed d) ^^^ BitVec.ofNat 64 (t * 2 ^ 32) ^^^ BitVec.ofNat 64 (use * 2 ^ 48))
    .sr (srBits (srAt (e / 64) w) e)
  else .rne

/-- FP32 words quantised to E4M3 in blocks of 128: elements and scales (R84). -/
def quantTile (d : List Byte) (t use : Nat) (xs : List Nat) : List Byte × List Nat :=
  let es := (List.range xs.length).zip xs
  let blocks := (List.range (xs.length / 128)).map fun b =>
    quantBlock .e4m3 false ((slice es (128 * b) 128).map fun e => (some (toVal .fp32 e.2), tileMode d t use e.1))
  (blocks.flatMap fun b => b.2.map (BitVec.ofNat 8), blocks.map (·.1))

/-- R396, transmit: the payload and scales of a tile's bytes. -/
def toWire (d : List Byte) (t use : Nat) (bs : List Byte) : List Byte × List Nat :=
  if dWire d = dLocal d then (bs.take 4096, if dWire d = 2 then fp32s ((bs.drop 4096).take 128) else [])
  else quantTile d t use (fp32s bs)

/-- The FP32 words that an incoming payload widens to. -/
def wireValues (d : List Byte) (bs : List Byte) (scales : List Nat) : List Nat :=
  if dWire d = 2 then widenTile bs scales else fp32s bs

/-- R396, receive. -/
def fromWire (d : List Byte) (bs : List Byte) (scales : List Nat) : List Byte :=
  if dWire d = dLocal d then bs ++ (if dWire d = 2 then fp32Bytes (padTo scales 32 0) else []) else fp32Bytes (wireValues d bs scales)

/-- RNE32 of a sum of two FP32 words; link engines keep subnormals. -/
def add32 (a b : Nat) : Nat := rne32b (addV (toVal .fp32 a) (toVal .fp32 b))

/-- R397: what a receiving word leaves in the local area: 0 RECV, 1 REDW, 2 REDS. -/
def received (op : Nat) (d : List Byte) (t use : Nat) (cur bs : List Byte) (scales : List Nat) : List Byte :=
  match op with
  | 0 => fromWire d bs scales
  | 1 => fp32Bytes ((fp32s cur).zipWith add32 (wireValues d bs scales))
  | _ =>
    let mine := widenTile (cur.take 4096) (fp32s (cur.drop 4096))
    let q := quantTile d t use (mine.zipWith add32 (widenTile bs scales))
    q.1 ++ fp32Bytes q.2

/-! ### Signals (R398) -/

/-- RSIG at tile 0: the tile is ready. -/
def rsigReady (s : State) (d : List Byte) : Bool :=
  if sigKind (dRsig d) = 0 then true
  else
    match descUnit s d with
    | none => false
    | some uid =>
      let u := s.unit uid
      if sigKind (dRsig d) = 1 then handleOf u (sigNum (dRsig d)) == .full else tokOf u (sigNum (dRsig d)) != 0

/-- RSIG at tile 0 taken: a handle DRAINING, a token less 1. -/
def rsigTake (s : State) (d : List Byte) : State :=
  let n := sigNum (dRsig d)
  if sigKind (dRsig d) = 1 then s.onUnit (descUid d) fun u => setHandle u n .draining
  else if sigKind (dRsig d) = 2 then s.onUnit (descUid d) fun u => setTok u n (tokOf u n - 1)
  else s

/-- RSIG after the last tile: a handle is set FREE. -/
def rsigFree (s : State) (d : List Byte) : State :=
  if sigKind (dRsig d) = 1 && (descUnit s d).isSome then s.onUnit (descUid d) fun u => setHandle u (sigNum (dRsig d)) .free else s

/-- DSIG at tile 0: a handle FREE or FILLING. -/
def dsigReady (s : State) (d : List Byte) : Bool :=
  if sigKind (dDsig d) != 1 then true
  else
    match descUnit s d with
    | none => false
    | some uid => let h := handleOf (s.unit uid) (sigNum (dDsig d)); h == .free || h == .filling

def dsigTake (s : State) (d : List Byte) : State :=
  if sigKind (dDsig d) = 1 then s.onUnit (descUid d) fun u => setHandle u (sigNum (dDsig d)) .filling else s

/-- DSIG after the last tile: a handle FULL, a token one more; false when the token would pass its limit, which
raises TOKEN_OVERFLOW in the unit (R218). -/
def dsigEnd (s : State) (d : List Byte) : State × Bool :=
  let n := sigNum (dDsig d)
  if (descUnit s d).isNone || sigKind (dDsig d) = 0 then (s, true)
  else if sigKind (dDsig d) = 1 then (s.onUnit (descUid d) fun u => setHandle u n .full, true)
  else if tokOf (s.unit (descUid d)) n = 0xFFFF then (agentFault s (descUid d) .sq .tokenOverflow 0 n, false)
  else (s.onUnit (descUid d) fun u => setTok u n (tokOf u n + 1), true)

/-- QFENCE LK: no receive into the unit's scratchpad waits to be performed (R384). -/
def linksDone (s : State) (uid : Nat) : Bool :=
  s.links.all fun l => l.2.dones.all fun x => dKind x.desc != 0 || descUid x.desc != uid

end Sys2Proof.Machine
end

