-- ==== Sys2Proof/Machine/Sync.lean ====
section
/-! DEFINITION. FENCE, QFENCE and PHASE (R372, R374, R376, R383 to R387, R504). -/

namespace Sys2Proof.Machine

/-! ### FENCE (R383) -/

/-- R383: the waits, the drain with its acknowledgements, the refresh. -/
def tryFence (sc : Scope) (s : State) : SqRes :=
  if !remotesDone s.u then .hold (.fence sc) s
  else
    match drain s s.cur with
    | .wait s' => .hold (.fence sc) s'
    | .fail s' c a => .stop (drainFault (s'.onU fun u => { u with wait := none }) s'.cur c a)
    | .ok s' => if farScope sc && !remotesDone s'.u then .hold (.fence sc) s' else .done (refresh s' s'.cur)

/-- R372, R383. -/
def execFence (sc : Scope) (s : State) : Res :=
  sqWord [] (fun s => if scopeDenied s.u.c sc then .trap .scopeDenied 0 0 else tryFence sc s) s

/-- FENCE_COMPLETE (R383). -/
def execFenceComplete (s : State) : Res :=
  completes s (fun w => match w with | .fence _ => true | _ => false)
    (fun w s => match w with
      | .fence sc => tryFence sc s
      | _ => .stop s)

/-! ### QFENCE (R384) -/

/-- No stream write of the unit to another package awaits its acknowledgement. -/
def streamsAcked (u : Unit) : Bool := u.m.remotes.all fun r => r.strm.isNone

/-- R384: every write of the queues of a mask is performed, the SQ's own drain apart. -/
def queuesDone (s : State) (uid : Nat) (m : BitVec 7) : Bool :=
  let u := s.unit uid
  (!m.getLsbD 0 || earlierDone .tenant u) && (!m.getLsbD 1 || (!aeBusy u && streamsAcked u)) &&
  (!m.getLsbD 2 || !veBusy u) && (!m.getLsbD 3 || !meBusy u) && (!m.getLsbD 4 || copiesDone s uid) &&
  (!m.getLsbD 5 || linksDone s uid) &&
  (!m.getLsbD 6 || u.m.leases.all fun l => (l.2.st == .evicted || l.2.cmds.isEmpty) && !writesOut u l.1)

/-- R384: the waits, the drain when the SQ is named, and the refresh. -/
def tryQfence (m : BitVec 7) (s : State) : SqRes :=
  if !queuesDone s s.cur m then .hold (.qfence m) s
  else if m.getLsbD 0 then
    match drain s s.cur with
    | .wait s' => .hold (.qfence m) s'
    | .fail s' c a => .stop (drainFault (s'.onU fun u => { u with wait := none }) s'.cur c a)
    | .ok s' => .done (refresh s' s'.cur)
  else .done (refresh s s.cur)

/-- R384. -/
def execQfence (mask : BitVec 7) (s : State) : Res := sqWord [] (tryQfence mask) s

/-- QFENCE_COMPLETE (R384). -/
def execQfenceComplete (s : State) : Res :=
  completes s (fun w => match w with | .qfence _ => true | _ => false)
    (fun w s => match w with
      | .qfence m => tryQfence m s
      | _ => .stop s)

/-! ### PHASE (R385 to R387) -/

/-- The domain of a scope that a core is in; for POD and SYSTEM the graph. -/
def phaseDomain (s : State) (u : Unit) (sc : Scope) : Nat :=
  match sc with
  | .core => coreOf u
  | .bay => bayOf (coreOf u)
  | .die => dieOf (coreOf u)
  | .chip | .tenant => 0
  | .pod | .system => recGraph s u.id.recNo

/-- What a scope's generations belong to: the launch, or the job. -/
def phaseOwner (u : Unit) (sc : Scope) : Nat := if farScope sc then jobKey u.id.vf u.id.job else u.id.recNo

/-- A blank set of members. -/
def phaseOf (s : State) (sc : Scope) (owner dom : Nat) : PhaseGen :=
  (s.phases.find? fun p => p.scope == sc && p.recNo == owner && p.dom == dom).getD
    { scope := sc, recNo := owner, dom := dom, gen := 0, members := [], arrived := [] }

def putPhase (s : State) (p : PhaseGen) : State :=
  { s with phases := (s.phases.filter fun q => !(q.scope == p.scope && q.recNo == p.recNo && q.dom == p.dom)) ++ [p] }

/-- R385: the members of a generation at its first arrival; of scope POD or SYSTEM, those of the launches of the job that are
not IDLE then (DEDUCED, log 94). -/
def phaseMembers (s : State) (u : Unit) (sc : Scope) : List Nat :=
  let mine := unitsOf s u.id.recNo
  let placed := mine.filter fun k => match (s.unit k).id.core with
    | some c => (s.core c).occupant == some k
    | none => false
  match sc with
  | .core | .bay | .die => placed.filter fun k => phaseDomain s (s.unit k) sc == phaseDomain s u sc
  | .chip | .tenant => mine
  | .pod | .system =>
    ((s.job (jobKey u.id.vf u.id.job)).recs.filter fun i =>
      (s.recOf i).st != .idle && recCoursed s i && recGraph s i == recGraph s u.id.recNo).flatMap (unitsOf s)

/-- Arrivals of other packages for a generation of scope POD or SYSTEM. -/
def farArrived (j : Job) (graph : Nat) (sys : Bool) : Nat :=
  ((j.phaseFar.find? fun e => e.1 == graph && e.2.1 == sys).map (·.2.2)).getD 0

def setFarArrived (j : Job) (graph : Nat) (sys : Bool) (n : Nat) : Job :=
  { j with phaseFar := (graph, sys, n) :: j.phaseFar.filter fun e => !(e.1 == graph && e.2.1 == sys) }

/-- R385: the members on other packages. -/
def farCount (s : State) (sc : Scope) (p : PhaseGen) : Nat :=
  if farScope sc && decide (1 < podSize s) then Config.farMembers p.recNo p.dom else 0

/-- R385, R386: every member of the open generation has arrived, or has ended. -/
def phaseMet (s : State) (p : PhaseGen) : Bool :=
  !p.arrived.isEmpty && (p.members.all fun k => p.arrived.contains k || !alive (s.unit k)) &&
  decide (farCount s p.scope p ≤ farArrived (s.job p.recNo) p.dom (p.scope == .system))

/-- R331, R386: a generation completes; at scope POD that is a boundary of the job's phases. -/
def completePhase (s : State) (p : PhaseGen) : State :=
  let far := farCount s p.scope p
  let s := putPhase s { p with gen := p.gen + 1, members := [], arrived := [] }
  if farScope p.scope then
    onJob s p.recNo fun j =>
      let j := setFarArrived j p.dom (p.scope == .system) (farArrived j p.dom (p.scope == .system) - far)
      if p.scope = .pod then { j with phaseCtr := j.phaseCtr + 1 } else j
  else s

/-- The generation that a unit has arrived for and not left. -/
def arrivedGen (u : Unit) (sc : Scope) : Option Nat := (u.m.phaseArrived.find? fun e => e.1 == sc).map (·.2)

/-- R386: the meeting and the departure. -/
def tryMeet (sc : Scope) (s : State) : SqRes :=
  let u := s.u
  let p := phaseOf s sc (phaseOwner u sc) (phaseDomain s u sc)
  match arrivedGen u sc with
  | none => .done s
  | some g =>
    let s := if p.gen = g && phaseMet s p then completePhase s p else s
    let p := phaseOf s sc (phaseOwner u sc) (phaseDomain s u sc)
    if p.gen = g then .hold (.phaseMeet sc) s
    else
      .done (refresh (s.onU fun u =>
        { u with m := { u.m with phaseArrived := u.m.phaseArrived.filter fun e => e.1 != sc } }) s.cur)

/-- R386: the arrival recorded; it goes to the other packages too where the scope spans them. -/
def recordPhase (s : State) (sc : Scope) (p : PhaseGen) : State :=
  let u := s.u
  let s := putPhase s { p with arrived := p.arrived ++ [s.cur] }
  let s := s.onU fun u => { u with m := { u.m with phaseArrived := u.m.phaseArrived ++ [(sc, p.gen)] } }
  if farScope sc then alarmOut s (.phaseArrived s.pod.pkg p.recNo (recGraph s u.id.recNo) (sc == .system)) else s

/-- R386, R387: the arrival, after the waits of FENCE and QFENCE 0x7F and the drain; a unit that joined its
domain after the first arrival waits for the next generation. -/
def tryArrive (sc : Scope) (s : State) : SqRes :=
  if (arrivedGen s.u sc).isSome then tryMeet sc s
  else if !remotesDone s.u || !queuesDone s s.cur 0x7F then .hold (.phaseArrive sc) s
  else
    match drain s s.cur with
    | .wait s' => .hold (.phaseArrive sc) s'
    | .fail s' c a => .stop (drainFault (s'.onU fun u => { u with wait := none }) s'.cur c a)
    | .ok s =>
      let u := s.u
      let p := phaseOf s sc (phaseOwner u sc) (phaseDomain s u sc)
      let p := if p.arrived.isEmpty then { p with members := phaseMembers s u sc } else p
      if farScope sc && !remotesDone u then .hold (.phaseArrive sc) s
      else if !p.members.contains s.cur then .hold (.phaseArrive sc) s
      else tryMeet sc (recordPhase s sc p)

/-- R372, R385. -/
def execPhase (sc : Scope) (s : State) : Res :=
  sqWord [] (fun s =>
    if scopeDenied s.u.c sc then .trap .scopeDenied 0 0
    else if farScope sc && !s.u.c.coursed then .trap .phaseForm 0 0
    else tryArrive sc s) s

/-- PHASE_DEPART (R386): the acting unit's PHASE goes on: it arrives, or departs. -/
def execPhaseDepart (s : State) : Res :=
  completes s (fun w => match w with | .phaseArrive _ | .phaseMeet _ => true | _ => false)
    (fun w s => match w with
      | .phaseArrive sc => tryArrive sc s
      | .phaseMeet sc => tryMeet sc s
      | _ => .stop s)

end Sys2Proof.Machine
end

