-- ==== Sys2Proof/Machine/Packets.lean ====
section
/-! DEFINITION. Asynchronous packets: what a target does with a request (R302 to R304, R309, R404 to R408), what
a requester does with a reply, a NACK, a retry or a timeout (R129, R131, R300, R365), and their sending. -/

namespace Sys2Proof.Machine

/-! ### Replies (R406 to R408) -/

/-- The ports of a route of n hops. -/
def routePorts (p : Packet) (n : Nat) : List Nat := (List.range n).map fun k => bits p.route.toNat (4 * k) 4

/-- The port of the neighbour that a port leads to: the opposite torus direction, or the same chord port. -/
def facing (port : Nat) : Nat := if port < 8 then (if port % 2 = 0 then port + 1 else port - 1) else port

/-- R407: a packet that goes back the hops that a request has made. A NACK reason above 15 has its upper part in AOP
(DESIGN CHOICE, log 13). -/
def backPacket (s : State) (p : Packet) (size : Nat) (data : List Byte) : Packet :=
  let made := min p.hop.toNat p.nhop.toNat
  let r := (routePorts p made).reverse.map facing
  { p with size := BitVec.ofNat 8 (size % 16), aop := BitVec.ofNat 8 (size / 16), hop := 0, nhop := BitVec.ofNat 8 r.length
           route := BitVec.ofNat 128 (packRoute r), srcPkg := BitVec.ofNat 16 s.pod.pkg, srcVf := p.dstVf
           dstPkg := p.srcPkg, dstVf := p.srcVf, bmask := 0, rkey := 0, data := data }

/-- A packet of this package enters a port's buffer, or waits 256 cycles (R408). -/
def sendBack (s : State) (k : PacketKind) (p : Packet) : State :=
  match toPort s (outPort p) { kind := k, p := p } with
  | some s' => s'
  | none => { s with late := s.late ++ [(256, { kind := k, p := p })] }

def reply (s : State) (p : Packet) (data : List Byte) : State := sendBack s .reply (backPacket s p p.size.toNat data)
def nack (s : State) (p : Packet) (reason : Nat) : State := sendBack s .nack (backPacket s p reason [])
def turnBack (s : State) (p : Packet) : State := sendBack s .retry (backPacket s p p.size.toNat [])

/-! ### The checks of a target (R404) -/

/-- What a request asks of its key. -/
inductive KeyNeed where
  | read | write | amo | handle
  deriving DecidableEq, Repr

def keyGrants (e : KeyEntry) : KeyNeed → Bool
  | .read => e.r
  | .write => e.w
  | .amo => e.amo
  | .handle => e.handle && e.kind == 1

def blankKey : KeyEntry :=
  { v := false, r := false, w := false, amo := false, handle := false, kind := 0, gen := 0, base := 0, limit := 0
    recNo := 0, unit := 0 }

/-- Bytes of a request. -/
def pktBytes (p : Packet) : Nat := 2 ^ min p.size.toNat 6

/-- The bytes that a request reaches from its offset on: a write with a mask those up to the last under it (DESIGN CHOICE,
log 13). -/
def pktReach (p : Packet) (need : KeyNeed) : Nat :=
  if need = .write && p.bmask != 0 then p.bmask.toNat.log2 + 1 else pktBytes p

/-- What a key leads to: an address of the VF, or a scratch address or handle of a unit. -/
inductive KeyTarget where
  | va (va : Word)
  | scratch (uid la : Nat)
  | handle (uid h : Nat)
  deriving DecidableEq, Repr

/-- Checks 1 to 5 of R404 (a suspended unit takes handle actions, R307), and of check 6 those of a KIND 1 key: the target, or the reason of the NACK. -/
def keyTarget (s : State) (p : Packet) (need : KeyNeed) : Except Nat KeyTarget :=
  let vf := p.dstVf.toNat
  let v := s.vf vf
  let e := tget v.keys (p.rkey.toNat % 1024) blankKey
  let off := p.offset.toNat
  let n := pktReach p need
  let uid := uidOf e.recNo.toNat e.unit.toNat
  let u := s.unit uid
  if v.st != .active then .error 1
  else if !e.v || e.gen != (p.rkey >>> 10).setWidth 22 then .error 2
  else if !keyGrants e need then .error 3
  else if need == .handle && off / 256 != 0 then .error 4
  else if need != .handle && decide (e.limit.toNat < off + n) then .error 4
  else if e.kind != 1 then .ok (.va (e.base + p.offset.setWidth 64))
  else if !(u.id.vf == vf && (u.st == .running || u.st == .held || u.st == .faulted ||
      (need == .handle && u.st == .suspended))) then .error 5
  else if need == .handle then .ok (.handle uid (off % 256))
  else if usable u < e.base.toNat + off + n then .error 6
  else .ok (.scratch uid (e.base.toNat + off))

/-- Reason 6 for a page that is not resident, which AOP tells from its other grounds (DESIGN CHOICE, log 13). -/
def absentReason : Nat := 16 + 6

/-- Checks 6 and 7 for an address: a resident page of this package, its carried set that of its memory. -/
def keyTranslate (s : State) (vf : Nat) (va : Word) (acc : Acc) : Except Nat Tr :=
  match xlate s noCore vf (s.vf vf).heap va with
  | .error _ => .error 6
  | .ok t =>
    if !canonical va || decide (Config.copyAp ≤ va.toNat) || t.kind = 2 then .error 6
    else if !t.res then .error absentReason
    else
      match checkAcc { t with rangePath := if t.kind = 0 then 0 else 2 } acc with
      | .ok t => .ok t
      | .error .atomicPath => .error 8
      | .error _ => .error 6

/-! ### Arrival, forwarding (R404 reason 7, R408) -/

/-- A chord port through which no lane leads anywhere. -/
def deadPort (s : State) (port : Nat) : Bool := decide (8 ≤ port) && !((s.link port).lanes.any fun l => l.2.lit)

/-- A packet at a package on its way: into the buffer of its next port, turned back where that is full. -/
def forward (s : State) (k : PacketKind) (p : Packet) : State :=
  let isRequest := k != .reply && k != .nack && k != .retry
  if isRequest && deadPort s (outPort p) then nack s p 7
  else
    match toPort s (outPort p) { kind := k, p := p } with
    | some s' => s'
    | none => if isRequest then turnBack s p else { s with late := s.late ++ [(256, { kind := k, p := p })] }

/-- A packet has made all its hops. -/
def atEnd (p : Packet) : Bool := decide (p.nhop.toNat ≤ p.hop.toNat)

/-- R463: a request dropped for a VF that is torn down is counted. -/
def refuseReq (s : State) (p : Packet) (reason : Nat) : State :=
  let vf := p.dstVf.toNat
  let s := if reason = 1 && (s.vf vf).st == .teardown then s.onVf vf fun v => { v with drops := v.drops + 1 } else s
  nack s p reason

/-- A request at its target: refused with a reason, or acted on. -/
def onTarget (k : PacketKind) (need : KeyNeed) (p : Packet) (act : KeyTarget → State → State) (s : State) : Res :=
  if !atEnd p then .next (forward s k p)
  else
    match keyTarget s p need with
    | .error r => .next (refuseReq s p r)
    | .ok t => .next (act t s)

/-! ### Reads and writes -/

/-- n bytes of a VF's memory for a request: none while a held granule keeps them (R366). -/
def vfBytes (s : State) (vf : Nat) : Nat → Word → Nat → Except Nat (Option (List Byte × State))
  | 0, _, _ => .ok (some ([], s))
  | f + 1, va, n =>
    if n = 0 then .ok (some ([], s))
    else
      let m := min n (64 - va.toNat % 64)
      match keyTranslate s vf va .load with
      | .error r => .error r
      | .ok t =>
        match t.place with
        | .pod .. => .error 6
        | .mem k =>
          if t.wb && loadBlocked s vf va then .ok none
          else if spoiledAt s k m then .error 9
          else
            match vfBytes (countAccess s vf va t 1) vf f (va + BitVec.ofNat 64 m) (n - m) with
            | .ok (some (bs, s')) => .ok (some (memRead s.mem k m ++ bs, s'))
            | r => r

/-- ASYNC_READ (R404). -/
def execAsyncRead (p : Packet) (s : State) : Res :=
  onTarget .read .read p (fun t s =>
    let n := pktBytes p
    match t with
    | .handle .. => s
    | .scratch uid la =>
      if scrSpoiled s (s.unit uid) la n then nack s p 9 else reply s p (scrRead s.mem (s.unit uid) la n)
    | .va va =>
      match vfBytes s p.dstVf.toNat 3 va n with
      | .error r => nack s p r
      | .ok none => s
      | .ok (some (bs, s')) => reply s' p bs) s

/-- The bits of each byte that a write packet carries: all, or those of one nibble (R75; DESIGN CHOICE, log 13). -/
def aopMask (aop : BitVec 8) : Byte := if aop = 1 then 0x0F else if aop = 2 then 0xF0 else 0xFF

/-- Bytes of a packet under its mask, by offset from its address. -/
def pktParts (p : Packet) : List BytePart :=
  (maskedFrom 0 p.bmask.toNat (p.data.take 64)).map fun e => { off := e.1, mask := aopMask p.aop, val := e.2 }

/-- The parts of one granule of a run at an address, by offset in that granule. -/
def partsIn (va : Word) (g : Nat) (ps : List BytePart) : List BytePart :=
  ps.filterMap fun e =>
    let a := va.toNat + e.off
    if a / 64 = va.toNat / 64 + g then some { e with off := a % 64 } else none

/-- A write of the parts of one granule of a VF's memory; none when the hold queue is full (R365). -/
def vfWrite (vf : Nat) (va : Word) (ps : List BytePart) (s : State) (g : Nat) : Except Nat (Option State) :=
  match partsIn va g ps with
  | [] => .ok (some s)
  | q :: qs =>
    let a := BitVec.ofNat 64 ((va.toNat / 64 + g) * 64 + q.off)
    match keyTranslate s vf a .store with
    | .error r => .error r
    | .ok t => .ok ((writeParts s vf a t (q :: qs)).map fun s => countAccess s vf a t 1)

/-- Parts written at a scratch address of a unit. -/
def scrParts (s : State) (uid la : Nat) (ps : List BytePart) : State :=
  ps.foldl (fun s e =>
    s.scrWrite uid (la + e.off) [mixByte (memGet s.mem (scrKey (s.unit uid) (la + e.off))) e.mask e.val]) s

/-- ASYNC_WRITE (R404, R365). -/
def execAsyncWrite (p : Packet) (s : State) : Res :=
  onTarget .write .write p (fun t s =>
    match t with
    | .handle .. => s
    | .scratch uid la =>
      reply (scrParts s uid la (pktParts p)) p []
    | .va va =>
      match vfWrite p.dstVf.toNat va (pktParts p) s 0 with
      | .error r => nack s p r
      | .ok none => turnBack s p
      | .ok (some s1) =>
        match vfWrite p.dstVf.toNat va (pktParts p) s1 1 with
        | .error r => nack s1 p r
        | .ok none => turnBack s p
        | .ok (some s2) => reply s2 p []) s

/-! ### Atomics and reduces -/

/-- The operand and comparand of an atomic packet (DESIGN CHOICE, log 13). -/
def pktOperands (p : Packet) : Nat × Nat := (fieldAt p.data 0 (pktBytes p), fieldAt p.data (pktBytes p) (pktBytes p))

/-- An atomic of a request at its target: `done` answers it, with its old value. -/
def targetAtomic (kind : PacketKind) (p : Packet) (op b c : Nat) (t : KeyTarget) (done : State → Nat → State) (s : State) : State :=
  let n := pktBytes p
  match t with
  | .handle .. => s
  | .scratch uid la =>
    let k := scrKey (s.unit uid) la
    if spoiledAt s k n then nack s p 9
    else let r := amoAt s.mem k op n b c; done { s with mem := r.2 } r.1
  | .va va =>
    let vf := p.dstVf.toNat
    match keyTranslate s vf va (.atomic (op != 0) (isAdd64 op && n == 8)) with
    | .error r => nack s p r
    | .ok t =>
      match t.place with
      | .pod .. => nack s p 6
      | .mem k =>
        if va.toNat % n != 0 then nack s p 6
        else if spoiledAt s k n then nack s p 9
        else if t.wb && op != 0 then
          match hold s vf va (.atomic (va.toNat % 2 ^ 16) n op (BitVec.ofNat 64 b) (BitVec.ofNat 64 c) (.packet kind p)) with
          | none => turnBack s p
          | some s' => countAccess s' vf va t 1
        else if t.wb && loadBlocked s vf va then s
        else let r := amoAt s.mem k op n b c; done (countAccess { s with mem := r.2 } vf va t 1) r.1

/-- ASYNC_ATOMIC (R404, R356, R377). -/
def execAsyncAtomic (p : Packet) (s : State) : Res :=
  let b := pktOperands p
  onTarget .atomic .amo p (fun t s =>
    targetAtomic .atomic p p.aop.toNat b.1 b.2 t (fun s old => reply s p (toLe (pktBytes p) old)) s) s

/-- The tag state of a source id: highest tag applied and the applied ones of the 256 below it (R304). -/
def tagState (s : State) (src : Nat) : Option (Nat × List Nat) :=
  ((s.die 0).redTags.find? fun e => e.1 == src).map (·.2.2)

/-- The source id of a reduce request (R304): package, die and channel. -/
def sourceId (p : Packet) : Nat := 65536 * p.srcPkg.toNat + p.srcId.toNat

/-- R304: the tag of a request applied. -/
def applyTag (s : State) (p : Packet) : State :=
  let src := sourceId p
  let tag := p.tag.toNat
  let d := s.die 0
  let old := (tagState s src).getD (tag, [])
  let hi := max old.1 tag
  s.setDie 0 { d with redTags := (d.redTags.filter fun e => e.1 != src) ++
    [(src, p.srcVf.toNat, hi, (old.2.filter (· != tag) ++ [tag]).filter fun t => decide (hi < t + 257))] }

/-- A request is held for a migration (R365): it is acknowledged when it is replayed. -/
def heldHere (s : State) (p : Packet) : Bool :=
  s.dies.any fun d => (d.2.migration.map (·.held)).getD [] |>.any fun h =>
    match h with
    | .atomic _ _ _ _ _ (.packet .reduce q) => sourceId q == sourceId p && q.tag == p.tag
    | _ => false

/-- ASYNC_REDUCE (R93, R302 to R304, R404): applied once for each tag, at once or when it is replayed. -/
def execAsyncReduce (p : Packet) (s : State) : Res :=
  let tag := p.tag.toNat
  let src := sourceId p
  onTarget .reduce .amo p (fun t s =>
    let old := tagState s src
    let seen := match old with | some o => o.2.contains tag | none => false
    let late := match old with | some o => decide (tag + 256 ≤ o.1) | none => false
    if seen then (if heldHere s p then s else reply s p [])
    else if late then s.onVf p.dstVf.toNat fun v => { v with lateReduces := v.lateReduces + 1 }
    else
      let s' := targetAtomic .reduce p (fieldAt p.data 8 1) (fieldAt p.data 0 8) 0 t
        (fun s _ => reply (applyTag s p) p []) s
      if heldHere s' p then applyTag s' p else s') s

/-! ### Handle actions (R309, R310) -/

/-- ASYNC_HANDLE (R309): FULL is taken from FREE or FILLING, FREE always. -/
def execAsyncHandle (p : Packet) (s : State) : Res :=
  onTarget .handle .handle p (fun t s =>
    match t with
    | .handle uid h =>
      let x := handleOf (s.unit uid) h
      if fieldAt p.data 0 1 = 2 then reply (s.onUnit uid fun u => setHandle u h .free) p [0]
      else if x = .free || x = .filling then reply (s.onUnit uid fun u => setPend (setHandle u h .full) 2) p [0]
      else reply (s.onVf p.dstVf.toNat fun v => { v with refused := v.refused + 1 }) p [1]
    | _ => s) s

/-! ### What comes back to a requester -/

/-- The unit and request that a packet answers. -/
def answered (s : State) (p : Packet) : Option (Nat × Remote) :=
  s.units.findSome? fun e =>
    (e.2.m.remotes.find? fun r => r.pkt.tag == p.tag && r.pkt.srcCh == p.srcCh && r.pkt.srcId == p.srcId).map fun r => (e.1, r)

/-- A request of a unit leaves the list. -/
def dropRemote (s : State) (uid : Nat) (r : Remote) : State :=
  s.onUnit uid fun u => { u with m := { u.m with remotes := u.m.remotes.filter (·.tag != r.tag) } }

/-- R129: the allowance of a capability comes back. -/
def giveAllow (s : State) (uid : Nat) (r : Remote) : State :=
  match r.cap with
  | none => s
  | some k => s.onUnit uid fun u =>
    let c := tget u.m.caps k blankCap
    { u with m := { u.m with caps := tset u.m.caps k { c with allow := c.allow + 1 } } }

def changeRemote (s : State) (uid : Nat) (r : Remote) (f : Remote → Remote) : State :=
  s.onUnit uid fun u => { u with m := { u.m with remotes := u.m.remotes.map fun x => if x.tag = r.tag then f x else x } }

/-- R478: the unit takes what comes back now: it has ended, or it is neither stopped nor about to take an
answer that its stopped sequencer waits for. -/
def takesAnswers (u : Unit) (waits : Bool) : Bool := !alive u || (!u.dbg.stopped && (!waits || live u))

/-- Bits of an element in flight replaced. -/
def landElem (a : Act) (e : Nat) (f : Elem → Elem) : Act :=
  { a with inflight := (List.range a.inflight.length).zip a.inflight |>.map fun p =>
      if a.issued - a.inflight.length + p.1 = e then f p.2 else p.2 }

/-- A reply for the access of a stream (stream, activation, twice the ordinal, and one for a scale); a write was one of n
elements. -/
def streamReply (s : State) (uid : Nat) (k : Nat × Nat × Nat) (n : Nat) (kind : PacketKind) (bs : List Byte) : State :=
  s.onUnit uid fun u =>
    match (streamOf u k.1).acts.find? (·.id == k.2.1) with
    | none => u
    | some a =>
      let e := k.2.2 / 2
      let a' :=
        if kind = .read then
          landElem a e fun x =>
            if k.2.2 % 2 = 1 then { x with scale := some (BitVec.ofNat 32 (leNat bs)) }
            else { x with bits := elemValue a.f bs x.bits.toNat }
        else if k.2.2 % 2 = 0 then { a with performed := a.performed + n } else a
      putStream u k.1 (setAct (streamOf u k.1) a')

/-- R185: a read of a stream found its page not resident: the element is zero and its residency bit is set; a scale that is
so sets the bit of its block's first element. -/
def streamAbsent (s : State) (uid : Nat) (k : Nat × Nat × Nat) : State :=
  match (streamOf (s.unit uid) k.1).acts.find? (·.id == k.2.1) with
  | none => s
  | some a =>
    let e := k.2.2 / 2
    let bit := if k.2.2 % 2 = 1 then e / blkLen a.f * blkLen a.f else e
    let a' := landElem a e fun x => if k.2.2 % 2 = 1 then { x with scale := some 0 } else { x with bits := 0 }
    count (s.onUnit uid fun u => setResidency (putStream u k.1 (setAct (streamOf u k.1) a')) a.f bit) uid 0x0203
      (1 - k.2.2 % 2)

/-- A change to the run of a unit's copy on a channel, running or set aside. -/
def onRun (s : State) (uid die ch : Nat) (f : CopyRun → CopyRun) : State :=
  let c := channelOf s die ch
  let g := fun (r : CopyRun) => if r.c.uid = uid then f r else r
  putChannel s die ch { c with run := c.run.map g, aside := c.aside.map g }

/-- A reply for a copy: source bytes, or the result of a remote action (R300, R309). -/
def copyReply (s : State) (uid die ch : Nat) (r : Remote) (bs : List Byte) : State :=
  if r.kind = .read then
    onRun s uid die ch fun x => { x with got := x.got ++ [(BitVec.ofNat 64 (r.dst.getD 0), bs)] }
  else if r.kind = .handle then
    onRun s uid die ch fun x => { x with remoteDone := true, refused := leNat (bs.take 1) == 1 }
  else s

/-- The datum for the word that waits: its register, the refresh of an acquiring atomic (R128), and its end (R129). -/
def wordReply (s : State) (uid : Nat) (r : Remote) (bs : List Byte) : State :=
  let s := s.onUnit uid fun u => { u with r := setG u.r (r.dst.getD 0) (BitVec.ofNat 64 (leNat (bs.take (pktBytes r.pkt)))) }
  let s := match (s.unit uid).wait with
    | some (.reply _ true) => refresh s uid
    | _ => s
  let me := s.cur
  { retire { s with cur := uid } with cur := me }

/-- Bytes that an agent of a unit had asked for, or an entry of a page table (R346, R352). -/
def landFar (s : State) (uid : Nat) (r : Remote) (p : FarPlace) (bs : List Byte) : State :=
  match p.walk with
  | some k => { s with walks := (s.walks.filter fun e => e.1 != k) ++ [(k, BitVec.ofNat 64 (leNat (bs.take 8)))] }
  | none => s.onUnit uid fun u => { u with far := u.far ++ [(r.agent, p, bs.take p.n)] }

/-- ASYNC_REPLY (R129, R131, R300, R352). -/
def execAsyncReply (p : Packet) (s : State) : Res :=
  if !atEnd p then .next (forward s .reply p)
  else
    match answered s p with
    | none => .next s
    | some (uid, r) =>
      let s1 := giveAllow (dropRemote s uid r) uid r
      happens (takesAnswers (s.unit uid) r.waits)
        (match r.far, r.strm, r.copyCh with
          | some f, _, _ => landFar s1 uid r f p.data
          | none, some k, _ => streamReply s1 uid k (r.dst.getD 1) r.kind p.data
          | none, none, some (die, ch) => copyReply s1 uid die ch r p.data
          | none, none, none => if r.waits && alive (s.unit uid) then wordReply s1 uid r p.data else s1) s

/-- The address that a failed request names (R422). -/
def remoteAddr (r : Remote) : Word := BitVec.ofNat 64 ((r.cap.getD 0) * 2 ^ 56 + r.off.toNat)

/-- A stream goes back to the element whose read failed: the reads after it are asked for again. -/
def rewindStream (s : State) (uid : Nat) (k : Nat × Nat × Nat) : State :=
  s.onUnit uid fun u =>
    match (streamOf u k.1).acts.find? (·.id == k.2.1) with
    | none => u
    | some a =>
      let e := k.2.2 / 2
      let a' := { a with issued := min a.issued e, half := false, inflight := a.inflight.take (e - (a.issued - a.inflight.length)) }
      let u := putStream u k.1 (setAct (streamOf u k.1) a')
      { u with m := { u.m with remotes := u.m.remotes.map fun x =>
          match x.strm with
          | some j => if j.1 = k.1 && j.2.1 = k.2.1 && decide (2 * e ≤ j.2.2) && x.kind == .read then { x with strm := none } else x
          | none => x } }

/-- R131, R300: a request that ends without a reply raises its cause: precisely at the word that waits, at the
element of a stream or copy, at the command of a corbel (R280), or imprecisely. Writes and reduces of engines are sent again after resumption. -/
def failRemote (s : State) (uid : Nat) (r : Remote) (cause : Cause) (detail : Nat) : State :=
  let gone := giveAllow (dropRemote s uid r) uid r
  let again := changeRemote s uid r fun x => { x with resend := some 0, cycles := 0 }
  let info : FaultInfo := { cause, agent := .sq, precise := r.waits, addr := remoteAddr r, detail, fpc := (s.unit uid).r.pc, corb := none }
  match r.agent, r.far, r.strm, r.copyCh with
  | .corbel l, _, _, _ =>
    let L := leaseOf (s.unit uid) l
    let ord := (L.cmds.head?.map (·.ord)).getD 0
    let ends := (r.far.isSome && !L.cmds.isEmpty) || L.running
    raiseFault (if ends then endCmd gone uid l 1 none else gone) uid { cmdInfo s uid l ord cause info.addr with detail := detail }
  | _, some _, _, _ =>
    raiseFault (gone.onUnit uid fun u => if r.agent = .sq then { u with wait := none } else u) uid
      { info with agent := r.agent, precise := r.agent == .sq }
  | _, none, some k, _ =>
    let info := { info with agent := .ae }
    if r.kind = .read then raiseFault (rewindStream gone uid k) uid info else raiseFault again uid info
  | _, none, none, some (die, ch) =>
    let info := { info with agent := .copy }
    if r.kind = .read then raiseFault gone uid info
    else if r.kind = .handle then raiseFault (onRun gone uid die ch fun x => { x with sent := false }) uid info
    else raiseFault again uid info
  | _, none, none, none =>
    let others := fun (u : Unit) => { u with wait := none, m := { u.m with remotes := u.m.remotes.filter fun x => !x.waits } }
    raiseFault (if r.waits then gone.onUnit uid others else gone) uid info

/-- The cause of a NACK: at a stream's write to a page that is not resident NOT_RESIDENT (R185). -/
def nackCause (r : Remote) (p : Packet) : Cause :=
  if p.size = 9 then .remoteData else if p.aop = 1 && r.strm.isSome then .notResident else .remoteNack

/-- ASYNC_NACK (R131, R185, R404): reason 9 is an uncorrectable error in the data (DESIGN CHOICE, log 13). -/
def execAsyncNack (p : Packet) (s : State) : Res :=
  if !atEnd p then .next (forward s .nack p)
  else
    match answered s p with
    | none => .next s
    | some (uid, r) =>
      let u := s.unit uid
      let s1 := count s uid 0x0702 1
      if !alive u then .next (giveAllow (dropRemote s1 uid r) uid r)
      else
        match r.strm, p.aop = 1 && r.kind == .read with
        | some k, true => happens (!u.dbg.stopped) (streamAbsent (giveAllow (dropRemote s1 uid r) uid r) uid k) s
        | _, _ => happens (live u && !u.dbg.stopped) (failRemote s1 uid r (nackCause r p) p.size.toNat) s

/-- ASYNC_RETRY (R365, R408): the request is sent again 256 cycles later. -/
def execAsyncRetry (p : Packet) (s : State) : Res :=
  if !atEnd p then .next (forward s .retry p)
  else
    match answered s p with
    | none => .next s
    | some (uid, r) => .next (changeRemote s uid r fun x => { x with resend := some 256 })

/-- The request of a reply tag. -/
def remoteOf (s : State) (tag : Nat) : Option (Nat × Remote) :=
  s.units.findSome? fun e => (e.2.m.remotes.find? (·.tag == tag)).map fun r => (e.1, r)

/-- REMOTE_REPLY_TIMEOUT (R131): 2^20 cycles without a reply. -/
def execRemoteReplyTimeout (tag : Nat) (s : State) : Res :=
  match remoteOf s tag with
  | none => .next s
  | some (uid, r) =>
    let u := s.unit uid
    if !alive u then .next (dropRemote s uid r)
    else happens (decide (2 ^ 20 ≤ r.cycles) && live u && !u.dbg.stopped) (failRemote s uid r .remoteTimeout 0) s

/-! ### Sending -/

/-- REMOTE_SEND (R129, R139): a remote word that waited for its allowance goes out. -/
def execRemoteSend (s : State) : Res :=
  completes s (fun w => match w with | .allowance _ => true | _ => false)
    (fun w s => match w with
      | .allowance r => remoteGo s r
      | _ => .stop s)

/-- A request turned back or held is sent again on the route there now is, in the order of issue to its line; one
whose endpoint has no route ends as by a NACK of reason 7 (R131, R408, R417). -/
def resendOne (uid : Nat) (s : State) (r : Remote) : State :=
  if r.resend != some 0 then s
  else
    match routeFor s r.pkg.toNat r.off with
    | none => failRemote s uid r .remoteNack 7
    | some ps =>
      let r := { r with pkt := withRoute r.pkt ps }
      let before := (s.unit uid).m.remotes.takeWhile (·.tag != r.tag)
      if before.any fun x => lineBehind x r then s
      else
        match toPort s (outPort r.pkt) { kind := r.kind, p := r.pkt } with
        | some s' => changeRemote s' uid r fun x => { x with resend := none, pkt := r.pkt }
        | none => changeRemote s uid r fun x => { x with resend := some 256 }

/-- A packet of this package that found its port's buffer full is sent again. -/
def resendLate (s : State) (e : Nat × Pkt) : State :=
  if e.1 != 0 then { s with late := s.late ++ [e] }
  else
    match toPort s (outPort e.2.p) e.2 with
    | some s' => s'
    | none => { s with late := s.late ++ [(256, e.2)] }

/-- RETRY_RESEND (R365, R408): what was turned back 256 cycles ago goes out again; a word that waited for a
hold queue issues again. -/
def execRetryResend (s : State) : Res :=
  let s := if live s.u && s.u.wait == some (.retry 0) then s.onU fun u => { u with wait := none } else s
  let s := if live s.u || s.u.st == .done then s.u.m.remotes.foldl (resendOne s.cur) s else s
  .next (s.late.foldl resendLate { s with late := [] })

/-- The slot of the period, and the period, of a tide time (R158). -/
def slotOf (t : Word) : Nat := t.toNat / Config.slotNs % Config.periodSlots
def periodOf (t : Word) : Nat := t.toNat / Config.periodNs

/-- R159: the slot is an asynchronous one. -/
def asyncSlot (n : Nat) : Bool := decide (n < 4032) && n % 16 == 15

/-- ASYNC_SLOT (R406, R408): the oldest packets of a port's buffer go out: 32 on a torus port, 2 on each lit
lane of a chord port. -/
def execAsyncSlot (port : Nat) (s : State) : Res :=
  let l := s.link port
  let n := if port < 8 then 32 else 2 * (l.lanes.filter fun x => x.2.lit).length
  let out := (l.abuf.take n).map fun k => (port, { k with p := { k.p with hop := k.p.hop + 1 } })
  happens (asyncSlot (slotOf s.tide)) { s.setLink port { l with abuf := l.abuf.drop n } with pktOut := s.pktOut ++ out } s

end Sys2Proof.Machine
end

