-- ==== Sys2Proof/Machine/Failure.lean ====
section
/-! DEFINITION. Keystones complete on a package and in the pod (R439), and the declaration of a pod failure (R440,
R442). -/

namespace Sys2Proof.Machine

/-! ### Keystones complete (R439) -/

/-- The COURSED launches of a job that are active. -/
def coursedActive (s : State) (key : Nat) : List Nat :=
  (s.job key).recs.filter fun i => (s.recOf i).st == .active && recCoursed s i

/-- The header of keystone k of a launch. -/
def headerOf (s : State) (i k : Nat) : Option KeyHeader := s.headers.find? fun h => h.recNo == i && h.k == k && h.complete

/-- The id of keystone k of a job, from a launch that has written it. -/
def keystoneId (s : State) (key k : Nat) : Option (BitVec 8) :=
  (s.job key).recs.findSome? fun i => (headerOf s i k).map (·.id)

/-- The words of a link engine's current program. -/
def linkWords (l : Link) : List Code := ((tfind l.sets l.set).map (·.words)).getD []

/-- Field of a link word (R59). -/
def lwOp (w : Code) : Nat := bits w.toNat 28 4
def lwArg (w : Code) : Nat := bits w.toNat 0 12

/-- A program holds a KEY of an id. -/
def hasKey (ws : List Code) (id : BitVec 8) : Bool := ws.any fun w => lwOp w == 7 && lwArg w == id.toNat

/-- The records of an engine for an id since a period. -/
def keysSince (l : Link) (id : BitVec 8) (p : Nat) : List KeyRec := l.keys.filter fun k => k.id == id && decide (p ≤ k.period)

/-- Every engine whose program holds a KEY of the id has passed it for this keystone. -/
def enginesPassed (s : State) (id : BitVec 8) (p : Nat) : Bool :=
  s.links.all fun l => !hasKey (linkWords l.2) id || !(keysSince l.2 id p).isEmpty

/-- The next keystone of a job is complete on this package. -/
def keystoneHere (s : State) (key : Nat) : Bool :=
  let j := s.job key
  let k := j.kComplete + 1
  match keystoneId s key k with
  | none => false
  | some id => (coursedActive s key).all (fun i => (headerOf s i k).isSome) && enginesPassed s id j.kPeriod

/-- The packages other than this one that report. -/
def farReports (s : State) (key : Nat) : Nat := if podSize s ≤ 1 then 0 else Config.farPackages key

/-- The keystone is complete once every package has reported it; its period is that of the KEY records, or where no engine has
one that of its completion. -/
def keystoneJoin (s : State) (key : Nat) : State :=
  let j := s.job key
  let k := j.kComplete + 1
  let id := (keystoneId s key k).getD 0
  let ps := s.links.flatMap fun l => (keysSince l.2 id j.kPeriod).map (·.period)
  let pk := (ps.min?).getD (periodOf s.tide)
  if (j.kReports.filter fun r => r.2 == k).length ≤ farReports s key then s
  else onJob s key fun j => { j with kComplete := k, kPeriod := pk + 1
                                     kReports := j.kReports.filter fun r => decide (k < r.2) }

/-- KEYSTONE_COMPLETE (R439): this package reports in the alarm slots once the next keystone is complete on it. -/
def keystoneCheck (s : State) (key : Nat) : State :=
  let k := (s.job key).kComplete + 1
  if keystoneHere s key && !(s.job key).kReports.contains (s.pod.pkg, k) then
    let s := onJob s key fun j => { j with kReports := j.kReports ++ [(s.pod.pkg, k)] }
    keystoneJoin (alarmOut s (.keystone s.pod.pkg key k)) key
  else s

/-- A report of another package (R439). -/
def keystoneHeard (s : State) (pkg key k : Nat) : State :=
  let j := s.job key
  if k ≤ j.kComplete || j.kReports.contains (pkg, k) then s
  else keystoneJoin (onJob s key fun j => { j with kReports := j.kReports ++ [(pkg, k)] }) key

/-- The jobs that hold COURSED launches. -/
def courseJobs (s : State) : List Nat :=
  (s.jobs.filter fun j => j.2.running && j.2.recs.any fun i => recCoursed s i).map (·.1)

/-! ### Pod failure (R440, R442) -/

/-- R442: firmware cancels the job as JOB_CANCEL does, and reports why. -/
def giveUp (s : State) (key kind : Nat) : State :=
  let s := alarmOut (cancelHere s .job 0 key) (.cancel key false)
  jobEvent (onJob s key fun j => { j with failedAt := none, restored := false }) (key / 65536) (key % 65536) kind []

/-- A pod failure of a job is declared in the present period: it joins an open one, or opens one whose alarm
floods; without a keystone to restore the job is cancelled (R440, R442). -/
def declareFailure (s : State) (key : Nat) (link : Option (Nat × Nat × Nat)) : State :=
  let j := s.job key
  let p := periodOf s.tide
  match j.failedAt with
  | some q => if p ≤ q + 2 then s else giveUp s key 3
  | none =>
    if j.kComplete = 0 then giveUp s key 6
    else if j.lastRestored = some j.kComplete then giveUp s key 3
    else
      let s := onJob s key fun j => { j with failedAt := some p, restored := false }
      { s with pod := { s.pod with alarms := s.pod.alarms ++ [.podFailure key p link] } }

/-- R413, R440: the failure of a link floods an alarm, and every job with a course loses the link. -/
def floodFailure (s : State) (name : Nat × Nat × Nat) : State :=
  (courseJobs s).foldl (fun s k => declareFailure s k (some name)) (alarmOut s (.linkFailed (periodOf s.tide) name))

/-- R413, R440: a link has failed, named by this end: it stops, and the pod is told. -/
def failLink (s : State) (port lane : Nat) : State :=
  let l := s.link port
  let name := (s.pod.pkg, port, lane)
  if l.failed.contains lane then s
  else
    let s := s.setLink port { l with failed := l.failed ++ [lane] }
    floodFailure { s with pod := { s.pod with failed := s.pod.failed ++ [name] } } name

/-- R412, R160: a degraded link is followed by the rollback of a failed one. -/
def degradeLink (s : State) (port lane : Nat) : State :=
  failLink (s.setLink port { s.link port with degraded := true }) port lane

/-- LATE_TILE (R161, R163, R410, R420): raised in the core of the unit that the descriptor names; where that unit
does not run, the failure of its job is declared at once. -/
def lateTile (s : State) (port : Nat) (d : List Byte) : State :=
  let uid := descUid d
  let u := s.unit uid
  if live u then
    raiseFault (count s uid 0x0802 1) uid { cause := .lateTile, agent := .sq, precise := false, addr := 0, detail := port, fpc := u.r.pc, corb := none }
  else declareFailure s (jobKey (dVf d) (s.recOf (dRec d)).job) none

end Sys2Proof.Machine
end

