-- ==== Sys2Proof/Machine/Links.lean ====
section
/-! DEFINITION. The link engines: the words of a transfer program (R392, R394, R397 to R401, R410, R411, R415,
R416), the frames of idle slots and the count of bad ones (R413). -/

namespace Sys2Proof.Machine

/-! ### Slots and lanes (R158, R159, R390 to R392) -/

/-- The number of a slot of a period, counted from tide time 0. -/
def absSlot (period slot : Nat) : Nat := period * Config.periodSlots + slot

/-- The slot of the present, counted so. -/
def nowSlot (s : State) : Nat := s.tide.toNat / Config.slotNs

/-- A slot of a period in which a port's transfers begin: scheduled slots, and on a chord port the first slots of
chord slots (R392). -/
def schedSlot (port n : Nat) : Bool := decide (n < 4032) && (if port < 8 then n % 16 != 15 else n % 16 == 0)

/-- The slot that a port is in, counted from tide time 0: on a chord port the first of its chord slot (R158). -/
def portSlot (s : State) (port : Nat) : Nat := if port < 8 then nowSlot s else nowSlot s / 16 * 16

/-- The slot of the present is the last of the port's. -/
def portSlotEnds (s : State) (port : Nat) : Bool := decide (port < 8) || nowSlot s % 16 == 15

/-- The next such slot after one, counted from tide time 0. -/
def nextSched (port a : Nat) : Nat :=
  ((List.range 100).map (a + 1 + ·)).find? (fun b => schedSlot port (b % Config.periodSlots)) |>.getD (a + 1)

/-- A port of the torus that leads to another package (R390). -/
def torusUp (s : State) (port : Nat) : Bool := s.pod.joined && decide (1 < s.pod.dims.getD (port / 2) 1)

/-- The lanes of a port that send and hear: lane 0 of a torus port, the lit lanes of a chord port. -/
def lanesUp (s : State) (port : Nat) : List Nat :=
  let l := s.link port
  if port < 8 then (if torusUp s port && !l.failed.contains 0 then [0] else [])
  else (l.lanes.filter fun x => x.2.lit && !l.failed.contains x.1).map (·.1)

/-- The lane of a port that a descriptor names. -/
def laneOf (port : Nat) (d : List Byte) : Nat := if port < 8 then 0 else dLane d

/-- R161, R398: the descriptors of an engine's sets whose source is signalled. -/
def readySources (s : State) (l : Link) : List (Nat × Nat) :=
  l.sets.flatMap fun g => ((List.range g.2.descs.length).filter fun k => rsigReady s (padTo (g.2.descs.getD k []) 32 0)).map (g.1, ·)

/-- A slot begins: what is ready by its start is noted; on a chord port a chord slot (R158). -/
def slotBegins (s : State) : State :=
  { s with links := tmap (fun p (l : Link) =>
      if p < 8 || slotOf s.tide % 16 = 0 then { l with startReady := readySources s l } else l) s.links }

/-! ### Frames (R392) -/

/-- An empty frame of a type, good in every check. -/
def plainFrame (s : State) (l : Link) (typ period slot : Nat) : Frame :=
  { typ := BitVec.ofNat 8 typ, wfmt := 0, srcPkg := BitVec.ofNat 16 s.pod.pkg, slot := BitVec.ofNat 16 slot
    set := BitVec.ofNat 8 l.set, rpl := false, period := BitVec.ofNat 32 period, desc := 0, tile := 0, markId := 0
    payload := [], scales := [], hcrcGood := true, flitsGood := true, crcGood := true, aborted := false }

/-- A frame leaves on a lane, in a slot counted from tide time 0; a lane that is dark or failed carries nothing. -/
def emit (s : State) (port lane slot : Nat) (f : Frame) : State :=
  let l := s.link port
  let s := s.setLink port { l with sent := l.sent ++ [(lane, slot)] }
  if (lanesUp s port).contains lane then { s with wireOut := s.wireOut ++ [(port, lane, f)] } else s

/-- What the header of a tile's frame names it by. -/
def frameKey (f : Frame) : Nat × Nat × Nat × Nat × Nat :=
  (f.srcPkg.toNat, f.period.toNat, f.slot.toNat, f.desc.toNat, f.tile.toNat)

/-- R411: a receiving engine's checks of a frame. -/
def frameGood (f : Frame) : Bool := f.hcrcGood && f.flitsGood && f.crcGood && !f.aborted

/-! ### Programs -/

/-- A descriptor of a set of a port. -/
def descIn (l : Link) (set d : Nat) : List Byte := padTo (((tfind l.sets set).map (·.descs.getD d [])).getD []) 32 0

/-- A MARK is ahead in the present period. -/
def marksAhead (l : Link) : Bool :=
  ((linkWords l).drop l.widx).takeWhile (fun w => lwOp w != 8 && lwOp w != 9) |>.any fun w => lwOp w == 6

/-- R415: from a period with a MARK of the plan on, new requests across a changed port are held. -/
def holdForMark (s : State) : State :=
  { s with pod := { s.pod with holding := s.pod.holding || (s.pod.plan.isSome && marksAhead (s.link s.port)) } }

/-- The acting engine performs a word, once its period has begun. -/
def linkWord (ready : Link → Bool) (body : State → State) (s : State) : Res :=
  let l := s.link s.port
  if !l.running || l.stopped || s.tide.toNat < l.period * Config.periodNs || !ready l then .next s
  else .next (body ((holdForMark s).setLink s.port { l with widx := l.widx + 1 }))

/-- A change to the acting engine. -/
def onEngine (s : State) (f : Link → Link) : State := s.setLink s.port (f (s.link s.port))

/-- Slot of the last AT. -/
def engineSlot (l : Link) : Nat := l.atSlot.getD 0

/-- AT (R394). -/
def execLinkAt (slot : BitVec 12) (s : State) : Res :=
  linkWord (fun l => decide (l.period * Config.periodNs + slot.toNat * Config.slotNs ≤ s.tide.toNat))
    (fun s => onEngine s fun l => { l with atSlot := some slot.toNat }) s

/-- The position of the word after the KEY of an id; word 0 when no KEY has been passed (R394). -/
def afterKey (ws : List Code) : Option (BitVec 8) → Nat
  | none => 0
  | some id => (ws.findIdx fun w => lwOp w == 7 && lwArg w == id.toNat) + 1

/-- The planned switch of SETDT, at a period boundary (R394, R401). -/
def switchSet (l : Link) : Link :=
  match l.switch with
  | none => l
  | some k =>
    match tfind l.sets k with
    | none => { l with switch := none }
    | some g => { l with set := k, widx := afterKey g.words l.lastKey, lastKey := none, switch := none }

/-- SLACK (R394). -/
def execLinkSlack (s : State) : Res :=
  linkWord (fun l => decide ((l.period + 1) * Config.periodNs ≤ s.tide.toNat))
    (fun s =>
      let k := (s.link s.port).switch
      let s := holdForMark (onEngine s fun l => switchSet { l with period := l.period + 1, atSlot := none })
      match k with
      | some k => { s with pod := { s.pod with set := k } }
      | none => s) s

/-- KEY (R394, R401, R439). -/
def execLinkKey (id : BitVec 8) (s : State) : Res :=
  linkWord (fun _ => true)
    (fun s =>
      let s := onEngine s fun l =>
        { l with keys := l.keys ++ [{ id := id, set := l.set, widx := l.widx, period := l.period, uses := l.uses }], lastKey := some id }
      (courseJobs s).foldl keystoneCheck s) s

/-- END (R394). -/
def execLinkEnd (s : State) : Res := linkWord (fun _ => true) (fun s => onEngine s fun l => { l with running := false }) s

/-- SETDT (R394). -/
def execLinkSetdt (set : BitVec 4) (s : State) : Res :=
  linkWord (fun _ => true) (fun s => onEngine s fun l => { l with switch := some set.toNat }) s

/-! ### Transmitting (R396 to R398) -/

/-- The frame of a tile. -/
def tileFrame (s : State) (l : Link) (d : List Byte) (x : LinkTile) (bs : List Byte) (rpl : Bool) : Frame :=
  let w := toWire d x.tile x.use bs
  { plainFrame s l 1 x.period x.slot with
    wfmt := BitVec.ofNat 8 (dWire d), set := BitVec.ofNat 8 x.set, rpl := rpl, desc := BitVec.ofNat 16 x.desc
    tile := BitVec.ofNat 16 x.tile, payload := w.1, scales := w.2.map (BitVec.ofNat 32) }

/-- The transfer that a word names: its tile, with the use counted on (R399). -/
def nextUse (s : State) (desc t : Nat) : LinkTile × State :=
  let l := s.link s.port
  let d := descIn l l.set desc
  let n := tget l.uses desc 0
  ({ lane := laneOf s.port d, period := l.period, slot := engineSlot l, set := l.set, desc := desc, tile := t, use := n / max 1 (dTiles d) },
   onEngine s fun l => { l with uses := tset l.uses desc (n + 1) })

/-- A tile sent and kept in mind for a replay, its handle's release after its last (R398, R412). -/
def noteSent (s : State) (d : List Byte) (x : LinkTile) : State :=
  onEngine s fun l =>
    { l with tiles := (l.tiles.filter fun y => decide (l.period ≤ y.period + 1)) ++ [x]
             releases := if x.tile + 1 = dTiles d && sigKind (dRsig d) = 1 then l.releases ++ [x] else l.releases }

/-- R161, R398: the source of tile 0 of a descriptor was signalled by the start of the slot, and no word has taken it since. -/
def sourceReady (s : State) (l : Link) (set desc : Nat) : Bool :=
  l.startReady.contains (set, desc) && rsigReady s (descIn l set desc)

/-- SEND (R161, R396 to R398, R410). -/
def execLinkSend (port : BitVec 4) (desc t : BitVec 12) (s : State) : Res :=
  linkWord (fun _ => true)
    (fun s =>
      let r := nextUse s desc.toNat t.toNat
      let x := r.1
      let s := r.2
      let l := s.link s.port
      let d := descIn l x.set x.desc
      let a := absSlot x.period x.slot
      let ready := x.tile != 0 || sourceReady s l x.set x.desc
      let s1 := if x.tile = 0 && ready then rsigTake s d else s
      match (if ready then linkTileRead s1 d x.tile else none) with
      | some bs => emit (noteSent s1 d x) port.toNat x.lane a (tileFrame s1 l d x bs false)
      | none => emit (lateTile s1 port.toNat d) port.toNat x.lane a (plainFrame s1 l 4 x.period x.slot)) s

/-! ### Receiving (R397, R398, R411) -/

/-- Every tile of a use has been written. -/
def useDone (l : Link) (d : List Byte) (desc use : Nat) : Bool :=
  (List.range (dTiles d)).all fun k => l.applied.contains (desc, use, k)

/-- A frame's tile applied by a receiving word; none where R396 or R398 discards it. A tile already applied by a
reducing word is not added again (R412). -/
def applyTile (s : State) (port op : Nat) (x : LinkTile) (slot : Nat) (f : Frame) : Option State :=
  let l := s.link port
  let d := descIn l x.set x.desc
  if op != 0 && l.applied.contains (x.desc, x.use, x.tile) then some s
  else if !tilePlaced s d x.tile || (x.tile == 0 && (!dsigReady s d || (op != 0 && !sourceReady s l x.set x.desc))) then none
  else
    match (if op = 0 then some [] else linkTileRead s d x.tile) with
    | none => none
    | some cur =>
      let s := if x.tile = 0 then dsigTake (if op = 0 then s else rsigTake s d) d else s
      let s := linkTileWrite s d x.tile (received op d x.tile x.use cur f.payload (f.scales.map (·.toNat)))
      let l := { s.link port with applied := (s.link port).applied ++ [(x.desc, x.use, x.tile)] }
      let done : LinkDone := { due := slot + (if port < 8 then 2 else 16), desc := d, last := useDone l d x.desc x.use, reduces := op != 0 }
      some (s.setLink port { l with dones := l.dones ++ [done] })

/-- R411: a failed tile is reported in the alarm slots, and its receiver waits for its replay. -/
def reportTile (s : State) (port op : Nat) (x : LinkTile) (f : Frame) : State :=
  let s := s.setLink port { s.link port with missed := (s.link port).missed ++ [{ key := frameKey f, op := op, at' := x }] }
  let a : Alarm := .badTile f.srcPkg.toNat f.period.toNat f.slot.toNat f.desc.toNat f.tile.toNat
  { s with pod := { s.pod with alarms := s.pod.alarms ++ [a] } }

/-- A word takes the frame on a lane of a port, and notes whether its slot is a good one (R413). -/
def takeFrame (s : State) (port lane : Nat) : Option Frame × State :=
  let l := s.link port
  ((l.arrived.find? fun a => a.1 == lane).map (·.2), s.setLink port { l with arrived := l.arrived.filter fun a => a.1 != lane })

def noteGot (s : State) (port lane : Nat) (good : Bool) : State :=
  s.setLink port { s.link port with got := (s.link port).got ++ [(lane, good)] }

/-- A bad slot of a word is counted for the unit that its descriptor names (R467 LINK_BAD). -/
def noteBad (s : State) (port lane : Nat) (d : List Byte) : State :=
  let s := match descUnit s d with
    | some uid => count s uid 0x0703 1
    | none => s
  noteGot s port lane false

/-- A receiving word: 0 RECV, 1 REDW, 2 REDS. A reduction uses the bytes that its tile holds at that moment, also where another
agent writes them in the same slot (R400; DESIGN CHOICE, log 95). -/
def receive (op port : Nat) (desc t : BitVec 12) (s : State) : Res :=
  linkWord (fun _ => true)
    (fun s =>
      let r := nextUse s desc.toNat t.toNat
      let x := r.1
      let g := takeFrame r.2 port x.lane
      let d := descIn (s.link s.port) x.set x.desc
      match g.1 with
      | none => noteBad g.2 port x.lane d
      | some f =>
        if !f.hcrcGood then noteBad (reportTile g.2 s.port op x f) port x.lane d
        else if f.typ = 4 then noteBad g.2 port x.lane d
        else if f.typ != 1 then noteGot g.2 port x.lane true
        else if !frameGood f then noteGot (reportTile g.2 s.port op x f) port x.lane true
        else
          match applyTile g.2 s.port op x (absSlot x.period x.slot) f with
          | some s' => noteGot s' port x.lane true
          | none => noteBad g.2 port x.lane d) s

def execLinkRecv (port : BitVec 4) (desc t : BitVec 12) (s : State) : Res := receive 0 port.toNat desc t s
def execLinkRedw (port : BitVec 4) (desc t : BitVec 12) (s : State) : Res := receive 1 port.toNat desc t s
def execLinkReds (port : BitVec 4) (desc t : BitVec 12) (s : State) : Res := receive 2 port.toNat desc t s

/-- The slot in which a forwarded frame leaves: the next, or on a chord port the next chord slot (R397). -/
def forwardSlot (a out : Nat) : Nat := if out < 8 then a + 1 else (a / 16 + 1) * 16

/-- A frame passed on: one that fails a check of a forwarding engine goes out aborted (R411). -/
def passFrame (f : Frame) : Frame := if f.hcrcGood && f.flitsGood && !f.aborted then f else { f with aborted := true }

/-- FWD (R397, R411): on lane 0 of either port (DEDUCED, log 17). -/
def execLinkFwd (port out : BitVec 4) (s : State) : Res :=
  linkWord (fun _ => true)
    (fun s =>
      let l := s.link s.port
      let a := absSlot l.period (engineSlot l)
      let g := takeFrame s port.toNat 0
      match g.1 with
      | none => noteGot g.2 port.toNat 0 false
      | some f =>
        let s := noteGot g.2 port.toNat 0 (f.hcrcGood && f.typ != 4)
        let s := onEngine s fun l => if f.typ = 1 then { l with passed := l.passed ++ [(frameKey f, out.toNat)] } else l
        emit s out.toNat 0 (forwardSlot a out.toNat) (passFrame f)) s

/-! ### Marks and tunes (R415, R416) -/

/-- A packet still buffered when its port's marker goes out is turned back (R415). -/
def turnOut (s : State) (k : Pkt) : State :=
  match k.kind with
  | .reply | .nack | .retry => { s with late := s.late ++ [(256, k)] }
  | _ =>
    if k.p.srcPkg.toNat = s.pod.pkg then
      match answered s k.p with
      | some (uid, r) => changeRemote s uid r fun x => { x with resend := some 256 }
      | none => s
    else turnBack s k.p

/-- MARK (R415). -/
def execLinkMark (port : BitVec 4) (id : BitVec 12) (s : State) : Res :=
  linkWord (fun _ => true)
    (fun s =>
      let l := s.link s.port
      let out := s.link port.toNat
      let s := out.abuf.foldl turnOut (s.setLink port.toNat { out with abuf := [] })
      let s := { s with pod := { s.pod with holding := s.pod.holding || s.pod.plan.isSome } }
      let f := { plainFrame s l 2 l.period (engineSlot l) with markId := id.setWidth 16 }
      (lanesUp s port.toNat).foldl (fun s lane => emit s port.toNat lane (absSlot l.period (engineSlot l)) f) s) s

def blankLane : Lane := { tx := 0, rx := 0, lit := false, tuning := none, tuned := 0 }

/-- TUNE (R416): the lane is dark from the start of its slot. -/
def execLinkTune (port : BitVec 4) (lane : BitVec 3) (ch : BitVec 6) (s : State) : Res :=
  linkWord (fun _ => true)
    (fun s =>
      let l := s.link port.toNat
      let x := tget l.lanes lane.toNat blankLane
      s.setLink port.toNat { l with lanes := tset l.lanes lane.toNat { x with lit := false, tuning := some 0, tuned := ch } }) s

/-! ### SCHEDULED_SLOT (R394, R397, R398, R413) -/

/-- A receive comes to its point: the signals of the last tile are given; false when they must wait (R218). -/
def giveDone (s : State) (x : LinkDone) : State × Bool :=
  if !x.last then (s, true)
  else
    let r := dsigEnd s x.desc
    if r.2 then (if x.reduces then rsigFree r.1 x.desc else r.1, true) else (r.1, false)

/-- Every receive of a port that is performed by a slot. -/
def giveDones (s : State) (port a : Nat) : State :=
  let l := s.link port
  (l.dones.filter fun x => decide (x.due ≤ a)).foldl (fun s x =>
    let r := giveDone s x
    if r.2 then r.1
    else r.1.setLink port { r.1.link port with dones := (r.1.link port).dones ++ [x] })
    (s.setLink port { l with dones := l.dones.filter fun x => decide (a < x.due) })

/-- The count of bad slots of a lane after a slot (R413). -/
def slotGood (l : Link) (lane : Nat) : Bool :=
  match l.got.find? fun g => g.1 == lane with
  | some g => g.2
  | none =>
    match l.arrived.find? fun a => a.1 == lane with
    | some a => a.2.hcrcGood && a.2.typ != 4
    | none => false

/-- The arrivals of a slot counted, and the slot closed. -/
def countSlot (l : Link) (port a : Nat) (lanes : List Nat) : Link :=
  let follows := match l.counted with
    | some c => nextSched port c == a
    | none => true
  { l with
    bad := lanes.map fun n => (n, if slotGood l n then 0 else (if follows then tget l.bad n 0 else 0) + 1)
    counted := some a, arrived := [], got := [], sent := l.sent.filter fun x => decide (a < x.2) }

/-- SCHEDULED_SLOT (R394, R413): at the end of a port's slot, idle frames where nothing was sent, and the count. -/
def execScheduledSlot (port : Nat) (s : State) : Res :=
  let l := s.link port
  let a := portSlot s port
  let lanes := lanesUp s port
  let idle := lanes.filter fun n => !l.sent.contains (n, a)
  let s1 := idle.foldl (fun s n => emit s port n a (plainFrame s l 3 (periodOf s.tide) (a % Config.periodSlots))) s
  let s2 := s1.setLink port (countSlot (s1.link port) port a lanes)
  happens (schedSlot port (a % Config.periodSlots) && l.counted != some a) (giveDones s2 port a) s

end Sys2Proof.Machine
end

