-- ==== Sys2Proof/Machine/LinkEvents.lean ====
section
/-! DEFINITION. What ports and links do outside the words of their programs: failed links, replays, alarms, releases of
handles, retunes, route swaps (R398, R411 to R417, R440), and the keeping of tide time (R155, R156, R160). -/

namespace Sys2Proof.Machine

/-! ### Failures and replays (R411 to R413) -/

/-- LINK_FAILED (R413): three consecutive bad slots. -/
def execLinkFailed (port lane : Nat) (s : State) : Res :=
  happens (decide (3 ≤ tget (s.link port).bad lane 0) && (lanesUp s port).contains lane) (failLink s port lane) s

/-- A report of a tile that this package has sent (R411): a frame's header names no port, so every port that sent such a tile
sends it again; who does not wait for it drops it (DESIGN CHOICE, log 93). -/
def noteReport (s : State) (period slot desc tile : Nat) : State :=
  { s with links := tmap (fun _ (l : Link) =>
      match l.tiles.find? fun x => x.period == period && x.slot == slot && x.desc == desc && x.tile == tile with
      | some x => if l.reports.contains x then l else { l with reports := l.reports ++ [x] }
      | none => l) s.links }

/-- The replays of a port in a period, in slot order (R412). -/
def replaysOf (l : Link) (period lane : Nat) : List LinkTile :=
  sortBy (fun a b => decide (a.slot < b.slot)) (l.reports.filter fun x => x.period + 1 == period && x.lane == lane)

/-- The place of a replay slot among those of a lane: each slot on a torus port, each chord slot on a chord port. -/
def replayTurn (port n : Nat) : Option Nat := if port < 8 then some n else if n % 16 = 0 then some (n / 16) else none

/-- Replays that a lane can carry in a period. -/
def replayRoom (port : Nat) : Nat := if port < 8 then 32 else 2

/-- R412: the reported tile whose turn it is goes out again, with RPL = 1. -/
def sendReplay (port n : Nat) (s : State) (lane : Nat) : State :=
  let l := s.link port
  let rs := replaysOf l (periodOf s.tide) lane
  match (replayTurn port n).bind fun k => rs[k]? with
  | none => s
  | some x =>
    let d := descIn l x.set x.desc
    match linkTileRead s d x.tile with
    | none => degradeLink s port lane
    | some bs => emit s port lane (portSlot s port) (tileFrame s l d x bs true)

/-- R412: a replayed frame passed on in the next replay slot of its way out; with none left the replay fails. -/
def passReplay (n out : Nat) (s : State) (f : Frame) : State :=
  let k := forwardSlot n out
  if 31 < k then degradeLink s out 0 else emit s out 0 (periodOf s.tide * Config.periodSlots + 4048 + k) (passFrame f)

/-- R412: a replayed frame that arrives: passed on, applied once, or failed again. -/
def takeReplay (port n : Nat) (s : State) (a : Nat × Frame) : State :=
  let l := s.link port
  let key := frameKey a.2
  let s := match l.passed.find? fun p => p.1 == key with
    | some p => passReplay n p.2 s a.2
    | none => s
  match l.missed.find? fun m => m.key == key with
  | none => s
  | some m =>
    let s := s.setLink port { s.link port with missed := (s.link port).missed.filter fun x => x.key != key }
    match (if frameGood a.2 then applyTile s port m.op m.at' (portSlot s port) a.2 else none) with
    | some s' => s'
    | none => degradeLink s port a.1

/-- The port's slot is a replay slot, and has not ended (R412). -/
def replayOpen (s : State) (port : Nat) : Bool :=
  let n := portSlot s port % Config.periodSlots
  decide (4048 ≤ n) && decide (n < 4080) && (s.link port).counted != some (portSlot s port)

/-- REPLAY_SLOT (R412): at the end of a replay slot of the port. -/
def execReplaySlot (port : Nat) (s : State) : Res :=
  let n := portSlot s port % Config.periodSlots - 4048
  let l := s.link port
  let p := periodOf s.tide
  let got := l.arrived.filter fun a => a.2.rpl
  let s1 := got.foldl (takeReplay port n) (s.setLink port { l with arrived := l.arrived.filter fun a => !a.2.rpl })
  let s2 := (lanesUp s port).foldl (fun s n => if replayRoom port < (replaysOf l p n).length then degradeLink s port n else s) s1
  let s3 := (lanesUp s port).foldl (sendReplay port n) s2
  let last := n + (if port < 8 then 1 else 16) = 32
  let s4 := if last then s3.setLink port { s3.link port with reports := (s3.link port).reports.filter fun x => decide (p ≤ x.period) } else s3
  let s5 := s4.setLink port { s4.link port with counted := some (portSlot s port) }
  happens (replayOpen s port) (giveDones s5 port (portSlot s port)) s

/-- R398: a use of a descriptor was sent in an earlier period, and no report of it is open. -/
def releaseRipe (s : State) (l : Link) (x : LinkTile) : Bool :=
  decide (x.period < periodOf s.tide) && !(l.reports.any fun r => r.set == x.set && r.desc == x.desc && r.use == x.use)

/-- RSIG_RELEASE (R398): the handle of such a descriptor is FREE. -/
def execRsigRelease (port : Nat) (s : State) : Res :=
  let l := s.link port
  let ripe := releaseRipe s l
  happens (l.releases.any ripe)
    ((l.releases.filter ripe).foldl (fun s x => rsigFree s (descIn l x.set x.desc))
      (s.setLink port { l with releases := l.releases.filter fun x => !ripe x })) s

/-! ### Alarms (R333, R411, R439, R440) -/

/-- ROLLBACK_STOP recorded in a unit of a COURSED launch (R440). -/
def haltForRollback (s : State) (uid : Nat) : State :=
  let u := s.unit uid
  if live u then
    raiseFault s uid { cause := .rollbackStop, agent := .sq, precise := false, addr := 0, detail := 0, fpc := u.r.pc, corb := none }
  else if u.st = .running || u.st = .held || u.st = .faulted then
    s.onUnit uid fun u => setFrame { u with st := .faulted } 0 0xBB1
  else s

/-- R440: a package that receives the alarm of a pod failure stops its engines and the units of the job's COURSED
launches. -/
def stopJob (s : State) (key : Nat) : State :=
  let s := { s with links := tmap (fun _ (l : Link) => { l with stopped := true }) s.links }
  let rs := (s.job key).recs.filter fun i => recCoursed s i
  (rs.flatMap (unitsOf s)).foldl haltForRollback s

/-- A failure declared on another package: it is opened here, and its alarm passed on. -/
def hearFailure (s : State) (key period : Nat) (link : Option (Nat × Nat × Nat)) : State :=
  let s := match link with
    | some n => if s.pod.failed.contains n then s else { s with pod := { s.pod with failed := s.pod.failed ++ [n] } }
    | none => s
  match (s.job key).failedAt with
  | some q => onJob s key fun j => { j with failedAt := some (min q period) }
  | none =>
    let s := onJob s key fun j => { j with failedAt := some period, restored := false }
    stopJob { s with pod := { s.pod with alarms := s.pod.alarms ++ [.podFailure key period link] } } key

/-- A link found failed on another package, by the name of one end (R413, R440, R442). -/
def hearLink (s : State) (name : Nat × Nat × Nat) : State :=
  let s := { s with pod := { s.pod with failed := s.pod.failed ++ [name] } }
  (courseJobs s).foldl (fun s k => declareFailure s k (some name)) s

/-- R463: every entry of a VF's key table here loses V; the last GEN of each is kept (R466). -/
def revokeKeys (s : State) (vf : Nat) : State :=
  s.onVf vf fun v => { v with
    keys := tmap (fun _ (e : KeyEntry) => { e with v := false }) v.keys
    lastGen := v.keys.foldl (fun t e => tset t e.1 e.2.gen) v.lastGen }

/-- R464: the link programs whose descriptors name a VF are idle. -/
def idleLinks (s : State) (vf : Nat) : State :=
  { s with links := tmap (fun _ (l : Link) =>
      if l.sets.any fun g => g.2.descs.any fun d => dVf d == vf then { l with running := false } else l) s.links }

/-- R465: the package learns of a teardown. -/
def noteTorn (s : State) (pkg vf : Nat) : State :=
  { s with pod := { s.pod with torn := s.pod.torn ++ [(pkg, vf, s.tide.toNat)] } }

/-- What an alarm slot brings from the other packages. -/
def hear (s : State) : Alarm → State
  | .badTile pkg period slot desc tile => if pkg = s.pod.pkg then noteReport s period slot desc tile else s
  | .podFailure key period link => hearFailure s key period link
  | .linkFailed _ name => if s.pod.failed.contains name then s else hearLink s name
  | .keystone pkg key k => keystoneHeard s pkg key k
  | .cancel key phaseOnly => cancelHere s (if phaseOnly then .phase else .job) 0 key
  | .teardown pkg vf => noteTorn (idleLinks (revokeKeys s vf) vf) pkg vf
  | .setLoaded pkg set => { s with pod := { s.pod with setsEverywhere := s.pod.setsEverywhere ++ [(pkg, set)] } }
  | .phaseArrived _ key graph system => onJob s key fun j => setFarArrived j graph system (farArrived j graph system + 1)

/-- The jobs whose failure an alarm of this package's own announces. -/
def failureKey : Alarm → Option Nat
  | .podFailure key .. => some key
  | _ => none

/-- R440: the alarm of a failure is sent in the alarm slots of three periods. -/
def sendsAgain (p : Nat) : Alarm → Bool
  | .podFailure _ q _ | .linkFailed q _ => decide (p < q + 2)
  | _ => false

/-- A replay that has not arrived by the end of the next period has failed again (R412). -/
def lostReplays (s : State) : State :=
  let p := periodOf s.tide
  s.links.foldl (fun s l =>
    if l.2.missed.any fun m => decide (m.at'.period < p) then
      degradeLink (s.setLink l.1 { s.link l.1 with missed := (s.link l.1).missed.filter fun m => decide (p ≤ m.at'.period) }) l.1
        ((l.2.missed.map (·.at'.lane)).headD 0)
    else s) s

/-- JOB_CANCEL answers once the other packages have been told (R485). -/
def answerCancels (s : State) : State :=
  s.firm.cancels.foldl (fun s c => answerLater s c.1 0 0 [(s.job c.2).overrun]) { s with firm := { s.firm with cancels := [] } }

/-- ALARM_SLOT (R411, R439, R440): this package's alarms go out, and those of the others are heard. -/
def execAlarmSlot (heard : List Alarm) (s : State) : Res :=
  let own := s.pod.alarms
  let p := periodOf s.tide
  let s1 := { s with pod := { s.pod with alarms := own.filter (sendsAgain p), alarmsSent := s.pod.alarmsSent ++ own
                                         alarmsAt := some p } }
  let s2 := (own.filterMap failureKey).foldl stopJob (heard.foldl hear s1)
  happens (decide (4080 ≤ slotOf s.tide)) (answerCancels (lostReplays s2)) s

/-! ### Retunes and route swaps (R415 to R417) -/

/-- MARKER_RECEIVE (R415). -/
def execMarkerReceive (port lane : Nat) (id : BitVec 12) (s : State) : Res :=
  .next (s.setLink port { s.link port with markers := (s.link port).markers ++ [(lane, id)] })

/-- The pending plan's setting of a port. -/
def portPlan (s : State) (port : Nat) : Option ChordSpec := s.pod.plan.bind fun p => p.ports.find? fun c => c.port == port

/-- R416: a lane after its retune: its channels, lit when it reaches another member, its measured delay. -/
def relock (s : State) (port lane delay : Nat) : State :=
  let l := s.link port
  let x := tget l.lanes lane blankLane
  let plan := portPlan s port
  let rx := match plan.bind fun c => c.lanes[lane]? with
    | some p => p.rx
    | none => x.rx
  let radix := match plan with
    | some c => c.radix
    | none => l.radix
  s.setLink port { l with
    delay := tset l.delay lane delay
    lanes := tset l.lanes lane { x with tx := x.tuned, rx := rx, lit := x.tuned.toNat % radix != 0, tuning := none } }

/-- Tide ns within which a lane relocks (R416). -/
def relockNs : Nat := 25000

/-- LANE_RELOCK (R416). -/
def execLaneRelock (port lane delay : Nat) (s : State) : Res :=
  match (tget (s.link port).lanes lane blankLane).tuning with
  | none => .next s
  | some n => happens (decide (n ≤ relockNs)) (relock s port lane delay) s

/-- LANE_RELOCK_TIMEOUT (R416, R413). -/
def execLaneRelockTimeout (port lane : Nat) (s : State) : Res :=
  let l := s.link port
  let x := tget l.lanes lane blankLane
  match x.tuning with
  | none => .next s
  | some n =>
    happens (decide (relockNs ≤ n)) (failLink (s.setLink port { l with lanes := tset l.lanes lane { x with tuning := none } }) port lane) s

/-- The held requests of a unit go on (R417). -/
def resumeHeld (u : Unit) : Unit :=
  { u with m := { u.m with remotes := u.m.remotes.map fun r => if r.held then { r with held := false, resend := some 0 } else r } }

/-- The lanes of a port as a plan has them. -/
def planLanes (c : ChordSpec) : Tab Lane :=
  tableFrom 0 (c.lanes.map fun p =>
    { tx := p.tx, rx := p.rx, lit := p.tx.toNat % max 1 c.radix != 0, tuning := none, tuned := p.tx : Lane })

/-- A port takes its place in the planes of a plan; the lanes of a port that had none are as the plan has them, the
others as their TUNE words left them (DEDUCED, log 24). -/
def setPlane (s : State) (c : ChordSpec) : State :=
  let l := s.link c.port
  s.setLink c.port { l with plane := c.plane, index := c.index, radix := c.radix
                            lanes := if l.radix = 0 then planLanes c else l.lanes }

/-- ROUTE_SWAP (R417): at TSW the routes of the plan hold, and what was held goes on. -/
def execRouteSwap (s : State) : Res :=
  match s.pod.plan with
  | none => .next s
  | some p =>
    let s1 := p.ports.foldl setPlane { s with pod := { s.pod with routes := p.routes, plan := none, holding := false } }
    happens (decide (p.tsw.toNat ≤ s.tide.toNat)) { s1 with units := tmap (fun _ u => resumeHeld u) s1.units } s

/-! ### Tide time (R155, R156, R160) -/

/-- R155: twice the offset of this package from its parent: the difference of the two measured one-way times. -/
def tideOffset2 (x : TideStamps) : Int :=
  ((x.childGot.toNat : Int) - x.parentSent.toNat) - ((x.parentGot.toNat : Int) - x.childSent.toNat)

/-- TIDE_EXCHANGE (R155, R156): the four timestamps of the two-way exchange with the parent, once in every slack interval. The
counter is slewed against the offset by at most 2 ns, whole nanoseconds only (DESIGN CHOICE, log 77), and beyond 16 ns the
tide is lost. -/
def execTideExchange (stamps : TideStamps) (s : State) : Res :=
  let d := tideOffset2 stamps
  let slew : Int := max (-2) (min 2 (-(d.tdiv 2)))
  happens (s.pod.joined && s.pod.root != some s.pod.pkg && s.pod.exchanged != some (periodOf s.tide) &&
      decide (4040 ≤ slotOf s.tide) && decide (slotOf s.tide < 4048))
    { s with pod := { s.pod with slew := slew, exchanged := some (periodOf s.tide)
                                 tideBad := s.pod.tideBad || decide (32 < d.natAbs) } } s

/-- TIDE_LOST in a unit that runs a course (R156, R420). -/
def loseTide (s : State) (uid : Nat) : State :=
  raiseFault s uid { cause := .tideLost, agent := .sq, precise := false, addr := 0, detail := 0, fpc := (s.unit uid).r.pc, corb := none }

/-- TIDE_LOST (R156, R413), at a slot boundary: the engines stop, courses fault, and the link to the parent counts as failed;
the alarm floods even where that link had failed before. -/
def execTideLost (s : State) : Res :=
  let s1 := { s with links := tmap (fun _ (l : Link) => { l with stopped := true }) s.links, pod := { s.pod with tideBad := false } }
  let s2 := (unitsWhere s1 fun u => u.course.active).foldl loseTide s1
  let known := (s.link s.pod.parent).failed.contains 0
  happens (s.pod.tideBad && s.tide.toNat % Config.slotNs == 0)
    (if known then floodFailure s2 (s.pod.pkg, s.pod.parent, 0) else failLink s2 s.pod.parent 0) s

/-- ELASTIC_RECENTRE (R160): a port whose occupancy is out of range is degraded on lane 0 (DESIGN CHOICE, log 92). -/
def execElasticRecentre (port : Nat) (s : State) : Res :=
  let l := s.link port
  let s1 := if l.elastic < 4 || 28 < l.elastic then degradeLink s port 0 else s
  happens (decide (4032 ≤ slotOf s.tide) && decide (slotOf s.tide < 4040))
    (s1.setLink port { s1.link port with elastic := 16 }) s

end Sys2Proof.Machine
end

