-- ==== Sys2Proof/Machine/Pages.lean ====
section
/-! DEFINITION. Page requests, page state and notifications of a program (R360 to R362), and the migration of pages
(R363 to R367). -/

namespace Sys2Proof.Machine

/-! ### PGREQ (R360) -/

/-- The number of the page that holds an address. -/
def pageOf (va : Word) : BitVec 38 := BitVec.ofNat 38 (va.toNat / 2 ^ 16)

/-- A request for a page that a VF already has before firmware. -/
def pageAsked (s : State) (vf : Nat) (pg : BitVec 38) : Bool := (s.vf vf).requests.any fun r => r.1 == pg

/-- The request joins the one that is pending, or is posted to firmware, which passes it to the host (R459, R488). -/
def postRequest (s : State) (pg : BitVec 38) : State :=
  let vf := s.u.id.vf
  let s := s.onVf vf fun v => { v with requests := v.requests ++ [(pg, [s.cur])], reqfail := v.reqfail.filter (· != pg) }
  vfEvent s vf 0x0100 [vf, pg.toNat]

def mergeRequest (s : State) (pg : BitVec 38) : State :=
  let join := fun (r : BitVec 38 × List Nat) => if r.1 = pg && !r.2.contains s.cur then (r.1, r.2 ++ [s.cur]) else r
  s.onVf s.u.id.vf fun v => { v with requests := v.requests.map join }

/-- R360: the rest of a PGREQ whose page is not here. -/
def tryPgreq (d : Nat) (pg : BitVec 38) (s : State) : SqRes :=
  let vf := s.u.id.vf
  let put := fun (s : State) (v : Word) => s.onU fun u => { u with r := setG u.r d v }
  if pageAsked s vf pg then .done (put (mergeRequest s pg) 2)
  else if 64 ≤ (s.vf vf).requests.length then .hold (.pgreq d pg) s
  else .done (put (postRequest s pg) 1)

/-- R360. -/
def execPgreq (d a : BitVec 6) (s : State) : Res :=
  sqWord [a] (fun s =>
    let va := gOf s a
    let u := s.u
    if !canonical va then .trap .noncanonical va 0
    else if Config.copyAp ≤ va.toNat then .trap .translation va 0
    else
      match xlate s (coreOf u) u.id.vf (heapOf u) va with
      | .error c => .trap c va 0
      | .ok t =>
        let s := tlbFill s (coreOf u) u.id.vf va t
        let here := match t.leaf with
          | none => true
          | some l => t.res && !bitAt l.e 6 && t.kind == 0
        if here then .done (writeG s d 0)
        else tryPgreq d.toNat (pageOf va) (s.onU fun u => { u with pend := u.pend.filter (· != pendKey u d.toNat) })) s

/-- PGREQ_POST (R360): room for the request. -/
def execPgreqPost (s : State) : Res :=
  completes s (fun w => match w with | .pgreq .. => true | _ => false)
    (fun w s => match w with
      | .pgreq d pg => tryPgreq d pg s
      | _ => .stop s)

/-! ### PGSTAT (R361) -/

/-- How many atomics a path class keeps from an address (R356). -/
def pathRank (p : Nat) : Nat := if p < 2 then 0 else if p < 4 then 1 else 2

/-- The path class of the more restrictive side; the range's where both allow the same (DESIGN CHOICE, log 18). -/
def tighterPath (leaf range : Nat) : Nat := if pathRank range < pathRank leaf then leaf else range

/-- R357, R361: the CNT of a leaf, as it is at its location; as it was read there for one at another package. -/
def leafCount (s : State) (l : Leaf) : Nat := if farLeaf l then l.e / 2 ^ 48 else memNat s.mem (l.key + 6) 2

/-- R361: the state of the page of an address. -/
def pageStat (s : State) (u : Unit) (va : Word) : Word :=
  let v := s.vf u.id.vf
  let pg := pageOf va
  if Config.copyAp ≤ va.toNat then 0
  else
    match xlate s (coreOf u) u.id.vf (heapOf u) va with
    | .error _ => 0
    | .ok t =>
      match t.leaf with
      | none => BitVec.ofNat 64 (1 + 2 + 4 + 2 ^ 6 * t.rangePath + 2 ^ 11 + 2 ^ 32 * t.kind)
      | some l =>
        BitVec.ofNat 64 (1 + 2 * t.res.toNat + 4 * t.wr.toNat + 8 * t.wb.toNat + 16 * bits l.e 5 1 + 32 * bits l.e 6 1 +
          2 ^ 6 * tighterPath t.leafPath t.rangePath + 2 ^ 9 * (pageAsked s u.id.vf pg).toNat +
          2 ^ 10 * (v.reqfail.contains pg).toNat + 2 ^ 16 * leafCount s l + 2 ^ 32 * t.kind)

/-- R361. -/
def execPgstat (d a : BitVec 6) (s : State) : Res :=
  sqWord [a] (fun s =>
    let va := gOf s a
    let done : SqRes := .done (writeG s d (pageStat s s.u va))
    if !canonical va then .trap .noncanonical va 0
    else if Config.copyAp ≤ va.toNat then done
    else
      match xlate s (coreOf s.u) s.u.id.vf (heapOf s.u) va with
      | .error (.elsewhere p) => .trap (.elsewhere p) va 0
      | _ => done) s

/-! ### NQPOP (R362) -/

/-- The 16 bytes of a notification (R359). -/
def notifBytes (n : Notif) : List Byte :=
  toLe 8 (n.kind.toNat + 2 ^ 16 * n.page.toNat) ++ toLe 8 (n.cnt.toNat + 2 ^ 16 * n.lost.toNat + 2 ^ 32 * n.seq.toNat)

/-- R362. -/
def execNqpop (d a : BitVec 6) (s : State) : Res :=
  sqWord [a] (fun s =>
    let va := gOf s a
    let vf := s.u.id.vf
    let la := va.toNat - Config.win
    if va.toNat < Config.win || usable s.u < la + 16 then .trap .scratchBounds va 0
    else if va.toNat % 16 != 0 then .trap .dataMisaligned va 0
    else if watched s.u va 16 true then .trap .debugStop va 0
    else
      match (s.vf vf).nq with
      | [] => .done (writeG s d 0)
      | n :: rest =>
        let s := (s.onVf vf fun v => { v with nq := rest }).scrWrite s.cur la (notifBytes n)
        .done (writeG s d (BitVec.ofNat 64 (rest.length + 1)))) s

/-! ### MIGRATE_PAGE (R363, R364) -/

/-- R107, R360: the requests for a page end; a refusal leaves REQFAIL. -/
def endRequests (s : State) (vf : Nat) (pg : BitVec 38) (fail : Bool) : State :=
  let v := s.vf vf
  let mine := v.requests.filter fun r => r.1 == pg
  let s := s.setVf vf { v with
    requests := v.requests.filter fun r => r.1 != pg
    reqfail := if fail && !mine.isEmpty then v.reqfail.filter (· != pg) ++ [pg] else v.reqfail }
  (mine.flatMap (·.2)).foldl (fun s u => s.onUnit u fun u => setPend u 6) s

/-- A run of bytes touches a page. -/
def touches (pg : BitVec 38) (va n : Nat) : Bool := n != 0 && decide (va / 2 ^ 16 ≤ pg.toNat) && decide (pg.toNat ≤ (va + n - 1) / 2 ^ 16)

/-- A descriptor of a loaded program names the page. -/
def descNames (s : State) (vf : Nat) (pg : BitVec 38) : Bool :=
  s.links.any fun l => l.2.sets.any fun g => g.2.descs.any fun d =>
    dKind d == 1 && dVf d == vf && touches pg (dAddr d) ((dTiles d - 1) * dStep d + (footprint d).getD 0)

/-- Bytes of a keystone slot of a record (R436). -/
def slotBytes (s : State) (i : Nat) : Nat := recUnits s i * Config.ctxBytes + 256

/-- The page belongs to the code of a record that is not IDLE. -/
def codeNames (s : State) (vf : Nat) (pg : BitVec 38) : Bool :=
  s.recs.any fun r => r.2.st != .idle && vfOfRec s r.1 == some vf && (recSections s r.1).any fun e => touches pg e.1 e.2

/-- The page belongs to a keystone slot. -/
def slotNames (s : State) (vf : Nat) (pg : BitVec 38) : Bool :=
  s.recs.any fun r => vfOfRec s r.1 == some vf && (match r.2.keyst with
    | some c => touches pg c.slotA.toNat (slotBytes s r.1) || touches pg c.slotB.toNat (slotBytes s r.1)
    | none => false)

/-- The die that migrates a page to a place (R363). -/
def ownDie (kind key : Nat) : Nat := if kind = 0 then key / 2 ^ 37 else 0

/-- R363: the checks of a migration, in the manual's order, numbered from 1; what it does otherwise. -/
def migrationOf (s : State) (h : IsuneHdr) (va : Word) (ipa : Nat) : Except Nat (Nat × Migration) :=
  let vf := h.vf.toNat
  let pg := pageOf va
  let page : Word := BitVec.ofNat 64 (pg.toNat * 2 ^ 16)
  let ipa := ipa / 2 ^ 16 * 2 ^ 16
  if inHeap (s.vf vf).heap page then .error 1
  else
    match walk s vf page.toNat with
    | .error _ => .error 2
    | .ok l =>
      if bits l.e 10 2 != 0 || farLeaf l then .error 2
      else if descNames s vf pg then .error 3
      else if codeNames s vf pg then .error 4
      else if slotNames s vf pg then .error 5
      else
        match placeOf s vf (entryIpa l.e), placeOf s vf ipa with
        | some (_, .mem old), some (r, .mem new) =>
          let die := ownDie r.kind.toNat new
          if (s.die die).migration.isSome || (migrating s vf page).isSome then .error 7
          else .ok (die,
            { vf := vf, page := pg, leafKey := l.key, newIpa := BitVec.ofNat 48 ipa, oldKey := old, newKey := new
              newHost := r.kind != 0, newPath := BitVec.ofNat 3 r.path.toNat, cycles := 0, held := [], hdr := h })
        | _, _ => .error 6

/-- A leaf entry changed, with a shootdown (R350). -/
def setLeaf (s : State) (key : Nat) (f : Nat → Nat) : State :=
  shootdown { s with mem := memPut s.mem key (toLe 8 (f (memNat s.mem key 8))) } key

/-- A leaf with WB set or clear. -/
def leafWb (on : Bool) (e : Nat) : Nat := if bitAt e 4 = on then e else if on then e + 16 else e - 16

/-- MIGRATE_PAGE (R363, R364): the block. -/
def execMigratePage (h : IsuneHdr) (va : Word) (ipa : BitVec 48) (s : State) : Res :=
  command vfCmd h (fun s =>
    match migrationOf s h va ipa.toNat with
    | .error c => answer (endRequests s h.vf.toNat (pageOf va) true) 11 c
    | .ok (die, m) =>
      let s := s.setDie die { s.die die with migration := some m }
      .later (setLeaf s m.leafKey (leafWb true))) s

/-- MIGRATE_PAGE_REFUSE (R360, R486). -/
def execMigratePageRefuse (h : IsuneHdr) (va : Word) (s : State) : Res :=
  command vfCmd h (fun s => answer (endRequests s h.vf.toNat (pageOf va) true) 0 0) s

/-! ### The end of a migration (R364 to R367) -/

/-- A run of bytes of one storage put at a key of another, or of the same. -/
def memBlit (into from_ : Mem) (dst src n : Nat) : Mem :=
  into.filter (fun e => e.1 < dst) ++
  (from_.filter fun e => decide (src ≤ e.1) && decide (e.1 < src + n)).map (fun e => (e.1 - src + dst, e.2)) ++
  into.filter (fun e => dst + n ≤ e.1)

/-- Bytes of a page. -/
def pageBytes : Nat := 0x10000

/-- The page as every unit's ordinary loads see it moves with it, and so do its errors (R375, R433). -/
def movePage (s : State) (m : Migration) : State :=
  let inOld := fun (g : Nat × List Byte) => decide (m.oldKey ≤ g.1) && decide (g.1 < m.oldKey + pageBytes)
  let inNew := fun (g : Nat × List Byte) => decide (m.newKey ≤ g.1) && decide (g.1 < m.newKey + pageBytes)
  { s with
    mem := memBlit s.mem s.mem m.newKey m.oldKey pageBytes
    units := tmap (fun _ (u : Unit) => if u.id.vf = m.vf then
      { u with m := { u.m with snap := memBlit u.m.snap u.m.snap m.newKey m.oldKey pageBytes } } else u) s.units
    spoiled := s.spoiled.filter (fun g => !inNew g) ++ (s.spoiled.filter inOld).map fun g => (g.1 - m.oldKey + m.newKey, g.2) }

/-- R366: what was held is seen by the loads that waited for it. -/
def seeHeld (s : State) (vf k : Nat) : State :=
  { s with units := tmap (fun _ (u : Unit) => if u.id.vf = vf then
      { u with m := { u.m with snap := memPut u.m.snap k (memRead s.mem k 64) } } else u) s.units }

/-- The word at FPC of a stopped unit is complete: FPC goes on, and the saved clause counts it (R114). -/
def stashedDone (u : Unit) : Unit :=
  let f := frameReg u 3
  setFrame (setFrame { u with stash := none } 1 (frameReg u 1 + 4)) 3 (if f &&& 15 = 0 then f else f - 1)

/-- The word of a unit that a held atomic ends: its register is written, and it completes, also when a fault
elsewhere in the core has stopped the sequencer meanwhile. -/
def endHeldAtomic (s : State) (uid tag d : Nat) (old : Word) : State :=
  let u := s.unit uid
  let put := fun (s : State) => s.onUnit uid fun u => { u with r := setG u.r d old }
  match u.wait, u.stash with
  | some (.heldAtomic t acq), _ =>
    if t != tag then s
    else
      let me := s.cur
      { retire { (if acq then refresh (put s) uid else put s) with cur := uid } with cur := me }
  | none, some (.heldAtomic t acq) =>
    if t != tag then s
    else (if acq then refresh (put s) uid else put s).onUnit uid stashedDone
  | _, _ => s

/-- One held access performed in the copy at a key (R364, R365). -/
def replayHeld (vf base : Nat) (s : State) (h : HeldOp) : State :=
  match h with
  | .write off _ data part =>
    let ps := data.map fun p => { off := p.1, mask := tget part p.1 0xFF, val := p.2 : BytePart }
    seeHeld { s with mem := putParts s.mem (base + off) ps } vf (base + granule off)
  | .atomic off n aop arg cmp back =>
    let r := amoAt s.mem (base + off) aop n arg.toNat cmp.toNat
    let s := seeHeld { s with mem := r.2 } vf (base + granule off)
    match back with
    | .packet .reduce p => reply s p []
    | .packet _ p => reply s p (toLe n r.1)
    | .word uid tag d => endHeldAtomic s uid tag d (BitVec.ofNat 64 r.1)
    | .reduce => s
    | .host qp => { s with hostOut := s.hostOut ++ [rdmaMessage qp 0 (toLe n r.1)] }

/-- The leaf of a page in its new place: OA, HR and PATH, resident, CNT 0 (R364; RES: DEDUCED, log 19). -/
def swungLeaf (m : Migration) (e : Nat) : Nat :=
  let keep := bits e 0 2 + 4 + bits e 3 1 * 8 + bits e 4 1 * 16 + bits e 5 1 * 32
  keep + m.newHost.toNat * 64 + m.newPath.toNat * 128 + bits e 10 6 * 2 ^ 10 + m.newIpa.toNat / 2 ^ 16 * 2 ^ 16

/-- The end of a migration: replay, WB cleared, a notification, the requests and the command ended. -/
def endMigration (s : State) (die : Nat) (m : Migration) (base : Nat) (fail : Bool) : State :=
  let s := m.held.foldl (replayHeld m.vf base) s
  let s := s.setDie die { s.die die with migration := none }
  let s := setLeaf s m.leafKey (leafWb false)
  let s := postNotif s m.vf (if fail then 3 else 2) m.page 0
  answerLater (endRequests s m.vf m.page fail) m.hdr (if fail then 11 else 0) 0 []

/-- MIGRATION_COPY_END (R364). -/
def execMigrationCopyEnd (die : Nat) (s : State) : Res :=
  match (s.die die).migration with
  | none => .next s
  | some m => .next (endMigration (setLeaf (movePage s m) m.leafKey (swungLeaf m)) die m m.newKey false)

/-- MIGRATION_TIMEOUT (R367). -/
def execMigrationTimeout (die : Nat) (s : State) : Res :=
  match (s.die die).migration with
  | none => .next s
  | some m => happens (decide (2 ^ 19 ≤ m.cycles)) (endMigration s die m m.oldKey true) s

end Sys2Proof.Machine
end

