-- ==== Sys2Proof/Machine/Keystones.lean ====
section
/-! DEFINITION. Keystones: KEYST and the writing of slots and headers (R436 to R439), their configuration, and the
rollback (R401, R440 to R443). -/

namespace Sys2Proof.Machine

/-! ### KEYST (R437) -/

/-- The configuration of the acting unit's record (R436). -/
def keystConf (s : State) : Option KeystConf := (s.recOf s.u.id.recNo).keyst

/-- R437: what lets a KEYST act. -/
def keystForm (s : State) : Bool := s.u.c.coursed && !s.u.course.active && (keystConf s).isSome

/-- R437: AE entries, activations and arrivals that forbid it. -/
def keystBusy (u : Unit) : Bool :=
  !u.ae.queue.isEmpty || ((List.range 16).any fun k => streamStat (streamOf u k) / 2 % 4 != 0) || !u.m.arrivals.isEmpty

/-- The slot of keystone k. -/
def slotOfKey (c : KeystConf) (k : Nat) : Word := if k % 2 = 1 then c.slotA else c.slotB

/-- The pieces of a unit's part of a slot, by offset (R434, R437): segments, live tiles, and the state block, whose
bytes are the part's own (DESIGN CHOICE, log 2). -/
def keyPieces (s : State) (c : KeystConf) : List (Nat × List Byte) :=
  let u := s.u
  let segs := (List.range u.id.segs).filter fun k => c.segmask.getLsbD k
  let tiles := if c.tiles then u.me.st.tiles.filter fun t => t.2.live else []
  segs.map (fun k => (k * Config.segBytes, scrRead s.mem u (k * Config.segBytes) Config.segBytes)) ++
  tiles.flatMap (fun t => [(0x400000 + t.1 * 0x10000, tileBytes t.2), (0x440000 + t.1 * 0x800, tileSums t.2)]) ++
  [(0x468000, freeBytes s.free 0x10000)]

/-- R437: the writing of the acting unit's part. The unit as it goes on after the word is what the slot holds. -/
def writeKeystone (id : BitVec 8) (s : State) : State :=
  match keystConf s with
  | none => s
  | some c =>
    let k := s.u.m.kcount + 1
    let slot := slotOfKey c k
    let base := slot + BitVec.ofNat 64 (s.u.id.idx * Config.ctxBytes)
    let area := (keyPieces s c).map fun p => (base + BitVec.ofNat 64 p.1, p.2)
    let s := area.foldl (fun s p => (engWriteAll s.cur .sq (granules p.1.toNat p.2.length) s p.1 p.2).1) { s with free := s.free + 0x10000 }
    let s := s.onU fun u => { u with m := { u.m with kcount := k, kid := id } }
    let uid := s.cur
    let x : Saved := { uid := uid, k := k, slot := slot, unit := (retire s).u, area := area }
    { s with saved := s.saved.filter (fun y => !(y.uid == uid && y.slot == slot)) ++ [x] }

/-- R437: the waits, as of QFENCE 0x7F with its drain at TENANT, and for the keystone before. -/
def tryKeyst (id : BitVec 8) (s : State) : SqRes :=
  if !queuesDone s s.cur 0x7F then .hold (.keyst id) s
  else
    match drain s s.cur with
    | .wait s' => .hold (.keyst id) s'
    | .fail s' c a => .stop (drainFault (s'.onU fun u => { u with wait := none }) s'.cur c a)
    | .ok s' =>
      let s' := refresh s' s'.cur
      if (s'.job (jobKey s'.u.id.vf s'.u.id.job)).kComplete < s'.u.m.kcount then .hold (.keyst id) s'
      else .done (writeKeystone id s')

/-- KEYST (R437). -/
def execKeyst (id : BitVec 8) (s : State) : Res :=
  sqWord [] (fun s => if !keystForm s || keystBusy s.u then .trap .keystState 0 0 else tryKeyst id s) s

/-- KEYSTONE_WRITE (R437). -/
def execKeystoneWrite (s : State) : Res :=
  completes s (fun w => match w with | .keyst _ => true | _ => false)
    (fun w s => match w with
      | .keyst id => tryKeyst id s
      | _ => .stop s)

/-! ### The header (R437, R438) -/

/-- The last keystone that every unit of a launch that has not ended has written. -/
def commonKey (s : State) (i : Nat) : Nat :=
  match (unitsOf s i).filter fun u => alive (s.unit u) with
  | [] => 0
  | u :: us => us.foldl (fun k v => min k (s.unit v).m.kcount) (s.unit u).m.kcount

/-- The completion counters of a launch: launch, graph, phase, job. -/
def headerCounters (s : State) (i : Nat) : List Word :=
  let r := s.recOf i
  let vf := (vfOfRec s i).getD 0
  let j := s.job (jobKey vf r.job)
  [r.launchCtr, tget (s.vf vf).graphs (graphKey r.job (recGraph s i)) 0, j.phaseCtr, j.jobCtr]

/-- The generations of a VF's barriers, by die and number. -/
def barrierGens (s : State) (vf : Nat) : List (Nat × Nat × BitVec 16) :=
  s.dies.flatMap fun d => (d.2.barriers.filter fun b => b.2.vf == some vf).map fun b => (d.1, b.1, b.2.gen)

/-- The header of keystone k of a launch, with the states of the job's records (R441). -/
def makeHeader (s : State) (i k : Nat) : KeyHeader :=
  let vf := (vfOfRec s i).getD 0
  let id := ((s.saved.find? fun x => x.uid / 128 == i && x.k == k).map (·.unit.m.kid)).getD 0
  { recNo := i, k := k, id := id, tide := s.tide, counters := headerCounters s i, gens := barrierGens s vf
    recs := (s.job (jobKey vf (s.recOf i).job)).recs.map (fun n => (n, s.recOf n)), complete := true }

/-- KEYSTONE_HEADER_WRITE (R437 to R439, R330): the header, COMPLETE last; a gang asked to leave is then suspended. -/
def execKeystoneHeaderWrite (i : Nat) (s : State) : Res :=
  let k := commonKey s i
  match (s.recOf i).keyst with
  | none => .next s
  | some c =>
    let vf := (vfOfRec s i).getD 0
    let us := (unitsOf s i).filter fun u => alive (s.unit u)
    let h := makeHeader s i k
    let va := (slotOfKey c k).toNat + recUnits s i * Config.ctxBytes
    let s1 := areaWrite vf 6 { s with free := s.free + 256 } va (freeBytes s.free 256)
    let s2 := { s1 with headers := s1.headers.filter (fun x => !(x.recNo == i && x.k % 2 == k % 2)) ++ [h] }
    let s3 := if us.any fun u => (s2.unit u).preempt then suspendGang s2 i else s2
    happens (k != 0 && (headerOf s i k).isNone) (keystoneCheck s3 (jobKey vf (s.recOf i).job)) s

/-! ### KEYSTONE_CONF (R436) -/

/-- R436: the form of a slot: aligned, and in resident, writable HBM of the VF. -/
def slotForm (s : State) (vf i : Nat) (va : Word) : Bool :=
  va.toNat % 2 ^ 16 == 0 && pagesOk s vf .store (fun t => t.kind == 0) va.toNat (slotBytes s i)

/-- KEYSTONE_CONF (R436): REFUSED with DETAIL 1 for a record that is not COURSED, 2 and 3 for slot A and B (DESIGN CHOICE, log 21). -/
def execKeystoneConf (h : IsuneHdr) (i : Nat) (slotA slotB segmask : Word) (tiles : Bool) (s : State) : Res :=
  command anyCmd h (fun s =>
    match vfOfRec s i with
    | none => answer s 4 i
    | some vf =>
      if h.vf != 0xFF && h.vf.toNat != vf then answer s 6 i
      else if (s.vf vf).world && h.world = 0 then answer s 5 i
      else if !recCoursed s i then answer s 11 1
      else if !slotForm s vf i slotA then answer s 11 2
      else if !slotForm s vf i slotB then answer s 11 3
      else
        let c : KeystConf := { slotA := slotA, slotB := slotB, segmask := segmask, tiles := tiles }
        measured (s.putRec i { s.recOf i with keyst := some c }) 5 h) s

/-! ### ROLLBACK_RESTORE (R441, R442) -/

/-- The neighbour that a torus port leads to, by package number (R390). -/
def neighbour (s : State) (pkg port : Nat) : Nat :=
  let d := port / 2
  let size := s.pod.dims.getD d 1
  let step := (s.pod.dims.take d).foldl (· * ·) 1
  let x := pkg / step % size
  let y := if port % 2 = 0 then (x + 1) % size else (x + size - 1) % size
  pkg - x * step + y * step

/-- R442: the other name of a link. Where a chord's light arrives is the fibres' matter (DESIGN CHOICE, log 22). -/
def otherEnd (s : State) (n : Nat × Nat × Nat) : Nat × Nat × Nat :=
  if n.2.1 < 8 then (neighbour s n.1 n.2.1, facing n.2.1, 0) else Config.chordPeer n

/-- A set is loaded on every package of the pod. -/
def setEverywhere (s : State) (k : Nat) : Bool :=
  (s.links.any fun l => (tfind l.2.sets k).isSome) &&
  decide (podSize s ≤ ((s.pod.setsEverywhere.filter fun e => e.2 == k && e.1 != s.pod.pkg).map (·.1)).eraseDups.length + 1)

/-- A set avoids every link of a list, by either name. -/
def setAvoids (s : State) (k : Nat) (ls : List (Nat × Nat × Nat)) : Bool :=
  let a := tget s.pod.avoid k []
  ls.all fun n => a.contains n || a.contains (otherEnd s n)

/-- DETOUR_SELECT (R442): the current set where no link has failed since the last selection, otherwise the lowest that avoids
every link failed since JOB_START; none when there is none. -/
def selectSet (s : State) (key : Nat) : Option Nat :=
  let ls := s.pod.failed.drop (s.job key).linksBefore
  if s.pod.failed.length = (s.job key).linksSeen then some s.pod.set
  else ((List.range 15).map (· + 1)).find? fun k => setEverywhere s k && setAvoids s k ls

/-- The launches of a job that have written keystone K. -/
def restoredRecs (s : State) (key k : Nat) : List KeyHeader :=
  s.headers.filter fun h => h.k == k && h.complete && (s.job key).recs.contains h.recNo && recCoursed s h.recNo

/-- The parts of the slots of keystone K of those launches. -/
def savedOf (s : State) (hs : List KeyHeader) (k : Nat) : List Saved :=
  s.saved.filter fun x => x.k == k && hs.any fun h => h.recNo == x.uid / 128

/-- The CRC-64 of a part holds: its pieces read back as they were written (R433, R441). -/
def partGood (s : State) (x : Saved) : Bool :=
  x.area.all fun p => areaRead s x.unit.id.vf (granules p.1.toNat p.2.length) p.1.toNat p.2.length == some p.2

/-- R441, step 1: the records that a restored launch released after K, and those that they released in turn. -/
def undoneRecs (s : State) (key k : Nat) (hs : List KeyHeader) : List Nat :=
  (s.job key).released.foldl (fun r e =>
    if (hs.any (fun h => h.recNo == e.2.1) && decide (k ≤ e.1)) || r.contains e.2.1 then
      (if r.contains e.2.2 then r else r ++ [e.2.2])
    else r) []

/-- A unit cancelled without a report. -/
def discardUnit (s : State) (uid : Nat) : State :=
  let s := unbindUnit (endLeases (abortCopies s uid) uid) uid
  s.onUnit uid (endedUnit .cancelled)

/-- A record as it was at K, its units of now discarded. -/
def undoRec (hs : List KeyHeader) (s : State) (i : Nat) : State :=
  let vf := (vfOfRec s i).getD 0
  let was := (hs.findSome? fun h => (h.recs.find? fun e => e.1 == i).map (·.2)).getD blankRec
  let r := s.recOf i
  let s := leaveReady ((unitsOf s i).foldl discardUnit s) vf i
  let s := s.putRec i { r with st := was.st, live := was.live, job := if was.st = .idle then r.job else was.job }
  if was.st = .waiting then makeUnits s i vf .waiting else s

/-- A core freed for a unit that is placed again: another unit there is suspended. -/
def freeCore (s : State) (pos uid : Nat) : State :=
  match (s.core pos).occupant with
  | none => s
  | some o =>
    if o = uid then s
    else
      let u := s.unit o
      joinReady (suspendUnit s o) u.id.vf u.id.recNo (recPrio s u.id.recNo) [if u.id.gang then none else some u.id.idx]

/-- A physical segment given back to a unit; a parked one is written to its owner's save area first (R171). -/
def regainSeg (s : State) (pos uid vf p k : Nat) : State :=
  let o := segOf (s.core pos) p
  if o.uid = uid && o.st = 1 then s
  else
    let s := if (o.st = 2 || o.st = 3) && o.uid != uid then
        (engWriteAll o.uid .sq 1024 s (saveArea s o.uid o.logical) (memRead s.mem (segKey pos p) Config.segBytes)).1
      else s
    giveSeg s pos uid vf p k true

/-- R441, step 2: a lease handle as the slot records it. -/
def restoredLease (L : Lease) : Lease :=
  match L.st with
  | .free | .evicted => { L with corbel := none, cmds := [], running := false, ending := none }
  | _ => { L with st := .evicted, corbel := none, cmds := [], running := false, ending := none, lastSt := 2 }

/-- A unit as its slot holds it, over what the slot does not hold (R434, R437, R443). -/
def restoredUnit (c : KeystConf) (mem : Mem) (x now : Unit) : Unit :=
  let lost := x.m.leases.any fun l => l.2.st != .free && l.2.st != .evicted
  let u := { x with
    st := .faulted, wait := none, pend := [], halted := false, poll := false, preempt := false, stopMask := 0, stash := none
    restored := true, dbg := now.dbg, sess := now.sess
    ve := { x.ve with masks := now.ve.masks }
    me := { x.me with st := { x.me.st with
      tiles := if c.tiles then x.me.st.tiles.filter fun t => t.2.live else now.me.st.tiles
      latches := now.me.st.latches, gl := now.me.st.gl, asrF := now.me.st.asrF, asrC := now.me.st.asrC
      wsrF := now.me.st.wsrF, wsrC := now.me.st.wsrC } }
    m := { x.m with pub := [], remotes := [], arrivals := [], phaseArrived := [], snap := mem
                    leases := tmap (fun _ L => restoredLease L) x.m.leases } }
  if lost then setPend u 4 else u

/-- R441, steps 1 and 2, for one unit: placed again where it was, its segments read back. -/
def restoreUnit (s : State) (x : Saved) : State :=
  match (s.recOf (x.uid / 128)).keyst with
  | none => s
  | some c =>
    let vf := x.unit.id.vf
    let pos := coreOf x.unit
    let s := endLeases (abortCopies s x.uid) x.uid
    let s := freeCore { s with firm := { s.firm with frames := s.firm.frames.filter (· != x.uid) } } pos x.uid
    let segs := (List.range x.unit.id.segMap.length).zip x.unit.id.segMap
    let s := segs.foldl (fun s e => regainSeg s pos x.uid vf e.2 e.1) s
    let s := s.setCore pos { s.core pos with occupant := some x.uid }
    let base := x.slot + BitVec.ofNat 64 (x.unit.id.idx * Config.ctxBytes)
    let s := (segs.filter fun e => c.segmask.getLsbD e.1).foldl (fun (s : State) e =>
      let bs := (x.area.find? fun p => p.1 == base + BitVec.ofNat 64 (e.1 * Config.segBytes)).map (·.2)
      { s with mem := memPut s.mem (segKey pos e.2) (bs.getD []) }) s
    s.putUnit x.uid (restoredUnit c s.mem x.unit (s.unit x.uid))

/-- R441, step 3: the counters of a launch and the barriers of its VF. -/
def restoreHeader (key : Nat) (s : State) (h : KeyHeader) : State :=
  let vf := key / 65536
  let r := s.recOf h.recNo
  let was := ((h.recs.find? fun e => e.1 == h.recNo).map (·.2)).getD r
  let s := leaveReady s vf h.recNo
  let s := s.putRec h.recNo { r with st := .active, live := 0, ended := was.ended, cancelled := was.cancelled, launchCtr := h.counters.getD 0 0 }
  let gk := graphKey (key % 65536) (recGraph s h.recNo)
  let s := s.onVf vf fun v => { v with graphs := tset v.graphs gk (h.counters.getD 1 0) }
  let s := onJob s key fun j => { j with phaseCtr := h.counters.getD 2 0, jobCtr := h.counters.getD 3 0 }
  h.gens.foldl (fun s g => putBarrier s g.1 g.2.1 { barrierOf s g.1 g.2.1 with gen := g.2.2, arr := 0 }) s

/-- PHASE arrivals of a job cleared (R441). -/
def clearPhases (s : State) (key : Nat) (hs : List KeyHeader) : State :=
  let mine := fun (p : PhaseGen) => if farScope p.scope then p.recNo == key else hs.any fun h => h.recNo == p.recNo
  let s := { s with phases := s.phases.map fun p => if mine p then { p with members := [], arrived := [] } else p }
  onJob s key fun j => { j with phaseFar := [] }

/-- R441, step 4: the start times of the job's gangs. -/
def shiftStarts (s : State) (key delta : Nat) : State :=
  ((s.job key).recs.filter fun i => recCoursed s i).foldl (fun s i => s.putRec i { s.recOf i with tstart := (s.recOf i).tstart + delta }) s

/-- The restore of keystone K of a job, after a failure in period p (R441). -/
def restoreJob (s : State) (key p : Nat) : State :=
  let k := (s.job key).kComplete
  let hs := restoredRecs s key k
  let xs := savedOf s hs k
  match selectSet s key with
  | none => giveUp s key 2
  | some set =>
    if xs.any fun x => !partGood s x then giveUp s key 5
    else
      let undone := undoneRecs s key k hs
      let s := undone.foldl (undoRec hs) s
      let s := xs.foldl restoreUnit s
      let s := clearPhases (hs.foldl (restoreHeader key) s) key hs
      let s := shiftStarts s key ((p + 4 + 1 - (s.job key).kPeriod) * Config.periodNs)
      let s := onJob s key fun j =>
        { j with restored := true, lastRestored := some k, linksSeen := s.pod.failed.length
                 released := j.released.filter fun e => !(undone.contains e.2.2) }
      { s with pod := { s.pod with set := set } }

/-- ROLLBACK_RESTORE (R441): in period p + 3. -/
def execRollbackRestore (key : Nat) (s : State) : Res :=
  let j := s.job key
  match j.failedAt with
  | none => .next s
  | some p => happens (!j.restored && decide (p + 3 ≤ periodOf s.tide)) (restoreJob s key p) s

/-! ### ROLLBACK_RESUME (R401, R441) -/

/-- R401: an engine goes on from its record for K, in the selected set; one without a record idles. -/
def resumeLink (set period kPeriod : Nat) (id : BitVec 8) (l : Link) : Link :=
  let l := { l with stopped := false, atSlot := none, switch := none, tiles := [], reports := [], missed := [], passed := []
                    dones := [], releases := [], bad := [] }
  match (l.keys.reverse.find? fun k => k.id == id && decide (k.period < kPeriod)), tfind l.sets set with
  | some k, some g =>
    { l with
      set := set, running := true, period := period, uses := k.uses, lastKey := some id
      widx := if k.set = set then k.widx else afterKey g.words (some id)
      keys := l.keys.filter fun x => decide (x.period < kPeriod)
      applied := l.applied.filter fun a => decide (a.2.1 * dTiles (descIn l set a.1) + a.2.2 < tget k.uses a.1 0) }
  | _, _ => { l with running := false }

/-- ROLLBACK_RESUME (R441): at slot 0 of period p + 4 engines and units go on. -/
def execRollbackResume (key : Nat) (s : State) : Res :=
  let j := s.job key
  match j.failedAt with
  | none => .next s
  | some p =>
    let id := (keystoneId s key j.kComplete).getD 0
    let us := (savedOf s (restoredRecs s key j.kComplete) j.kComplete).map (·.uid)
    let s1 := { s with links := tmap (fun _ (l : Link) => resumeLink s.pod.set (p + 4) j.kPeriod id l) s.links }
    let s2 := us.foldl (fun s u => s.onUnit u fun u => if u.st = .faulted then { u with st := .running } else u) s1
    happens (j.restored && decide (p + 4 ≤ periodOf s.tide)) (onJob s2 key fun j => { j with failedAt := none, restored := false }) s

end Sys2Proof.Machine
end

