-- ==== Sys2Proof/Machine/MeData.lean ====
section
/-! DEFINITION. What the words of the matrix engine share: nest tables and effective operands (R229 to
R231), the checks at issue (R233, R248), and the arithmetic of a step (R86, R88, R240). -/

namespace Sys2Proof.Machine

/-! ### Tables with every place listed -/

/-- The contents of n places from place i upward of a table in rising order. -/
def denseFrom {α : Type} (d : α) : Nat → Nat → Tab α → List α
  | 0, _, _ => []
  | n + 1, i, [] => d :: denseFrom d n (i + 1) []
  | n + 1, i, (j, v) :: t => if j = i then v :: denseFrom d n (i + 1) t else d :: denseFrom d n (i + 1) ((j, v) :: t)

/-- The contents of n places from place i of a table. -/
def dense {α : Type} (d : α) (t : Tab α) (i n : Nat) : List α := denseFrom d n i (t.filter fun e => i ≤ e.1)

/-- A table with the places from i replaced by a run of contents. -/
def tabPut {α : Type} (t : Tab α) (i : Nat) (vs : List α) : Tab α :=
  t.filter (fun e => e.1 < i) ++ tableFrom i vs ++ t.filter fun e => i + vs.length ≤ e.1

/-- The list cut into rows of n. -/
def rowsOf {α : Type} (n : Nat) : Nat → List α → List (List α)
  | 0, _ => []
  | k + 1, l => l.take n :: rowsOf n k (l.drop n)

/-! ### Nest tables (R230, R231) -/

/-- A body contained in the next one. -/
def bodiesNest : List NestLevel → Bool
  | l :: m :: r =>
    decide (m.first ≤ l.first) && decide (l.first + l.len ≤ m.first + m.len) && bodiesNest (m :: r)
  | _ => true

/-- R142, R230: NEST_FORM for a block of n words. -/
def ntBad (ls : List NestLevel) (n : Nat) : Bool :=
  (ls.any fun l => l.len == 0 || decide (n < l.first + l.len)) || !bodiesNest ls ||
  (ls.getLast?.any fun l => decide (64 < l.len))

/-- The levels whose bodies contain word p. -/
def enclosing (ls : List NestLevel) (p : Nat) : List NestLevel :=
  ls.filter fun l => decide (l.first ≤ p) && decide (p < l.first + l.len)

/-- R231: the sum over the enclosing levels of counter × field. -/
def nestSum (m : MeState) (r : MeRun) (g : Nat → Int) (f : Nat) : Int :=
  (enclosing r.levels r.widx).foldl (fun x l => x + ctrAt r.ctr l.level * g (ntField m r.e.nt l.level f)) 0

def tileEff (m : MeState) (r : MeRun) (t : BitVec 2) : Nat := (((t.toNat : Int) + nestSum m r (fun v => v) 2) % 4).toNat
def latchEff (m : MeState) (r : MeRun) (x : BitVec 1) : Nat := (((x.toNat : Int) + nestSum m r (fun v => v) 3) % 2).toNat
def drowOf (m : MeState) (r : MeRun) : Nat := uint (nestSum m r (fun v => sint v 32) 4) 48
def dcolOf (m : MeState) (r : MeRun) : Nat := uint (nestSum m r (fun v => sint v 32) 5) 48

/-! ### Tiles and latches of the acting unit -/

def tileOf (u : Unit) (t : Nat) : Tile := tget u.me.st.tiles t blankTile
def setTile (u : Unit) (t : Nat) (x : Tile) : Unit :=
  { u with me := { u.me with st := { u.me.st with tiles := tset u.me.st.tiles t x } } }
def latchOf (u : Unit) (x : Nat) : Latch := tget u.me.st.latches x blankLatch
def onMeState (s : State) (f : MeState → MeState) : State :=
  s.onU fun u => { u with me := { u.me with st := f u.me.st } }

/-! ### Operand formats (R226) -/

/-- K of an operand format. -/
def mmaK (f : BitVec 3) : Nat := if f = 3 || f = 4 then 64 else if f = 5 || f = 6 then 256 else 128

/-- The element formats allowed for an operand format. -/
def mmaFmts (f : BitVec 3) : List Fmt :=
  match f.toNat with
  | 0 => [.e4m3] | 1 => [.e5m2] | 2 => [.int8, .uint8] | 3 => [.bf16] | 4 => [.fp16] | 5 => [.e2m1]
  | 6 => [.int4, .uint4] | _ => []

/-- The format under which the bits of an operand element are read, by its sign bit. -/
def mmaFmt (f : BitVec 3) (sgn : Bool) : Fmt :=
  match f.toNat with
  | 0 => .e4m3 | 1 => .e5m2 | 2 => if sgn then .int8 else .uint8 | 3 => .bf16 | 4 => .fp16 | 5 => .e2m1
  | _ => if sgn then .int4 else .uint4

/-- The streams that an ME word names (R56). -/
def meStreams (w : Code) : List Nat :=
  let x := w.toNat
  match x / 2 ^ 27 with
  | 1 => if bitAt x 24 then [] else bits x 20 4 :: (if bitAt x 10 then [bits x 11 4] else [])
  | 2 | 13 => if bitAt x 24 then [] else [bits x 20 4]
  | 4 => [bits x 20 4]
  | 7 => [bits x 17 4, bits x 21 4]
  | 6 | 8 | 9 | 10 => [bits x 21 4]
  | _ => []

/-! ### Issue and turns of the engine -/

/-- What an ME word asks of the shared checks: its source and destination streams, GEN_FORM, ME_STATE and
ME_FORMAT at issue, ME_FORMAT by the formats of its streams, the tiles it writes and uses (R246), and whether it fills the
gather latch, which is EMPTY from its issue (R237). -/
structure MePlan where
  srcs : List Nat
  dsts : List Nat
  gen : Bool
  empty : Bool
  form : Bool
  bad : Bool
  writes : List Nat
  uses : List Nat
  gathers : Bool

/-- What a turn of the ME comes to. -/
inductive MStep where
  | go (s : State) (r : MeRun)
  | fin (s : State)
  | block
  | fault (c : Cause) (addr : Word) (detail : Nat)
  deriving DecidableEq, Repr

/-- The ME may act for the acting unit. -/
def meLive (u : Unit) : Bool := issuing u && !u.stopMask.getLsbD 9

/-- R178: a stream whose oldest attached activation has a direction the word may not use. -/
def meDir (u : Unit) (p : MePlan) : Option Nat :=
  match p.srcs.find? (fun n => (oldestAct (streamOf u n)).any fun a => actDir a != 0) with
  | some n => some n
  | none => p.dsts.find? fun n => (oldestAct (streamOf u n)).any fun a => actDir a == 0

/-- Each tile of a list marked with a word's number. -/
def markTiles (t : Tab Nat) (l : List Nat) (n : Nat) : Tab Nat := l.foldl (fun t k => tset t k n) t

/-- R246: the word in issue is numbered, and the tiles it writes and uses are marked; R237: MGATH empties GL. -/
def meNumber (p : MePlan) (u : Unit) : Unit :=
  let n := u.me.seq + 1
  let m := u.me.st
  { u with me := { u.me with seq := n, wrote := markTiles u.me.wrote p.writes n
                             used := markTiles u.me.used (p.writes ++ p.uses) n
                             st := { m with gl := { m.gl with full := m.gl.full && !p.gathers } } } }

/-- R233, R248: the issue of a word: it waits for its streams, then its causes in their order. -/
def issueMe (p : MePlan) (s : State) (r : MeRun) : MStep :=
  let ns := p.srcs ++ p.dsts
  if !ns.all (fun n => (oldestAct (streamOf s.u n)).isSome) then .block
  else if p.gen then .fault .genForm 0 0
  else if p.empty then .fault .meState 0 0
  else if p.form || p.bad then .fault .meFormat 0 0
  else
    match meDir s.u p with
    | some n => .fault .streamDirection 0 n
    | none =>
      if ns.all (operandHere s.u) then
        .go (s.onU (meNumber p)) { r with first := false, ahead := 0, issued := true, ord := 0, kept := [] }
      else .block

/-- The delay of an ME word (R56). -/
def meDelay (w : Code) : Nat := bits w.toNat 5 5

/-! ### Resources and accept cycles (R234)

Clock numbers of `Me.clock`: 0 the issue point, 1 ARRAY, 2 LOADER, 3 GATHER, 4 DRAIN; not complete: 5 and 6 the latches,
7 GL, 8 ASR, 9 WSR, 10 to 13 the tiles; 14 to 17 a drain of the tile runs, 24 and 25 an MMA holds the latch. -/

/-- The effective tile and latch of a word (R231), and the other tile of MSWAP. -/
def codeTile (m : MeState) (r : MeRun) (w : Code) : Nat := tileEff m r (BitVec.ofNat 2 (bits w.toNat 25 2))
def codeTile2 (m : MeState) (r : MeRun) (w : Code) : Nat := tileEff m r (BitVec.ofNat 2 (bits w.toNat 23 2))
def codeLatch (m : MeState) (r : MeRun) (w : Code) : Nat := latchEff m r (BitVec.ofNat 1 (bits w.toNat 19 1))

/-- R234: the clocks that keep the ME from accepting a word. -/
def acceptClocks (m : MeState) (r : MeRun) (w : Code) : List Nat :=
  let x := w.toNat
  let t := codeTile m r w
  let l := codeLatch m r w
  0 :: match x / 2 ^ 27 with
    | 1 => [1, 5 + l, 14 + t] ++ (if bitAt x 24 && bitAt x 23 then [7] else []) ++ (if bitAt x 24 && bitAt x 10 then [8] else [])
    | 2 | 13 => [2, 9, 24 + l]
    | 3 => [10 + t, 14 + t, 10 + codeTile2 m r w, 14 + codeTile2 m r w]
    | 4 => [3]
    | 5 => [10 + t, 14 + t]
    | 6 | 7 | 8 | 9 => [4, 10 + t]
    | 10 => [2]
    | _ => []

/-- R234: the ME accepts a word of its run. -/
def acceptsMe (u : Unit) (r : MeRun) (w : Code) : Bool :=
  (acceptClocks u.me.st r w).all fun k => tget u.me.clock k 0 == 0

/-- R234: the cycles for which a word that issues keeps its resources busy, and its states incomplete. -/
def occupyClocks (u : Unit) (r : MeRun) (w : Code) : List (Nat × Nat) :=
  let m := u.me.st
  let x := w.toNat
  let t := codeTile m r w
  let l := codeLatch m r w
  let rows := 8 * (bits x 16 4 + 1)
  let load := fun (n : Nat) => [(2, n), (5 + l, n)]
  let drain := fun (n : Nat) => [(4, n), (14 + t, n)]
  (0, 1) :: match x / 2 ^ 27 with
    | 1 => [(1, 128), (10 + t, 136), (24 + l, 128)]
    | 2 => load 64
    | 13 => load 128
    | 3 => [(10 + t, 1), (10 + codeTile2 m r w, 1)]
    | 4 => [(3, rows), (7, rows + 24)]
    | 5 => [(10 + t, 1)]
    | 6 =>
      let b := ((fmtOf (bits x 17 4)).map fmtBits).getD 8
      drain (if b = 64 then 512 else if b = 32 then 256 else 128)
    | 7 => drain 136
    | 8 | 9 => drain 3
    | 10 =>
      let codes := (headAct (streamOf u (bits x 21 4))).any fun a => streamFmt a.f == .uint8
      let n := if codes then 4 else if bitAt x 20 then 1 else 2
      [(2, n), (if bitAt x 20 then 9 else 8, n)]
    | _ => []

/-- The clocks after a word has issued. -/
def occupyMe (u : Unit) (r : MeRun) (w : Code) : Unit :=
  { u with me := { u.me with
      clock := (occupyClocks u r w).foldl (fun t k => tset t k.1 (max (tget t k.1 0) k.2)) u.me.clock } }

/-- R144: the cycle has come at which word w of a run issues: the first word of an entry is timed from its due cycle in a
course, any other from the accept cycle. -/
def meTime (u : Unit) (r : MeRun) (w : Code) : Bool :=
  match r.first && u.course.active, r.e.due with
  | true, some d => decide (d + meDelay w ≤ u.course.cc.toNat)
  | _, _ => acceptsMe u r w && decide (meDelay w ≤ r.ahead)

/-- A word of the ME issues at its time (R144, R234), or waits. -/
def issueMeTurn (p : MePlan) (s : State) (r : MeRun) (w : Code) : MStep :=
  if !acceptsMe s.u r w || !meTime s.u r w then .block
  else
    match issueMe p s r with
    | .go s' r' => .go (s'.onU fun u => occupyMe u r w) r'
    | x => x

/-- The ME comes to word p, or to the end of the block. -/
def meAt (r : MeRun) (p : Nat) (ctr : List Nat) : MeRun :=
  let r := { r with widx := p, ctr := ctr, issued := false, ord := 0, kept := [] }
  if p < r.words.length then r else { r with atEnd := true }

/-- The ME is done with the word in work. -/
def meNext (r : MeRun) : MeRun := let q := nestNext r.levels r.widx r.ctr; meAt r q.1 q.2

/-- The run as it stands before the word that issues next. -/
def meHead (r : MeRun) : MeRun := if r.issued then meNext r else r

/-- The word at the position of a run. -/
def meCode (r : MeRun) : Code := at' r.words r.widx 0

/-- R144, R147: in a course the ME is late: its word has not ended by its figures, or the time of the word that issues next
has come. -/
def meLate (u : Unit) (r : MeRun) : Bool :=
  let h := meHead r
  u.course.active && !r.atEnd &&
  ((r.issued && (occupyClocks u r (meCode r)).all fun k => tget u.me.clock k.1 0 == 0) || (!h.atEnd && meTime u h (meCode h)))

/-- The ME cannot go on. In a course that is late, the cycle is a hold cycle (R147, R148). -/
def meWaits (s : State) (r : MeRun) : State := if meLate s.u r then holdCycle s s.cur .me else s

def putMeRun (s : State) (r : Option MeRun) : State := s.onU fun u => { u with me := { u.me with run := r } }

/-- A turn of the ME: its word issues, or takes its next step (R233, R249). -/
def meTurn (plan : Unit → MeRun → MePlan) (step : MePlan → State → MeRun → MStep) (s : State) : State :=
  match s.u.me.run with
  | none => s
  | some r =>
    if !meLive s.u || r.atEnd then s
    else
      let p := plan s.u r
      match if r.issued then step p s r else issueMeTurn p s r (meCode r) with
      | .go s' r' => putMeRun s' (some r')
      | .fin s' => putMeRun s' (some (meNext { r with wrote := (r.wrote ++ p.dsts).eraseDups }))
      | .block => meWaits s r
      | .fault c a d => agentFault s s.cur .me c a d

/-- R178: the cause at an element whose activation is a later one of its stream. -/
def meLater (p : MePlan) : Option (Cause × Nat) := if p.bad then some (.meFormat, 0) else none

/-- A word without streams, all of whose effect happens at one turn. -/
def meOnce (plan : Unit → MeRun → MePlan) (f : State → MeRun → Option State) (s : State) : State :=
  meTurn plan (fun _ s r => match f s r with
    | some s' => .fin s'
    | none => .block) s

/-- A plan with no streams and no checks. -/
def bareMe : MePlan :=
  { srcs := [], dsts := [], gen := false, empty := false, form := false, bad := false, writes := [], uses := [], gathers := false }

/-- The next outputs of a word that gives `total` elements to stream d, one a turn. -/
def giveMe (d total : Nat) (p : MePlan) (x : State → MeRun → Elem) (after : State → MeRun → State) (s : State) (r : MeRun) : MStep :=
  if (headAct (streamOf s.u d)).isNone then .block
  else
    match meLater p with
    | some (c, n) => .fault c 0 n
    | none =>
      match giveOne s d (x s r) with
      | none => .block
      | some s' =>
        let s' := after s' r
        if total ≤ r.ord + 1 then .fin s' else .go s' { r with ord := r.ord + 1 }

/-! ### The arithmetic of a step (R86, R88) -/

/-- R86: an input whose scaled value is below 2^−126 enters as a zero of its sign. -/
def flushScaled (ftz : Bool) (sc x : Val) : Val :=
  match x, mulV x sc with
  | .fin neg m _, .fin _ n k => if ftz && m != 0 && n != 0 && !magLe 1 (-126) n k then zeroV neg else x
  | _, _ => x

/-- The products of a row of A with K rows of B, added column by column, exactly. -/
def dotCols (a : List Val) (b : List (List Val)) : List Val :=
  (a.zip b).foldl (fun acc p => acc.zipWith (fun x y => addV x (mulV p.1 y)) p.2) (List.replicate 128 (zeroV false))

/-- The same on integers. -/
def dotInts (a : List Int) (b : List (List Int)) : List Int :=
  (a.zip b).foldl (fun acc p => acc.zipWith (fun x y => x + p.1 * y) p.2) (List.replicate 128 0)

/-- RNE32(acc + p) under FTZ. -/
def accAdd (ftz : Bool) (acc : BitVec 32) (p : Val) : BitVec 32 :=
  BitVec.ofNat 32 (flushBits .fp32 ftz (rne32b (addV (flushV ftz (toVal .fp32 acc.toNat)) p)))

/-- R88: a row of the step with FP8 scales: p × s. -/
def rowScaled (a : List Val) (b : List (List Val)) (sa sw : Val) : List Val :=
  let s := rne32 (mulV sa sw)
  (dotCols a b).map fun d => rne32 (mulV (rne32 d) s)

/-- R88: a row of the step without scales. -/
def rowPlain (a : List Val) (b : List (List Val)) : List Val := (dotCols a b).map rne32

/-- R88: a row of the step with E8M0 scales: for each block of 32, the dot times both scales; eb holds the
eight scales of each column. -/
def rowBlocks (a : List Val) (b : List (List Val)) (ea : List Val) (eb : List (List Val)) : List Val :=
  let parts := (List.range 8).map fun q =>
    let ds := dotCols (slice a (32 * q) 32) (slice b (32 * q) 32)
    (ds.zip eb).map fun x => mulV x.1 (mulV (at' ea q .nan) (at' x.2 q .nan))
  (parts.foldl (fun acc p => acc.zipWith addV p) (List.replicate 128 (zeroV false))).map rne32

end Sys2Proof.Machine
end

