-- ==== Sys2Proof/Machine/MeWords.lean ====
section
/-! DEFINITION. The step words of the matrix engine (R234 to R245). -/

namespace Sys2Proof.Machine

/-! ### MNOP, MZERO, MSWAP, tokens -/

/-- MNOP (R234). -/
def execMnop (_dly : BitVec 5) (s : State) : Res := .next (meOnce (fun _ _ => bareMe) (fun s _ => some s) s)

/-- R241: a tile cleared; TY stays. -/
def zeroTile (x : Tile) : Tile := { x with w := [], live := false, rs := [], cs := [], satf := false, sumwrap := false }

/-- MZERO (R241). -/
def execMzero (t : BitVec 2) (_dly : BitVec 5) (s : State) : Res :=
  .next (meOnce (fun u r => { bareMe with writes := [tileEff u.me.st r t] })
    (fun s r => let e := tileEff s.u.me.st r t; some (s.onU fun u => setTile u e (zeroTile (tileOf u e)))) s)

/-- MSWAP (R241). -/
def execMswap (t t2 : BitVec 2) (_dly : BitVec 5) (s : State) : Res :=
  .next (meOnce (fun u r => { bareMe with writes := [tileEff u.me.st r t, tileEff u.me.st r t2] })
    (fun s r =>
      let x := tileEff s.u.me.st r t
      let y := tileEff s.u.me.st r t2
      some (s.onU fun u => setTile (setTile u x (tileOf u y)) y (tileOf u x))) s)

/-- MTOK (R245): the add waits for the elements given by the words before it; the ME goes on. -/
def execMtok (t : BitVec 8) (_dly : BitVec 5) (s : State) : Res :=
  .next (meOnce (fun _ _ => bareMe)
    (fun s r =>
      let g := givenOf s.u r.wrote
      let a : TokAdd := { tok := t.toNat, seq := s.u.me.seq, streams := r.wrote, given := some g }
      some (s.onU fun u => let u := flushTo u g; { u with me := { u.me with adds := u.me.adds ++ [a] } })) s)

/-- R245: the ME takes the token when it is at least 1. -/
def takeAtMe (t : Nat) (s : State) : Option State :=
  if tokOf s.u t = 0 then none else some (s.onU fun u => takeTok u t)

/-- MWTOK (R245). -/
def execMwtok (t : BitVec 8) (_dly : BitVec 5) (s : State) : Res :=
  .next (meOnce (fun _ _ => bareMe) (fun s _ => takeAtMe t.toNat s) s)

/-- MWTOK_COMPLETE (R245): the wait of the MWTOK at the ME ends. -/
def execMwtokComplete (s : State) : Res :=
  match s.u.me.run.bind fun r => r.words[r.widx]? with
  | some w =>
    if w.toNat / 2 ^ 27 = 0x0C then .next (meOnce (fun _ _ => bareMe) (fun s _ => takeAtMe (bits w.toNat 17 8) s) s)
    else .next s
  | none => .next s

/-- MTOK_ADD (R245): the oldest add is made once the elements before it are performed. -/
def execMtokAdd (s : State) : Res :=
  match s.u.me.adds with
  | [] => .next s
  | a :: rest =>
    happens (live s.u && (a.given.getD []).all (performedTo s.u))
      (addTok s .me a.tok fun s => s.onU fun u =>
        { u with me := { u.me with adds := rest, live := u.me.live ++ [(a.tok, a.seq)] } }) s

/-- MTOKW (R245). -/
def execMtokw (t : BitVec 8) (s : State) : Res := sqWord [] (tryTok .mtok t.toNat) s

/-- MTOKW_COMPLETE (R245). -/
def execMtokwComplete (s : State) : Res :=
  completes s (fun w => match w with | .mtok _ => true | _ => false)
    (fun w s => match w with
      | .mtok t => tryTok .mtok t s
      | _ => .stop s)

/-! ### Latches (R236) -/

/-- The generator that an operand field names, as the running entry captured it. -/
def meGen (r : MeRun) (n : BitVec 4) : GenReg := tget r.e.gns (n.toNat % 8) blankGen

/-- The format of the head activation of a stream is not one of a list. -/
def fmtNot (u : Unit) (n : Nat) (l : List Fmt) : Bool := (headAct (streamOf u n)).any fun a => !l.contains (streamFmt a.f)

/-- The plan of a latch word. -/
def latchPlan (w : LatchOps) (_u : Unit) (r : MeRun) : MePlan :=
  let g := meGen r w.b
  if w.bG then { bareMe with gen := genBad g, form := !(mmaFmts w.fmt).contains (genFmt g) }
  else { bareMe with srcs := [w.b.toNat], bad := fmtNot _u w.b.toNat (mmaFmts w.fmt) }

/-- Element e of the load enters the latch at row k, column j; the last one makes it FULL. -/
def latchPut (w : LatchOps) (x k j : Nat) (v : Nat) (last : Bool) (m : MeState) : MeState :=
  let l := tget m.latches x blankLatch
  let l := { l with b := tset l.b (128 * k + j) (BitVec.ofNat 16 v) }
  let l := if last then { l with fmt := w.fmt, wscale := m.wsrF, wcodes := m.wsrC, full := true } else l
  { m with latches := tset m.latches x l }

/-- The step of one element of a latch load (R236): MLATCH has rows of 128 elements k, MXLATCH rows of K
elements j; a generator is read at (k, j), by MXLATCH at (j, k). -/
def latchStep (w : LatchOps) (cross : Bool) (p : MePlan) (s : State) (r : MeRun) : MStep :=
  let x := latchEff s.u.me.st r w.latch
  let e := r.ord
  let kk := mmaK w.fmt
  let k := if cross then e % kk else e / 128
  let j := if cross then e / kk else e % 128
  let last := decide (128 * kk ≤ e + 1)
  let next := fun (s : State) (v : Nat) =>
    let s := onMeState s (latchPut w x k j v last)
    if last then MStep.fin s else .go s { r with ord := e + 1 }
  if w.bG then
    let g := meGen r w.b
    let drow := drowOf s.u.me.st r
    let dcol := dcolOf s.u.me.st r
    next s (genElem (genKey s.u g) g r.e.ftz drow dcol (if cross then j else k) (if cross then k else j))
  else
    match readySrcs s.u [(w.b.toNat, 1)] with
    | some [y :: _] =>
      match meLater p with
      | some (c, d) => .fault c 0 d
      | none => next (takeOne s w.b.toNat) y.1.bits.toNat
    | _ => .block

/-- MLATCH (R236). -/
def execMlatch (w : LatchOps) (s : State) : Res := .next (meTurn (latchPlan w) (latchStep w false) s)

/-- MXLATCH (R236). -/
def execMxlatch (w : LatchOps) (s : State) : Res := .next (meTurn (latchPlan w) (latchStep w true) s)

/-! ### MGATH, MWSCL (R237, R238) -/

/-- The rows of MGATH. -/
def gathRows (rows : BitVec 4) : Nat := 8 * (rows.toNat + 1)

/-- The gather latch with row r replaced, in work or done. -/
def gathRow (r : Nat) (bs : List Byte) (m : MeState) : MeState :=
  { m with gl := { m.gl with b := tabPut m.gl.b (128 * r) bs, full := false } }

/-- The gather latch complete: the rows not gathered are zero. -/
def gathDone (n : Nat) (fmt : BitVec 3) (m : MeState) : MeState :=
  { m with gl := { b := m.gl.b.filter fun e => e.1 < 128 * n, fmt := fmt, full := true } }

/-- The step of one row of MGATH (R237). -/
def gathStep (idx rows : BitVec 4) (fmt : BitVec 3) (p : MePlan) (s : State) (r : MeRun) : MStep :=
  match readySrcs s.u [(idx.toNat, 1)] with
  | some [y :: _] =>
    match meLater p with
    | some (c, d) => .fault c 0 d
    | none =>
      let v := elemInt y
      let la := 128 * v.toNat
      if v < 0 || decide (usable s.u < la + 128) then .fault .meIndex 0 0
      else if scrSpoiled s s.u la 128 then .fault .uncorrectable (BitVec.ofNat 64 (Config.win + la)) 0
      else
        let s' := onMeState (takeOne s idx.toNat) (gathRow r.ord (scrRead s.mem s.u la 128))
        if gathRows rows ≤ r.ord + 1 then .fin (onMeState s' (gathDone (gathRows rows) fmt))
        else .go s' { r with ord := r.ord + 1 }
  | _ => .block

/-- MGATH (R237). -/
def execMgath (idx rows : BitVec 4) (fmt : BitVec 3) (_dly : BitVec 5) (s : State) : Res :=
  .next (meTurn (fun u _ => { bareMe with srcs := [idx.toNat], bad := headFloat u idx.toNat, gathers := true })
    (gathStep idx rows fmt) s)

/-- The element ord of the scales that MWSCL reads (R238). -/
def wsclPut (act fp : Bool) (e : Nat) (v : Word) (m : MeState) : MeState :=
  if fp then (if act then { m with asrF := tset m.asrF e (v.setWidth 32) } else { m with wsrF := v.setWidth 32 })
  else if act then { m with asrC := tset m.asrC e (v.setWidth 8) } else { m with wsrC := tset m.wsrC e (v.setWidth 8) }

/-- The step of one element of MWSCL: the first one fixes which part is loaded (R238). -/
def wsclStep (n : BitVec 4) (act : Bool) (p : MePlan) (s : State) (r : MeRun) : MStep :=
  match readySrcs s.u [(n.toNat, 1)] with
  | some [y :: _] =>
    let fp := streamFmt y.2 == .fp32
    let kind := rawElem fp.toNat
    match meLater p with
    | some (c, d) => .fault c 0 d
    | none =>
      if r.ord != 0 && r.kept != [kind] then .fault .meFormat 0 0
      else
        let s' := onMeState (takeOne s n.toNat) (wsclPut act fp r.ord y.1.bits)
        let total := if fp then (if act then 128 else 1) else 1024
        if total ≤ r.ord + 1 then .fin s' else .go s' { r with ord := r.ord + 1, kept := [kind] }
  | _ => .block

/-- MWSCL (R238). -/
def execMwscl (n : BitVec 4) (w : BitVec 1) (_dly : BitVec 5) (s : State) : Res :=
  .next (meTurn (fun u _ => { bareMe with srcs := [n.toNat], bad := fmtNot u n.toNat [.fp32, .uint8] })
    (wsclStep n (w == 0)) s)

/-! ### MMA (R239, R240) -/

/-- The A operand is the gather latch, or a generator. -/
def mmaGl (w : MmaOps) : Bool := w.aG && w.a.toNat ≥ 8
def mmaGen (w : MmaOps) : Bool := w.aG && w.a.toNat < 8

/-- The integer accumulating forms. -/
def mmaIntForm (w : MmaOps) : Bool := w.fmt == 2 || (w.fmt == 6 && !w.scaled)

/-- The scales are E8M0 codes. -/
def mmaCodes (w : MmaOps) : Bool := w.fmt == 5 || w.fmt == 6

/-- The elements of A and the scales that a row takes from streams. -/
def rowElems (w : MmaOps) : Nat := if w.aG then 0 else mmaK w.fmt
def rowScales (w : MmaOps) : Nat := if w.scaled && !w.aG then (if mmaCodes w then 8 else 1) else 0

/-- The formats allowed for the scale stream (R240). -/
def sclFmts (w : MmaOps) : List Fmt := [if mmaCodes w then .uint8 else .fp32]

/-- R233, R240: the plan of MMA. -/
def mmaPlan (w : MmaOps) (u : Unit) (r : MeRun) : MePlan :=
  let t := tileEff u.me.st r w.tile
  let l := latchOf u (latchEff u.me.st r w.latch)
  let g := meGen r w.a
  let scl := w.scaled && !w.aG
  { srcs := if w.aG then [] else if scl then [w.a.toNat, w.scl.toNat] else [w.a.toNat]
    dsts := []
    gen := mmaGen w && genBad g
    empty := !l.full || (mmaGl w && !u.me.st.gl.full)
    form := l.fmt != w.fmt || (mmaGl w && u.me.st.gl.fmt != w.fmt) || (mmaGen w && !(mmaFmts w.fmt).contains (genFmt g)) ||
      (scl && w.a == w.scl)
    bad := (!w.aG && fmtNot u w.a.toNat (mmaFmts w.fmt)) ||
      (scl && fmtNot u w.scl.toNat (sclFmts w))
    writes := [t], uses := [], gathers := false }

/-- The elements of a row of the gather latch (R75, R226). -/
def glRow (m : MeState) (f : BitVec 3) (i : Nat) : List Nat :=
  let bs := dense 0 m.gl.b (128 * i) 128
  if mmaK f = 64 then (List.range 64).map fun k => fieldAt bs (2 * k) 2
  else if mmaK f = 256 then bs.flatMap fun b => [b.toNat % 16, b.toNat / 16]
  else bs.map (·.toNat)

/-- The elements kept for the row in work are brought up to k from stream n, as far as the activation at its head has
them; an element of a later activation is checked as it is taken (R178, R248). -/
def fillRow (n k : Nat) (fms : List Fmt) (s : State) (r : MeRun) : MStep :=
  if k ≤ r.kept.length then .go s r
  else
    match ((headAct (streamOf s.u n)).map (·.queue)).getD [] |>.take (k - r.kept.length) with
    | [] => .block
    | xs =>
      if fmtNot s.u n fms then .fault .meFormat 0 0
      else .go (takeMany n xs.length s) { r with kept := r.kept ++ xs }

/-- The A row in work as raw element bits: from the latch, a generator, or the elements kept. -/
def mmaRow (w : MmaOps) (s : State) (r : MeRun) : List Nat :=
  let k := mmaK w.fmt
  if mmaGl w then glRow s.u.me.st w.fmt r.ord
  else if w.aG then
    let g := meGen r w.a
    let key := genKey s.u g
    let drow := drowOf s.u.me.st r
    let dcol := dcolOf s.u.me.st r
    (List.range k).map fun c => genElem key g r.e.ftz drow dcol r.ord c
  else (r.kept.take k).map fun x => x.bits.toNat

/-- The scales of the A row in work as raw bits: those kept, or ASR's (R239, R240). -/
def mmaScales (w : MmaOps) (s : State) (r : MeRun) : List Nat :=
  if !w.scaled then []
  else if w.aG then
    if mmaCodes w then (dense 127 s.u.me.st.asrC (8 * r.ord) 8).map (·.toNat) else [(tget s.u.me.st.asrF r.ord 0x3F800000).toNat]
  else (r.kept.drop (mmaK w.fmt)).map fun x => x.bits.toNat

/-- The scale formats of R87 as values, flushed under FTZ. -/
def scaleOf (ftz codes : Bool) (b : Nat) : Val := flushV ftz (toVal (if codes then .e8m0 else .fp32) b)

/-- R88: the addends p of a row in the floating forms. -/
def mmaAddends (w : MmaOps) (ftz : Bool) (l : Latch) (row scales : List Nat) : List Val :=
  let k := mmaK w.fmt
  let codes := mmaCodes w
  let raw := fun (b : Nat) => toVal (mmaFmt w.fmt w.sgnA) b
  let rawB := fun (b : BitVec 16) => toVal (mmaFmt w.fmt w.sgnB) b.toNat
  let bs := rowsOf 128 k (dense 0 l.b 0 (128 * k))
  if !w.scaled then
    rowPlain (row.map fun x => flushScaled ftz (powV 0) (raw x)) (bs.map fun r => r.map fun x => flushScaled ftz (powV 0) (rawB x))
  else if codes then
    let ea := scales.map (scaleOf ftz true)
    let eb := rowsOf 8 128 ((dense 127 l.wcodes 0 1024).map fun c => scaleOf ftz true c.toNat)
    let a := ((List.range k).zip row).map fun p => flushScaled ftz (at' ea (p.1 / 32) (powV 0)) (raw p.2)
    let b := ((List.range k).zip bs).map fun p =>
      (p.2.zip eb).map fun x => flushScaled ftz (at' x.2 (p.1 / 32) (powV 0)) (rawB x.1)
    rowBlocks a b ea eb
  else
    let sa := scaleOf ftz false (scales.headD 0)
    let sw := scaleOf ftz false l.wscale.toNat
    rowScaled (row.map fun x => flushScaled ftz sa (raw x)) (bs.map fun r => r.map fun x => flushScaled ftz sw (rawB x)) sa sw

/-- A 32-bit sum as INT32 with its wrap (R240). -/
def wrapSum (a : BitVec 32) (d : Int) : BitVec 32 × Bool :=
  let s := a.toInt + d
  (BitVec.ofInt 32 s, decide (s < -2147483648) || decide (2147483647 < s))

/-- R240: accumulator words of a row of the floating forms. -/
def accFloat (ftz : Bool) (x : Tile) (i : Nat) (ps : List Val) : Tile :=
  let row := dense 0 x.w (128 * i) 128
  { x with w := tabPut x.w (128 * i) (row.zipWith (accAdd ftz) ps), live := true }

/-- R240: one accumulator word of the integer forms: the word, and whether it was clamped. -/
def accInt1 (sat : Bool) (a : BitVec 32) (d : Int) : BitVec 32 × Bool :=
  let s := wrapSum a d
  if sat && s.2 then (BitVec.ofInt 32 (clampI (-2147483648) 2147483647 (a.toInt + d)), true) else (s.1, false)

/-- R240: accumulator words and row sum of a row of the integer forms, and the number clamped. -/
def accInts (sat : Bool) (x : Tile) (i : Nat) (ds : List Int) (rowSum : Int) : Tile × Nat :=
  let ws := (dense 0 x.w (128 * i) 128).zipWith (accInt1 sat) ds
  let n := (ws.filter (·.2)).length
  let rs := wrapSum (tget x.rs i 0) rowSum
  ({ x with w := tabPut x.w (128 * i) (ws.map (·.1)), live := true, satf := x.satf || decide (0 < n)
            rs := tset x.rs i rs.1, sumwrap := x.sumwrap || rs.2 }, n)

/-- R240: the column sums after the last row of the integer forms. -/
def colSums (x : Tile) (b : List (List Int)) : Tile :=
  let sums := b.foldl (fun acc r => acc.zipWith (· + ·) r) (List.replicate 128 0)
  let cs := (dense 0 x.cs 0 128).zipWith wrapSum sums
  { x with cs := tabPut x.cs 0 (cs.map (·.1)), sumwrap := x.sumwrap || cs.any (·.2) }

/-- The tile after row i of a step, and the number of clamped adds. -/
def mmaTile (w : MmaOps) (ftz : Bool) (l : Latch) (x : Tile) (i : Nat) (row scales : List Nat) : Tile × Nat :=
  if mmaIntForm w then
    let k := mmaK w.fmt
    let a := row.map (fmtInt (mmaFmt w.fmt w.sgnA))
    let b := rowsOf 128 k ((dense 0 l.b 0 (128 * k)).map fun x => fmtInt (mmaFmt w.fmt w.sgnB) x.toNat)
    let r := accInts (w.acc == 2) x i (dotInts a b) (a.foldl (· + ·) 0)
    if i = 127 then ({ colSums r.1 b with int := true }, r.2) else r
  else
    let r := accFloat ftz x i (mmaAddends w ftz l row scales)
    (if i = 127 then { r with int := false } else r, 0)

/-- The row in work, whose elements are all there, enters the tile (R240). -/
def mmaUpdate (w : MmaOps) (s : State) (r : MeRun) : MStep :=
  let t := tileEff s.u.me.st r w.tile
  let y := mmaTile w r.e.ftz (latchOf s.u (latchEff s.u.me.st r w.latch)) (tileOf s.u t) r.ord (mmaRow w s r) (mmaScales w s r)
  let s := count (s.onU fun u => setTile u t y.1) s.cur 0x0402 y.2
  if 127 ≤ r.ord then .fin (count s s.cur 0x0401 1) else .go s { r with ord := r.ord + 1, kept := [] }

/-- The step of MMA (R240, R249): the elements and scales of the row are taken, as far as they have come, and the row is
done once it has them all. -/
def mmaStep (w : MmaOps) (_p : MePlan) (s : State) (r : MeRun) : MStep :=
  match fillRow w.a.toNat (rowElems w) (mmaFmts w.fmt) s r with
  | .go s' r' =>
    if r'.kept.length < rowElems w then .go s' r'
    else
      match fillRow w.scl.toNat (rowElems w + rowScales w) (sclFmts w) s' r' with
      | .go s'' r'' => if r''.kept.length < rowElems w + rowScales w then .go s'' r'' else mmaUpdate w s'' r''
      | .block => if r'.kept.length = r.kept.length then .block else .go s' r'
      | x => x
  | x => x

/-- MMA (R240). -/
def execMma (w : MmaOps) (s : State) : Res := .next (meTurn (mmaPlan w) (mmaStep w) s)

/-! ### Drains (R242 to R244) -/

/-- R242: element e of a drain. -/
def drainElem (f : Fmt) (mode : RMode) (sat ftz : Bool) (x : Tile) (e : Nat) : Nat :=
  let v := tget x.w e 0
  if x.int then
    if isFloat f then flushBits f ftz (roundTo f (ofInt v.toInt) mode sat) else narrowInt f v.toInt sat
  else flushBits f ftz (roundTo f (toVal .fp32 v.toNat) mode sat)

/-- R95: the drain generator steps after each 64 elements of a row. -/
def drainStep (on : Bool) (s : State) (r : MeRun) : State :=
  if on && r.ord % 64 = 63 then onMeState s fun m => { m with drain := srStep m.drain } else s

/-- MDRAIN (R242). -/
def execMdrain (t : BitVec 2) (d dfmt : BitVec 4) (rnd : BitVec 2) (sat : Bool) (_dly : BitVec 5) (s : State) : Res :=
  let f := (fmtOf dfmt.toNat).getD .fp32
  .next (meTurn
    (fun u r =>
      { bareMe with
        dsts := [d.toNat], uses := [tileEff u.me.st r t]
        bad := fmtNot u d.toNat [f] || (headAct (streamOf u d.toNat)).any fun a => actDir a == 2 })
    (giveMe d.toNat 16384
      (x := fun s r =>
        rawElem (drainElem f (cvtMode rnd.toNat s.u.me.st.drain r.ord) sat r.e.ftz (tileOf s.u (tileEff s.u.me.st r t)) r.ord))
      (after := drainStep (rnd == 2))) s)

/-- R243: the elements of a sum drain: the 128 sums, then the status. -/
def sumElem (sums : Tab (BitVec 32)) (x : Tile) (e : Nat) : Nat :=
  if e < 128 then (tget sums e 0).toNat else x.satf.toNat + 2 * x.sumwrap.toNat + 4 * x.int.toNat

/-- A turn of the ME at MRSUM or MCSUM. -/
def sumTurn (t : BitVec 2) (n : BitVec 4) (sums : Tile → Tab (BitVec 32)) (s : State) : State :=
  meTurn (fun u r => { bareMe with dsts := [n.toNat], uses := [tileEff u.me.st r t], bad := fmtNot u n.toNat [.int32] })
    (giveMe n.toNat 129
      (x := fun s r => let x := tileOf s.u (tileEff s.u.me.st r t); rawElem (sumElem (sums x) x r.ord))
      (after := fun s _ => s)) s

/-- MRSUM (R243). -/
def execMrsum (t : BitVec 2) (n : BitVec 4) (_dly : BitVec 5) (s : State) : Res := .next (sumTurn t n (·.rs) s)
/-- MCSUM (R243). -/
def execMcsum (t : BitVec 2) (n : BitVec 4) (_dly : BitVec 5) (s : State) : Res := .next (sumTurn t n (·.cs) s)

/-- Division by a power of two, rounded half to even. -/
def halfEven (x : Int) (sh : Nat) : Int :=
  let q := x / 2 ^ sh
  let r := x % 2 ^ sh
  if 2 ^ sh < 2 * r || (2 * r = 2 ^ sh && q % 2 = 1) then q + 1 else q

/-- R244: an output of MDRAINRQ from its accumulator word and its column's corr, mult, shift and zo. -/
def requant (sgn : Bool) (acc : BitVec 32) (q : List Nat) : Nat :=
  let c := fun k => sint (q.getD k 0) 32
  let y := halfEven ((acc.toInt + c 0) * c 1) (31 + q.getD 2 0 % 64)
  let z := y + c 3
  if sgn then packInt .int8 (clampI (-128) 127 z) else packInt .uint8 (clampI 0 255 z)

/-- The step of MDRAINRQ (R244): 512 parameters are read and kept, then the outputs given. -/
def drainrqStep (t : BitVec 2) (d q : BitVec 4) (sgn : Bool) (p : MePlan) (s : State) (r : MeRun) : MStep :=
  if r.kept.length < 512 then
    match readySrcs s.u [(q.toNat, 1)] with
    | some [y :: _] =>
      match meLater p with
      | some (c, n) => .fault c 0 n
      | none => .go (takeOne s q.toNat) { r with kept := r.kept ++ [y.1] }
    | _ => .block
  else
    giveMe d.toNat 16384 { p with srcs := [], bad := fmtNot s.u d.toNat [if sgn then .int8 else .uint8] }
      (x := fun s r =>
        let acc := tget (tileOf s.u (tileEff s.u.me.st r t)).w r.ord 0
        rawElem (requant sgn acc ((slice r.kept (4 * (r.ord % 128)) 4).map fun x => x.bits.toNat)))
      (after := fun s _ => s) s r

/-- MDRAINRQ (R244). -/
def execMdrainrq (t : BitVec 2) (d q : BitVec 4) (sgnO : Bool) (_dly : BitVec 5) (s : State) : Res :=
  .next (meTurn
    (fun u r =>
      { bareMe with
        srcs := [q.toNat], dsts := [d.toNat], uses := [tileEff u.me.st r t]
        form := !(tileOf u (tileEff u.me.st r t)).int || d == q
        bad := fmtNot u q.toNat [.int32] || fmtNot u d.toNat [if sgnO then .int8 else .uint8] })
    (drainrqStep t d q sgnO) s)

end Sys2Proof.Machine
end

