-- ==== Sys2Proof/Machine/MeEntry.lean ====
section
/-! DEFINITION. Entries of the matrix engine: MRUN, NTSET and their events (R228 to R232), the places of the
dispatch queues (R134), and loop-buffer exits (R472). -/

namespace Sys2Proof.Machine

/-- R228: the ME entry goes into the command queue, or waits for a place. -/
def tryMe (e : MeEntry) (s : State) : SqRes :=
  dispatch s 2 (decide (Config.queueCap ≤ s.u.me.queue.length)) (.meSpace e) fun due s =>
    s.onU fun u => { u with me := { u.me with queue := u.me.queue ++ [{ e with due := due }], ord := u.me.ord + 1 } }

/-- R228, R258: what an ME entry captures. -/
def meEntry (s : State) (off n nt : Nat) : MeEntry :=
  { off := off, n := n, nt := nt, ftz := s.u.c.ftz, det := s.u.c.det, gns := s.u.gns, due := none, ord := s.u.me.ord }

/-- MRUN (R228). -/
def execMrun (a : BitVec 6) (nt : BitVec 1) (n1 : BitVec 8) (s : State) : Res :=
  sqWord [a] (fun s =>
    match blockCause s 32 (gOf s a) (n1.toNat + 1) with
    | some (c, va) => .trap c va 0
    | none => tryMe (meEntry s (gOf s a).toNat (n1.toNat + 1) nt.toNat) s) s

/-- DISPATCH_QUEUE_SPACE (R134, R291): the dispatch word or starting store that waits for a place. -/
def execDispatchQueueSpace (s : State) : Res :=
  completes s (fun w => match w with
      | .aeSpace _ | .veSpace _ | .meSpace _ | .copySpace .. => true
      | _ => false)
    (fun w s => match w with
      | .meSpace e => tryMe e s
      | w => veSpaceTry w s)

/-! ### NTSET (R232) -/

/-- R232: no entry naming the nest table is queued or running. -/
def ntFree (u : Unit) (nt : Nat) : Bool :=
  (u.me.queue.all fun e => e.nt != nt) && !(u.me.run.any fun r => r.e.nt == nt)

/-- R232: the field is written once the table is free. -/
def tryNtset (nt level f : Nat) (v : Word) (s : State) : SqRes :=
  if ntFree s.u nt then .done (onMeState s fun m => setNt m nt level f v) else .hold (.ntset nt level f v) s

/-- NTSET (R232). -/
def execNtset (nt : BitVec 1) (level : BitVec 3) (f : BitVec 5) (g : BitVec 6) (s : State) : Res :=
  sqWord [g] (fun s => tryNtset nt.toNat level.toNat f.toNat (gOf s g) s) s

/-- NTSET_COMPLETE (R232). -/
def execNtsetComplete (s : State) : Res :=
  completes s (fun w => match w with | .ntset .. => true | _ => false)
    (fun w s => match w with
      | .ntset nt l f v => tryNtset nt l f v s
      | _ => .stop s)

/-! ### Start and finish -/

/-- A running entry as it starts. -/
def meRunOf (e : MeEntry) (ls : List NestLevel) (ws : List Code) : MeRun :=
  meAt
    { e := e, words := ws, levels := ls, widx := 0, ctr := [0, 0, 0, 0, 0, 0], first := true, ahead := 0, issued := false
      atEnd := false, exited := false, ord := 0, kept := [], wrote := [] } 0 [0, 0, 0, 0, 0, 0]

/-- ME_ENTRY_START (R228, R230). -/
def execMeEntryStart (s : State) : Res :=
  match s.u.me.queue with
  | [] => .next s
  | e :: q =>
    happens (meLive s.u && s.u.me.run.isNone && dueHere s.u e.due)
      (match blockWords s 32 e.off e.n with
       | .error (c, a) => agentFault s s.cur .me c a 0
       | .ok cs =>
         let (ws, s) := drawWords s cs
         let ls := ntLevels s.u.me.st e.nt
         if ntBad ls ws.length then agentFault s s.cur .me .nestForm 0 0
         else
           let s' := s.onU fun u => { dropFar .me u with me := { u.me with queue := q, run := some (meRunOf e ls ws) } }
           traceEntry s' s.cur 2 false e.ord e.off) s

/-- ME_ENTRY_FINISH (R228). -/
def execMeEntryFinish (s : State) : Res :=
  match s.u.me.run with
  | none => .next s
  | some r => happens (meLive s.u && r.atEnd) (traceEntry (unitCounts (putMeRun s none)) s.cur 2 true r.e.ord r.e.off) s

/-! ### Loop-buffer exits (R472) -/

/-- An activation whose last access has been issued and whose exit has not been taken. -/
def actExits (a : Act) : Bool := a.started && actIssued a && !a.exited

/-- The AE, the VE and the ME have an exit to take. -/
def aeExits (u : Unit) : Bool := u.ae.s.any fun e => e.2.acts.any actExits
def veExits (u : Unit) : Bool :=
  u.ve.run.any fun r => match nestEnd r.levels with
    | some n => !r.exited && (r.atEnd || decide (n ≤ r.widx)) && (colWords u).all fun v => v.issued || decide (n ≤ v.widx)
    | none => false
def meExits (u : Unit) : Bool :=
  u.me.run.any fun r => match nestEnd r.levels with
    | some n => !r.exited && (r.atEnd || decide (n ≤ r.widx))
    | none => false

/-- The exits of the engines named are taken. -/
def takeExits (ae ve me : Bool) (u : Unit) : Unit :=
  let u := if ae then { u with ae := { u.ae with s := tmap (fun _ st =>
      { st with acts := st.acts.map fun a => if actExits a then { a with exited := true } else a }) u.ae.s } } else u
  let u := if ve then { u with ve := { u.ve with run := u.ve.run.map fun r => { r with exited := true } } } else u
  if me then { u with me := { u.me with run := u.me.run.map fun r => { r with exited := true } } } else u

/-- LOOP_BUFFER_EXIT (R472): one snapshot for the engines that exit in a cycle. -/
def execLoopBufferExit (ae ve me : Bool) (s : State) : Res :=
  happens (live s.u && (ae || ve || me) && (!ae || aeExits s.u) && (!ve || veExits s.u) && (!me || meExits s.u))
    (bankSnap (s.onU (takeExits ae ve me)) s.cur (ae.toNat + 2 * ve.toNat + 4 * me.toNat)) s

end Sys2Proof.Machine
end

