-- ==== Sys2Proof/Machine/Holds.lean ====
section
/-! DEFINITION. Hold cycles of a course (R147 to R150): what is late, what cannot go on, and the events of holds. -/

namespace Sys2Proof.Machine

/-! ### The wait of the sequencer -/

/-- What the waiting word of the acting unit comes to now. A reply and a held atomic end their word themselves. -/
def waitTry (w : Wait) (s : State) : SqRes :=
  match w with
  | .handle h x => tryHwait h x s
  | .barArrive n => tryBarr n s
  | .barGen n g => tryBwait n g s
  | .lease l => tryLwait l s
  | .lrel l => tryLrel l s
  | .counter lv v => tryCwaitc lv v s
  | .tideAt v => tryTide v s
  | .courseStart n st sm ne eo => tryStart n st sm ne eo s
  | .courseEnd => tryEnd s
  | .stream n => trySwait n s
  | .mtok t => tryTok .mtok t s
  | .vtok t => tryTok .vtok t s
  | .waiti => tryWaiti s
  | .ntset nt l f v => tryNtset nt l f v s
  | .aeSpace _ | .veSpace _ | .copySpace .. => veSpaceTry w s
  | .meSpace e => tryMe e s
  | .crun l pd va => tryCrun l pd va s
  | .allowance r => remoteGo s r
  | .reply .. | .heldAtomic .. => .hold w s
  | .pgreq d pg => tryPgreq d pg s
  | .fence sc => tryFence sc s
  | .qfence m => tryQfence m s
  | .phaseArrive sc => tryArrive sc s
  | .phaseMeet sc => tryMeet sc s
  | .keyst id => tryKeyst id s
  | .freq _ => .done s
  | .retry n => if n = 0 then .done s else .hold w s

/-- The wait of the acting unit's word is over. -/
def waitOver (s : State) (w : Wait) : Bool :=
  match waitTry w s with
  | .hold .. => false
  | _ => true

/-! ### What is late in a course (R144, R147) -/

/-- The next word for a column that the router has not handled, as it would be dispatched. -/
def nextFor (u : Unit) (r : VeRun) (col : Nat) : Nat → Nat → List Nat → Option VWord
  | 0, _, _ => none
  | f + 1, p, ctr =>
    match r.words[p]? with
    | none => none
    | some w =>
      if bits w.toNat 29 3 = col then some (dispatched u r w)
      else
        let pass := bits w.toNat 29 3 = 6 && bits w.toNat 23 6 = 2
        let q := nestNext r.levels p (if pass then setAt ctr (bits w.toNat 20 3) 0 else ctr)
        nextFor u r col f q.1 q.2

/-- The next word of a column has not reached its queue at the word's time. -/
def routerLate (u : Unit) (col : Nat) : Bool :=
  u.course.active && (tget u.ve.cols col []).all (·.issued) &&
  u.ve.run.any fun r => (nextFor u r col 512 r.widx r.ctr).any (wordTime u col)

/-- The CTL word at which the router stands, its delay over. -/
def ctlReady (u : Unit) : Option Code :=
  u.ve.run.bind fun r => (r.words[r.widx]?).filter fun w => bits w.toNat 29 3 == 6 && r.wait == 0 && !r.moved

/-- The head of a queue is at or past its due cycle. -/
def dueNow (u : Unit) (due : Option (Option Nat)) : Bool := due.join.any fun d => decide (d ≤ u.course.cc.toNat)

def aeDue (u : Unit) : Bool := dueNow u (u.ae.queue.head?.map (·.due))
def veDue (u : Unit) : Bool := dueNow u (u.ve.queue.head?.map (·.due))
def meDue (u : Unit) : Bool := dueNow u (u.me.queue.head?.map (·.due))

/-- The started activations that wait for their gates (R179). -/
def gateWaiting (u : Unit) : List Act :=
  u.ae.s.flatMap fun e => e.2.acts.filter fun a => a.started && gated a.f && !a.granted

/-- The first agent of those given, in the order of R420. -/
def firstAgent (sq ae : Bool) (col : Nat → Bool) (router me : Bool) : Option Agent :=
  if sq then some .sq else if ae then some .ae
  else match (List.range 6).find? col with
    | some c => some (.col c)
    | none => if router then some .router else if me then some .me else none

/-- The first agent that has something to do whose time in the course has come (R147; DEDUCED, log 43). -/
def holdAgent (u : Unit) : Option Agent :=
  firstAgent (sqHeld u) (aeDue u || !(gateWaiting u).isEmpty) (fun c => colLate u c || routerLate u c)
    (veDue u || (ctlReady u).isSome) (meDue u || u.me.run.any (meLate u))

/-! ### What cannot go on -/

/-- The head word of a column has not issued at its time, and cannot. -/
def colStuck (u : Unit) (col : Nat) : Bool :=
  (tget u.ve.cols col []).head?.any fun v =>
    !v.issued && colLate u col &&
    (!accepting u col || !claimOk u v.seq (wordStreams v.code) || !(wordStreams v.code).all (operandHere u))

/-- The router waits for a token that is 0. -/
def routerStuck (u : Unit) : Bool := (ctlReady u).any fun w => bits w.toNat 23 6 == 4 && tokOf u (bits w.toNat 7 8) == 0

/-- The word of the ME has not issued at its time, and cannot. -/
def meStuck (u : Unit) : Bool :=
  u.me.run.any fun r =>
    let w := meCode r
    !r.issued && meLate u r &&
    (!acceptsMe u r w || !(meStreams w).all (operandHere u) || (w.toNat / 2 ^ 27 == 12 && tokOf u (bits w.toNat 17 8) == 0))

/-- The AE cannot attach the activation that is due, or a gate is not open. -/
def aeStuck (u : Unit) : Bool :=
  (aeDue u && u.ae.queue.head?.any fun e => !e.close && decide (2 ≤ (streamOf u e.stream).acts.length)) ||
  (gateWaiting u).any fun a => handleOf u (gateOf a.f) != gateWaits a

/-- The first agent of the acting unit that cannot do what the course has it do in the present cycle (R147, R420). -/
def stuckAgent (s : State) : Option Agent :=
  let u := s.u
  firstAgent (sqHeld u && u.wait.any fun w => !waitOver s w) (aeStuck u) (fun c => colStuck u c || routerLate u c)
    ((veDue u && u.ve.run.isSome) || routerStuck u) ((meDue u && u.me.run.isSome) || meStuck u)

/-! ### The events of holds -/

/-- HOLD_CYCLE (R147, R148): something has not been done at its time in the running course. -/
def execHoldCycle (s : State) : Res :=
  match holdAgent s.u with
  | none => .next s
  | some a => happens (issuing s.u && s.u.course.active) (holdCycle s s.cur a) s

/-- COURSE_SLIP (R148, R149): in a hold cycle SLIP stands above SLIPMAX. -/
def execCourseSlip (s : State) : Res :=
  let c := s.u.course
  happens (live s.u && s.u.st == .held && c.active && decide (c.slipmax < c.slip))
    (slipFault s s.cur ((holdAgent s.u).getD .sq)) s

/-- COURSE_TABLE of a unit whose CC can rise no further (R150). -/
def ccFault (s : State) (uid : Nat) : State := agentFault s uid .sq .courseTable 0 0

/-- COURSE_CC_OVERFLOW (R150): CC is at its limit in a cycle that is no hold. -/
def execCourseCcOverflow (s : State) : Res :=
  let u := s.u
  happens (issuing u && u.course.active && (holdAgent u).isNone && u.course.cc == BitVec.allOnes 32) (ccFault s s.cur) s

end Sys2Proof.Machine
end

