-- ==== Sys2Proof/Machine/Lms.lean ====
section
/-! DEFINITION. The verification of HSS signatures (RFC 8554) with the parameter sets that R454 accepts. -/

namespace Sys2Proof.Machine

/-- Big-endian bytes of a number. -/
def beBytes (n v : Nat) : List Byte := (toLe n v).reverse

/-- Big-endian field of n bytes at offset o. -/
def beAt (b : List Byte) (o n : Nat) : Nat := leNat (slice b o n).reverse

/-! ### LM-OTS -/

/-- w, p and ls of an LM-OTS type with SHA-256 and n = 32. -/
def otsParams : Nat → Option (Nat × Nat × Nat)
  | 1 => some (1, 265, 7)
  | 2 => some (2, 133, 6)
  | 3 => some (4, 67, 4)
  | 4 => some (8, 34, 0)
  | _ => none

/-- The i-th w-bit field of a string of bytes, the highest bits of a byte first. -/
def coef (b : List Byte) (i w : Nat) : Nat :=
  let per := 8 / w
  (b.getD (i / per) 0).toNat / 2 ^ (w * (per - 1 - i % per)) % 2 ^ w

/-- The checksum of a message hash, shifted left by ls. -/
def otsChecksum (q : List Byte) (w ls : Nat) : Nat :=
  ((List.range (256 / w)).map fun i => 2 ^ w - 1 - coef q i w).foldl (· + ·) 0 * 2 ^ ls

/-- The rest of a hash chain, j to 2^w − 2. -/
def otsChain (pre : List Byte) : Nat → Nat → List Byte → List Byte
  | 0, _, x => x
  | n + 1, j, x => otsChain pre n (j + 1) (sha256 (pre ++ beBytes 1 j ++ x))

/-- The public key candidate of an LM-OTS signature over a message. -/
def otsCandidate (typ : Nat) (id : List Byte) (q : Nat) (sig msg : List Byte) : Option (List Byte) :=
  match otsParams typ with
  | none => none
  | some (w, p, ls) =>
    if beAt sig 0 4 != typ || sig.length != 36 + 32 * p then none
    else
      let c := slice sig 4 32
      let h := sha256 (id ++ beBytes 4 q ++ [0x81, 0x81] ++ c ++ msg)
      let hc := h ++ beBytes 2 (otsChecksum h w ls)
      let z := (List.range p).flatMap fun i =>
        let a := coef hc i w
        otsChain (id ++ beBytes 4 q ++ beBytes 2 i) (2 ^ w - 1 - a) a (slice sig (36 + 32 * i) 32)
      some (sha256 (id ++ beBytes 4 q ++ [0x80, 0x80] ++ z))

/-! ### LMS -/

/-- The height of an LMS type with SHA-256 and m = 32. -/
def lmsHeight : Nat → Option Nat
  | 5 => some 5
  | 6 => some 10
  | 7 => some 15
  | 8 => some 20
  | 9 => some 25
  | _ => none

/-- The root that a path of siblings leads to from a node. -/
def lmsRoot (id : List Byte) : Nat → List Byte → List (List Byte) → List Byte
  | _, x, [] => x
  | n, x, y :: ys =>
    let pre := id ++ beBytes 4 (n / 2) ++ [0x83, 0x83]
    lmsRoot id (n / 2) (sha256 (if n % 2 = 1 then pre ++ y ++ x else pre ++ x ++ y)) ys

/-- Bytes of an LM-OTS signature of a type. -/
def otsBytes (typ : Nat) : Nat :=
  match otsParams typ with
  | some (_, p, _) => 36 + 32 * p
  | none => 0

/-- Bytes of the LMS signature that stands at the head of a string, by the key it is checked with. -/
def lmsBytes (key : List Byte) : Nat :=
  4 + otsBytes (beAt key 4 4) + 4 + 32 * (lmsHeight (beAt key 0 4)).getD 0

/-- An LMS signature verifies over a message under a key of 56 bytes. -/
def lmsVerify (key sig msg : List Byte) : Bool :=
  let ots := beAt key 4 4
  let id := slice key 8 16
  let n := otsBytes ots
  let q := beAt sig 0 4
  match lmsHeight (beAt key 0 4) with
  | none => false
  | some h =>
    if key.length != 56 || sig.length != 8 + n + 32 * h || beAt sig (4 + n) 4 != beAt key 0 4 || decide (2 ^ h ≤ q) then false
    else
      match otsCandidate ots id q (slice sig 4 n) msg with
      | none => false
      | some kc =>
        let leaf := sha256 (id ++ beBytes 4 (2 ^ h + q) ++ [0x82, 0x82] ++ kc)
        lmsRoot id (2 ^ h + q) leaf ((List.range h).map fun i => slice sig (8 + n + 32 * i) 32) == slice key 24 32

/-! ### HSS -/

/-- An HSS signature of L levels over a message under a public key, L of 1 or 2 (R454). -/
def hssVerify (key sig msg : List Byte) : Bool :=
  let l := beAt key 0 4
  let top := slice key 4 56
  let rest := sig.drop 4
  if key.length != 60 || beAt sig 0 4 + 1 != l then false
  else if l = 1 then lmsVerify top rest msg
  else if l = 2 then
    let n := lmsBytes top
    let sub := slice rest n 56
    lmsVerify top (rest.take n) sub && lmsVerify sub (rest.drop (n + 56)) msg
  else false

end Sys2Proof.Machine
end

