-- ==== Sys2Proof/Machine/Frames.lean ====
section
/-! DEFINITION. What firmware does with fault frames (R426 to R430, R458, R459), machine checks, scrubbing (R425, R433),
and debug stops (R476 to R478). -/

namespace Sys2Proof.Machine

/-! ### Reports (R458, R459, R488) -/

/-- The fault detail level of a VF; 0 without a policy. -/
def fdlOf (v : Vf) : Nat :=
  match v.policy with
  | some p => p.fdl.toNat
  | none => 0

/-- FADDR[53:16]. -/
def framePage (u : Unit) : Nat := bits (frameReg u 2).toNat 16 38

/-- What a report shows of a frame at a level (R458). -/
def frameFields (u : Unit) (fdl : Nat) : List Nat :=
  let c := (frameReg u 0).toNat
  (if 1 ≤ fdl then [bits c 8 4] else []) ++ (if 2 ≤ fdl then [bits c 0 8, bits c 16 4] else []) ++
  (if 3 ≤ fdl then [framePage u] else []) ++
  (if 4 ≤ fdl then (List.range 128).map fun n => (frameReg u n).toNat else [])

/-- FAULT_REPORT: VF, record, unit, the frame to the FDL, and what R459 shows whatever the policy holds. -/
def faultReport (s : State) (uid : Nat) (always : List Nat) : State :=
  let u := s.unit uid
  vfEvent s u.id.vf 0x0101 ([u.id.vf, u.id.recNo, u.id.idx] ++ frameFields u (fdlOf (s.vf u.id.vf)) ++ always)

/-! ### Routes (R426) -/

/-- The code of the cause a frame records. -/
def frameCause (u : Unit) : Nat := bits (frameReg u 0).toNat 0 8

/-- FCAUSE.INUI. -/
def frameInui (u : Unit) : Bool := bitAt (frameReg u 0).toNat 14

/-- R426: a cause that goes to the pod whatever the course. -/
def podCause (c : Nat) : Bool := c == causeCode .courseSlip || c == causeCode .lateTile || c == causeCode .tideLost

/-- R426 to R429: the route of one frame. -/
def routeFrame (s : State) (uid : Nat) : State :=
  let u := s.unit uid
  let c := frameCause u
  if u.st != .faulted then s
  else if c = causeCode .rollbackStop then faultReport s uid []
  else if u.course.active || podCause c then declareFailure s (jobKey u.id.vf u.id.job) none
  else if c = causeCode .debugStop then s.onUnit uid fun u => { u with dbg := { u.dbg with stopped := true } }
  else if c = causeCode .stage2Miss then faultReport s uid [framePage u]
  else if c = causeCode .machineCheck then endUnit (faultReport s uid []) uid .cancelled false
  else if u.c.utvec != 0 && !frameInui u then s.onUnit uid reflect
  else endUnit (faultReport s uid []) uid .cancelled false

/-- FAULT_FRAME_TAKEN (R426): frames are taken in the order of the faults. -/
def execFaultFrameTaken (s : State) : Res :=
  match s.firm.frames with
  | [] => .next s
  | uid :: rest => .next (routeFrame { s with firm := { s.firm with frames := rest } } uid)

/-- R426: a unit that waits for its VF's range table resumes, and meets the check again. -/
def resumeStage2 (s : State) (vf : Nat) : State :=
  (unitsWhere s fun u => u.id.vf == vf && u.st == .faulted && frameCause u == causeCode .stage2Miss && !u.course.active).foldl
    (fun s uid => if s.firm.frames.contains uid then s else s.onUnit uid resumeFrame) s

/-! ### Machine checks and scrubbing (R425, R433) -/

/-- MACHINE_CHECK (R425): the core of the acting unit finds an internal inconsistency. -/
def execMachineCheck (s : State) : Res := happens (live s.u) (agentFault s s.cur .sq .machineCheck 0 0) s

/-- SCRUB_ERROR (R433): an error in data that nothing consumes is counted; an uncorrectable one faults who reads it. -/
def execScrubError (key : Nat) (correctable : Bool) (s : State) : Res :=
  let s := { s with firm := { s.firm with scrubs := s.firm.scrubs + 1 } }
  .next (if correctable then s else spoil s key)

/-! ### Debug stops (R476, R477) -/

/-- A breakpoint of the unit stands at its next word. -/
def atBreak (u : Unit) : Bool := live u && u.wait.isNone && !u.halted && u.dbg.breaks.contains u.r.pc

/-- DEBUG_STOP (R476): a breakpoint, precise before its word, or a stop that the debugger has asked for. -/
def execDebugStop (s : State) : Res :=
  let s1 := s.onU fun u => { u with dbg := { u.dbg with stopRequested := false } }
  if atBreak s.u then .next (sqFault .debugStop 0 0 s)
  else happens (live s.u && s.u.dbg.stopRequested) (agentFault s1 s.cur .sq .debugStop 0 0) s

/-- R430, R476: the debugger's settings of a unit; one that was stopped and is no longer goes on. -/
def setDebug (s : State) (uid : Nat) (d : Debug) : State :=
  let was := (s.unit uid).dbg.stopped
  let s := s.onUnit uid fun u => { u with dbg := d }
  if was && !d.stopped then s.onUnit uid resumeFrame else s

end Sys2Proof.Machine
end

