-- ==== Sys2Proof/Machine/Rdma.lean ====
section
/-! DEFINITION. RoCEv2 operations that arrive on the host port (R382, R447, R464, R479, R480). -/

namespace Sys2Proof.Machine

/-! ### Queue pairs -/

/-- The VF that owns a queue pair of the host port (R450, R480). -/
def vfOfQp (s : State) (qp : Nat) : Option Nat :=
  (s.vfs.find? fun v => v.2.st != .absent && v.2.qps.contains qp).map (·.1)

/-- R480, R490: a queue pair of the device that is ready. -/
def isDeviceQp (s : State) (qp : Nat) : Bool :=
  decide (1 ≤ qp) && decide (qp ≤ 16) && (s.firm.bring == 4 || s.firm.bring == 5)

/-- What the part sends back on a queue pair: a completion (0) with data, or an error (1). -/
def rdmaAnswer (s : State) (qp status : Nat) (bytes : List Byte) : State :=
  { s with hostOut := s.hostOut ++ [rdmaMessage qp status bytes] }

/-- R464: what arrives for a queue pair in the error state is dropped and counted. -/
def qpDropped (s : State) (vf : Nat) : State := s.onVf vf fun v => { v with drops := v.drops + 1 }

/-! ### Places (R447) -/

/-- R447: a physical address in a region of a world. -/
def worldRegion (s : State) (secure : Bool) (a : Nat) : Bool :=
  decide (a < 2 ^ 39) && s.regionWorld.getLsbD (a / Config.regionBytes) == secure

/-- The address of a RoCEv2 operation: a VA of the VF that owns the queue pair, an HBM address on a queue pair of
the device (DEDUCED, log 23); HBM of the queue pair's world alone. -/
def rdmaPlace (s : State) (qp : Nat) (va : Word) (acc : Acc) : Option Tr :=
  match vfOfQp s qp with
  | some vf =>
    match keyTranslate s vf va acc with
    | .ok t => if t.kind = 0 then some t else none
    | .error _ => none
  | none =>
    if isDeviceQp s qp && worldRegion s (decide (qp ≤ 8)) va.toNat then
      some { place := .mem va.toNat, res := true, wr := true, wb := false, counted := false, leafPath := 0,
             rangePath := 0, kind := 0, leaf := none, heap := true }
    else none

/-- The queue pair takes operations: it exists, and is not in the error state. -/
def qpState (s : State) (qp : Nat) : Option Bool :=
  match vfOfQp s qp with
  | some vf => some (!(s.vf vf).qpError)
  | none => if isDeviceQp s qp then some true else none

/-- The VF for whom an operation of a queue pair counts; a device queue pair has none. -/
def qpVf (s : State) (qp : Nat) : Nat := (vfOfQp s qp).getD 256

/-- An operation on a queue pair that takes operations. -/
def onQp (qp : Nat) (act : State → State) (s : State) : Res :=
  match qpState s qp with
  | none => .next s
  | some false => .next (qpDropped s (qpVf s qp))
  | some true => .next (act s)

/-! ### Operations (R479) -/

/-- A write granule by granule; none where it may not be, with what is written before it; `wait` where a hold queue
is full (R365). -/
inductive RdmaW where
  | ok (s : State)
  | error (s : State)
  | wait
  deriving DecidableEq, Repr

def rdmaWriteAll (qp : Nat) : Nat → State → Word → List Byte → RdmaW
  | 0, s, _, _ => .ok s
  | f + 1, s, va, bs =>
    if bs.isEmpty then .ok s
    else
      let m := 64 - va.toNat % 64
      match rdmaPlace s qp va .store with
      | none => .error s
      | some t =>
        match writeRun s (qpVf s qp) va t (bs.take m) with
        | none => .wait
        | some s' => rdmaWriteAll qp f (countAccess s' (qpVf s qp) va t 1) (va + BitVec.ofNat 64 m) (bs.drop m)

/-- HOST_RDMA_WRITE (R382): performed when its completion is returned. -/
def execHostRdmaWrite (qp : Nat) (va : Word) (data : List Byte) (s : State) : Res :=
  onQp qp (fun s =>
    match rdmaWriteAll qp (granules va.toNat data.length) s va data with
    | .ok s' => rdmaAnswer s' qp 0 []
    | .error s' => rdmaAnswer s' qp 1 []
    | .wait => s) s

/-- A read granule by granule: none where it may not be, or meets an uncorrectable error. -/
def rdmaReadAll (qp : Nat) : Nat → State → Word → Nat → Option (List Byte × State)
  | 0, s, _, _ => some ([], s)
  | f + 1, s, va, n =>
    if n = 0 then some ([], s)
    else
      let m := min n (64 - va.toNat % 64)
      match rdmaPlace s qp va .load with
      | none => none
      | some t =>
        match t.place with
        | .pod .. => none
        | .mem k =>
          if spoiledAt s k m then none
          else
            (rdmaReadAll qp f (countAccess s (qpVf s qp) va t 1) (va + BitVec.ofNat 64 m) (n - m)).map
              fun r => (memRead s.mem k m ++ r.1, r.2)

/-- R366: a granule of a run has accesses held before the read. -/
def rdmaBlocked (s : State) (qp : Nat) (va : Word) (n : Nat) : Bool :=
  (List.range (granules va.toNat n)).any fun g => loadBlocked s (qpVf s qp) (BitVec.ofNat 64 ((va.toNat / 64 + g) * 64))

/-- HOST_RDMA_READ (R479). -/
def execHostRdmaRead (qp : Nat) (va : Word) (n : Nat) (s : State) : Res :=
  onQp qp (fun s =>
    if rdmaBlocked s qp va n then s
    else
      match rdmaReadAll qp (granules va.toNat n) s va n with
      | some (bs, s') => rdmaAnswer s' qp 0 bs
      | none => rdmaAnswer s qp 1 []) s

/-- HOST_RDMA_ATOMIC (R479): a 64-bit fetch-add or compare-swap. During a migration of its page it is held, or waits for
a full hold queue (R365). -/
def execHostRdmaAtomic (qp : Nat) (va : Word) (cas : Bool) (cmp arg : Word) (s : State) : Res :=
  onQp qp (fun s =>
    match rdmaPlace s qp va (.atomic true true) with
    | none => rdmaAnswer s qp 1 []
    | some t =>
      match t.place with
      | .pod .. => rdmaAnswer s qp 1 []
      | .mem k =>
        if va.toNat % 8 != 0 || spoiledAt s k 8 then rdmaAnswer s qp 1 []
        else if t.wb then
          (hold s (qpVf s qp) va (.atomic (va.toNat % 2 ^ 16) 8 (if cas then 3 else 4) arg cmp (.host qp))).getD s
        else
          let r := amoAt s.mem k (if cas then 3 else 4) 8 arg.toNat cmp.toNat
          rdmaAnswer (countAccess { s with mem := r.2 } (qpVf s qp) va t 1) qp 0 (toLe 8 r.1)) s

/-! ### Sends (R480, R483) -/

/-- The opcodes of R486. -/
def opcodes : List Nat :=
  [0x0001, 0x0002, 0x0003, 0x0010, 0x0011, 0x0012, 0x0013, 0x0014, 0x0015, 0x0016, 0x0017, 0x0020, 0x0021, 0x0022,
   0x0023, 0x0030, 0x0031, 0x0040, 0x0041, 0x0042, 0x0043, 0x0044, 0x0045, 0x00F0]

/-- R484: the status of a frame that is no command. -/
def unknownStatus (h : IsuneHdr) : Nat :=
  if h.version != 1 || h.reserved || decide (2 ^ 22 < h.length.toNat) then 1
  else if h.world != (if qpSecure h then 1 else 0) then 5
  else 13

/-- ISUNE_UNKNOWN_OPCODE (R484): a frame whose opcode or KIND is no command's. -/
def unknownFrame (h : IsuneHdr) (s : State) : State :=
  if deviceQp s h && (h.kind != 0 || !opcodes.contains h.opcode.toNat) then respond s h (unknownStatus h) 0 [] [] else s

/-- ISUNE_UNKNOWN_OPCODE (R484). -/
def execIsuneUnknownOpcode (h : IsuneHdr) (s : State) : Res := .next (unknownFrame h s)

/-- The header of a frame of bytes (R483). -/
def headerOfBytes (qp : Nat) (b : List Byte) : IsuneHdr :=
  { qp := BitVec.ofNat 16 qp, version := BitVec.ofNat 16 (fieldAt b 0 2), opcode := BitVec.ofNat 16 (fieldAt b 2 2)
    tag := BitVec.ofNat 32 (fieldAt b 4 4), length := BitVec.ofNat 32 (fieldAt b 8 4), vf := BitVec.ofNat 8 (fieldAt b 12 1)
    world := BitVec.ofNat 8 (fieldAt b 13 1), kind := BitVec.ofNat 8 (fieldAt b 14 1)
    reserved := fieldAt b 15 1 != 0 || fieldAt b 24 40 != 0 }

/-- HOST_SEND (R480): data for the VF that owns the queue pair, never a command. On a queue pair of the device it is
an Isune frame: one that is no command is answered so, and each command is a row of its own. -/
def execHostSend (qp : Nat) (data : List Byte) (s : State) : Res :=
  match vfOfQp s qp with
  | some vf => onQp qp (fun s => s.onVf vf fun v => { v with received := v.received ++ [data] }) s
  | none => .next (unknownFrame (headerOfBytes qp (padTo data 64 0)) s)

end Sys2Proof.Machine
end

