-- ==== Sys2Proof/WellFormed.lean ====
section
/-! DEFINITION. The checks an instruction's fields must meet: the encodings that R36 to R59 and the
owning chapters reserve are not instructions. -/

namespace Sys2Proof

/-- The CSR numbers that the table of R104 assigns. -/
def csrAssigned (n : Nat) : Bool :=
  (0x10 ≤ n && n ≤ 0x12) || n == 0x18 || (0x20 ≤ n && n ≤ 0x23) || (0x30 ≤ n && n ≤ 0x33) ||
  n == 0x40 || (0x50 ≤ n && n ≤ 0x52) || n == 0x60 || n == 0x61 || n == 0x70 || n == 0x80 ||
  (0x90 ≤ n && n ≤ 0x97) || n == 0xA0 || n == 0xA1 || (0x100 ≤ n && n ≤ 0x17F) ||
  (0x800 ≤ n && n ≤ 0x8FF) || n == 0x900 || (0xC00 ≤ n && n ≤ 0xC7F)

/-- A VE word's field or flag that its operation does not use is zero (R54, R201). -/
def VeOps.unused (w : VeOps) (d a b sat negb f2 : Bool) : Bool :=
  (d || w.d == 0) && (a || w.a == 0) && (b || w.b == 0) &&
  (sat || !w.sat) && (negb || !w.negb) && (f2 || !w.f2)

/-- The ME formats of R57 that are integers: code 2 and code 6. -/
def mmaInt (fmt : BitVec 3) : Bool := fmt == 2 || fmt == 6

/-- R57, R239: the values an MMA word may hold. -/
def MmaOps.wf (w : MmaOps) : Bool :=
  w.fmt != 7 && w.acc != 3 &&
  (mmaInt w.fmt || (!w.sgnA && !w.sgnB)) &&
  (if mmaInt w.fmt && !(w.fmt == 6 && w.scaled) then w.acc != 0 else w.acc == 0) &&
  (!(w.aG && w.a.toNat ≥ 8) || w.a == 8) &&
  (!w.scaled || !(w.fmt == 2 || w.fmt == 3 || w.fmt == 4)) &&
  (w.scaled || w.scl == 0) &&
  (!(w.aG && w.scaled) || w.scl == 0)

/-- R56, R57: the values an MLATCH or MXLATCH word may hold. -/
def LatchOps.wf (w : LatchOps) : Bool := w.fmt != 7 && (!w.bG || w.b.toNat < 8)

/-- A mask destination of MCLR, MSET, MAND or VCMP is M1 to M7 (R52, R54). -/
def maskDest (w : VeOps) : Bool := w.d != 0 && w.d.toNat < 8

/-- Whether the fields of an instruction word take values that R36 to R59 do not reserve. An event
row carries no encoding and is always well formed. -/
def Instr.wf : Instr → Bool
  | .shli _ _ i | .shri _ _ i | .sari _ _ i => i.toNat < 64
  | .lds _ _ sz _ => sz != 3
  | .ldm t _ n _ | .stm t _ n _ => t.toNat + n.toNat ≤ 63
  | .qfence m => m != 0
  | .csrr _ c | .csrw c _ | .csrs _ c _ | .csrc _ c _ => csrAssigned c.toNat
  | .sset _ f _ | .sget _ f _ => f.toNat ≤ 19
  | .gnset _ f _ => f.toNat ≤ 8
  | .gnget _ f _ => f.toNat ≤ 9
  | .ntset _ l f _ => l.toNat ≤ 5 && f.toNat ≤ 5
  | .lease _ _ k _ _ => k.toNat ≤ 5
  | .mclr m | .mset m => m != 0
  | .mand m _ _ => m != 0
  | .vadd c w => w.unused true true true true true false &&
      !(c == 0 && w.d == 0 && w.a == 0 && w.b == 0 && w.m == 0 && w.dly == 0 && !w.sat && !w.negb)
  | .vsub _ w | .vmul _ w | .vfma _ w | .vmin _ w | .vmax _ w
  | .vaddk _ w | .vmulk _ w | .vfmak _ w | .vmink _ w | .vmaxk _ w =>
      w.unused true true true true true false
  | .vabs _ w | .vneg _ w => w.unused true true false true false false
  | .vand _ w | .vor _ w | .vxor _ w | .vshl _ w | .vshr _ w | .vsar _ w =>
      w.unused true true true false false false
  | .vsel _ w => w.unused true true true true false false
  | .vcmp _ _ w => w.unused true true true false false false && maskDest w
  | .vfill _ w => w.unused true false true true true false
  | .vsfuExp w | .vsfuExp2 w | .vsfuLog w | .vsfuLog2 w | .vsfuRcp w | .vsfuRsqrt w | .vsfuSqrt w
  | .vsfuTanh w | .vsfuSigm w | .vsfuSin w | .vsfuCos w | .vsfuErf w | .vdqnt w
  | .vrsum w | .vrmax w | .vrmin w | .vramax w | .vrssq w | .vargmx w
  | .vmov w | .vbcast w | .vrev w | .vcomb w => w.unused true true false true false false
  | .vcvt w | .vqnt w => w.unused true true true true false false && w.b.toNat < 3
  | .vsrnd w => w.unused true true true true false false && 1 ≤ w.b.toNat && w.b.toNat ≤ 5
  | .vscan w => w.unused true true false true false true
  | .viota w => w.unused true false true true false false
  | .vgen w => w.unused true false true true false false && w.b.toNat < 8
  | .vgath w | .vilv w | .vdilv w => w.unused true true true true false false
  | .vscat w => w.unused true true true false false false
  | .nest l n _ _ => l.toNat ≤ 5 && n != 0
  | .mnop dly => dly != 0
  | .mma w => w.wf
  | .mlatch w | .mxlatch w => w.wf
  | .mgath _ _ f _ => f != 7
  | .mdrain _ _ f r _ _ => f.toNat ≤ 11 && r != 3
  | .linkSend p _ _ | .linkRecv p _ _ | .linkRedw p _ _ | .linkReds p _ _ | .linkMark p _ => p.toNat ≤ 11
  | .linkFwd p q => p.toNat ≤ 11 && q.toNat ≤ 11
  | .linkTune p _ _ => 8 ≤ p.toNat && p.toNat ≤ 11
  | .ill | .add .. | .sub .. | .mul .. | .mulhs .. | .mulhu .. | .divs .. | .divu .. | .rems ..
  | .remu .. | .and .. | .or .. | .xor .. | .andn .. | .shl .. | .shr .. | .sar .. | .rol ..
  | .mins .. | .minu .. | .maxs .. | .maxu .. | .clz .. | .ctz .. | .popc .. | .bswap .. | .sextb ..
  | .sexth .. | .sextw .. | .addi .. | .andi .. | .ori .. | .xori .. | .muli .. | .movi .. | .movk ..
  | .cmp .. | .cmpi .. | .pand .. | .por .. | .pxor .. | .pandn .. | .pmov .. | .pnot .. | .pset ..
  | .br .. | .call .. | .jr .. | .callr .. | .ret | .brstg .. | .brcl .. | .pcl .. | .ldu .. | .st ..
  | .amoLd .. | .amoSt .. | .amoSwap .. | .amoCas .. | .amoAdd .. | .amoAnd .. | .amoOr .. | .amoXor ..
  | .amoMins .. | .amoMinu .. | .amoMaxs .. | .amoMaxu .. | .amoFadd .. | .rld .. | .rst .. | .ramoLd ..
  | .ramoSt .. | .ramoSwap .. | .ramoCas .. | .ramoAdd .. | .ramoAnd .. | .ramoOr .. | .ramoXor ..
  | .ramoMins .. | .ramoMinu .. | .ramoMaxs .. | .ramoMaxu .. | .ramoFadd .. | .nop | .trap .. | .eret
  | .uiret | .waiti | .halt | .fence .. | .phase .. | .tide .. | .keyst .. | .uipoll | .cancel ..
  | .tidelRead .. | .counterLowRead .. | .vrun .. | .mrun .. | .sopen .. | .sclose .. | .swait ..
  | .crun .. | .mtokw .. | .vtokw .. | .vkset .. | .gnsetFaddr .. | .gnpeek .. | .binit .. | .barr ..
  | .bwait .. | .btest .. | .cwaitc .. | .cread .. | .lrpatch .. | .lrarm .. | .lrstat .. | .lrel ..
  | .lstat .. | .lwait .. | .hwait .. | .hset .. | .htest .. | .pgreq .. | .pgstat .. | .nqpop ..
  | .mpop .. | .mfirst .. | .cstart .. | .cend | .cwait .. => true
  | .userInterruptEntry | .waitiWake | .loadDataReturn .. | .dispatchQueueSpace | .holdCycle
  | .courseSlip | .courseCcOverflow | .courseStart | .courseEndComplete | .cwaitComplete
  | .activationAttach | .activationStart .. | .streamGateGrant .. | .streamAccess ..
  | .streamAccessReturn .. | .activationFinish .. | .streamClose | .swaitComplete
  | .segmentSaveComplete .. | .segmentRestoreComplete | .veEntryStart | .routerDispatch
  | .veEntryFinish | .loopBufferExit .. => true
  | .shapeN .. | .shapeM .. | .vtok .. | .vwtok .. | .vnop .. | .vtokAdd | .vwtokComplete
  | .vtokwComplete | .meEntryStart | .meEntryFinish | .mswap .. | .mzero .. | .mdrainrq ..
  | .mrsum .. | .mcsum .. | .mwscl .. | .mtok .. | .mwtok .. | .mtokAdd | .mwtokComplete
  | .mtokwComplete | .ntsetComplete | .freqTableLoaded => true
  | .leaseQueueGrant .. | .leaseAging .. | .corbelWakeEnd .. | .corbelWarmTimeout .. | .crunAppend
  | .tkInit .. | .tkFeed .. | .tkEmit .. | .tkSample .. | .tkReset .. | .xpConf .. | .xpTile ..
  | .ifBook .. | .ifRun .. | .ifReset .. | .slKey .. | .slIv .. | .slEnc .. | .slDec .. | .slFin ..
  | .scConf .. | .scRun .. | .scHist .. | .scCompact .. | .scCarry .. | .rlDesc .. | .rlMove ..
  | .rlFlush .. | .corbelCommandEnd .. | .lwaitComplete | .lrelComplete | .emergencySample ..
  | .thermalTrip .. => true
  | .copyStart .. | .copyStatusRead .. | .copyTakeUp .. | .copyPrologueClaim .. | .copyComplete ..
  | .hwaitComplete | .launchPoolWrite .. | .jobStart .. | .jobCancel .. | .unitPlacement ..
  | .gangPlacement .. | .readyQueueAging .. | .sliceEnd .. | .preemptionComplete | .unitDone
  | .cwaitcComplete | .barrArrival | .bwaitComplete | .pgreqPost | .migratePage ..
  | .migratePageRefuse .. | .migrationCopyEnd .. | .migrationTimeout .. | .retryResend
  | .phaseDepart | .fenceComplete | .qfenceComplete | .hostRdmaWrite .. | .hostRdmaRead ..
  | .hostRdmaAtomic .. | .hostSend .. | .remoteSend | .asyncRead .. | .asyncWrite ..
  | .asyncAtomic .. | .asyncReduce .. | .asyncHandle .. | .asyncReply .. | .asyncNack ..
  | .asyncRetry .. | .remoteReplyTimeout .. | .asyncSlot .. => true
  | .linkAt .. | .linkKey .. | .linkSlack | .linkEnd | .linkSetdt .. | .markerReceive ..
  | .rsigRelease .. | .laneRelock .. | .laneRelockTimeout .. | .routeSwap | .linkFailed ..
  | .replaySlot .. | .alarmSlot .. | .tideExchange .. | .elasticRecentre .. | .tideLost
  | .faultFrameTaken | .machineCheck | .scrubError .. | .keystoneWrite | .keystoneHeaderWrite ..
  | .rollbackRestore .. | .rollbackResume .. | .debugStop => true
  | .deviceInfo .. | .attest .. | .measureRead .. | .vfCreate .. | .vfDestroy ..
  | .vfTeardownComplete .. | .teardownReconcile .. | .quarantineEnd .. | .partitionAssign ..
  | .regionMap .. | .rangeSet .. | .policyInstall .. | .scopepolSet .. | .keySlotLoad ..
  | .counterRead .. | .counterSessionOpen .. | .counterSessionClose .. | .counterSessionExport ..
  | .counterSessionImport .. | .traceRead .. | .traceSessionOpen .. | .traceSessionClose ..
  | .traceSessionExport .. | .traceSessionImport .. | .podJoin .. | .tideRoot .. | .chordPlanLoad ..
  | .scheduleLoad .. | .detourLoad .. | .keystoneConf .. | .reset .. | .isuneUnknownOpcode ..
  | .powerOn | .hbmTrained | .hostLinkUp | .bringUpReady | .smbusPcapWrite .. | .smbusRegisterWrite ..
  | .reservedWord .. | .coreCycle | .scheduledSlot .. | .copyMove .. | .powerLoss => true

end Sys2Proof
end

