-- ==== Sys2Proof/Decode.lean ====
section
/-! DEFINITION. Decoders of the four code kinds (R32, R36, R40 to R59): total functions from a 32-bit
word to an instruction, or to the reason the word is reserved; then the encoder, and the numbering of
the opcode table. -/

namespace Sys2Proof

/-- Why a word is reserved (R36). -/
inductive Reserved where
  /-- the all-zero word -/
  | zeroWord
  /-- an operation code that no row assigns -/
  | opcode
  /-- a function code within an operation that no row assigns -/
  | function
  /-- a bit that the format fixes at zero is set -/
  | zeroField
  /-- a field value that a rule reserves -/
  | value
  deriving DecidableEq, Repr

/-- The n bits of w from bit lo upward, as a number. -/
def fn (w : Code) (lo n : Nat) : Nat := w.toNat / 2 ^ lo % 2 ^ n

/-- The n bits of w from bit lo upward. -/
def fld (w : Code) (lo n : Nat) : BitVec n := BitVec.ofNat n (w.toNat / 2 ^ lo)

/-- A one-bit field as a flag. -/
def flag (w : Code) (lo : Nat) : Bool := fn w lo 1 == 1

/-- The n bits from bit lo upward are zero. -/
def zf (w : Code) (lo n : Nat) : Bool := fn w lo n == 0

/-- The instruction of a word whose fixed zero fields are zero, when no rule reserves its values. -/
def mk (zeros : Bool) (i : Instr) : Except Reserved Instr :=
  if zeros then (if i.wf then .ok i else .error .value) else .error .zeroField

/-- R43: the scope codes; 7 is reserved. -/
def scopeOf : Nat → Option Scope
  | 0 => some .core | 1 => some .bay | 2 => some .die | 3 => some .chip
  | 4 => some .tenant | 5 => some .pod | 6 => some .system | _ => none

/-- R48: the level codes; 5 to 7 are reserved. -/
def levelOf : Nat → Option Level
  | 0 => some .unit | 1 => some .launch | 2 => some .graph | 3 => some .phase | 4 => some .job
  | _ => none

/-- R46: the comparison codes. -/
def condOf : Nat → Cond
  | 0 => .eq | 1 => .ne | 2 => .lt | 3 => .ge | 4 => .ltu | 5 => .geu | 6 => .bits | _ => .nbits

/-- R46: the order suffix that AMO's op selects. -/
def ordOf : Nat → Ord
  | 0 => .relaxed | 1 => .acq | 2 => .rel | _ => .ar

/-- With a scope code, or reserved. -/
def withScope (w : Code) (f : Scope → Except Reserved Instr) : Except Reserved Instr :=
  match scopeOf (fn w 0 3) with
  | some s => f s
  | none => .error .value

/-- With a level code at bit lo, or reserved. -/
def withLevel (w : Code) (lo : Nat) (f : Level → Except Reserved Instr) : Except Reserved Instr :=
  match levelOf (fn w lo 3) with
  | some l => f l
  | none => .error .value

/-- R44, R45: the register operations of op 0x01. -/
def decodeAlu (w : Code) : Except Reserved Instr :=
  match fn w 0 7 with
  | 0 => mk true (.add (fld w 19 6) (fld w 13 6) (fld w 7 6))
  | 1 => mk true (.sub (fld w 19 6) (fld w 13 6) (fld w 7 6))
  | 2 => mk true (.mul (fld w 19 6) (fld w 13 6) (fld w 7 6))
  | 3 => mk true (.mulhs (fld w 19 6) (fld w 13 6) (fld w 7 6))
  | 4 => mk true (.mulhu (fld w 19 6) (fld w 13 6) (fld w 7 6))
  | 5 => mk true (.divs (fld w 19 6) (fld w 13 6) (fld w 7 6))
  | 6 => mk true (.divu (fld w 19 6) (fld w 13 6) (fld w 7 6))
  | 7 => mk true (.rems (fld w 19 6) (fld w 13 6) (fld w 7 6))
  | 8 => mk true (.remu (fld w 19 6) (fld w 13 6) (fld w 7 6))
  | 9 => mk true (.and (fld w 19 6) (fld w 13 6) (fld w 7 6))
  | 10 => mk true (.or (fld w 19 6) (fld w 13 6) (fld w 7 6))
  | 11 => mk true (.xor (fld w 19 6) (fld w 13 6) (fld w 7 6))
  | 12 => mk true (.andn (fld w 19 6) (fld w 13 6) (fld w 7 6))
  | 13 => mk true (.shl (fld w 19 6) (fld w 13 6) (fld w 7 6))
  | 14 => mk true (.shr (fld w 19 6) (fld w 13 6) (fld w 7 6))
  | 15 => mk true (.sar (fld w 19 6) (fld w 13 6) (fld w 7 6))
  | 16 => mk true (.rol (fld w 19 6) (fld w 13 6) (fld w 7 6))
  | 17 => mk true (.mins (fld w 19 6) (fld w 13 6) (fld w 7 6))
  | 18 => mk true (.minu (fld w 19 6) (fld w 13 6) (fld w 7 6))
  | 19 => mk true (.maxs (fld w 19 6) (fld w 13 6) (fld w 7 6))
  | 20 => mk true (.maxu (fld w 19 6) (fld w 13 6) (fld w 7 6))
  | 21 => mk (zf w 7 6) (.clz (fld w 19 6) (fld w 13 6))
  | 22 => mk (zf w 7 6) (.ctz (fld w 19 6) (fld w 13 6))
  | 23 => mk (zf w 7 6) (.popc (fld w 19 6) (fld w 13 6))
  | 24 => mk (zf w 7 6) (.bswap (fld w 19 6) (fld w 13 6))
  | 25 => mk (zf w 7 6) (.sextb (fld w 19 6) (fld w 13 6))
  | 26 => mk (zf w 7 6) (.sexth (fld w 19 6) (fld w 13 6))
  | 27 => mk (zf w 7 6) (.sextw (fld w 19 6) (fld w 13 6))
  | _ => .error .function

/-- R44, R46: the predicate operations of op 0x0E. -/
def decodePred (w : Code) : Except Reserved Instr :=
  match fn w 10 3 with
  | 0 => mk (zf w 0 10) (.pand (fld w 21 4) (fld w 17 4) (fld w 13 4))
  | 1 => mk (zf w 0 10) (.por (fld w 21 4) (fld w 17 4) (fld w 13 4))
  | 2 => mk (zf w 0 10) (.pxor (fld w 21 4) (fld w 17 4) (fld w 13 4))
  | 3 => mk (zf w 0 10) (.pandn (fld w 21 4) (fld w 17 4) (fld w 13 4))
  | 4 => mk (zf w 0 10 && zf w 13 4) (.pmov (fld w 21 4) (fld w 17 4))
  | 5 => mk (zf w 0 10 && zf w 13 4) (.pnot (fld w 21 4) (fld w 17 4))
  | 6 => mk (zf w 0 10 && zf w 13 8) (.pset (fld w 21 4))
  | _ => .error .function

/-- R44, R46: the atomic operations of ops 0x20 to 0x23. -/
def decodeAmo (w : Code) : Except Reserved Instr :=
  withScope w fun s =>
  match fn w 3 4 with
  | 0 => mk (zf w 7 6) (.amoLd (ordOf (fn w 25 2)) (fld w 19 6) (fld w 13 6) s)
  | 1 => mk (zf w 19 6) (.amoSt (ordOf (fn w 25 2)) (fld w 13 6) (fld w 7 6) s)
  | 2 => mk true (.amoSwap (ordOf (fn w 25 2)) (fld w 19 6) (fld w 13 6) (fld w 7 6) s)
  | 3 => mk true (.amoCas (ordOf (fn w 25 2)) (fld w 19 6) (fld w 13 6) (fld w 7 6) s)
  | 4 => mk true (.amoAdd (ordOf (fn w 25 2)) (fld w 19 6) (fld w 13 6) (fld w 7 6) s)
  | 5 => mk true (.amoAnd (ordOf (fn w 25 2)) (fld w 19 6) (fld w 13 6) (fld w 7 6) s)
  | 6 => mk true (.amoOr (ordOf (fn w 25 2)) (fld w 19 6) (fld w 13 6) (fld w 7 6) s)
  | 7 => mk true (.amoXor (ordOf (fn w 25 2)) (fld w 19 6) (fld w 13 6) (fld w 7 6) s)
  | 8 => mk true (.amoMins (ordOf (fn w 25 2)) (fld w 19 6) (fld w 13 6) (fld w 7 6) s)
  | 9 => mk true (.amoMinu (ordOf (fn w 25 2)) (fld w 19 6) (fld w 13 6) (fld w 7 6) s)
  | 10 => mk true (.amoMaxs (ordOf (fn w 25 2)) (fld w 19 6) (fld w 13 6) (fld w 7 6) s)
  | 11 => mk true (.amoMaxu (ordOf (fn w 25 2)) (fld w 19 6) (fld w 13 6) (fld w 7 6) s)
  | 12 => mk true (.amoFadd (ordOf (fn w 25 2)) (fld w 19 6) (fld w 13 6) (fld w 7 6) s)
  | _ => .error .function

/-- R44, R46: the remote atomic operations of op 0x26. -/
def decodeRamo (w : Code) : Except Reserved Instr :=
  withScope w fun s =>
  match fn w 3 4 with
  | 0 => mk (zf w 7 6) (.ramoLd (fld w 19 6) (fld w 13 6) s)
  | 1 => mk (zf w 19 6) (.ramoSt (fld w 13 6) (fld w 7 6) s)
  | 2 => mk true (.ramoSwap (fld w 19 6) (fld w 13 6) (fld w 7 6) s)
  | 3 => mk true (.ramoCas (fld w 19 6) (fld w 13 6) (fld w 7 6) s)
  | 4 => mk true (.ramoAdd (fld w 19 6) (fld w 13 6) (fld w 7 6) s)
  | 5 => mk true (.ramoAnd (fld w 19 6) (fld w 13 6) (fld w 7 6) s)
  | 6 => mk true (.ramoOr (fld w 19 6) (fld w 13 6) (fld w 7 6) s)
  | 7 => mk true (.ramoXor (fld w 19 6) (fld w 13 6) (fld w 7 6) s)
  | 8 => mk true (.ramoMins (fld w 19 6) (fld w 13 6) (fld w 7 6) s)
  | 9 => mk true (.ramoMinu (fld w 19 6) (fld w 13 6) (fld w 7 6) s)
  | 10 => mk true (.ramoMaxs (fld w 19 6) (fld w 13 6) (fld w 7 6) s)
  | 11 => mk true (.ramoMaxu (fld w 19 6) (fld w 13 6) (fld w 7 6) s)
  | 12 => mk true (.ramoFadd (fld w 19 6) (fld w 13 6) (fld w 7 6) s)
  | _ => .error .function

/-- R48: the SYS functions of op 0x28, with the SX fields ra [19:14], rb [13:8], imm8 [7:0]. -/
def decodeSys (w : Code) : Except Reserved Instr :=
  match fn w 20 5 with
  | 0 => mk (zf w 0 20) .nop
  | 1 => mk (zf w 8 12) (.trap (fld w 0 8))
  | 2 => mk (zf w 0 20) .eret
  | 3 => mk (zf w 0 20) .uiret
  | 4 => mk (zf w 0 20) .waiti
  | 5 => mk (zf w 0 20) .halt
  | 6 => withScope w fun s => mk (zf w 3 17) (.fence s)
  | 7 => mk (zf w 7 13) (.qfence (fld w 0 7))
  | 8 => withScope w fun s => mk (zf w 3 17) (.phase s)
  | 9 => mk (zf w 0 14) (.tide (fld w 14 6))
  | 10 => mk (zf w 8 12) (.keyst (fld w 0 8))
  | 11 => mk (zf w 0 20) .uipoll
  | 12 => withLevel w 0 fun l => mk (zf w 3 17) (.cancel l)
  | _ => .error .function

/-- R50: the ENG functions of op 0x30. -/
def decodeEng (w : Code) : Except Reserved Instr :=
  match fn w 20 5 with
  | 0 => mk (zf w 8 6) (.vrun (fld w 14 6) (fld w 0 8))
  | 1 => mk (zf w 9 5) (.mrun (fld w 14 6) (fld w 8 1) (fld w 0 8))
  | 2 => mk (zf w 4 16) (.sopen (fld w 0 4))
  | 3 => mk (zf w 4 16) (.sclose (fld w 0 4))
  | 4 => mk (zf w 4 16) (.swait (fld w 0 4))
  | 5 => mk (zf w 12 2 && zf w 4 4) (.crun (fld w 14 6) (fld w 8 4) (fld w 0 4))
  | 6 => mk (zf w 8 12) (.mtokw (fld w 0 8))
  | 7 => mk (zf w 8 12) (.vtokw (fld w 0 8))
  | _ => .error .function

/-- R51, R52: the resource groups of ops 0x31 to 0x3F. -/
def decodeRes (w : Code) : Except Reserved Instr :=
  match fn w 25 7 with
  | 0x31 => mk (zf w 0 10) (.sset (fld w 21 4) (fld w 16 5) (fld w 10 6))
  | 0x32 => mk (zf w 0 10) (.sget (fld w 21 4) (fld w 16 5) (fld w 10 6))
  | 0x33 => mk (zf w 0 15) (.vkset (fld w 21 4) (fld w 15 6))
  | 0x34 =>
      if fn w 16 5 = 9 then mk (zf w 24 1 && zf w 0 10) (.gnsetFaddr (fld w 21 3) (fld w 10 6))
      else mk (zf w 24 1 && zf w 0 10) (.gnset (fld w 21 3) (fld w 16 5) (fld w 10 6))
  | 0x35 => mk (zf w 24 1 && zf w 0 10) (.gnget (fld w 21 3) (fld w 16 5) (fld w 10 6))
  | 0x36 => mk (zf w 0 4) (.gnpeek (fld w 19 6) (fld w 13 6) (fld w 7 6) (fld w 4 3))
  | 0x37 => mk (zf w 0 10) (.ntset (fld w 24 1) (fld w 21 3) (fld w 16 5) (fld w 10 6))
  | 0x38 =>
      match fn w 23 2 with
      | 0 => mk (zf w 19 4 && zf w 0 4) (.binit (fld w 13 6) (fld w 4 9))
      | 1 => mk (zf w 13 10 && zf w 0 4) (.barr (fld w 4 9))
      | 2 => mk (zf w 13 10 && zf w 0 4) (.bwait (fld w 4 9))
      | _ => mk (zf w 13 6 && zf w 0 4) (.btest (fld w 19 4) (fld w 4 9))
  | 0x39 => withLevel w 9 fun l =>
      match fn w 24 1 with
      | 0 => mk (zf w 18 6 && zf w 0 9) (.cwaitc (fld w 12 6) l)
      | _ => mk (zf w 12 6 && zf w 0 9) (.cread (fld w 18 6) l)
  | 0x3A =>
      match fn w 23 2 with
      | 0 => mk (zf w 17 6 && zf w 0 5) (.lrpatch (fld w 11 6) (fld w 5 6))
      | 1 => mk (zf w 17 6 && zf w 0 11) (.lrarm (fld w 11 6))
      | 2 => mk (zf w 0 11) (.lrstat (fld w 17 6) (fld w 11 6))
      | _ => .error .function
  | 0x3B =>
      match fn w 23 2 with
      | 0 => mk (zf w 0 9) (.lease (fld w 19 4) (fld w 15 4) (fld w 12 3) (fld w 10 2) (flag w 9))
      | 1 => mk (zf w 0 19) (.lrel (fld w 19 4))
      | 2 => mk (zf w 9 10 && zf w 0 3) (.lstat (fld w 3 6) (fld w 19 4))
      | _ => mk (zf w 0 19) (.lwait (fld w 19 4))
  | 0x3C =>
      match fn w 23 2 with
      | 0 => mk (zf w 0 13) (.hwait (fld w 15 8) (fld w 13 2))
      | 1 => mk (zf w 0 13) (.hset (fld w 15 8) (fld w 13 2))
      | 2 => mk (zf w 0 9) (.htest (fld w 9 4) (fld w 15 8) (fld w 13 2))
      | _ => .error .function
  | 0x3D =>
      match fn w 23 2 with
      | 0 => mk (zf w 0 11) (.pgreq (fld w 17 6) (fld w 11 6))
      | 1 => mk (zf w 0 11) (.pgstat (fld w 17 6) (fld w 11 6))
      | 2 => mk (zf w 0 11) (.nqpop (fld w 17 6) (fld w 11 6))
      | _ => .error .function
  | 0x3E =>
      match fn w 22 3 with
      | 0 => mk (zf w 16 6 && zf w 0 13) (.mclr (fld w 13 3))
      | 1 => mk (zf w 16 6 && zf w 0 13) (.mset (fld w 13 3))
      | 2 => mk (zf w 13 3 && zf w 0 10) (.mpop (fld w 16 6) (fld w 10 3))
      | 3 => mk (zf w 13 3 && zf w 0 10) (.mfirst (fld w 16 6) (fld w 10 3))
      | 4 => mk (zf w 16 6 && zf w 0 7) (.mand (fld w 13 3) (fld w 10 3) (fld w 7 3))
      | _ => .error .function
  | 0x3F =>
      match fn w 23 2 with
      | 0 => mk (zf w 0 17) (.cstart (fld w 17 6))
      | 1 => mk (zf w 0 23) .cend
      | 2 => mk (zf w 0 17) (.cwait (fld w 17 6))
      | _ => .error .function
  | _ => .error .opcode

/-- R44: the scalar words, by major opcode [31:25]. -/
def decodeSq (w : Code) : Except Reserved Instr :=
  match fn w 25 7 with
  | 0x00 => if w = 0 then .ok .ill else .error .opcode
  | 0x01 => decodeAlu w
  | 0x02 => mk true (.addi (fld w 19 6) (fld w 13 6) (fld w 0 13))
  | 0x03 => mk true (.andi (fld w 19 6) (fld w 13 6) (fld w 0 13))
  | 0x04 => mk true (.ori (fld w 19 6) (fld w 13 6) (fld w 0 13))
  | 0x05 => mk true (.xori (fld w 19 6) (fld w 13 6) (fld w 0 13))
  | 0x06 => mk true (.shli (fld w 19 6) (fld w 13 6) (fld w 0 13))
  | 0x07 => mk true (.shri (fld w 19 6) (fld w 13 6) (fld w 0 13))
  | 0x08 => mk true (.sari (fld w 19 6) (fld w 13 6) (fld w 0 13))
  | 0x09 => mk true (.muli (fld w 19 6) (fld w 13 6) (fld w 0 13))
  | 0x0A => mk true (.movi (fld w 19 6) (fld w 0 19))
  | 0x0B => mk (zf w 16 1) (.movk (fld w 19 6) (fld w 17 2) (fld w 0 16))
  | 0x0C => mk (zf w 8 1 && zf w 0 1)
      (.cmp (fld w 21 4) (fld w 15 6) (fld w 9 6) (condOf (fn w 5 3)) (fld w 1 4))
  | 0x0D => mk (zf w 8 1 && zf w 0 1)
      (.cmpi (fld w 21 4) (fld w 15 6) (fld w 9 6) (condOf (fn w 5 3)) (fld w 1 4))
  | 0x0E => decodePred w
  | 0x10 => mk true (.br (fld w 21 4) (flag w 20) (fld w 0 20))
  | 0x11 => mk true (.call (fld w 21 4) (flag w 20) (fld w 0 20))
  | 0x12 =>
      match fn w 0 7 with
      | 0 => mk (zf w 19 6 && zf w 7 6) (.jr (fld w 13 6))
      | 1 => mk (zf w 19 6 && zf w 7 6) (.callr (fld w 13 6))
      | 2 => mk (zf w 19 6 && zf w 7 6 && fn w 13 6 == 31) .ret
      | _ => .error .function
  | 0x13 => mk (zf w 20 5) (.brstg (fld w 0 20))
  | 0x14 => mk true (.brcl (fld w 21 4) (flag w 20) (fld w 0 20))
  | 0x15 => mk (zf w 0 17) (.pcl (fld w 21 4) (flag w 20) (fld w 17 3))
  | 0x18 => mk true (.ldu (fld w 19 6) (fld w 13 6) (fld w 11 2) (fld w 0 11))
  | 0x19 => mk true (.lds (fld w 19 6) (fld w 13 6) (fld w 11 2) (fld w 0 11))
  | 0x1A => mk true (.st (fld w 19 6) (fld w 13 6) (fld w 11 2) (fld w 0 11))
  | 0x1B => mk true (.ldm (fld w 19 6) (fld w 13 6) (fld w 11 2) (fld w 0 11))
  | 0x1C => mk true (.stm (fld w 19 6) (fld w 13 6) (fld w 11 2) (fld w 0 11))
  | 0x20 | 0x21 | 0x22 | 0x23 => decodeAmo w
  | 0x24 => mk true (.rld (fld w 19 6) (fld w 13 6) (fld w 11 2) (fld w 0 11))
  | 0x25 => mk true (.rst (fld w 19 6) (fld w 13 6) (fld w 11 2) (fld w 0 11))
  | 0x26 => decodeRamo w
  | 0x28 => decodeSys w
  | 0x29 => mk (zf w 12 7) (.csrr (fld w 19 6) (fld w 0 12))
  | 0x2A => mk (zf w 12 1 && zf w 19 6) (.csrw (fld w 0 12) (fld w 13 6))
  | 0x2B => mk (zf w 12 1) (.csrs (fld w 19 6) (fld w 0 12) (fld w 13 6))
  | 0x2C => mk (zf w 12 1) (.csrc (fld w 19 6) (fld w 0 12) (fld w 13 6))
  | 0x30 => decodeEng w
  | _ => decodeRes w

/-- R53: the operand fields of a VE word. -/
def veOps (w : Code) : VeOps :=
  { d := fld w 19 4, a := fld w 15 4, b := fld w 11 4, m := fld w 8 3, dly := fld w 3 5,
    sat := flag w 0, negb := flag w 1, f2 := flag w 2 }

/-- R55: the operations of ALU0 and ALU1. -/
def decodeVeAlu (w : Code) : Except Reserved Instr :=
  match fn w 23 6 with
  | 0x0 => mk true (.vadd (fld w 29 1) (veOps w))
  | 0x1 => mk true (.vsub (fld w 29 1) (veOps w))
  | 0x2 => mk true (.vmul (fld w 29 1) (veOps w))
  | 0x3 => mk true (.vfma (fld w 29 1) (veOps w))
  | 0x4 => mk true (.vmin (fld w 29 1) (veOps w))
  | 0x5 => mk true (.vmax (fld w 29 1) (veOps w))
  | 0x6 => mk true (.vabs (fld w 29 1) (veOps w))
  | 0x7 => mk true (.vneg (fld w 29 1) (veOps w))
  | 0x8 => mk true (.vand (fld w 29 1) (veOps w))
  | 0x9 => mk true (.vor (fld w 29 1) (veOps w))
  | 0xa => mk true (.vxor (fld w 29 1) (veOps w))
  | 0xb => mk true (.vshl (fld w 29 1) (veOps w))
  | 0xc => mk true (.vshr (fld w 29 1) (veOps w))
  | 0xd => mk true (.vsar (fld w 29 1) (veOps w))
  | 0xf => mk true (.vsel (fld w 29 1) (veOps w))
  | 0x18 => mk true (.vaddk (fld w 29 1) (veOps w))
  | 0x19 => mk true (.vmulk (fld w 29 1) (veOps w))
  | 0x1a => mk true (.vfmak (fld w 29 1) (veOps w))
  | 0x1b => mk true (.vmink (fld w 29 1) (veOps w))
  | 0x1c => mk true (.vmaxk (fld w 29 1) (veOps w))
  | 0x1d => mk true (.vfill (fld w 29 1) (veOps w))
  | 0x10 | 0x11 | 0x12 | 0x13 | 0x14 | 0x15 | 0x16 | 0x17 =>
      mk true (.vcmp (fld w 29 1) (condOf (fn w 23 3)) (veOps w))
  | _ => .error .opcode

/-- R55: the operations of column 2. -/
def decodeVeSfu (w : Code) : Except Reserved Instr :=
  match fn w 23 6 with
  | 0 => mk true (.vsfuExp (veOps w))
  | 1 => mk true (.vsfuExp2 (veOps w))
  | 2 => mk true (.vsfuLog (veOps w))
  | 3 => mk true (.vsfuLog2 (veOps w))
  | 4 => mk true (.vsfuRcp (veOps w))
  | 5 => mk true (.vsfuRsqrt (veOps w))
  | 6 => mk true (.vsfuSqrt (veOps w))
  | 7 => mk true (.vsfuTanh (veOps w))
  | 8 => mk true (.vsfuSigm (veOps w))
  | 9 => mk true (.vsfuSin (veOps w))
  | 10 => mk true (.vsfuCos (veOps w))
  | 11 => mk true (.vsfuErf (veOps w))
  | _ => .error .opcode

/-- R55: the operations of column 3. -/
def decodeVeCvt (w : Code) : Except Reserved Instr :=
  match fn w 23 6 with
  | 0 => mk true (.vcvt (veOps w))
  | 1 => mk true (.vqnt (veOps w))
  | 2 => mk true (.vdqnt (veOps w))
  | 3 => mk true (.vsrnd (veOps w))
  | _ => .error .opcode

/-- R55: the operations of column 4. -/
def decodeVeRed (w : Code) : Except Reserved Instr :=
  match fn w 23 6 with
  | 0 => mk true (.vrsum (veOps w))
  | 1 => mk true (.vrmax (veOps w))
  | 2 => mk true (.vrmin (veOps w))
  | 3 => mk true (.vramax (veOps w))
  | 4 => mk true (.vrssq (veOps w))
  | 5 => mk true (.vargmx (veOps w))
  | 6 => mk true (.vscan (veOps w))
  | _ => .error .opcode

/-- R55: the operations of column 5. -/
def decodeVeMove (w : Code) : Except Reserved Instr :=
  match fn w 23 6 with
  | 0 => mk true (.vmov (veOps w))
  | 1 => mk true (.viota (veOps w))
  | 2 => mk true (.vgath (veOps w))
  | 3 => mk true (.vscat (veOps w))
  | 4 => mk true (.vbcast (veOps w))
  | 5 => mk true (.vrev (veOps w))
  | 6 => mk true (.vilv (veOps w))
  | 7 => mk true (.vdilv (veOps w))
  | 8 => mk true (.vcomb (veOps w))
  | 9 => mk true (.vgen (veOps w))
  | _ => .error .opcode

/-- R53, R219: the CTL words. -/
def decodeVeCtl (w : Code) : Except Reserved Instr :=
  match fn w 23 6 with
  | 0 => mk (zf w 0 2) (.shapeN (fld w 7 16) (fld w 2 5))
  | 1 => mk (zf w 0 2) (.shapeM (fld w 7 16) (fld w 2 5))
  | 2 => mk (zf w 0 2 && zf w 7 3) (.nest (fld w 20 3) (fld w 14 6) (fld w 10 4) (fld w 2 5))
  | 3 => mk (zf w 0 2 && zf w 15 8) (.vtok (fld w 7 8) (fld w 2 5))
  | 4 => mk (zf w 0 2 && zf w 15 8) (.vwtok (fld w 7 8) (fld w 2 5))
  | 5 => mk (zf w 0 2 && zf w 7 16) (.vnop (fld w 2 5))
  | _ => .error .opcode

/-- R53 to R55: the vector words, by column [31:29]; column 7 is reserved. -/
def decodeVe (w : Code) : Except Reserved Instr :=
  if w = 0 then .error .zeroWord else
  match fn w 29 3 with
  | 0 | 1 => decodeVeAlu w
  | 2 => decodeVeSfu w
  | 3 => decodeVeCvt w
  | 4 => decodeVeRed w
  | 5 => decodeVeMove w
  | 6 => decodeVeCtl w
  | _ => .error .opcode

/-- R56, R57: the matrix step words, by op [31:27]. -/
def decodeMe (w : Code) : Except Reserved Instr :=
  match fn w 27 5 with
  | 0x00 => if w = 0 then .error .zeroWord else mk (zf w 10 17 && zf w 0 5) (.mnop (fld w 5 5))
  | 0x01 => mk (zf w 3 2) (.mma
      { tile := fld w 25 2, aG := flag w 24, a := fld w 20 4, latch := fld w 19 1, sgnA := flag w 18,
        sgnB := flag w 17, acc := fld w 15 2, scl := fld w 11 4, scaled := flag w 10,
        dly := fld w 5 5, fmt := fld w 0 3 })
  | 0x02 => mk (zf w 25 2 && zf w 10 6 && zf w 0 5) (.mlatch
      { bG := flag w 24, b := fld w 20 4, latch := fld w 19 1, fmt := fld w 16 3, dly := fld w 5 5 })
  | 0x03 => mk (zf w 10 13 && zf w 0 5) (.mswap (fld w 25 2) (fld w 23 2) (fld w 5 5))
  | 0x04 => mk (zf w 24 3 && zf w 10 3 && zf w 0 5)
      (.mgath (fld w 20 4) (fld w 16 4) (fld w 13 3) (fld w 5 5))
  | 0x05 => mk (zf w 10 15 && zf w 0 5) (.mzero (fld w 25 2) (fld w 5 5))
  | 0x06 => mk (zf w 10 4 && zf w 0 5)
      (.mdrain (fld w 25 2) (fld w 21 4) (fld w 17 4) (fld w 15 2) (flag w 14) (fld w 5 5))
  | 0x07 => mk (zf w 10 6 && zf w 0 5)
      (.mdrainrq (fld w 25 2) (fld w 21 4) (fld w 17 4) (flag w 16) (fld w 5 5))
  | 0x08 => mk (zf w 10 11 && zf w 0 5) (.mrsum (fld w 25 2) (fld w 21 4) (fld w 5 5))
  | 0x09 => mk (zf w 10 11 && zf w 0 5) (.mcsum (fld w 25 2) (fld w 21 4) (fld w 5 5))
  | 0x0A => mk (zf w 25 2 && zf w 10 10 && zf w 0 5) (.mwscl (fld w 21 4) (fld w 20 1) (fld w 5 5))
  | 0x0B => mk (zf w 25 2 && zf w 10 7 && zf w 0 5) (.mtok (fld w 17 8) (fld w 5 5))
  | 0x0C => mk (zf w 25 2 && zf w 10 7 && zf w 0 5) (.mwtok (fld w 17 8) (fld w 5 5))
  | 0x0D => mk (zf w 25 2 && zf w 10 6 && zf w 0 5) (.mxlatch
      { bG := flag w 24, b := fld w 20 4, latch := fld w 19 1, fmt := fld w 16 3, dly := fld w 5 5 })
  | _ => .error .opcode

/-- R59: the link step words, by op [31:28]. The all-zero word is reserved, since AT needs port 12. -/
def decodeLink (w : Code) : Except Reserved Instr :=
  match fn w 28 4 with
  | 0 => if fn w 24 4 = 12 then mk (zf w 12 12) (.linkAt (fld w 0 12)) else .error .value
  | 1 => mk true (.linkSend (fld w 24 4) (fld w 12 12) (fld w 0 12))
  | 2 => mk true (.linkRecv (fld w 24 4) (fld w 12 12) (fld w 0 12))
  | 3 => mk (zf w 4 20) (.linkFwd (fld w 24 4) (fld w 0 4))
  | 4 => mk true (.linkRedw (fld w 24 4) (fld w 12 12) (fld w 0 12))
  | 5 => mk true (.linkReds (fld w 24 4) (fld w 12 12) (fld w 0 12))
  | 6 => mk (zf w 12 12) (.linkMark (fld w 24 4) (fld w 0 12))
  | 7 => if fn w 24 4 = 12 then mk (zf w 8 16) (.linkKey (fld w 0 8)) else .error .value
  | 8 => if fn w 24 4 = 12 then mk (zf w 0 24) .linkSlack else .error .value
  | 9 => if fn w 24 4 = 12 then mk (zf w 0 24) .linkEnd else .error .value
  | 10 => if fn w 24 4 = 12 then mk (zf w 4 20) (.linkSetdt (fld w 0 4)) else .error .value
  | 11 => mk (zf w 9 15) (.linkTune (fld w 24 4) (fld w 0 3) (fld w 3 6))
  | _ => .error .opcode

/-- The decoder of a code kind (R32). Copy and corbel words are read with their template or block. -/
def decode : CodeKind → Code → Except Reserved Instr
  | .scalar, w => decodeSq w
  | .vector, w => decodeVe w
  | .matrix, w => decodeMe w
  | .link, w => decodeLink w
  | .copy, _ | .corbel, _ => .error .opcode

/-! ### The encoder -/

/-- The word of a list of (value, lowest bit) fields. -/
def wordOf (fs : List (Nat × Nat)) : Code := BitVec.ofNat 32 (fs.foldl (fun n f => n + f.1 * 2 ^ f.2) 0)

/-- R43: the code of a scope. -/
def scopeCode : Scope → Nat
  | .core => 0 | .bay => 1 | .die => 2 | .chip => 3 | .tenant => 4 | .pod => 5 | .system => 6

/-- R48: the code of a level. -/
def levelCode : Level → Nat
  | .unit => 0 | .launch => 1 | .graph => 2 | .phase => 3 | .job => 4

/-- R46: the code of a comparison. -/
def condCode : Cond → Nat
  | .eq => 0 | .ne => 1 | .lt => 2 | .ge => 3 | .ltu => 4 | .geu => 5 | .bits => 6 | .nbits => 7

/-- R46: what an order suffix adds to op 0x20. -/
def ordCode : Ord → Nat
  | .relaxed => 0 | .acq => 1 | .rel => 2 | .ar => 3

/-- SR: a register operation (R40, R45). -/
def encAlu (f : Nat) (d a b : BitVec 6) : Code :=
  wordOf [(1, 25), (d.toNat, 19), (a.toNat, 13), (b.toNat, 7), (f, 0)]

/-- SI: an operation with a 13-bit immediate (R40). -/
def encImm (op : Nat) (d a : BitVec 6) (i : BitVec 13) : Code :=
  wordOf [(op, 25), (d.toNat, 19), (a.toNat, 13), (i.toNat, 0)]

/-- SM: a load or store (R40, R42). -/
def encMem (op : Nat) (t a : BitVec 6) (sz : BitVec 2) (i : BitVec 11) : Code :=
  wordOf [(op, 25), (t.toNat, 19), (a.toNat, 13), (sz.toNat, 11), (i.toNat, 0)]

/-- SA: an atomic (R40, R46). -/
def encAmo (op aop : Nat) (d a b : BitVec 6) (s : Scope) : Code :=
  wordOf [(op, 25), (d.toNat, 19), (a.toNat, 13), (b.toNat, 7), (aop, 3), (scopeCode s, 0)]

/-- SG: a predicate operation (R40, R46). -/
def encPred (f : Nat) (d a b : BitVec 4) : Code :=
  wordOf [(0x0E, 25), (d.toNat, 21), (a.toNat, 17), (b.toNat, 13), (f, 10)]

/-- SB: a branch (R40). -/
def encBr (op : Nat) (p : BitVec 4) (n : Bool) (off : BitVec 20) : Code :=
  wordOf [(op, 25), (p.toNat, 21), (n.toNat, 20), (off.toNat, 0)]

/-- SX: a SYS or ENG function (R40, R48, R50). -/
def encSx (op f : Nat) (a : BitVec 6) (rb imm : Nat) : Code :=
  wordOf [(op, 25), (f, 20), (a.toNat, 14), (rb, 8), (imm, 0)]

/-- A VE word other than a CTL word (R53). -/
def encVe (col op : Nat) (w : VeOps) : Code :=
  wordOf [(col, 29), (op, 23), (w.d.toNat, 19), (w.a.toNat, 15), (w.b.toNat, 11), (w.m.toNat, 8),
    (w.dly.toNat, 3), (w.f2.toNat, 2), (w.negb.toNat, 1), (w.sat.toNat, 0)]

/-- A CTL word (R53). -/
def encCtl (op imm : Nat) (dly : BitVec 5) : Code :=
  wordOf [(6, 29), (op, 23), (imm, 7), (dly.toNat, 2)]

/-- An ME word: its fields in [24:10] as one number (R56). -/
def encMe (op : Nat) (tile : BitVec 2) (mid : List (Nat × Nat)) (dly : BitVec 5) (fl : Nat) : Code :=
  wordOf ([(op, 27), (tile.toNat, 25)] ++ mid ++ [(dly.toNat, 5), (fl, 0)])

/-- A link word (R59). -/
def encLink (op : Nat) (port : Nat) (desc arg : Nat) : Code :=
  wordOf [(op, 28), (port, 24), (desc, 12), (arg, 0)]

/-- The word of an instruction (R40 to R59); an event has none. -/
def encode : Instr → Option Code
  | .ill => some 0
  | .add d a b => some (encAlu 0 d a b)
  | .sub d a b => some (encAlu 1 d a b)
  | .mul d a b => some (encAlu 2 d a b)
  | .mulhs d a b => some (encAlu 3 d a b)
  | .mulhu d a b => some (encAlu 4 d a b)
  | .divs d a b => some (encAlu 5 d a b)
  | .divu d a b => some (encAlu 6 d a b)
  | .rems d a b => some (encAlu 7 d a b)
  | .remu d a b => some (encAlu 8 d a b)
  | .and d a b => some (encAlu 9 d a b)
  | .or d a b => some (encAlu 10 d a b)
  | .xor d a b => some (encAlu 11 d a b)
  | .andn d a b => some (encAlu 12 d a b)
  | .shl d a b => some (encAlu 13 d a b)
  | .shr d a b => some (encAlu 14 d a b)
  | .sar d a b => some (encAlu 15 d a b)
  | .rol d a b => some (encAlu 16 d a b)
  | .mins d a b => some (encAlu 17 d a b)
  | .minu d a b => some (encAlu 18 d a b)
  | .maxs d a b => some (encAlu 19 d a b)
  | .maxu d a b => some (encAlu 20 d a b)
  | .clz d a => some (encAlu 21 d a 0)
  | .ctz d a => some (encAlu 22 d a 0)
  | .popc d a => some (encAlu 23 d a 0)
  | .bswap d a => some (encAlu 24 d a 0)
  | .sextb d a => some (encAlu 25 d a 0)
  | .sexth d a => some (encAlu 26 d a 0)
  | .sextw d a => some (encAlu 27 d a 0)
  | .addi d a i => some (encImm 2 d a i)
  | .andi d a i => some (encImm 3 d a i)
  | .ori d a i => some (encImm 4 d a i)
  | .xori d a i => some (encImm 5 d a i)
  | .shli d a i => some (encImm 6 d a i)
  | .shri d a i => some (encImm 7 d a i)
  | .sari d a i => some (encImm 8 d a i)
  | .muli d a i => some (encImm 9 d a i)
  | .movi d i => some (wordOf [(0x0A, 25), (d.toNat, 19), (i.toNat, 0)])
  | .movk d h i => some (wordOf [(0x0B, 25), (d.toNat, 19), (h.toNat, 17), (i.toNat, 0)])
  | .cmp p a b c q => some (wordOf [(0x0C, 25), (p.toNat, 21), (a.toNat, 15), (b.toNat, 9),
      (condCode c, 5), (q.toNat, 1)])
  | .cmpi p a i c q => some (wordOf [(0x0D, 25), (p.toNat, 21), (a.toNat, 15), (i.toNat, 9),
      (condCode c, 5), (q.toNat, 1)])
  | .pand d a b => some (encPred 0 d a b)
  | .por d a b => some (encPred 1 d a b)
  | .pxor d a b => some (encPred 2 d a b)
  | .pandn d a b => some (encPred 3 d a b)
  | .pmov d a => some (encPred 4 d a 0)
  | .pnot d a => some (encPred 5 d a 0)
  | .pset d => some (encPred 6 d 0 0)
  | .br p n o => some (encBr 0x10 p n o)
  | .call p n o => some (encBr 0x11 p n o)
  | .jr a => some (wordOf [(0x12, 25), (a.toNat, 13), (0, 0)])
  | .callr a => some (wordOf [(0x12, 25), (a.toNat, 13), (1, 0)])
  | .ret => some (wordOf [(0x12, 25), (31, 13), (2, 0)])
  | .brstg o => some (encBr 0x13 0 false o)
  | .brcl p n o => some (encBr 0x14 p n o)
  | .pcl p n k => some (wordOf [(0x15, 25), (p.toNat, 21), (n.toNat, 20), (k.toNat, 17)])
  | .ldu t a sz i => some (encMem 0x18 t a sz i)
  | .lds t a sz i => some (encMem 0x19 t a sz i)
  | .st t a sz i => some (encMem 0x1A t a sz i)
  | .ldm t a n i => some (encMem 0x1B t a n i)
  | .stm t a n i => some (encMem 0x1C t a n i)
  | .amoLd o d a s => some (encAmo (0x20 + ordCode o) 0 d a 0 s)
  | .amoSt o a b s => some (encAmo (0x20 + ordCode o) 1 0 a b s)
  | .amoSwap o d a b s => some (encAmo (0x20 + ordCode o) 2 d a b s)
  | .amoCas o d a b s => some (encAmo (0x20 + ordCode o) 3 d a b s)
  | .amoAdd o d a b s => some (encAmo (0x20 + ordCode o) 4 d a b s)
  | .amoAnd o d a b s => some (encAmo (0x20 + ordCode o) 5 d a b s)
  | .amoOr o d a b s => some (encAmo (0x20 + ordCode o) 6 d a b s)
  | .amoXor o d a b s => some (encAmo (0x20 + ordCode o) 7 d a b s)
  | .amoMins o d a b s => some (encAmo (0x20 + ordCode o) 8 d a b s)
  | .amoMinu o d a b s => some (encAmo (0x20 + ordCode o) 9 d a b s)
  | .amoMaxs o d a b s => some (encAmo (0x20 + ordCode o) 10 d a b s)
  | .amoMaxu o d a b s => some (encAmo (0x20 + ordCode o) 11 d a b s)
  | .amoFadd o d a b s => some (encAmo (0x20 + ordCode o) 12 d a b s)
  | .rld t a sz i => some (encMem 0x24 t a sz i)
  | .rst t a sz i => some (encMem 0x25 t a sz i)
  | .ramoLd d a s => some (encAmo 0x26 0 d a 0 s)
  | .ramoSt a b s => some (encAmo 0x26 1 0 a b s)
  | .ramoSwap d a b s => some (encAmo 0x26 2 d a b s)
  | .ramoCas d a b s => some (encAmo 0x26 3 d a b s)
  | .ramoAdd d a b s => some (encAmo 0x26 4 d a b s)
  | .ramoAnd d a b s => some (encAmo 0x26 5 d a b s)
  | .ramoOr d a b s => some (encAmo 0x26 6 d a b s)
  | .ramoXor d a b s => some (encAmo 0x26 7 d a b s)
  | .ramoMins d a b s => some (encAmo 0x26 8 d a b s)
  | .ramoMinu d a b s => some (encAmo 0x26 9 d a b s)
  | .ramoMaxs d a b s => some (encAmo 0x26 10 d a b s)
  | .ramoMaxu d a b s => some (encAmo 0x26 11 d a b s)
  | .ramoFadd d a b s => some (encAmo 0x26 12 d a b s)
  | .nop => some (encSx 0x28 0 0 0 0)
  | .trap i => some (encSx 0x28 1 0 0 i.toNat)
  | .eret => some (encSx 0x28 2 0 0 0)
  | .uiret => some (encSx 0x28 3 0 0 0)
  | .waiti => some (encSx 0x28 4 0 0 0)
  | .halt => some (encSx 0x28 5 0 0 0)
  | .fence s => some (encSx 0x28 6 0 0 (scopeCode s))
  | .qfence m => some (encSx 0x28 7 0 0 m.toNat)
  | .phase s => some (encSx 0x28 8 0 0 (scopeCode s))
  | .tide a => some (encSx 0x28 9 a 0 0)
  | .keyst i => some (encSx 0x28 10 0 0 i.toNat)
  | .uipoll => some (encSx 0x28 11 0 0 0)
  | .cancel l => some (encSx 0x28 12 0 0 (levelCode l))
  | .csrr d c => some (wordOf [(0x29, 25), (d.toNat, 19), (c.toNat, 0)])
  | .csrw c a => some (wordOf [(0x2A, 25), (a.toNat, 13), (c.toNat, 0)])
  | .csrs d c a => some (wordOf [(0x2B, 25), (d.toNat, 19), (a.toNat, 13), (c.toNat, 0)])
  | .csrc d c a => some (wordOf [(0x2C, 25), (d.toNat, 19), (a.toNat, 13), (c.toNat, 0)])
  | .vrun a n => some (encSx 0x30 0 a 0 n.toNat)
  | .mrun a t n => some (encSx 0x30 1 a t.toNat n.toNat)
  | .sopen n => some (encSx 0x30 2 0 0 n.toNat)
  | .sclose n => some (encSx 0x30 3 0 0 n.toNat)
  | .swait n => some (encSx 0x30 4 0 0 n.toNat)
  | .crun a d n => some (encSx 0x30 5 a d.toNat n.toNat)
  | .mtokw t => some (encSx 0x30 6 0 0 t.toNat)
  | .vtokw t => some (encSx 0x30 7 0 0 t.toNat)
  | .sset s f g => some (wordOf [(0x31, 25), (s.toNat, 21), (f.toNat, 16), (g.toNat, 10)])
  | .sget s f g => some (wordOf [(0x32, 25), (s.toNat, 21), (f.toNat, 16), (g.toNat, 10)])
  | .vkset k a => some (wordOf [(0x33, 25), (k.toNat, 21), (a.toNat, 15)])
  | .gnset n f g => some (wordOf [(0x34, 25), (n.toNat, 21), (f.toNat, 16), (g.toNat, 10)])
  | .gnsetFaddr n g => some (wordOf [(0x34, 25), (n.toNat, 21), (9, 16), (g.toNat, 10)])
  | .gnget n f g => some (wordOf [(0x35, 25), (n.toNat, 21), (f.toNat, 16), (g.toNat, 10)])
  | .gnpeek d a b n => some (wordOf [(0x36, 25), (d.toNat, 19), (a.toNat, 13), (b.toNat, 7), (n.toNat, 4)])
  | .ntset t l f g => some (wordOf [(0x37, 25), (t.toNat, 24), (l.toNat, 21), (f.toNat, 16), (g.toNat, 10)])
  | .binit a n => some (wordOf [(0x38, 25), (0, 23), (a.toNat, 13), (n.toNat, 4)])
  | .barr n => some (wordOf [(0x38, 25), (1, 23), (n.toNat, 4)])
  | .bwait n => some (wordOf [(0x38, 25), (2, 23), (n.toNat, 4)])
  | .btest p n => some (wordOf [(0x38, 25), (3, 23), (p.toNat, 19), (n.toNat, 4)])
  | .cwaitc a l => some (wordOf [(0x39, 25), (0, 24), (a.toNat, 12), (levelCode l, 9)])
  | .cread d l => some (wordOf [(0x39, 25), (1, 24), (d.toNat, 18), (levelCode l, 9)])
  | .lrpatch a b => some (wordOf [(0x3A, 25), (0, 23), (a.toNat, 11), (b.toNat, 5)])
  | .lrarm a => some (wordOf [(0x3A, 25), (1, 23), (a.toNat, 11)])
  | .lrstat d a => some (wordOf [(0x3A, 25), (2, 23), (d.toNat, 17), (a.toNat, 11)])
  | .lease l p k r e => some (wordOf [(0x3B, 25), (0, 23), (l.toNat, 19), (p.toNat, 15), (k.toNat, 12),
      (r.toNat, 10), (e.toNat, 9)])
  | .lrel l => some (wordOf [(0x3B, 25), (1, 23), (l.toNat, 19)])
  | .lstat d l => some (wordOf [(0x3B, 25), (2, 23), (l.toNat, 19), (d.toNat, 3)])
  | .lwait l => some (wordOf [(0x3B, 25), (3, 23), (l.toNat, 19)])
  | .hwait h t => some (wordOf [(0x3C, 25), (0, 23), (h.toNat, 15), (t.toNat, 13)])
  | .hset h t => some (wordOf [(0x3C, 25), (1, 23), (h.toNat, 15), (t.toNat, 13)])
  | .htest p h t => some (wordOf [(0x3C, 25), (2, 23), (h.toNat, 15), (t.toNat, 13), (p.toNat, 9)])
  | .pgreq d a => some (wordOf [(0x3D, 25), (0, 23), (d.toNat, 17), (a.toNat, 11)])
  | .pgstat d a => some (wordOf [(0x3D, 25), (1, 23), (d.toNat, 17), (a.toNat, 11)])
  | .nqpop d a => some (wordOf [(0x3D, 25), (2, 23), (d.toNat, 17), (a.toNat, 11)])
  | .mclr m => some (wordOf [(0x3E, 25), (0, 22), (m.toNat, 13)])
  | .mset m => some (wordOf [(0x3E, 25), (1, 22), (m.toNat, 13)])
  | .mpop d m => some (wordOf [(0x3E, 25), (2, 22), (d.toNat, 16), (m.toNat, 10)])
  | .mfirst d m => some (wordOf [(0x3E, 25), (3, 22), (d.toNat, 16), (m.toNat, 10)])
  | .mand d a b => some (wordOf [(0x3E, 25), (4, 22), (d.toNat, 13), (a.toNat, 10), (b.toNat, 7)])
  | .cstart a => some (wordOf [(0x3F, 25), (0, 23), (a.toNat, 17)])
  | .cend => some (wordOf [(0x3F, 25), (1, 23)])
  | .cwait a => some (wordOf [(0x3F, 25), (2, 23), (a.toNat, 17)])
  | .vadd c w => some (encVe c.toNat 0x0 w)
  | .vsub c w => some (encVe c.toNat 0x1 w)
  | .vmul c w => some (encVe c.toNat 0x2 w)
  | .vfma c w => some (encVe c.toNat 0x3 w)
  | .vmin c w => some (encVe c.toNat 0x4 w)
  | .vmax c w => some (encVe c.toNat 0x5 w)
  | .vabs c w => some (encVe c.toNat 0x6 w)
  | .vneg c w => some (encVe c.toNat 0x7 w)
  | .vand c w => some (encVe c.toNat 0x8 w)
  | .vor c w => some (encVe c.toNat 0x9 w)
  | .vxor c w => some (encVe c.toNat 0xa w)
  | .vshl c w => some (encVe c.toNat 0xb w)
  | .vshr c w => some (encVe c.toNat 0xc w)
  | .vsar c w => some (encVe c.toNat 0xd w)
  | .vsel c w => some (encVe c.toNat 0xf w)
  | .vaddk c w => some (encVe c.toNat 0x18 w)
  | .vmulk c w => some (encVe c.toNat 0x19 w)
  | .vfmak c w => some (encVe c.toNat 0x1a w)
  | .vmink c w => some (encVe c.toNat 0x1b w)
  | .vmaxk c w => some (encVe c.toNat 0x1c w)
  | .vfill c w => some (encVe c.toNat 0x1d w)
  | .vcmp c cc w => some (encVe c.toNat (0x10 + condCode cc) w)
  | .vsfuExp w => some (encVe 2 0 w)
  | .vsfuExp2 w => some (encVe 2 1 w)
  | .vsfuLog w => some (encVe 2 2 w)
  | .vsfuLog2 w => some (encVe 2 3 w)
  | .vsfuRcp w => some (encVe 2 4 w)
  | .vsfuRsqrt w => some (encVe 2 5 w)
  | .vsfuSqrt w => some (encVe 2 6 w)
  | .vsfuTanh w => some (encVe 2 7 w)
  | .vsfuSigm w => some (encVe 2 8 w)
  | .vsfuSin w => some (encVe 2 9 w)
  | .vsfuCos w => some (encVe 2 10 w)
  | .vsfuErf w => some (encVe 2 11 w)
  | .vcvt w => some (encVe 3 0 w)
  | .vqnt w => some (encVe 3 1 w)
  | .vdqnt w => some (encVe 3 2 w)
  | .vsrnd w => some (encVe 3 3 w)
  | .vrsum w => some (encVe 4 0 w)
  | .vrmax w => some (encVe 4 1 w)
  | .vrmin w => some (encVe 4 2 w)
  | .vramax w => some (encVe 4 3 w)
  | .vrssq w => some (encVe 4 4 w)
  | .vargmx w => some (encVe 4 5 w)
  | .vscan w => some (encVe 4 6 w)
  | .vmov w => some (encVe 5 0 w)
  | .viota w => some (encVe 5 1 w)
  | .vgath w => some (encVe 5 2 w)
  | .vscat w => some (encVe 5 3 w)
  | .vbcast w => some (encVe 5 4 w)
  | .vrev w => some (encVe 5 5 w)
  | .vilv w => some (encVe 5 6 w)
  | .vdilv w => some (encVe 5 7 w)
  | .vcomb w => some (encVe 5 8 w)
  | .vgen w => some (encVe 5 9 w)
  | .shapeN i y => some (encCtl 0 i.toNat y)
  | .shapeM i y => some (encCtl 1 i.toNat y)
  | .nest l n k y => some (encCtl 2 (l.toNat * 2 ^ 13 + n.toNat * 2 ^ 7 + k.toNat * 2 ^ 3) y)
  | .vtok t y => some (encCtl 3 t.toNat y)
  | .vwtok t y => some (encCtl 4 t.toNat y)
  | .vnop y => some (encCtl 5 0 y)
  | .mnop y => some (encMe 0 0 [] y 0)
  | .mma w => some (encMe 1 w.tile [(w.aG.toNat, 24), (w.a.toNat, 20), (w.latch.toNat, 19),
      (w.sgnA.toNat, 18), (w.sgnB.toNat, 17), (w.acc.toNat, 15), (w.scl.toNat, 11),
      (w.scaled.toNat, 10)] w.dly w.fmt.toNat)
  | .mlatch w => some (encMe 2 0 [(w.bG.toNat, 24), (w.b.toNat, 20), (w.latch.toNat, 19),
      (w.fmt.toNat, 16)] w.dly 0)
  | .mswap t u y => some (encMe 3 t [(u.toNat, 23)] y 0)
  | .mgath i r f y => some (encMe 4 0 [(i.toNat, 20), (r.toNat, 16), (f.toNat, 13)] y 0)
  | .mzero t y => some (encMe 5 t [] y 0)
  | .mdrain t d f r s y => some (encMe 6 t [(d.toNat, 21), (f.toNat, 17), (r.toNat, 15), (s.toNat, 14)] y 0)
  | .mdrainrq t d q o y => some (encMe 7 t [(d.toNat, 21), (q.toNat, 17), (o.toNat, 16)] y 0)
  | .mrsum t s y => some (encMe 8 t [(s.toNat, 21)] y 0)
  | .mcsum t s y => some (encMe 9 t [(s.toNat, 21)] y 0)
  | .mwscl s x y => some (encMe 10 0 [(s.toNat, 21), (x.toNat, 20)] y 0)
  | .mtok t y => some (encMe 11 0 [(t.toNat, 17)] y 0)
  | .mwtok t y => some (encMe 12 0 [(t.toNat, 17)] y 0)
  | .mxlatch w => some (encMe 13 0 [(w.bG.toNat, 24), (w.b.toNat, 20), (w.latch.toNat, 19),
      (w.fmt.toNat, 16)] w.dly 0)
  | .linkAt s => some (encLink 0 12 0 s.toNat)
  | .linkSend p d t => some (encLink 1 p.toNat d.toNat t.toNat)
  | .linkRecv p d t => some (encLink 2 p.toNat d.toNat t.toNat)
  | .linkFwd p q => some (encLink 3 p.toNat 0 q.toNat)
  | .linkRedw p d t => some (encLink 4 p.toNat d.toNat t.toNat)
  | .linkReds p d t => some (encLink 5 p.toNat d.toNat t.toNat)
  | .linkMark p i => some (encLink 6 p.toNat 0 i.toNat)
  | .linkKey k => some (encLink 7 12 0 k.toNat)
  | .linkSlack => some (encLink 8 12 0 0)
  | .linkEnd => some (encLink 9 12 0 0)
  | .linkSetdt s => some (encLink 10 12 0 s.toNat)
  | .linkTune p l c => some (encLink 11 p.toNat 0 (c.toNat * 2 ^ 3 + l.toNat))
  | .tidelRead .. | .counterLowRead .. | .loadDataReturn .. | .activationStart ..
  | .streamGateGrant .. | .streamAccess .. | .streamAccessReturn .. | .activationFinish ..
  | .corbelWakeEnd .. | .tkInit .. | .tkFeed .. | .tkEmit .. | .corbelCommandEnd ..
  | .copyStart .. | .copyStatusRead .. | .copyTakeUp .. | .copyComplete .. | .unitPlacement ..
  | .reservedWord .. | .scheduledSlot .. | .copyMove .. | .userInterruptEntry | .waitiWake
  | .dispatchQueueSpace | .holdCycle | .courseSlip | .courseCcOverflow | .courseStart
  | .courseEndComplete | .cwaitComplete | .activationAttach | .streamClose | .swaitComplete
  | .segmentRestoreComplete | .veEntryStart | .routerDispatch | .veEntryFinish | .vtokAdd
  | .vwtokComplete | .vtokwComplete | .meEntryStart | .meEntryFinish | .mtokAdd | .mwtokComplete
  | .mtokwComplete | .ntsetComplete | .freqTableLoaded | .crunAppend | .lwaitComplete
  | .lrelComplete | .hwaitComplete | .preemptionComplete | .unitDone | .cwaitcComplete
  | .barrArrival | .bwaitComplete | .pgreqPost | .retryResend | .phaseDepart | .fenceComplete
  | .qfenceComplete | .remoteSend | .routeSwap | .tideLost | .faultFrameTaken | .machineCheck
  | .keystoneWrite | .debugStop | .powerOn | .hbmTrained | .hostLinkUp | .bringUpReady
  | .coreCycle | .powerLoss | .segmentSaveComplete .. | .loopBufferExit .. | .leaseQueueGrant ..
  | .leaseAging .. | .corbelWarmTimeout .. | .tkSample .. | .tkReset .. | .xpConf .. | .xpTile ..
  | .ifBook .. | .ifRun .. | .ifReset .. | .slKey .. | .slIv .. | .slEnc .. | .slDec ..
  | .slFin .. | .scConf .. | .scRun .. | .scHist .. | .scCompact .. | .scCarry .. | .rlDesc ..
  | .rlMove .. | .rlFlush .. | .emergencySample .. | .thermalTrip .. | .copyPrologueClaim ..
  | .launchPoolWrite .. | .jobStart .. | .jobCancel .. | .gangPlacement .. | .readyQueueAging ..
  | .sliceEnd .. | .migratePage .. | .migratePageRefuse .. | .migrationCopyEnd ..
  | .migrationTimeout .. | .hostRdmaWrite .. | .hostRdmaRead .. | .hostRdmaAtomic ..
  | .hostSend .. | .asyncRead .. | .asyncWrite .. | .asyncAtomic .. | .asyncReduce ..
  | .asyncHandle .. | .asyncReply .. | .asyncNack .. | .asyncRetry .. | .remoteReplyTimeout ..
  | .asyncSlot .. | .markerReceive .. | .rsigRelease .. | .laneRelock .. | .laneRelockTimeout ..
  | .linkFailed .. | .replaySlot .. | .alarmSlot .. | .tideExchange .. | .elasticRecentre ..
  | .scrubError .. | .keystoneHeaderWrite .. | .rollbackRestore .. | .rollbackResume ..
  | .deviceInfo .. | .attest .. | .measureRead .. | .vfCreate .. | .vfDestroy ..
  | .vfTeardownComplete .. | .teardownReconcile .. | .quarantineEnd .. | .partitionAssign ..
  | .regionMap .. | .rangeSet .. | .policyInstall .. | .scopepolSet .. | .keySlotLoad ..
  | .counterRead .. | .counterSessionOpen .. | .counterSessionClose .. | .counterSessionExport ..
  | .counterSessionImport .. | .traceRead .. | .traceSessionOpen .. | .traceSessionClose ..
  | .traceSessionExport .. | .traceSessionImport .. | .podJoin .. | .tideRoot ..
  | .chordPlanLoad .. | .scheduleLoad .. | .detourLoad .. | .keystoneConf .. | .reset ..
  | .isuneUnknownOpcode .. | .smbusPcapWrite .. | .smbusRegisterWrite .. => none

/-- The code kind of an instruction (R32); an event is no word of code. -/
def kindOf : Instr → Option CodeKind
  | .ill | .add .. | .sub .. | .mul .. | .mulhs .. | .mulhu .. | .divs .. | .divu .. | .rems ..
  | .remu .. | .and .. | .or .. | .xor .. | .andn .. | .shl .. | .shr .. | .sar .. | .rol ..
  | .mins .. | .minu .. | .maxs .. | .maxu .. | .clz .. | .ctz .. | .popc .. | .bswap ..
  | .sextb .. | .sexth .. | .sextw .. | .addi .. | .andi .. | .ori .. | .xori .. | .shli ..
  | .shri .. | .sari .. | .muli .. | .movi .. | .movk .. | .cmp .. | .cmpi .. | .pand ..
  | .por .. | .pxor .. | .pandn .. | .pmov .. | .pnot .. | .pset .. | .br .. | .call .. | .jr ..
  | .callr .. | .ret | .brstg .. | .brcl .. | .pcl .. | .ldu .. | .lds .. | .st .. | .ldm ..
  | .stm .. | .amoLd .. | .amoSt .. | .amoSwap .. | .amoCas .. | .amoAdd .. | .amoAnd ..
  | .amoOr .. | .amoXor .. | .amoMins .. | .amoMinu .. | .amoMaxs .. | .amoMaxu .. | .amoFadd ..
  | .rld .. | .rst .. | .ramoLd .. | .ramoSt .. | .ramoSwap .. | .ramoCas .. | .ramoAdd ..
  | .ramoAnd .. | .ramoOr .. | .ramoXor .. | .ramoMins .. | .ramoMinu .. | .ramoMaxs ..
  | .ramoMaxu .. | .ramoFadd .. | .nop | .trap .. | .eret | .uiret | .waiti | .halt | .fence ..
  | .qfence .. | .phase .. | .tide .. | .keyst .. | .uipoll | .cancel .. | .csrr .. | .csrw ..
  | .csrs .. | .csrc .. | .vrun .. | .mrun .. | .sopen .. | .sclose .. | .swait .. | .crun ..
  | .mtokw .. | .vtokw .. | .sset .. | .sget .. | .vkset .. | .gnset .. | .gnsetFaddr ..
  | .gnget .. | .gnpeek .. | .ntset .. | .binit .. | .barr .. | .bwait .. | .btest ..
  | .cwaitc .. | .cread .. | .lrpatch .. | .lrarm .. | .lrstat .. | .lease .. | .lrel ..
  | .lstat .. | .lwait .. | .hwait .. | .hset .. | .htest .. | .pgreq .. | .pgstat .. | .nqpop ..
  | .mclr .. | .mset .. | .mpop .. | .mfirst .. | .mand .. | .cstart .. | .cend | .cwait .. => some .scalar
  | .vadd .. | .vsub .. | .vmul .. | .vfma .. | .vmin .. | .vmax .. | .vabs .. | .vneg ..
  | .vand .. | .vor .. | .vxor .. | .vshl .. | .vshr .. | .vsar .. | .vsel .. | .vaddk ..
  | .vmulk .. | .vfmak .. | .vmink .. | .vmaxk .. | .vfill .. | .vcmp .. | .vsfuExp ..
  | .vsfuExp2 .. | .vsfuLog .. | .vsfuLog2 .. | .vsfuRcp .. | .vsfuRsqrt .. | .vsfuSqrt ..
  | .vsfuTanh .. | .vsfuSigm .. | .vsfuSin .. | .vsfuCos .. | .vsfuErf .. | .vcvt .. | .vqnt ..
  | .vdqnt .. | .vsrnd .. | .vrsum .. | .vrmax .. | .vrmin .. | .vramax .. | .vrssq ..
  | .vargmx .. | .vscan .. | .vmov .. | .viota .. | .vgath .. | .vscat .. | .vbcast .. | .vrev ..
  | .vilv .. | .vdilv .. | .vcomb .. | .vgen .. | .shapeN .. | .shapeM .. | .nest .. | .vtok ..
  | .vwtok .. | .vnop .. => some .vector
  | .mnop .. | .mma .. | .mlatch .. | .mswap .. | .mgath .. | .mzero .. | .mdrain ..
  | .mdrainrq .. | .mrsum .. | .mcsum .. | .mwscl .. | .mtok .. | .mwtok .. | .mxlatch .. => some .matrix
  | .linkAt .. | .linkSend .. | .linkRecv .. | .linkFwd .. | .linkRedw .. | .linkReds ..
  | .linkMark .. | .linkKey .. | .linkSlack | .linkEnd | .linkSetdt .. | .linkTune .. => some .link
  | .reservedWord .. | .tidelRead .. | .counterLowRead .. | .loadDataReturn ..
  | .activationStart .. | .streamGateGrant .. | .streamAccess .. | .streamAccessReturn ..
  | .activationFinish .. | .corbelWakeEnd .. | .tkInit .. | .tkFeed .. | .tkEmit ..
  | .corbelCommandEnd .. | .copyStart .. | .copyStatusRead .. | .copyTakeUp .. | .copyComplete ..
  | .unitPlacement .. | .scheduledSlot .. | .copyMove .. | .userInterruptEntry | .waitiWake
  | .dispatchQueueSpace | .holdCycle | .courseSlip | .courseCcOverflow | .courseStart
  | .courseEndComplete | .cwaitComplete | .activationAttach | .streamClose | .swaitComplete
  | .segmentRestoreComplete | .veEntryStart | .routerDispatch | .veEntryFinish | .vtokAdd
  | .vwtokComplete | .vtokwComplete | .meEntryStart | .meEntryFinish | .mtokAdd | .mwtokComplete
  | .mtokwComplete | .ntsetComplete | .freqTableLoaded | .crunAppend | .lwaitComplete
  | .lrelComplete | .hwaitComplete | .preemptionComplete | .unitDone | .cwaitcComplete
  | .barrArrival | .bwaitComplete | .pgreqPost | .retryResend | .phaseDepart | .fenceComplete
  | .qfenceComplete | .remoteSend | .routeSwap | .tideLost | .faultFrameTaken | .machineCheck
  | .keystoneWrite | .debugStop | .powerOn | .hbmTrained | .hostLinkUp | .bringUpReady
  | .coreCycle | .powerLoss | .segmentSaveComplete .. | .loopBufferExit .. | .leaseQueueGrant ..
  | .leaseAging .. | .corbelWarmTimeout .. | .tkSample .. | .tkReset .. | .xpConf .. | .xpTile ..
  | .ifBook .. | .ifRun .. | .ifReset .. | .slKey .. | .slIv .. | .slEnc .. | .slDec ..
  | .slFin .. | .scConf .. | .scRun .. | .scHist .. | .scCompact .. | .scCarry .. | .rlDesc ..
  | .rlMove .. | .rlFlush .. | .emergencySample .. | .thermalTrip .. | .copyPrologueClaim ..
  | .launchPoolWrite .. | .jobStart .. | .jobCancel .. | .gangPlacement .. | .readyQueueAging ..
  | .sliceEnd .. | .migratePage .. | .migratePageRefuse .. | .migrationCopyEnd ..
  | .migrationTimeout .. | .hostRdmaWrite .. | .hostRdmaRead .. | .hostRdmaAtomic ..
  | .hostSend .. | .asyncRead .. | .asyncWrite .. | .asyncAtomic .. | .asyncReduce ..
  | .asyncHandle .. | .asyncReply .. | .asyncNack .. | .asyncRetry .. | .remoteReplyTimeout ..
  | .asyncSlot .. | .markerReceive .. | .rsigRelease .. | .laneRelock .. | .laneRelockTimeout ..
  | .linkFailed .. | .replaySlot .. | .alarmSlot .. | .tideExchange .. | .elasticRecentre ..
  | .scrubError .. | .keystoneHeaderWrite .. | .rollbackRestore .. | .rollbackResume ..
  | .deviceInfo .. | .attest .. | .measureRead .. | .vfCreate .. | .vfDestroy ..
  | .vfTeardownComplete .. | .teardownReconcile .. | .quarantineEnd .. | .partitionAssign ..
  | .regionMap .. | .rangeSet .. | .policyInstall .. | .scopepolSet .. | .keySlotLoad ..
  | .counterRead .. | .counterSessionOpen .. | .counterSessionClose .. | .counterSessionExport ..
  | .counterSessionImport .. | .traceRead .. | .traceSessionOpen .. | .traceSessionClose ..
  | .traceSessionExport .. | .traceSessionImport .. | .podJoin .. | .tideRoot ..
  | .chordPlanLoad .. | .scheduleLoad .. | .detourLoad .. | .keystoneConf .. | .reset ..
  | .isuneUnknownOpcode .. | .smbusPcapWrite .. | .smbusRegisterWrite .. => none

/-! ### The numbering of the opcode table -/

/-- The four code kinds share one 32-bit number space (R32): a number of the table stands for a scalar
word where the scalar decoder accepts it, then for a vector, a matrix and a link word (DESIGN CHOICE, log 4). -/
def kindOfWord (w : Code) : Option (CodeKind × Instr) :=
  match decodeSq w with
  | .ok i => some (.scalar, i)
  | .error _ =>
    match decodeVe w with
    | .ok i => some (.vector, i)
    | .error _ =>
      match decodeMe w with
      | .ok i => some (.matrix, i)
      | .error _ =>
        match decodeLink w with
        | .ok i => some (.link, i)
        | .error _ => none

/-- The instruction of a row's word, of nbits bits counted from the least significant bit. Every
word has 32 bits. -/
def decodeTableWord (nbits w : Nat) : Option Instr :=
  if w < 2 ^ nbits then (kindOfWord (BitVec.ofNat 32 w)).map (·.2) else none

end Sys2Proof
end

