-- ==== Sys2Proof/Machine/Schedule.lean ====
section
/-! DEFINITION. POD_JOIN, TIDE_ROOT, CHORD_PLAN_LOAD, SCHEDULE_LOAD and DETOUR_LOAD: what the pod commands of firmware
check and load (R155, R390, R391, R393 to R399, R401, R414, R416, R442, R446). -/

namespace Sys2Proof.Machine

/-! ### POD_JOIN and TIDE_ROOT (R155, R390) -/

/-- R390: the package number of coordinates. -/
def packageNumber : List Nat → List Nat → Nat
  | x :: xs, d :: ds => x + d * packageNumber xs ds
  | _, _ => 0

/-- R407: up to four routes of up to 32 ports for each endpoint. -/
def routesForm (rs : List RouteSpec) : Bool :=
  rs.all fun r => decide (r.routes.length ≤ 4) && r.routes.all fun p => decide (p.length ≤ 32) && p.all fun x => decide (x < 12)

/-- R390: sizes and coordinates, and a parent across one torus link. -/
def joinForm (dims coords : List Nat) (parent : Nat) : Bool :=
  dims.length == 4 && coords.length == 4 && dims.all (fun d => decide (1 ≤ d) && decide (d ≤ 16)) &&
  decide (dims.foldl (· * ·) 1 ≤ 4096) && (coords.zip dims).all (fun e => decide (e.1 < e.2)) && decide (parent < 8)

/-- POD_JOIN (R155, R390, R407): tide time makes its one forward step when the package first joins. -/
def execPodJoin (h : IsuneHdr) (dims coords : List Nat) (parent : Nat) (tide : Word) (routes : List RouteSpec) (s : State) : Res :=
  command secureCmd h (fun s =>
    if !joinForm dims coords parent || !routesForm routes then answer s 1 0
    else
      let t := if !s.pod.joined && decide (s.tide.toNat < tide.toNat) then tide else s.tide
      let pod := { s.pod with joined := true, dims := dims, pkg := packageNumber coords dims, parent := parent, routes := routes }
      measured { s with tide := t, pod := pod } 4 h) s

/-- TIDE_ROOT (R155). -/
def execTideRoot (h : IsuneHdr) (root : Nat) (ptp : Option Nat) (s : State) : Res :=
  command secureCmd h (fun s =>
    if podSize s ≤ root then answer s 1 0 else measured { s with pod := { s.pod with root := some root, ptp := ptp } } 4 h) s

/-! ### CHORD_PLAN_LOAD (R391, R414) -/

/-- Fields of a port in a plan. -/
def chordForm (c : ChordSpec) : Bool :=
  decide (8 ≤ c.port) && decide (c.port < 12) && decide (2 ≤ c.radix) && decide (c.radix ≤ 64) && decide (c.index < c.radix) &&
  c.lanes.length == 8

/-- R391: no two lanes of a port share a channel, and each lit lane meets one lane at its peer. -/
def chordGood (c : ChordSpec) : Bool :=
  distinct (c.lanes.map (·.tx.toNat)) && distinct (c.lanes.map (·.rx.toNat)) &&
  ((List.range 8).zip c.lanes).all fun e =>
    e.2.tx.toNat % c.radix == 0 ||
    (match c.peers.find? fun p => p.1 == e.1 with
      | some p => (p.2.filter (· == e.2.tx)).length == 1
      | none => false)

/-- CHORD_PLAN_LOAD (R391, R414). -/
def execChordPlanLoad (h : IsuneHdr) (ports : List ChordSpec) (routes : List RouteSpec) (tsw : Word) (s : State) : Res :=
  command secureCmd h (fun s =>
    if !ports.all chordForm || !routesForm routes then answer s 1 0
    else if s.pod.plan.isSome then answer s 7 0
    else
      match ports.findIdx? fun c => !chordGood c with
      | some k => answer s 11 k
      | none =>
        if tsw.toNat % Config.periodNs != 0 || decide (tsw.toNat < s.tide.toNat) then answer s 11 ports.length
        else
          let plan : Plan := { ports := ports, routes := routes, tsw := tsw, marked := false }
          measured { s with pod := { s.pod with plan := some plan } } 4 h) s

/-! ### The checks of a program (R393) -/

/-- R395, R396, R446: a descriptor for a port, in the world of the command. -/
def descForm (port : Nat) (d : List Byte) : Bool :=
  d.length == 32 && decide (dKind d ≤ 1) && (footprint d).isSome && decide (fieldAt d 3 1 ≤ 1) && decide (dLane d < 8) &&
  (decide (8 ≤ port) || dLane d == 0) && fieldAt d 9 1 == 0 && decide (1 ≤ dTiles d) && decide (dTiles d ≤ 4096) &&
  sigKind (dRsig d) != 3 && sigKind (dDsig d) != 3 && dRsig d / 256 % 64 == 0 && dDsig d / 256 % 64 == 0 &&
  !(sigKind (dRsig d) != 0 && dRsig d == dDsig d) && dAddr d % 256 == 0 && dStep d % 256 == 0 &&
  decide ((footprint d).getD 0 ≤ dStep d)

/-- R396: the area of an LKIND 1 descriptor lies in resident, writable HBM of this package. -/
def descArea (s : State) (d : List Byte) : Bool :=
  dKind d == 0 ||
  pagesOk s (dVf d) .store (fun t => t.kind == 0) (dAddr d) ((dTiles d - 1) * dStep d + (footprint d).getD 0)

/-- A use of a port or lane: period after the start, slot, port, lane, and whether it transmits. -/
abbrev SlotUse := Nat × Nat × Nat × Nat × Bool

/-- A scan of the words of a program: periods passed, the last AT of this one, whether END has come, the slots of
TUNE words by lane, the tiles named by descriptor, the uses, and the first check that fails. -/
structure Scan where
  per : Nat
  at' : Option Nat
  ended : Bool
  tunes : Tab Nat
  named : Tab Nat
  uses : List SlotUse
  fails : Option Nat
  deriving DecidableEq, Repr

def Scan.fail (x : Scan) (n : Nat) : Scan := if x.fails.isSome then x else { x with fails := some n }

/-- A check of a word that must hold. -/
def Scan.need (x : Scan) (n : Nat) (ok : Bool) : Scan := if ok then x else x.fail n

/-- R416: a chord lane that is dark when the program is loaded, and that neither a plan to come nor a TUNE of the
program lights. -/
def laneDark (s : State) (x : Scan) (port lane : Nat) : Bool :=
  decide (8 ≤ port) && (s.link port).radix != 0 && (portPlan s port).isNone && (tfind x.tunes lane).isNone &&
  !(tget (s.link port).lanes lane blankLane).lit

/-- A word that sends or receives a tile (R393, R396, R397, R399, R416). `op` is 0 SEND, 1 RECV, 2 REDW, 3 REDS. -/
def scanTile (s : State) (port : Nat) (descs : List (List Byte)) (op : Nat) (p : BitVec 4) (desc t : BitVec 12) (x : Scan) : Scan :=
  let x := x.need 2 (p.toNat == port)
  match x.at', descs[desc.toNat]? with
  | none, _ => x.fail 3
  | _, none => x.fail 6
  | some a, some d =>
    let lane := dLane d
    let n := tget x.named desc.toNat 0
    let fmt := match op with
      | 2 => dLocal d == 1 && dWire d != 0
      | 3 => dLocal d == 2
      | _ => true
    let x := x.need 4 (schedSlot port a)
    let x := x.need 6 (t.toNat == n % max 1 (dTiles d) && fmt)
    let x := x.need 7 (match tfind x.tunes lane with
      | some u => decide (8 ≤ port → u + 2084 ≤ absSlot x.per a)
      | none => true)
    let x := x.need 10 (op == 0 || !laneDark s x port lane)
    { x with named := tset x.named desc.toNat (n + 1), uses := x.uses ++ [(x.per, a, port, lane, op == 0)] }

/-- One word of a program. -/
def scanWord (s : State) (port : Nat) (descs : List (List Byte)) (x : Scan) (w : Code) : Scan :=
  match decodeLink w with
  | .error _ => x.fail 1
  | .ok i =>
    if x.ended then x.need 9 (i == .linkEnd)
    else
      match i with
      | .linkAt a => { x.need 3 (match x.at' with
          | some b => decide (b < a.toNat)
          | none => true) with at' := some a.toNat }
      | .linkSlack => { x with per := x.per + 1, at' := none }
      | .linkEnd => { x with ended := true }
      | .linkSend p d t => scanTile s port descs 0 p d t x
      | .linkRecv p d t => scanTile s port descs 1 p d t x
      | .linkRedw p d t => scanTile s port descs 2 p d t x
      | .linkReds p d t => scanTile s port descs 3 p d t x
      | .linkFwd p out =>
        match x.at' with
        | none => x.fail 3
        | some a =>
          let x := (x.need 2 (p.toNat == port && decide (out.toNat < 12))).need 4 (schedSlot port a && schedSlot out.toNat (forwardSlot a out.toNat))
          { x with uses := x.uses ++ [(x.per, a, port, 0, false), (x.per, forwardSlot a out.toNat, out.toNat, 0, true)] }
      | .linkMark p _ =>
        match x.at' with
        | none => x.fail 3
        | some a =>
          let lanes := if port < 8 then [0] else List.range 8
          { (x.need 2 (p.toNat == port)).need 4 (schedSlot port a) with uses := x.uses ++ lanes.map fun n => (x.per, a, port, n, true) }
      | .linkTune p lane _ =>
        match x.at' with
        | none => x.fail 3
        | some a => { x.need 2 (p.toNat == port) with tunes := tset x.tunes lane.toNat (absSlot x.per a) }
      | _ => x

/-- The scan of a program. -/
def scanProgram (s : State) (g : LinkProg) : Scan :=
  let x : Scan := { per := 0, at' := none, ended := false, tunes := [], named := [], uses := [], fails := none }
  (g.words.foldl (scanWord s g.port g.descs) x).need 6 (g.descs.all fun d => descForm g.port d && descArea s d)

/-- KEY ids of words, and the sets that their SETDT words name. -/
def keyIds (ws : List Code) : List Nat := (ws.filter fun w => lwOp w == 7).map lwArg
def setNames (ws : List Code) : List Nat := (ws.filter fun w => lwOp w == 10).map fun w => lwArg w % 16

/-- R393, R401: every set of a port that a SETDT names is loaded, and holds the KEY ids of every other. -/
def switchesGood (sets : Tab Program) : Bool :=
  (sets.flatMap fun g => setNames g.2.words).all fun k =>
    match tfind sets k with
    | none => false
    | some g => sets.all fun o => (keyIds o.2.words).all fun id => (keyIds g.words).contains id

/-- No two uses of one kind share a port or lane and a slot. -/
def usesGood : List SlotUse → Bool
  | [] => true
  | u :: us => !us.contains u && usesGood us

/-- The sets of the ports with a command's programs in place. -/
def withPrograms (s : State) (set : Nat) (progs : List LinkProg) : Tab Link :=
  progs.foldl (fun ls g =>
    let l := tget ls g.port blankLink
    tset ls g.port { l with sets := tset l.sets set { words := g.words, descs := g.descs } }) s.links

/-- The programs of a set, as (port, program). -/
def setPrograms (ls : Tab Link) (set : Nat) : List LinkProg :=
  ls.filterMap fun l => (tfind l.2.sets set).map fun g => { port := l.1, words := g.words, descs := g.descs }

/-- R393, R396 to R399, R401, R416: the first check that a load fails, by its number in R393. -/
def loadFails (s : State) (set : Nat) (progs : List LinkProg) : Option Nat :=
  let ls := withPrograms s set progs
  match progs.findSome? fun g => let x := scanProgram s g; (x.need 9 x.ended).fails with
  | some n => some n
  | none =>
    if !usesGood ((setPrograms ls set).flatMap fun g => (scanProgram s g).uses) then some 5
    else if !(progs.all fun g => switchesGood (tget ls g.port blankLink).sets) then some 8
    else none

/-! ### SCHEDULE_LOAD and DETOUR_LOAD (R393, R442, R446) -/

/-- Counts and ports of the programs of a command. -/
def progsForm (progs : List LinkProg) : Bool :=
  !progs.isEmpty && distinct (progs.map (·.port)) &&
  progs.all fun g => decide (g.port < 12) && !g.words.isEmpty && decide (g.words.length ≤ 65536) && decide (g.descs.length ≤ 4096)

/-- R446: a descriptor that names a VF of another world, or an engine that serves the other world. -/
def worldBreak (s : State) (set : Nat) (w : Bool) (progs : List LinkProg) : Bool :=
  progs.any fun g =>
    g.descs.any (fun d => (s.vf (dVf d)).world != w) ||
    ((s.link g.port).world != w && (s.link g.port).sets.any fun x => x.1 != set)

/-- A descriptor that names a VF that is not ACTIVE. -/
def vfBreak (s : State) (progs : List LinkProg) : Bool := progs.any fun g => g.descs.any fun d => (s.vf (dVf d)).st != .active

/-- The programs of a set loaded into their engines. -/
def loadSet (s : State) (set : Nat) (w : Bool) (progs : List LinkProg) : State :=
  let s := { s with links := withPrograms s set progs }
  progs.foldl (fun s g => s.setLink g.port { s.link g.port with world := w }) s

/-- R393, R394: an engine begins set 0 at slot 0 of the start period. -/
def startEngine (start : Nat) (l : Link) : Link :=
  { l with set := 0, widx := 0, period := start, atSlot := none, running := true, stopped := false, uses := [], keys := [], lastKey := none, switch := none }

/-- The checks that the two loads share, and then the load. -/
def loadCommand (h : IsuneHdr) (set : Nat) (progs : List LinkProg) (good : State → CmdAns) (s : State) : CmdAns :=
  let w := qpSecure h
  if !progsForm progs then answer s 1 0
  else if vfBreak s progs then answer s 4 0
  else if worldBreak s set w progs then answer s 5 0
  else if progs.any fun g => (s.link g.port).world != w && (s.link g.port).running then answer s 7 0
  else
    match loadFails s set progs with
    | some n => answer s 11 n
    | none => good (loadSet s set w progs)

/-- SCHEDULE_LOAD (R393). -/
def execScheduleLoad (h : IsuneHdr) (progs : List LinkProg) (start : Nat) (tree : List Byte) (s : State) : Res :=
  command anyCmd h (fun s =>
    loadCommand h 0 progs (fun s =>
      let s := progs.foldl (fun s g => s.setLink g.port (startEngine start (s.link g.port))) s
      measured { s with pod := { s.pod with tree := tree, set := 0 } } 5 h) s) s

/-- DETOUR_LOAD (R442): the reduction tree is that of set 0; the other packages learn that the set is held here. -/
def execDetourLoad (h : IsuneHdr) (set : Nat) (progs : List LinkProg) (avoid : List (Nat × Nat × Nat)) (tree : List Byte) (s : State) : Res :=
  command anyCmd h (fun s =>
    if set = 0 || decide (15 < set) then answer s 1 0
    else if tree != s.pod.tree then answer s 11 11
    else
      loadCommand h set progs (fun s =>
        let s := { s with pod := { s.pod with avoid := tset s.pod.avoid set avoid } }
        measured (alarmOut s (.setLoaded s.pod.pkg set)) 5 h) s) s

end Sys2Proof.Machine
end

