-- ==== Sys2Proof/Machine/Tenants.lean ====
section
/-! DEFINITION. VFs and their resources: VF_CREATE, partitions, regions, ranges, scope policies, key slots, and the
teardown of a VF (R284, R344, R351, R358, R372, R446 to R452, R463 to R466). -/

namespace Sys2Proof.Machine

/-! ### Scrubs (R448) -/

/-- A run of storage zeroed, for every agent that sees it. -/
def scrubRun (s : State) (k n : Nat) : State :=
  { s with
    mem := memZero s.mem k n
    units := tmap (fun _ (u : Unit) => { u with m := { u.m with snap := memZero u.m.snap k n } }) s.units
    spoiled := s.spoiled.filter fun g => decide (g.1 < k) || decide (k + n ≤ g.1) }

/-- A region zeroed at its full 8 GiB. -/
def scrubRegion (s : State) (r : Nat) : State := scrubRun s (r * Config.regionBytes) Config.regionBytes

/-- A corbel forced OFF, its state cleared. -/
def corbelReset (x : Corbel) : Corbel := { x with st := .off, timer := 0, holder := none, mem := .clear }

/-- The corbels of a bay forced OFF. -/
def scrubCorbels (s : State) (n : Nat) : State :=
  let b := s.bay n
  s.setBay n { b with corbels := (List.range 12).map fun c => (c, corbelReset (corbelAt b c)) }

/-- The segments of a core that a VF held are zeroed and FREE. -/
def scrubSegs (s : State) (core vf : Nat) : State :=
  (s.core core).segs.foldl (fun s e =>
    if e.2.vf = some vf then
      let c := s.core core
      let s := scrubRun s (segKey core e.1) Config.segBytes
      s.setCore core { c with segs := tset c.segs e.1 { e.2 with st := 0, vf := none } }
    else s) s

/-- Every TLB entry of a VF is invalidated. -/
def scrubTlbs (s : State) (vf : Nat) : State :=
  { s with
    cores := tmap (fun _ (c : Core) => { c with l1 := c.l1.filter (·.vf != vf) }) s.cores
    dies := tmap (fun _ (d : Die) => { d with tlb := d.tlb.filter (·.vf != vf) }) s.dies }

/-! ### VF_CREATE (R447, R450, R452, R466) -/

/-- Queue pairs of the host port and of the scale-out ports (R479, R480). -/
def qpsForm (p : VfSpec) : Bool :=
  distinct p.qps && p.qps.all (fun q => decide (16 < q) && decide (q ≤ 1024)) &&
  distinct p.scoQps && p.scoQps.all fun q => decide (q < 4096)

/-- A queue pair that another VF has. -/
def qpsTaken (s : State) (p : VfSpec) : Bool :=
  s.vfs.any fun v => v.2.st != .absent && (v.2.qps.any p.qps.contains || v.2.scoQps.any p.scoQps.contains)

/-- R450: the launch records lie in the pool, and no other VF has them. -/
def poolFree (s : State) (p : VfSpec) : Bool :=
  decide (p.poolFirst + p.poolCount ≤ 8192) &&
  s.vfs.all fun v => v.2.st == .absent || decide (v.2.poolFirst + v.2.poolCount ≤ p.poolFirst) ||
    decide (p.poolFirst + p.poolCount ≤ v.2.poolFirst) || v.2.poolCount == 0 || p.poolCount == 0

/-- R466: a key starts at the GEN after the last that its index had. -/
def firstKey (last : Tab (BitVec 22)) (k : Nat) (e : KeyEntry) : KeyEntry :=
  match tfind last k with
  | some g => { e with gen := g + 1 }
  | none => e

/-- The VF that a VF_CREATE makes. -/
def newVf (old : Vf) (p : VfSpec) : Vf :=
  { blankVf with
    st := .active, world := p.world, qps := p.qps, scoQps := p.scoQps, pubKey := p.pubKey
    poolFirst := p.poolFirst, poolCount := p.poolCount, root := p.root
    keys := p.keys.foldl (fun t e => if e.1 < 1024 then tset t e.1 (firstKey old.lastGen e.1 e.2) else t) []
    lastGen := old.lastGen }

/-- VF_CREATE, for the VF that its payload names, any of 0 to 255 (R450, R486). -/
def execVfCreate (h : IsuneHdr) (p : VfSpec) (s : State) : Res :=
  command { anyCmd with create := true } h (fun s =>
    let n := p.vf.toNat
    let v := s.vf n
    if v.st = .quarantine then answer s 8 0
    else if v.st != .absent then answer s 9 0
    else if p.world && !qpSecure h then answer s 5 0
    else if !qpsForm p then answer s 1 0
    else if qpsTaken s p then answer s 15 0
    else if !poolFree s p then answer s 6 0
    else measured (s.setVf n (newVf v p)) 7 { h with vf := p.vf }) s

/-! ### PARTITION_ASSIGN (R336, R446, R448, R450, R451) -/

/-- Bays, corbels, barriers and channels that the package has. -/
def partForm (p : PartitionSpec) : Bool :=
  p.bays.all (fun b => decide (b < 32)) && p.corbels.all (fun c => decide (c.1 < 32) && decide (c.2 < 12)) &&
  p.barriers.all (fun b => decide (b.1 < 4) && decide (b.2 < 512)) && p.channels.all fun c => decide (c.1 < 4) && decide (c.2 < 32)

/-- Another VF than this one of the other world has one of these. -/
def otherWorld (s : State) (vf : Nat) (vs : List Nat) : Bool := vs.any fun v => v != vf && (s.vf v).world != (s.vf vf).world

/-- R446, R448, R451: a bay joins the partitions of a VF; when no VF had it, its corbels are scrubbed and its world
bits set. A quantum of 0 stands for the default of 2 ms (R329; DESIGN CHOICE, log 88). -/
def assignBay (vf : Nat) (p : PartitionSpec) (s : State) (n : Nat) : State :=
  let b := s.bay n
  let q := if p.quantum = 0 then blankBay.quantum else p.quantum
  if b.vfs.contains vf then s.setBay n { b with quantum := q }
  else if b.vfs.isEmpty then
    let s := scrubCorbels s n
    let b := s.bay n
    let cs := tmap (fun c (x : Corbel) => { x with world := p.world && p.corbels.contains (n, c) }) b.corbels
    s.setBay n { b with world := p.world, corbels := cs, vfs := [vf], active := some vf, quantum := q, sliceAt := s.tide.toNat }
  else s.setBay n { b with vfs := b.vfs ++ [vf], quantum := q }

/-- A barrier of the VF. -/
def assignBarrier (vf : Nat) (s : State) (b : Nat × Nat) : State :=
  let x := barrierOf s b.1 b.2
  if x.vf = some vf then s else putBarrier s b.1 b.2 { blankBarrier with vf := some vf }

/-- A channel of the VF; its world bit is set while no VF has it. -/
def assignChannel (vf : Nat) (w : Bool) (s : State) (c : Nat × Nat) : State :=
  let x := channelOf s c.1 c.2
  if x.vfs.contains vf then s
  else putChannel s c.1 c.2 { x with vfs := x.vfs ++ [vf], world := if x.vfs.isEmpty then w else x.world }

/-- PARTITION_ASSIGN. -/
def execPartitionAssign (h : IsuneHdr) (p : PartitionSpec) (s : State) : Res :=
  command vfCmd h (fun s =>
    let vf := h.vf.toNat
    if !partForm p then answer s 1 0
    else if p.world != (s.vf vf).world then answer s 5 0
    else
      match p.bays.find? fun n => otherWorld s vf (s.bay n).vfs with
      | some n => answer s 11 n
      | none =>
        match p.barriers.find? fun b => (barrierOf s b.1 b.2).vf != none && (barrierOf s b.1 b.2).vf != some vf with
        | some b => answer s 15 b.2
        | none =>
          let s := p.bays.foldl (assignBay vf p) s
          let s := p.barriers.foldl (assignBarrier vf) s
          measured (p.channels.foldl (assignChannel vf p.world) s) 7 h) s

/-! ### REGION_MAP (R446, R448) -/

/-- A region mapped to a VF that did not have it: zeroed, its world bit set. -/
def mapRegion (vf : Nat) (w : Bool) (s : State) (r : Nat) : State :=
  if tfind s.regionVf r = some vf then s
  else
    let s := scrubRegion s r
    { s with regionVf := tset s.regionVf r vf, regionWorld := putBit s.regionWorld r w }

/-- REGION_MAP. -/
def execRegionMap (h : IsuneHdr) (regions : List Nat) (world : Bool) (s : State) : Res :=
  command vfCmd h (fun s =>
    let vf := h.vf.toNat
    if regions.any fun r => decide (64 ≤ r) then answer s 1 0
    else if world != (s.vf vf).world then answer s 5 0
    else
      match regions.find? fun r => (tfind s.regionVf r).isSome && tfind s.regionVf r != some vf with
      | some r => answer s 15 r
      | none => measured (regions.foldl (mapRegion vf world) s) 7 h) s

/-! ### RANGE_SET, SCOPEPOL_SET, KEY_SLOT_LOAD (R284, R344, R351, R358, R372) -/

/-- R351: the fields of an entry. -/
def rangeForm (e : RangeEntry) : Bool :=
  e.base.toNat % 2 ^ 16 == 0 && e.limit.toNat % 2 ^ 16 == 0 && decide (e.world.toNat < 2) && decide (e.kind.toNat < 3) &&
  decide (e.path.toNat < 5) && decide (e.pkg.toNat < 4096)

/-- R351: two used entries overlap. -/
def rangesMeet (a b : RangeEntry) : Bool :=
  a.limit != 0 && b.limit != 0 && decide (a.base.toNat < b.base.toNat + b.limit.toNat) && decide (b.base.toNat < a.base.toNat + a.limit.toNat)

/-- The first entry that overlaps one before it. -/
def rangeOverlap (es : List RangeEntry) : Option Nat :=
  (List.range es.length).find? fun i => (es.take i).any fun e => match es[i]? with
    | some x => rangesMeet x e
    | none => false

/-- RANGE_SET: units that wait for the range table meet the check again (R426). -/
def execRangeSet (h : IsuneHdr) (ranges : List RangeEntry) (heap : HeapSpec) (thresh : BitVec 16) (s : State) : Res :=
  command vfCmd h (fun s =>
    let vf := h.vf.toNat
    match ranges.findIdx? fun e => !rangeForm e with
    | some i => answer s 1 i
    | none =>
      if 32 < ranges.length then answer s 6 0
      else
        match rangeOverlap ranges with
        | some i => answer s 11 i
        | none =>
          let s := s.onVf vf fun v => { v with ranges := ranges, heap := heap, thresh := thresh }
          measured (resumeStage2 s vf) 7 h) s

/-- SCOPEPOL_SET (R372): units take it at their placement. -/
def execScopepolSet (h : IsuneHdr) (bits : BitVec 3) (s : State) : Res :=
  command vfCmd h (fun s => measured (s.onVf h.vf.toNat fun v => { v with scopepol := bits }) 7 h) s

/-- KEY_SLOT_LOAD (R284, R450). -/
def execKeySlotLoad (h : IsuneHdr) (slot : Nat) (key : List Byte) (s : State) : Res :=
  command { vfCmd with secure := true } h (fun s =>
    if decide (16 ≤ slot) || key.length != 32 then answer s 1 0
    else answer (s.onVf h.vf.toNat fun v => { v with slots := tset v.slots slot key }) 0 0) s

/-! ### VF_DESTROY (R463) -/

/-- R463: the capability entries of every unit of a VF are invalid. -/
def revokeCaps (s : State) (vf : Nat) : State :=
  { s with units := tmap (fun _ (u : Unit) => if u.id.vf = vf then
      { u with m := { u.m with caps := tmap (fun _ (c : CapEntry) => { c with v := false }) u.m.caps } } else u) s.units }

/-- VF_DESTROY: keys and capabilities revoked, placement stopped, the other packages told. -/
def execVfDestroy (h : IsuneHdr) (s : State) : Res :=
  command vfCmd h (fun s =>
    let vf := h.vf.toNat
    let s := revokeCaps (revokeKeys s vf) vf
    let s := s.onVf vf fun v => { v with st := .teardown, drops := 0, destroyHdr := some h }
    .later (noteTorn (alarmOut s (.teardown s.pod.pkg vf)) s.pod.pkg vf)) s

/-! ### VF_TEARDOWN_COMPLETE (R464) -/

/-- A link engine stands at a period boundary, or does not run. -/
def linkAtBoundary (l : Link) : Bool := !l.running || l.stopped || l.atSlot.isNone

/-- A program of the engine names the VF. -/
def linkNames (l : Link) (vf : Nat) : Bool := l.sets.any fun g => g.2.descs.any fun d => dVf d == vf

/-- Step 1: every job of the VF is cancelled, here and elsewhere, and its link programs are idle. -/
def tearJobs (s : State) (vf : Nat) : State :=
  let keys := (s.jobs.filter fun j => j.1 / 65536 == vf).map (·.1)
  let s := keys.foldl (fun s k => alarmOut (cancelHere s .job 0 k) (.cancel k false)) s
  let us := (s.units.filter fun e => e.2.id.vf == vf).map (·.1)
  idleLinks (cancelUnits s us) vf

/-- Step 2: the queue pairs are in the error state. -/
def tearQps (s : State) (vf : Nat) : State := s.onVf vf fun v => { v with qpError := true }

/-- R464 step 3: a held remote atomic is NACKed with reason 1; other held accesses are discarded. -/
def dropHeld (s : State) : HeldOp → State
  | .atomic _ _ _ _ _ (.packet _ p) => nack s p 1
  | _ => s

/-- A migration of the VF's abandoned, without a notification (R367). -/
def tearMigration (vf : Nat) (s : State) (die : Nat) : State :=
  match (s.die die).migration with
  | none => s
  | some m =>
    if m.vf != vf then s
    else
      let s := m.held.foldl dropHeld s
      let s := setLeaf (s.setDie die { s.die die with migration := none }) m.leafKey (leafWb false)
      answerLater s m.hdr 11 0 []

/-- Step 3. -/
def tearMigrations (s : State) (vf : Nat) : State := (List.range 4).foldl (tearMigration vf) s

/-- Step 4: records zeroed and IDLE; tables and slots emptied. The policy stays as the filter of step 6 (DEDUCED, log 25). -/
def tearTables (s : State) (vf : Nat) : State :=
  let v := s.vf vf
  let mine := fun (i : Nat) => decide (v.poolFirst ≤ i) && decide (i < v.poolFirst + v.poolCount)
  let s := scrubRun s (recKey v.poolFirst) (512 * v.poolCount)
  let s := { s with recs := s.recs.filter fun r => !mine r.1, jobs := s.jobs.filter (fun j => j.1 / 65536 != vf)
                    phases := s.phases.filter (fun g => if farScope g.scope then g.recNo / 65536 != vf else !mine g.recNo)
                    saved := s.saved.filter (fun x => !mine (x.uid / 128)), headers := s.headers.filter fun x => !mine x.recNo }
  s.setVf vf { v with ranges := [], heap := blankVf.heap, keys := [], slots := [], nq := [], lost := 0, seq := 0
                      requests := [], reqfail := [], ready := [], graphs := [], received := [] }

/-- The VF's bays; one that no VF has any more loses its leases and corbels' state. -/
def tearBay (vf : Nat) (s : State) (n : Nat) : State :=
  let b := s.bay n
  if !b.vfs.contains vf then s
  else
    let vs := b.vfs.filter (· != vf)
    let s := s.setBay n { b with vfs := vs, active := if b.active = some vf then vs.head? else b.active }
    if vs.isEmpty then scrubCorbels s n else s

/-- Barriers and channels that the VF had. -/
def tearDie (vf : Nat) (d : Die) : Die :=
  { d with
    barriers := d.barriers.filter fun b => b.2.vf != some vf
    channels := tmap (fun _ (c : Channel) => { c with vfs := c.vfs.filter (· != vf) }) d.channels }

/-- Step 5: the scrub of the VF's segments, corbels, channels and regions (R448). -/
def tearScrub (s : State) (vf : Nat) : State :=
  let s := (List.range 128).foldl (fun s c => scrubSegs s c vf) s
  let s := (List.range 32).foldl (tearBay vf) s
  let s := { s with dies := tmap (fun _ d => tearDie vf d) s.dies }
  let s := scrubTlbs s vf
  let rs := (s.regionVf.filter fun r => r.2 == vf).map (·.1)
  rs.foldl (fun s r => { scrubRegion s r with regionVf := tdel s.regionVf r }) s

/-- The fourth slack interval that begins after a tide time ends then (R159, R452). -/
def quarantineUntil (t : Nat) : Nat :=
  let p := t / Config.periodNs
  (if t % Config.periodNs < 4032 * Config.slotNs then p + 4 else p + 5) * Config.periodNs

/-- R464, R488: a step of the teardown is reported, with the count of what was dropped. -/
def tearStep (s : State) (vf step : Nat) : State := vfEvent s vf 0x0104 [vf, step, (s.vf vf).drops]

/-- The steps of R464 in order, and QUARANTINE. -/
def tearDown (s : State) (vf : Nat) (h : IsuneHdr) : State :=
  let s := tearStep (tearJobs s vf) vf 1
  let s := tearStep (tearQps s vf) vf 2
  let s := tearStep (tearMigrations s vf) vf 3
  let s := tearStep (tearTables s vf) vf 4
  let s := tearStep (tearScrub s vf) vf 5
  let s := tearStep s vf 6
  let s := s.onVf vf fun v => { v with st := .quarantine, destroyHdr := none, slacks := quarantineUntil s.tide.toNat }
  answerLater (measure s 7 h) h 0 0 []

/-- VF_TEARDOWN_COMPLETE (R464). -/
def execVfTeardownComplete (vf : Nat) (s : State) : Res :=
  match (s.vf vf).st, (s.vf vf).destroyHdr with
  | .teardown, some h => happens (s.links.all fun l => !linkNames l.2 vf || linkAtBoundary l.2) (tearDown s vf h) s
  | _, _ => .next s

/-! ### Reconciliation and the end of quarantine (R452, R465) -/

/-- R159, R465: the slack interval of the present period has begun, and began after the package learnt of the teardown of a VF
that it has not reconciled. -/
def tornNow (s : State) (x : Nat × Nat × Nat) : Bool :=
  decide (4032 ≤ slotOf s.tide) && decide (x.2.2 ≤ periodOf s.tide * Config.periodNs + 4032 * Config.slotNs)

/-- The endpoint of a capability of a unit is a VF of a package. -/
def capNames (u : Unit) (pkg vf : Nat) (r : Remote) : Bool :=
  match r.cap with
  | some k => let c := tget u.m.caps k blankCap; c.pkg.toNat == pkg && c.vfn.toNat == vf
  | none => false

/-- R465: every outstanding request of a unit to the torn VF ends as by a NACK of reason 1. -/
def reconcileUnit (pkg vf : Nat) (s : State) (uid : Nat) : State :=
  let u := s.unit uid
  (u.m.remotes.filter (capNames u pkg vf)).foldl (fun s r =>
    if alive (s.unit uid) then failRemote s uid r .remoteNack 1 else dropRemote s uid r) s

/-- TEARDOWN_RECONCILE (R465): in the first slack interval after the package learnt of the teardown. -/
def execTeardownReconcile (pkg vf : Nat) (s : State) : Res :=
  let s1 := { s with pod := { s.pod with torn := s.pod.torn.filter fun x => !(x.1 == pkg && x.2.1 == vf) } }
  happens (s.pod.torn.any fun x => x.1 == pkg && x.2.1 == vf && tornNow s x)
    ((s.units.map (·.1)).foldl (reconcileUnit pkg vf) s1) s

/-- QUARANTINE_END (R452, R464, R465): the number is free; what was kept of the VF goes, but for the last GENs. -/
def execQuarantineEnd (vf : Nat) (s : State) : Res :=
  let v := s.vf vf
  let mine := fun (e : Nat × Nat × Nat × List Nat) => e.1 / 65536 == s.pod.pkg && e.2.1 == vf
  let s1 := { s with units := s.units.filter (fun e => e.2.id.vf != vf)
                     dies := tmap (fun _ (d : Die) => { d with redTags := d.redTags.filter fun e => !mine e }) s.dies }
  happens (v.st == .quarantine && decide (v.slacks ≤ s.tide.toNat)) (s1.setVf vf { blankVf with lastGen := v.lastGen }) s

end Sys2Proof.Machine
end

