-- ==== Sys2Proof/Machine/Firmware.lean ====
section
/-! DEFINITION. DEVICE_INFO, MEASURE_READ, ATTEST, POLICY_INSTALL, the bring-up, resets and losses of power, and the
SMBus registers (R453 to R455, R460 to R462, R487, R490, R491, R493). -/

namespace Sys2Proof.Machine

/-! ### DEVICE_INFO and MEASURE_READ (R460, R487) -/

/-- A command that is answered before bring-up ends. -/
def earlyCmd : CmdNeeds := { anyCmd with early := true }

/-- ASCII "CHL-KJ4-A01". -/
def partName : List Byte := [0x43, 0x48, 0x4C, 0x2D, 0x4B, 0x4A, 0x34, 0x2D, 0x41, 0x30, 0x31]

/-- R487: the device information. -/
def deviceInfo (s : State) : List Byte :=
  padTo partName 16 0 ++ toLe 16 s.fuse.toNat ++ toLe 1 (positions s).length ++ toLe 1 Config.evVer ++ toLe 2 Config.sfuVer ++
  toLe 2 Config.gtabVer ++ toLe 4 Config.fwVersion.toNat ++ toLe 2 (32768 - s.firm.topLeaf) ++ sha256 Config.idKey ++
  List.replicate 52 0

/-- DEVICE_INFO. -/
def execDeviceInfo (h : IsuneHdr) (s : State) : Res := command earlyCmd h (fun s => .answer s 0 0 [] (deviceInfo s)) s

/-- MEAS0 to MEAS7. -/
def measBytes (s : State) : List Byte := (List.range 8).flatMap (measOf s)

/-- An entry of the log: register, opcode, tag, VF, digest. -/
def measFields (e : MeasEntry) : List Nat := [e.reg, e.opcode.toNat, e.tag.toNat, e.vf.toNat, leNat e.digest]

/-- MEASURE_READ: the registers; the number of entries LOST and the log. -/
def execMeasureRead (h : IsuneHdr) (s : State) : Res :=
  command earlyCmd h (fun s => .answer s 0 0 (s.firm.measLost :: s.firm.measLog.flatMap measFields) (measBytes s)) s

/-! ### ATTEST (R461, R462) -/

/-- R461: a new per-boot tree, signed with the next top leaf; none is left at 32,768. -/
def newTree (s : State) : State :=
  if 32768 ≤ s.firm.topLeaf then s
  else { s with firm := { s.firm with bootTop := s.firm.topLeaf, topLeaf := s.firm.topLeaf + 1, bootLeaf := 0 } }

/-- R462: bytes 0 to 383 of a report. -/
def reportBytes (s : State) (nonce : List Byte) (vf : BitVec 8) : List Byte :=
  let v := s.vf vf.toNat
  let p := if vf = 0xFF then none else v.policy
  let flags := if vf = 0xFF then 0 else v.world.toNat + 2 * v.policy.isSome.toNat
  [0x41, 0x54, 0x53, 0x01] ++ toLe 4 1 ++ toLe 4 s.firm.bootTop ++ toLe 4 s.firm.bootLeaf ++ padTo nonce 32 0 ++ measBytes s ++
  [vf, BitVec.ofNat 8 flags] ++ List.replicate 6 0 ++
  (match p with
    | some q => toLe 8 q.serial.toNat ++ sha256 q.blob
    | none => List.replicate 40 0) ++
  sha256 (deviceInfo s)

/-- The report and its signature, and the leaf used up; a full tree is followed by a new one. -/
def attestNow (s : State) (nonce : List Byte) (vf : BitVec 8) : Option (List Byte × State) :=
  if 32768 ≤ s.firm.topLeaf then none
  else
    let r := reportBytes s nonce vf
    let sig := padTo (Config.deviceSignature s.firm.bootTop s.firm.bootLeaf r) 3124 0
    let s := { s with firm := { s.firm with bootLeaf := s.firm.bootLeaf + 1 } }
    some (r ++ sig, if s.firm.bootLeaf < 1024 then s else newTree s)

/-- What an ATTEST that has been set aside, or arrives, is answered with. -/
def attestStatus (s : State) (h : IsuneHdr) (nonce : List Byte) (vf : BitVec 8) : Option Nat :=
  let v := s.vf vf.toNat
  if nonce.length != 32 then some 1
  else if vf = 0xFF then none
  else if v.st != .active then some 4
  else if v.world && !qpSecure h then some 5
  else none

/-- ATTEST: set aside until the per-boot tree exists (R490). -/
def execAttest (h : IsuneHdr) (nonce : List Byte) (vf : BitVec 8) (s : State) : Res :=
  command earlyCmd h (fun s =>
    match attestStatus s h nonce vf with
    | some c => answer s c 0
    | none =>
      if s.firm.bring != 5 then .later { s with firm := { s.firm with attests := s.firm.attests ++ [(h, nonce, vf)] } }
      else
        match attestNow s nonce vf with
        | none => answer s 10 0
        | some (bs, s') => .answer s' 0 0 [] bs) s

/-- R490: the ATTESTs set aside are answered in the order of their arrival. -/
def answerAttest (s : State) (a : IsuneHdr × List Byte × BitVec 8) : State :=
  let close := fun (s : State) => { s with firm := { s.firm with open_ := s.firm.open_.filter (· != a.1.tag) } }
  match attestNow s a.2.1 a.2.2 with
  | none => respond (close s) a.1 10 0 [] []
  | some (bs, s') => respond (close s') a.1 0 0 [] bs

/-! ### POLICY_INSTALL (R453 to R455) -/

/-- Entry n of a policy blob. -/
def policyEntryAt (b : List Byte) (n : Nat) : PolicyEntry :=
  let o := 32 + 8 * n
  { cls := BitVec.ofNat 8 (fieldAt b o 1), kind := BitVec.ofNat 8 (fieldAt b (o + 1) 1), gran := BitVec.ofNat 8 (fieldAt b (o + 2) 1)
    k := BitVec.ofNat 8 (fieldAt b (o + 3) 1), minper := BitVec.ofNat 16 (fieldAt b (o + 4) 2) }

/-- R453: the fields of an entry. -/
def policyEntryGood (e : PolicyEntry) : Bool :=
  decide (e.kind.toNat ≤ 1) &&
  (if e.kind = 0 then decide (e.gran.toNat ≤ 5) && e.minper == 0 else decide (e.gran.toNat ≤ 1) && e.minper != 0) &&
  (if e.gran = 2 then decide (e.k.toNat < 64) else e.k == 0)

/-- Entries of a blob. -/
def policyCount (b : List Byte) : Nat := fieldAt b 16 2

/-- R455, check 1. -/
def policyForm (b : List Byte) : Bool :=
  let n := policyCount b
  let es := (List.range n).map (policyEntryAt b)
  decide (b.length ≤ 32768) && decide (32 ≤ b.length) && b.take 4 == [0x44, 0x50, 0x4F, 0x01] && fieldAt b 4 2 == 1 &&
  decide (fieldAt b 7 1 ≤ 4) && decide (n ≤ 512) && fieldAt b 18 14 == 0 && decide (32 + 8 * n ≤ b.length) &&
  es.all policyEntryGood && (List.range n).all (fun k => fieldAt b (38 + 8 * k) 2 == 0) &&
  distinct (es.map fun e => 256 * e.kind.toNat + e.cls.toNat)

/-- R455, check 3: the signature over bytes 0 to 32 + 8 NENT − 1. -/
def policySigned (key b : List Byte) : Bool :=
  let n := 32 + 8 * policyCount b
  hssVerify key (b.drop n) (b.take n)

/-- The policy of a blob. -/
def policyOf (b : List Byte) : Policy :=
  { fdl := BitVec.ofNat 8 (fieldAt b 7 1), serial := BitVec.ofNat 64 (fieldAt b 8 8)
    entries := (List.range (policyCount b)).map (policyEntryAt b), blob := b }

/-- R455: the status of a blob, none when it passes. -/
def policyStatus (v : Vf) (vf : Nat) (b : List Byte) : Option Nat :=
  if !policyForm b then some 1
  else if fieldAt b 6 1 != vf then some 4
  else if !policySigned v.pubKey b then some 2
  else
    match v.policy with
    | some p => if fieldAt b 8 8 ≤ p.serial.toNat then some 3 else none
    | none => none

/-- POLICY_INSTALL: measured in MEAS6 with the VF prefixed to the digest of the payload (R460). -/
def execPolicyInstall (h : IsuneHdr) (blob : List Byte) (s : State) : Res :=
  command vfCmd h (fun s =>
    let vf := h.vf.toNat
    match policyStatus (s.vf vf) vf blob with
    | some c => answer s c 0
    | none =>
      let s := s.onVf vf fun v => { v with policy := some (policyOf blob) }
      answer (extendMeas s 6 h.opcode h.tag h.vf [h.vf] (sha256 blob)) 0 0) s

/-! ### Bring-up (R490) -/

/-- The state of a package whose volatile state is lost: host memory, the fuses and the committed counter of top
leaves stay (R461), and so do what has gone out and the model's own fields. -/
def resetState (s : State) : State :=
  { State.reset with
    mem := s.mem.filter fun e => decide (Config.hostKey ≤ e.1)
    fuse := s.fuse, firm := { State.reset.firm with topLeaf := s.firm.topLeaf }
    wireOut := s.wireOut, pktOut := s.pktOut, hostOut := s.hostOut, agenda := s.agenda, free := s.free }

/-- R460: the extends of the boot ROM. -/
def bootMeasures (s : State) : State :=
  let e := fun (s : State) (n : Nat) (b : List Byte) => extendMeas s n 0 0 0xFF [] (sha256 b)
  let s := e s 0 (Config.bootImage 0)
  let s := e s 1 (toLe 16 s.fuse.toNat ++ Config.idKey)
  let s := e s 2 (Config.bootImage 2)
  e s 3 (Config.bootImage 3)

/-- A step of the bring-up, done after the one before it. -/
def setBring (s : State) (n : Nat) : State := { s with firm := { s.firm with bring := n } }

/-- POWER_ON (R490 steps 1 and 2): after a reset, or from power off. -/
def execPowerOn (s : State) : Res := happens (s.firm.bring == 0 || s.firm.bring == 6) (setBring (bootMeasures s) 2) s

/-- HBM_TRAINED (R490 step 3): every region zeroed, world bits 0. -/
def execHbmTrained (s : State) : Res :=
  happens (s.firm.bring == 2) (setBring { s with mem := memZero s.mem 0 (2 ^ 39), regionWorld := 0 } 3) s

/-- HOST_LINK_UP (R490 step 4). -/
def execHostLinkUp (s : State) : Res := happens (s.firm.bring == 3) (setBring s 4) s

/-- R485: RESET answers when its last step ends. -/
def answerReset (s : State) : State :=
  match s.firm.resetHdr with
  | none => s
  | some h => answerLater { s with firm := { s.firm with resetHdr := none } } h 0 0 []

/-- BRING_UP_READY (R461, R490 step 5). -/
def execBringUpReady (s : State) : Res :=
  let s1 := answerReset (setBring (newTree s) 5)
  happens (s.firm.bring == 4) (s.firm.attests.foldl answerAttest { s1 with firm := { s1.firm with attests := [] } }) s

/-- RESET (R490): what was queued is dropped; the bring-up starts again. -/
def execReset (h : IsuneHdr) (s : State) : Res :=
  command secureCmd h (fun s =>
    let s := resetState s
    .later { s with firm := { s.firm with resetHdr := some h } }) s

/-- POWER_LOSS (R461). -/
def execPowerLoss (s : State) : Res := .next (setBring (resetState s) 6)

/-- THERMAL_TRIP (R491, R493): at 110 °C, in units of 0.5 °C, the package trips and resets. -/
def execThermalTrip (temp : BitVec 16) (s : State) : Res :=
  let s1 := resetState s
  happens (decide (220 ≤ temp.toNat) && s.firm.bring != 6) { s1 with smb := { s1.smb with trip := true } } s

/-! ### SMBus registers (R263, R493) -/

/-- A bay of a die is in thermal emergency. -/
def hotDie (s : State) (d : Nat) : Bool := (List.range 8).any fun b => (s.bay (8 * d + b)).thermal

/-- ESTAT. -/
def estat (s : State) : Nat :=
  ((List.range 4).map fun d => (hotDie s d).toNat * 2 ^ d).foldl (· + ·) 0 + 16 * ((List.range 32).any fun n => (s.bay n).power).toNat + 32 * s.smb.trip.toNat

/-- A 16-bit read over the sideband; other codes return 0. -/
def sidebandValue (s : State) (reg : BitVec 8) : BitVec 16 :=
  let n := reg.toNat
  if 0x10 ≤ n && n < 0x14 then tget s.smb.temps (n - 0x10) 0
  else if n = 0x20 then s.smb.pwr
  else if n = 0x21 then s.smb.pcap
  else if n = 0x30 then BitVec.ofNat 16 (estat s)
  else 0

/-- R493: the answer of a read goes out. -/
def sidebandRead (s : State) (reg : BitVec 8) : State :=
  { s with smb := { s.smb with answers := s.smb.answers ++ [sidebandValue s reg] } }


/-- The power cap: values above 2,900 are stored as 2,900. -/
def setPcap (v : BitVec 16) (s : State) : State := { s with smb := { s.smb with pcap := if 2900 < v.toNat then 2900 else v } }

/-- SMBUS_PCAP_WRITE. -/
def execSmbusPcapWrite (v : BitVec 16) (s : State) : Res := .next (setPcap v s)

/-- SMBUS_REGISTER_WRITE: ESTAT.TRIP clears where a 1 is written; other registers ignore writes. -/
def execSmbusRegisterWrite (reg : BitVec 8) (v : BitVec 16) (s : State) : Res :=
  .next (if reg = 0x21 then setPcap v s
         else if reg = 0x30 && v.getLsbD 5 then { s with smb := { s.smb with trip := false } } else s)

end Sys2Proof.Machine
end

