-- ==== Sys2Proof/Machine/Sessions.lean ====
section
/-! DEFINITION. COUNTER_READ and TRACE_READ: filtered reads and profiling sessions (R456, R457, R473, R474, R489). -/

namespace Sys2Proof.Machine

/-! ### Filtered reads (R456, R457) -/

/-- What the operator reads of a value under a policy entry: the value, and whether it is withheld. `raw` is the exact
count, `run` and `job` the sums of finished runs. -/
def filtered (e : Option PolicyEntry) (raw : Nat) (run job : Option Nat) : Nat × Bool :=
  let sum := fun (x : Option Nat) => match x with
    | some n => (n, false)
    | none => (0, true)
  match e with
  | none => (0, true)
  | some p =>
    match p.gran.toNat with
    | 1 => (raw, false)
    | 2 => (raw / 2 ^ p.k.toNat * 2 ^ p.k.toNat, false)
    | 3 => sum run
    | 4 => sum job
    | 5 => (if raw = 0 then 0 else 1, false)
    | _ => (0, true)

/-- The sum of a counter kept under a key for finished runs (R456). -/
def finishedSum (v : Vf) (key counter : Nat) : Option Nat :=
  (v.finished.find? fun e => e.1 == key).map fun e => (e.2.getD counter 0).toNat

/-- What a COUNTER_READ of a unit's counter reads. -/
def counterValue (s : State) (x : CounterSel) : Nat × Bool :=
  let v := s.vf x.vf
  let u := s.unit (uidOf x.recNo x.unit)
  let cls := (counterEvent u.ctr x.counter) / 256
  filtered (policyEntry v cls 0) (tget u.ctr.val x.counter 0).toNat (finishedSum v x.recNo x.counter)
    (finishedSum v (65536 + (s.recOf x.recNo).job) x.counter)

/-- COUNTER_READ, sub-function 0; a VF's last counts stay readable until it is ABSENT (R464). -/
def execCounterRead (h : IsuneHdr) (sel : CounterSel) (s : State) : Res :=
  command anyCmd h (fun s =>
    let v := s.vf sel.vf
    if v.st = .absent then answer s 4 0
    else if v.world && !qpSecure h then answer s 5 0
    else if decide (32 ≤ sel.counter) || decide (128 ≤ sel.unit) then answer s 1 0
    else if !inRange v sel.recNo then answer s 6 sel.recNo
    else let r := counterValue s sel; .answer s 0 0 [r.1, r.2.toNat] []) s

/-- The operator may read records of the class of a trace record now. -/
def traceShown (v : Vf) (r : TraceRec) : Bool := policyGran v (fieldAt r.bytes 0 2 / 256) 1 == 1

/-- TRACE_READ, sub-function 0: the operator's records from an offset on (R475, R489). -/
def execTraceRead (h : IsuneHdr) (offset : Nat) (s : State) : Res :=
  command vfCmd h (fun s =>
    let v := s.vf h.vf.toNat
    let bs := ((v.trace.filter (traceShown v)).flatMap (·.bytes)).drop offset
    .answer s 0 0 [(policyGran v 0x10 1 != 1 && policyGran v 0x11 1 != 1).toNat] (bs.take (2 ^ 22))) s

/-! ### Sessions (R473, R474, R489) -/

/-- R473: at most 16 events; a ring of a power of two bytes from 64 KiB to 1 GiB, aligned to 64 KiB; none where no
trace class is enabled. -/
def sessionForm (p : SessionSpec) : Bool :=
  decide (p.events.length ≤ 16) &&
  ((!p.qentry && !p.banksnap && p.ringSize == 0) ||
    (p.ringVa.toNat % 2 ^ 16 == 0 && decide (2 ^ 16 ≤ p.ringSize) && decide (p.ringSize ≤ 2 ^ 30) && p.ringSize == 2 ^ p.ringSize.log2))

/-- R473: the ring lies in resident, writable HBM of the VF. -/
def ringGood (s : State) (vf : Nat) (p : SessionSpec) : Bool :=
  p.ringSize == 0 || pagesOk s vf .store (fun t => t.kind == 0) p.ringVa.toNat p.ringSize

/-- A VF with a session opened or changed: the WRITE index goes on in a ring that stays. -/
def withSession (v : Vf) (p : SessionSpec) : Vf :=
  match v.session with
  | some x =>
    let v := if x.spec.ringVa = p.ringVa && x.spec.ringSize = p.ringSize then v else setRing v p.ringVa p.ringSize 0
    { v with session := some { x with spec := p } }
  | none => { setRing v p.ringVa p.ringSize 0 with session := some { spec := p, last := [], dropped := [] } }

/-- Sub-function 1, of either command: units take it at their next placement or resume. -/
def openSession (h : IsuneHdr) (p : SessionSpec) (s : State) : CmdAns :=
  let vf := h.vf.toNat
  if !sessionForm p then answer s 1 0
  else if !ringGood s vf p then answer s 11 0
  else answer (s.onVf vf fun v => withSession v p) 0 0

/-- Sub-function 2. -/
def closeSession (h : IsuneHdr) (s : State) : CmdAns := answer (s.onVf h.vf.toNat fun v => { v with session := none }) 0 0

/-- The contents of an exported session: selections, and the counters of every unit of the VF. -/
def sessionWords (s : State) (vf : Nat) (x : Session) : List Nat :=
  let us := s.units.filter fun e => e.2.id.vf == vf
  [x.spec.events.length] ++ x.spec.events.map (·.toNat) ++ [x.spec.qentry.toNat, x.spec.banksnap.toNat, x.spec.ringVa.toNat, x.spec.ringSize] ++
  us.flatMap fun e => [e.2.id.recNo, e.2.id.idx] ++ (List.range 32).map fun k => (tget e.2.ctr.val k 0).toNat

/-- Sub-function 3: the blob (R489); a VF without a session has none. -/
def exportSession (h : IsuneHdr) (s : State) : CmdAns :=
  let vf := h.vf.toNat
  match (s.vf vf).session with
  | none => answer s 11 0
  | some x => .answer s 0 0 [] (Config.sealedSession (sessionWords s vf x))

/-- R474: counts restored from a number on; those of events that this part lacks stay 0. -/
def restoreCounts (first : Nat) (has : Nat → Bool) (ws : List Word) (c : Counters) : Counters :=
  { c with val := ((List.range 16).zip ws).foldl (fun v e => tset v (first + e.1) (if has e.1 then e.2 else 0)) c.val }

/-- R474: the counts of a unit restored. -/
def importUnit (first : Nat) (has : Nat → Bool) (vf : Nat) (s : State) (e : Nat × Nat × List Word) : State :=
  let uid := uidOf e.1 e.2.1
  if (s.unit uid).id.vf = vf && (tfind s.units uid).isSome then
    s.onUnit uid fun u => { u with ctr := restoreCounts first has e.2.2 u.ctr }
  else s

/-- R474: the VF's installed policy verified afresh; without one that verifies, every class is withheld. -/
def checkPolicy (v : Vf) : Vf :=
  match v.policy with
  | some p => if policySigned v.pubKey p.blob then v else { v with policy := none }
  | none => v

/-- Sub-function 4 (R474). -/
def importSession (h : IsuneHdr) (b : SessionBlob) (s : State) : CmdAns :=
  let vf := h.vf.toNat
  if !sessionForm b.spec then answer s 1 0
  else if !ringGood s vf b.spec then answer s 11 0
  else
    let has := fun (k : Nat) => partEvents.contains (b.spec.events.getD k 0).toNat
    let s := s.onVf vf fun v => withSession (checkPolicy v) b.spec
    let s := b.fixed.foldl (importUnit 0 (fun _ => true) vf) s
    answer (b.selected.foldl (importUnit 16 has vf) s) 0 0

def execCounterSessionOpen (h : IsuneHdr) (p : SessionSpec) (s : State) : Res := command vfCmd h (openSession h p) s
def execCounterSessionClose (h : IsuneHdr) (s : State) : Res := command vfCmd h (closeSession h) s
def execCounterSessionExport (h : IsuneHdr) (s : State) : Res := command vfCmd h (exportSession h) s
def execCounterSessionImport (h : IsuneHdr) (b : SessionBlob) (s : State) : Res := command vfCmd h (importSession h b) s
def execTraceSessionOpen (h : IsuneHdr) (p : SessionSpec) (s : State) : Res := command vfCmd h (openSession h p) s
def execTraceSessionClose (h : IsuneHdr) (s : State) : Res := command vfCmd h (closeSession h) s
def execTraceSessionExport (h : IsuneHdr) (s : State) : Res := command vfCmd h (exportSession h) s
def execTraceSessionImport (h : IsuneHdr) (b : SessionBlob) (s : State) : Res := command vfCmd h (importSession h b) s

end Sys2Proof.Machine
end

