-- ==== Sys2Proof/Machine/Cycle.lean ====
section
/-! DEFINITION. CORE_CYCLE: the end of a core cycle of the package (R147, R150, R162, R468, R478): course cycles, counters
of cycles, delays and ages. -/

namespace Sys2Proof.Machine

/-- Less one, not below zero. -/
def down (n : Nat) : Nat := n - 1

/-- The delay of an entry's first word at the head of a column's queue (R144). -/
def columnTick : List VWord → List VWord
  | [] => []
  | v :: vs => (if v.issued then v else { v with wait := down v.wait }) :: vs

/-- The router has a new cycle; the delay of the word at which it stands goes on when it did not move in the last (R219). -/
def routerTick (hold : Bool) (r : VeRun) : VeRun :=
  if r.moved then { r with moved := false } else if hold then r else { r with wait := down r.wait }

/-- The cycles since the accept cycle of the word that the ME issues next (R144, R234). -/
def meTick (u : Unit) (r : MeRun) : MeRun :=
  let h := meHead r
  if !h.atEnd && acceptsMe u h (meCode h) then { r with ahead := r.ahead + 1 } else r

/-- The delays and clocks of a core's engines go on (R144, R222, R234). -/
def enginesTick (u : Unit) : Unit :=
  { u with
    ve := { u.ve with run := u.ve.run.map (routerTick false), cols := tmap (fun _ q => columnTick q) u.ve.cols
                      clock := tmap (fun _ k => down k) u.ve.clock }
    me := { u.me with run := u.me.run.map (meTick u), clock := tmap (fun _ k => down k) u.me.clock } }

/-- A hold cycle moves no delay; the router has a new cycle (R148, R193). -/
def holdTick (u : Unit) : Unit := { u with ve := { u.ve with run := u.ve.run.map (routerTick true) } }

/-- Handles that are QUEUED or WAKING (R467 LEASE_WAIT). -/
def leaseWaits (u : Unit) : Nat := (u.m.leases.filter fun l => l.2.st == .queued || l.2.st == .waking).length

/-- The sequencer is in BWAIT, PHASE, HWAIT or CWAITC (R467 SYNC_WAIT). -/
def syncWaits (u : Unit) : Bool :=
  match u.wait with
  | some (.barGen ..) | some (.phaseArrive _) | some (.phaseMeet _) | some (.handle ..) | some (.counter ..) => true
  | _ => false

/-- The counters of cycles (R467, R468). -/
def cycleCounts (u : Unit) : Unit :=
  if !counting u then u
  else
    let on := u.st == .running || u.st == .held
    let c := if on then addEvent u.ctr 0x0101 1 else u.ctr
    let c := addEvent c 0x0501 (leaseWaits u)
    { u with ctr := if syncWaits u then addEvent c 0x0901 1 else c }

/-- A request waits for its reply, or to be sent again (R131, R408); a held one does not (R415). -/
def remoteTick (r : Remote) : Remote :=
  { r with cycles := if r.held then r.cycles else r.cycles + 1, resend := r.resend.map down }

/-- A word that issues again after a time (R365). -/
def waitTick : Option Wait → Option Wait
  | some (.retry n) => some (.retry (down n))
  | w => w

/-- A unit at the end of a cycle: its counters, requests and delays; a stopped one stands still (R478). Of a unit in a course
the engines follow in `courseCycle`. -/
def unitTick (u : Unit) : Unit :=
  if u.dbg.stopped then u
  else
    let u := cycleCounts u
    let u := { u with wait := waitTick u.wait, m := { u.m with remotes := u.m.remotes.map remoteTick } }
    if u.course.active || !live u then u else enginesTick { u with st := .running }

/-- The end of a cycle of a unit in a course (R147, R150): a hold cycle, counted if nothing had counted it; or CC rises by 1,
from its limit with COURSE_TABLE, and the delays go on. -/
def courseEnds (s : State) (uid : Nat) : State :=
  let u := s.unit uid
  if u.st = .held then s.onUnit uid holdTick
  else
    match holdAgent u with
    | some a => (holdCycle s uid a).onUnit uid holdTick
    | none =>
      if u.course.cc = BitVec.allOnes 32 then ccFault s uid
      else s.onUnit uid fun u => enginesTick { u with course := { u.course with cc := u.course.cc + 1 } }

/-- The next cycle of a unit in a course begins: as a hold cycle where an agent cannot do what is due (R147). -/
def courseBegins (s : State) (uid : Nat) : State :=
  if !live (s.unit uid) then s
  else
    match stuckAgent { s with cur := uid } with
    | some a => holdCycle s uid a
    | none => s.onUnit uid fun u => { u with st := .running }

/-- A unit's course from one cycle to the next. -/
def courseCycle (s : State) (uid : Nat) : State :=
  let u := s.unit uid
  if live u && u.course.active && !u.dbg.stopped then courseBegins (courseEnds s uid) uid else s

/-- Wake and warm times of the corbels, and the ages of a bay's queue (R264, R267, R478). -/
def bayTick (s : State) (b : Bay) : Bay :=
  { b with
    corbels := tmap (fun _ (x : Corbel) => { x with timer := down x.timer }) b.corbels
    queue := b.queue.map fun r => if (s.unit r.uid).dbg.stopped then r else { r with age := r.age + 1 } }

/-- The ages of a VF's ready queues (R326, R478). -/
def vfTick (s : State) (v : Vf) : Vf :=
  { v with ready := v.ready.map fun e =>
      if (e.unit.any fun k => (s.unit (uidOf e.recNo k)).dbg.stopped) then e else { e with age := e.age + 1 } }

/-- The time of a migration (R367). -/
def dieTick (d : Die) : Die := { d with migration := d.migration.map fun m => { m with cycles := m.cycles + 1 } }

/-- What passes with a cycle of the package, courses apart. -/
def timePasses (s : State) : State :=
  { s with
    cycle := s.cycle + 1
    units := tmap (fun _ u => unitTick u) s.units
    bays := tmap (fun _ b => bayTick s b) s.bays
    vfs := tmap (fun _ v => vfTick s v) s.vfs
    dies := tmap (fun _ d => dieTick d) s.dies
    late := s.late.map fun e => (down e.1, e.2) }

/-- The end of a cycle of the package. -/
def cycleEnd (s : State) : State := ((s.units.map (·.1)).eraseDups).foldl courseCycle (timePasses s)

/-- CORE_CYCLE (R147). -/
def execCoreCycle (s : State) : Res := .next (cycleEnd s)

end Sys2Proof.Machine
end

