-- ==== Sys2Proof/Machine/Dispatch.lean ====
section
/-! DEFINITION. Dispatch: one arm for each instruction, a direct call of its meaning. -/

namespace Sys2Proof.Machine

/-- The meaning of an instruction. -/
def exec (i : Instr) (s : State) : Host.Outcome State Fault Refusal :=
  match i with
  | .ill => Sys2Proof.Machine.execIll s
  | .add d a b => Sys2Proof.Machine.execAdd d a b s
  | .sub d a b => Sys2Proof.Machine.execSub d a b s
  | .mul d a b => Sys2Proof.Machine.execMul d a b s
  | .mulhs d a b => Sys2Proof.Machine.execMulhs d a b s
  | .mulhu d a b => Sys2Proof.Machine.execMulhu d a b s
  | .divs d a b => Sys2Proof.Machine.execDivs d a b s
  | .divu d a b => Sys2Proof.Machine.execDivu d a b s
  | .rems d a b => Sys2Proof.Machine.execRems d a b s
  | .remu d a b => Sys2Proof.Machine.execRemu d a b s
  | .and d a b => Sys2Proof.Machine.execAnd d a b s
  | .or d a b => Sys2Proof.Machine.execOr d a b s
  | .xor d a b => Sys2Proof.Machine.execXor d a b s
  | .andn d a b => Sys2Proof.Machine.execAndn d a b s
  | .shl d a b => Sys2Proof.Machine.execShl d a b s
  | .shr d a b => Sys2Proof.Machine.execShr d a b s
  | .sar d a b => Sys2Proof.Machine.execSar d a b s
  | .rol d a b => Sys2Proof.Machine.execRol d a b s
  | .mins d a b => Sys2Proof.Machine.execMins d a b s
  | .minu d a b => Sys2Proof.Machine.execMinu d a b s
  | .maxs d a b => Sys2Proof.Machine.execMaxs d a b s
  | .maxu d a b => Sys2Proof.Machine.execMaxu d a b s
  | .clz d a => Sys2Proof.Machine.execClz d a s
  | .ctz d a => Sys2Proof.Machine.execCtz d a s
  | .popc d a => Sys2Proof.Machine.execPopc d a s
  | .bswap d a => Sys2Proof.Machine.execBswap d a s
  | .sextb d a => Sys2Proof.Machine.execSextb d a s
  | .sexth d a => Sys2Proof.Machine.execSexth d a s
  | .sextw d a => Sys2Proof.Machine.execSextw d a s
  | .addi d a imm => Sys2Proof.Machine.execAddi d a imm s
  | .andi d a imm => Sys2Proof.Machine.execAndi d a imm s
  | .ori d a imm => Sys2Proof.Machine.execOri d a imm s
  | .xori d a imm => Sys2Proof.Machine.execXori d a imm s
  | .shli d a imm => Sys2Proof.Machine.execShli d a imm s
  | .shri d a imm => Sys2Proof.Machine.execShri d a imm s
  | .sari d a imm => Sys2Proof.Machine.execSari d a imm s
  | .muli d a imm => Sys2Proof.Machine.execMuli d a imm s
  | .movi d imm => Sys2Proof.Machine.execMovi d imm s
  | .movk d hw imm => Sys2Proof.Machine.execMovk d hw imm s
  | .cmp pd a b cc pa => Sys2Proof.Machine.execCmp pd a b cc pa s
  | .cmpi pd a imm cc pa => Sys2Proof.Machine.execCmpi pd a imm cc pa s
  | .pand pd pa pb => Sys2Proof.Machine.execPand pd pa pb s
  | .por pd pa pb => Sys2Proof.Machine.execPor pd pa pb s
  | .pxor pd pa pb => Sys2Proof.Machine.execPxor pd pa pb s
  | .pandn pd pa pb => Sys2Proof.Machine.execPandn pd pa pb s
  | .pmov pd pa => Sys2Proof.Machine.execPmov pd pa s
  | .pnot pd pa => Sys2Proof.Machine.execPnot pd pa s
  | .pset pd => Sys2Proof.Machine.execPset pd s
  | .br pq neg off => Sys2Proof.Machine.execBr pq neg off s
  | .call pq neg off => Sys2Proof.Machine.execCall pq neg off s
  | .jr a => Sys2Proof.Machine.execJr a s
  | .callr a => Sys2Proof.Machine.execCallr a s
  | .ret => Sys2Proof.Machine.execRet s
  | .brstg off => Sys2Proof.Machine.execBrstg off s
  | .brcl pq neg off => Sys2Proof.Machine.execBrcl pq neg off s
  | .pcl pq neg n1 => Sys2Proof.Machine.execPcl pq neg n1 s
  | .ldu t a sz imm => Sys2Proof.Machine.execLdu t a sz imm s
  | .lds t a sz imm => Sys2Proof.Machine.execLds t a sz imm s
  | .st t a sz imm => Sys2Proof.Machine.execSt t a sz imm s
  | .ldm t a n1 imm => Sys2Proof.Machine.execLdm t a n1 imm s
  | .stm t a n1 imm => Sys2Proof.Machine.execStm t a n1 imm s
  | .amoLd o d a sc => Sys2Proof.Machine.execAmoLd o d a sc s
  | .amoSt o a b sc => Sys2Proof.Machine.execAmoSt o a b sc s
  | .amoSwap o d a b sc => Sys2Proof.Machine.execAmoSwap o d a b sc s
  | .amoCas o d a b sc => Sys2Proof.Machine.execAmoCas o d a b sc s
  | .amoAdd o d a b sc => Sys2Proof.Machine.execAmoAdd o d a b sc s
  | .amoAnd o d a b sc => Sys2Proof.Machine.execAmoAnd o d a b sc s
  | .amoOr o d a b sc => Sys2Proof.Machine.execAmoOr o d a b sc s
  | .amoXor o d a b sc => Sys2Proof.Machine.execAmoXor o d a b sc s
  | .amoMins o d a b sc => Sys2Proof.Machine.execAmoMins o d a b sc s
  | .amoMinu o d a b sc => Sys2Proof.Machine.execAmoMinu o d a b sc s
  | .amoMaxs o d a b sc => Sys2Proof.Machine.execAmoMaxs o d a b sc s
  | .amoMaxu o d a b sc => Sys2Proof.Machine.execAmoMaxu o d a b sc s
  | .amoFadd o d a b sc => Sys2Proof.Machine.execAmoFadd o d a b sc s
  | .rld t a sz imm => Sys2Proof.Machine.execRld t a sz imm s
  | .rst t a sz imm => Sys2Proof.Machine.execRst t a sz imm s
  | .ramoLd d a sc => Sys2Proof.Machine.execRamoLd d a sc s
  | .ramoSt a b sc => Sys2Proof.Machine.execRamoSt a b sc s
  | .ramoSwap d a b sc => Sys2Proof.Machine.execRamoSwap d a b sc s
  | .ramoCas d a b sc => Sys2Proof.Machine.execRamoCas d a b sc s
  | .ramoAdd d a b sc => Sys2Proof.Machine.execRamoAdd d a b sc s
  | .ramoAnd d a b sc => Sys2Proof.Machine.execRamoAnd d a b sc s
  | .ramoOr d a b sc => Sys2Proof.Machine.execRamoOr d a b sc s
  | .ramoXor d a b sc => Sys2Proof.Machine.execRamoXor d a b sc s
  | .ramoMins d a b sc => Sys2Proof.Machine.execRamoMins d a b sc s
  | .ramoMinu d a b sc => Sys2Proof.Machine.execRamoMinu d a b sc s
  | .ramoMaxs d a b sc => Sys2Proof.Machine.execRamoMaxs d a b sc s
  | .ramoMaxu d a b sc => Sys2Proof.Machine.execRamoMaxu d a b sc s
  | .ramoFadd d a b sc => Sys2Proof.Machine.execRamoFadd d a b sc s
  | .nop => Sys2Proof.Machine.execNop s
  | .trap imm => Sys2Proof.Machine.execTrap imm s
  | .eret => Sys2Proof.Machine.execEret s
  | .uiret => Sys2Proof.Machine.execUiret s
  | .waiti => Sys2Proof.Machine.execWaiti s
  | .halt => Sys2Proof.Machine.execHalt s
  | .fence sc => Sys2Proof.Machine.execFence sc s
  | .qfence mask => Sys2Proof.Machine.execQfence mask s
  | .phase sc => Sys2Proof.Machine.execPhase sc s
  | .tide a => Sys2Proof.Machine.execTide a s
  | .keyst id => Sys2Proof.Machine.execKeyst id s
  | .uipoll => Sys2Proof.Machine.execUipoll s
  | .cancel lv => Sys2Proof.Machine.execCancel lv s
  | .csrr d csr => Sys2Proof.Machine.execCsrr d csr s
  | .csrw csr a => Sys2Proof.Machine.execCsrw csr a s
  | .csrs d csr a => Sys2Proof.Machine.execCsrs d csr a s
  | .csrc d csr a => Sys2Proof.Machine.execCsrc d csr a s
  | .tidelRead d => Sys2Proof.Machine.execTidelRead d s
  | .counterLowRead d n => Sys2Proof.Machine.execCounterLowRead d n s
  | .vrun a n1 => Sys2Proof.Machine.execVrun a n1 s
  | .mrun a nt n1 => Sys2Proof.Machine.execMrun a nt n1 s
  | .sopen n => Sys2Proof.Machine.execSopen n s
  | .sclose n => Sys2Proof.Machine.execSclose n s
  | .swait n => Sys2Proof.Machine.execSwait n s
  | .crun a pd n => Sys2Proof.Machine.execCrun a pd n s
  | .mtokw t => Sys2Proof.Machine.execMtokw t s
  | .vtokw t => Sys2Proof.Machine.execVtokw t s
  | .sset strm f g => Sys2Proof.Machine.execSset strm f g s
  | .sget strm f g => Sys2Proof.Machine.execSget strm f g s
  | .vkset k a => Sys2Proof.Machine.execVkset k a s
  | .gnset n f g => Sys2Proof.Machine.execGnset n f g s
  | .gnsetFaddr n g => Sys2Proof.Machine.execGnsetFaddr n g s
  | .gnget n f g => Sys2Proof.Machine.execGnget n f g s
  | .gnpeek d a b n => Sys2Proof.Machine.execGnpeek d a b n s
  | .ntset nt level f g => Sys2Proof.Machine.execNtset nt level f g s
  | .binit a n => Sys2Proof.Machine.execBinit a n s
  | .barr n => Sys2Proof.Machine.execBarr n s
  | .bwait n => Sys2Proof.Machine.execBwait n s
  | .btest pd n => Sys2Proof.Machine.execBtest pd n s
  | .cwaitc a lv => Sys2Proof.Machine.execCwaitc a lv s
  | .cread d lv => Sys2Proof.Machine.execCread d lv s
  | .lrpatch a b => Sys2Proof.Machine.execLrpatch a b s
  | .lrarm a => Sys2Proof.Machine.execLrarm a s
  | .lrstat d a => Sys2Proof.Machine.execLrstat d a s
  | .lease l pd kind prio ev => Sys2Proof.Machine.execLease l pd kind prio ev s
  | .lrel l => Sys2Proof.Machine.execLrel l s
  | .lstat d l => Sys2Proof.Machine.execLstat d l s
  | .lwait l => Sys2Proof.Machine.execLwait l s
  | .hwait h st => Sys2Proof.Machine.execHwait h st s
  | .hset h st => Sys2Proof.Machine.execHset h st s
  | .htest pd h st => Sys2Proof.Machine.execHtest pd h st s
  | .pgreq d a => Sys2Proof.Machine.execPgreq d a s
  | .pgstat d a => Sys2Proof.Machine.execPgstat d a s
  | .nqpop d a => Sys2Proof.Machine.execNqpop d a s
  | .mclr md => Sys2Proof.Machine.execMclr md s
  | .mset md => Sys2Proof.Machine.execMset md s
  | .mpop d ma => Sys2Proof.Machine.execMpop d ma s
  | .mfirst d ma => Sys2Proof.Machine.execMfirst d ma s
  | .mand md ma mb => Sys2Proof.Machine.execMand md ma mb s
  | .cstart a => Sys2Proof.Machine.execCstart a s
  | .cend => Sys2Proof.Machine.execCend s
  | .cwait a => Sys2Proof.Machine.execCwait a s
  | .userInterruptEntry => Sys2Proof.Machine.execUserInterruptEntry s
  | .waitiWake => Sys2Proof.Machine.execWaitiWake s
  | .loadDataReturn r => Sys2Proof.Machine.execLoadDataReturn r s
  | .dispatchQueueSpace => Sys2Proof.Machine.execDispatchQueueSpace s
  | .holdCycle => Sys2Proof.Machine.execHoldCycle s
  | .courseSlip => Sys2Proof.Machine.execCourseSlip s
  | .courseCcOverflow => Sys2Proof.Machine.execCourseCcOverflow s
  | .courseStart => Sys2Proof.Machine.execCourseStart s
  | .courseEndComplete => Sys2Proof.Machine.execCourseEndComplete s
  | .cwaitComplete => Sys2Proof.Machine.execCwaitComplete s
  | .activationAttach => Sys2Proof.Machine.execActivationAttach s
  | .activationStart strm => Sys2Proof.Machine.execActivationStart strm s
  | .streamGateGrant strm => Sys2Proof.Machine.execStreamGateGrant strm s
  | .streamAccess strm => Sys2Proof.Machine.execStreamAccess strm s
  | .streamAccessReturn strm => Sys2Proof.Machine.execStreamAccessReturn strm s
  | .activationFinish strm => Sys2Proof.Machine.execActivationFinish strm s
  | .streamClose => Sys2Proof.Machine.execStreamClose s
  | .swaitComplete => Sys2Proof.Machine.execSwaitComplete s
  | .segmentSaveComplete core seg => Sys2Proof.Machine.execSegmentSaveComplete core seg s
  | .segmentRestoreComplete => Sys2Proof.Machine.execSegmentRestoreComplete s
  | .veEntryStart => Sys2Proof.Machine.execVeEntryStart s
  | .routerDispatch => Sys2Proof.Machine.execRouterDispatch s
  | .veEntryFinish => Sys2Proof.Machine.execVeEntryFinish s
  | .loopBufferExit ae ve me => Sys2Proof.Machine.execLoopBufferExit ae ve me s
  | .vadd col w => Sys2Proof.Machine.execVadd col w s
  | .vsub col w => Sys2Proof.Machine.execVsub col w s
  | .vmul col w => Sys2Proof.Machine.execVmul col w s
  | .vfma col w => Sys2Proof.Machine.execVfma col w s
  | .vmin col w => Sys2Proof.Machine.execVmin col w s
  | .vmax col w => Sys2Proof.Machine.execVmax col w s
  | .vabs col w => Sys2Proof.Machine.execVabs col w s
  | .vneg col w => Sys2Proof.Machine.execVneg col w s
  | .vand col w => Sys2Proof.Machine.execVand col w s
  | .vor col w => Sys2Proof.Machine.execVor col w s
  | .vxor col w => Sys2Proof.Machine.execVxor col w s
  | .vshl col w => Sys2Proof.Machine.execVshl col w s
  | .vshr col w => Sys2Proof.Machine.execVshr col w s
  | .vsar col w => Sys2Proof.Machine.execVsar col w s
  | .vsel col w => Sys2Proof.Machine.execVsel col w s
  | .vcmp col cc w => Sys2Proof.Machine.execVcmp col cc w s
  | .vaddk col w => Sys2Proof.Machine.execVaddk col w s
  | .vmulk col w => Sys2Proof.Machine.execVmulk col w s
  | .vfmak col w => Sys2Proof.Machine.execVfmak col w s
  | .vmink col w => Sys2Proof.Machine.execVmink col w s
  | .vmaxk col w => Sys2Proof.Machine.execVmaxk col w s
  | .vfill col w => Sys2Proof.Machine.execVfill col w s
  | .vsfuExp w => Sys2Proof.Machine.execVsfuExp w s
  | .vsfuExp2 w => Sys2Proof.Machine.execVsfuExp2 w s
  | .vsfuLog w => Sys2Proof.Machine.execVsfuLog w s
  | .vsfuLog2 w => Sys2Proof.Machine.execVsfuLog2 w s
  | .vsfuRcp w => Sys2Proof.Machine.execVsfuRcp w s
  | .vsfuRsqrt w => Sys2Proof.Machine.execVsfuRsqrt w s
  | .vsfuSqrt w => Sys2Proof.Machine.execVsfuSqrt w s
  | .vsfuTanh w => Sys2Proof.Machine.execVsfuTanh w s
  | .vsfuSigm w => Sys2Proof.Machine.execVsfuSigm w s
  | .vsfuSin w => Sys2Proof.Machine.execVsfuSin w s
  | .vsfuCos w => Sys2Proof.Machine.execVsfuCos w s
  | .vsfuErf w => Sys2Proof.Machine.execVsfuErf w s
  | .vcvt w => Sys2Proof.Machine.execVcvt w s
  | .vqnt w => Sys2Proof.Machine.execVqnt w s
  | .vdqnt w => Sys2Proof.Machine.execVdqnt w s
  | .vsrnd w => Sys2Proof.Machine.execVsrnd w s
  | .vrsum w => Sys2Proof.Machine.execVrsum w s
  | .vrmax w => Sys2Proof.Machine.execVrmax w s
  | .vrmin w => Sys2Proof.Machine.execVrmin w s
  | .vramax w => Sys2Proof.Machine.execVramax w s
  | .vrssq w => Sys2Proof.Machine.execVrssq w s
  | .vargmx w => Sys2Proof.Machine.execVargmx w s
  | .vscan w => Sys2Proof.Machine.execVscan w s
  | .vmov w => Sys2Proof.Machine.execVmov w s
  | .viota w => Sys2Proof.Machine.execViota w s
  | .vgath w => Sys2Proof.Machine.execVgath w s
  | .vscat w => Sys2Proof.Machine.execVscat w s
  | .vbcast w => Sys2Proof.Machine.execVbcast w s
  | .vrev w => Sys2Proof.Machine.execVrev w s
  | .vilv w => Sys2Proof.Machine.execVilv w s
  | .vdilv w => Sys2Proof.Machine.execVdilv w s
  | .vcomb w => Sys2Proof.Machine.execVcomb w s
  | .vgen w => Sys2Proof.Machine.execVgen w s
  | .shapeN imm dly => Sys2Proof.Machine.execShapeN imm dly s
  | .shapeM imm dly => Sys2Proof.Machine.execShapeM imm dly s
  | .nest level len k dly => Sys2Proof.Machine.execNest level len k dly s
  | .vtok t dly => Sys2Proof.Machine.execVtok t dly s
  | .vwtok t dly => Sys2Proof.Machine.execVwtok t dly s
  | .vnop dly => Sys2Proof.Machine.execVnop dly s
  | .vtokAdd => Sys2Proof.Machine.execVtokAdd s
  | .vwtokComplete => Sys2Proof.Machine.execVwtokComplete s
  | .vtokwComplete => Sys2Proof.Machine.execVtokwComplete s
  | .meEntryStart => Sys2Proof.Machine.execMeEntryStart s
  | .meEntryFinish => Sys2Proof.Machine.execMeEntryFinish s
  | .mnop dly => Sys2Proof.Machine.execMnop dly s
  | .mma w => Sys2Proof.Machine.execMma w s
  | .mlatch w => Sys2Proof.Machine.execMlatch w s
  | .mswap t t2 dly => Sys2Proof.Machine.execMswap t t2 dly s
  | .mgath idx rows fmt dly => Sys2Proof.Machine.execMgath idx rows fmt dly s
  | .mzero t dly => Sys2Proof.Machine.execMzero t dly s
  | .mdrain t d dfmt rnd sat dly => Sys2Proof.Machine.execMdrain t d dfmt rnd sat dly s
  | .mdrainrq t d q sgnO dly => Sys2Proof.Machine.execMdrainrq t d q sgnO dly s
  | .mrsum t strm dly => Sys2Proof.Machine.execMrsum t strm dly s
  | .mcsum t strm dly => Sys2Proof.Machine.execMcsum t strm dly s
  | .mwscl strm w dly => Sys2Proof.Machine.execMwscl strm w dly s
  | .mtok t dly => Sys2Proof.Machine.execMtok t dly s
  | .mwtok t dly => Sys2Proof.Machine.execMwtok t dly s
  | .mxlatch w => Sys2Proof.Machine.execMxlatch w s
  | .mtokAdd => Sys2Proof.Machine.execMtokAdd s
  | .mwtokComplete => Sys2Proof.Machine.execMwtokComplete s
  | .mtokwComplete => Sys2Proof.Machine.execMtokwComplete s
  | .ntsetComplete => Sys2Proof.Machine.execNtsetComplete s
  | .freqTableLoaded => Sys2Proof.Machine.execFreqTableLoaded s
  | .leaseQueueGrant bay => Sys2Proof.Machine.execLeaseQueueGrant bay s
  | .leaseAging bay => Sys2Proof.Machine.execLeaseAging bay s
  | .corbelWakeEnd bay c => Sys2Proof.Machine.execCorbelWakeEnd bay c s
  | .corbelWarmTimeout bay c => Sys2Proof.Machine.execCorbelWarmTimeout bay c s
  | .crunAppend => Sys2Proof.Machine.execCrunAppend s
  | .tkInit bay c => Sys2Proof.Machine.execTkInit bay c s
  | .tkFeed bay c => Sys2Proof.Machine.execTkFeed bay c s
  | .tkEmit bay c => Sys2Proof.Machine.execTkEmit bay c s
  | .tkSample bay c => Sys2Proof.Machine.execTkSample bay c s
  | .tkReset bay c => Sys2Proof.Machine.execTkReset bay c s
  | .xpConf bay c => Sys2Proof.Machine.execXpConf bay c s
  | .xpTile bay c => Sys2Proof.Machine.execXpTile bay c s
  | .ifBook bay c => Sys2Proof.Machine.execIfBook bay c s
  | .ifRun bay c => Sys2Proof.Machine.execIfRun bay c s
  | .ifReset bay c => Sys2Proof.Machine.execIfReset bay c s
  | .slKey bay c => Sys2Proof.Machine.execSlKey bay c s
  | .slIv bay c => Sys2Proof.Machine.execSlIv bay c s
  | .slEnc bay c => Sys2Proof.Machine.execSlEnc bay c s
  | .slDec bay c => Sys2Proof.Machine.execSlDec bay c s
  | .slFin bay c => Sys2Proof.Machine.execSlFin bay c s
  | .scConf bay c => Sys2Proof.Machine.execScConf bay c s
  | .scRun bay c => Sys2Proof.Machine.execScRun bay c s
  | .scHist bay c => Sys2Proof.Machine.execScHist bay c s
  | .scCompact bay c => Sys2Proof.Machine.execScCompact bay c s
  | .scCarry bay c => Sys2Proof.Machine.execScCarry bay c s
  | .rlDesc bay c => Sys2Proof.Machine.execRlDesc bay c s
  | .rlMove bay c => Sys2Proof.Machine.execRlMove bay c s
  | .rlFlush bay c => Sys2Proof.Machine.execRlFlush bay c s
  | .corbelCommandEnd bay c => Sys2Proof.Machine.execCorbelCommandEnd bay c s
  | .lwaitComplete => Sys2Proof.Machine.execLwaitComplete s
  | .lrelComplete => Sys2Proof.Machine.execLrelComplete s
  | .emergencySample temps power => Sys2Proof.Machine.execEmergencySample temps power s
  | .thermalTrip temp => Sys2Proof.Machine.execThermalTrip temp s
  | .copyStart ch x => Sys2Proof.Machine.execCopyStart ch x s
  | .copyStatusRead d ch => Sys2Proof.Machine.execCopyStatusRead d ch s
  | .copyTakeUp die ch => Sys2Proof.Machine.execCopyTakeUp die ch s
  | .copyPrologueClaim die ch => Sys2Proof.Machine.execCopyPrologueClaim die ch s
  | .copyComplete die ch => Sys2Proof.Machine.execCopyComplete die ch s
  | .hwaitComplete => Sys2Proof.Machine.execHwaitComplete s
  | .launchPoolWrite h first recs => Sys2Proof.Machine.execLaunchPoolWrite h first recs s
  | .jobStart h job recs => Sys2Proof.Machine.execJobStart h job recs s
  | .jobCancel h job => Sys2Proof.Machine.execJobCancel h job s
  | .unitPlacement vf => Sys2Proof.Machine.execUnitPlacement vf s
  | .gangPlacement vf => Sys2Proof.Machine.execGangPlacement vf s
  | .readyQueueAging vf => Sys2Proof.Machine.execReadyQueueAging vf s
  | .sliceEnd outVf inVf => Sys2Proof.Machine.execSliceEnd outVf inVf s
  | .preemptionComplete => Sys2Proof.Machine.execPreemptionComplete s
  | .unitDone => Sys2Proof.Machine.execUnitDone s
  | .cwaitcComplete => Sys2Proof.Machine.execCwaitcComplete s
  | .barrArrival => Sys2Proof.Machine.execBarrArrival s
  | .bwaitComplete => Sys2Proof.Machine.execBwaitComplete s
  | .pgreqPost => Sys2Proof.Machine.execPgreqPost s
  | .migratePage h va ipa => Sys2Proof.Machine.execMigratePage h va ipa s
  | .migratePageRefuse h va => Sys2Proof.Machine.execMigratePageRefuse h va s
  | .migrationCopyEnd die => Sys2Proof.Machine.execMigrationCopyEnd die s
  | .migrationTimeout die => Sys2Proof.Machine.execMigrationTimeout die s
  | .retryResend => Sys2Proof.Machine.execRetryResend s
  | .phaseDepart => Sys2Proof.Machine.execPhaseDepart s
  | .fenceComplete => Sys2Proof.Machine.execFenceComplete s
  | .qfenceComplete => Sys2Proof.Machine.execQfenceComplete s
  | .hostRdmaWrite qp va data => Sys2Proof.Machine.execHostRdmaWrite qp va data s
  | .hostRdmaRead qp va n => Sys2Proof.Machine.execHostRdmaRead qp va n s
  | .hostRdmaAtomic qp va cas cmp arg => Sys2Proof.Machine.execHostRdmaAtomic qp va cas cmp arg s
  | .hostSend qp data => Sys2Proof.Machine.execHostSend qp data s
  | .remoteSend => Sys2Proof.Machine.execRemoteSend s
  | .asyncRead p => Sys2Proof.Machine.execAsyncRead p s
  | .asyncWrite p => Sys2Proof.Machine.execAsyncWrite p s
  | .asyncAtomic p => Sys2Proof.Machine.execAsyncAtomic p s
  | .asyncReduce p => Sys2Proof.Machine.execAsyncReduce p s
  | .asyncHandle p => Sys2Proof.Machine.execAsyncHandle p s
  | .asyncReply p => Sys2Proof.Machine.execAsyncReply p s
  | .asyncNack p => Sys2Proof.Machine.execAsyncNack p s
  | .asyncRetry p => Sys2Proof.Machine.execAsyncRetry p s
  | .remoteReplyTimeout tag => Sys2Proof.Machine.execRemoteReplyTimeout tag s
  | .asyncSlot port => Sys2Proof.Machine.execAsyncSlot port s
  | .linkAt slot => Sys2Proof.Machine.execLinkAt slot s
  | .linkSend port desc t => Sys2Proof.Machine.execLinkSend port desc t s
  | .linkRecv port desc t => Sys2Proof.Machine.execLinkRecv port desc t s
  | .linkFwd port out => Sys2Proof.Machine.execLinkFwd port out s
  | .linkRedw port desc t => Sys2Proof.Machine.execLinkRedw port desc t s
  | .linkReds port desc t => Sys2Proof.Machine.execLinkReds port desc t s
  | .linkMark port id => Sys2Proof.Machine.execLinkMark port id s
  | .linkKey id => Sys2Proof.Machine.execLinkKey id s
  | .linkSlack => Sys2Proof.Machine.execLinkSlack s
  | .linkEnd => Sys2Proof.Machine.execLinkEnd s
  | .linkSetdt set => Sys2Proof.Machine.execLinkSetdt set s
  | .linkTune port lane ch => Sys2Proof.Machine.execLinkTune port lane ch s
  | .markerReceive port lane id => Sys2Proof.Machine.execMarkerReceive port lane id s
  | .rsigRelease port => Sys2Proof.Machine.execRsigRelease port s
  | .laneRelock port lane delay => Sys2Proof.Machine.execLaneRelock port lane delay s
  | .laneRelockTimeout port lane => Sys2Proof.Machine.execLaneRelockTimeout port lane s
  | .routeSwap => Sys2Proof.Machine.execRouteSwap s
  | .linkFailed port lane => Sys2Proof.Machine.execLinkFailed port lane s
  | .replaySlot port => Sys2Proof.Machine.execReplaySlot port s
  | .alarmSlot heard => Sys2Proof.Machine.execAlarmSlot heard s
  | .tideExchange stamps => Sys2Proof.Machine.execTideExchange stamps s
  | .elasticRecentre port => Sys2Proof.Machine.execElasticRecentre port s
  | .tideLost => Sys2Proof.Machine.execTideLost s
  | .faultFrameTaken => Sys2Proof.Machine.execFaultFrameTaken s
  | .machineCheck => Sys2Proof.Machine.execMachineCheck s
  | .scrubError key correctable => Sys2Proof.Machine.execScrubError key correctable s
  | .keystoneWrite => Sys2Proof.Machine.execKeystoneWrite s
  | .keystoneHeaderWrite rec => Sys2Proof.Machine.execKeystoneHeaderWrite rec s
  | .rollbackRestore job => Sys2Proof.Machine.execRollbackRestore job s
  | .rollbackResume job => Sys2Proof.Machine.execRollbackResume job s
  | .debugStop => Sys2Proof.Machine.execDebugStop s
  | .deviceInfo h => Sys2Proof.Machine.execDeviceInfo h s
  | .attest h nonce vf => Sys2Proof.Machine.execAttest h nonce vf s
  | .measureRead h => Sys2Proof.Machine.execMeasureRead h s
  | .vfCreate h p => Sys2Proof.Machine.execVfCreate h p s
  | .vfDestroy h => Sys2Proof.Machine.execVfDestroy h s
  | .vfTeardownComplete vf => Sys2Proof.Machine.execVfTeardownComplete vf s
  | .teardownReconcile pkg vf => Sys2Proof.Machine.execTeardownReconcile pkg vf s
  | .quarantineEnd vf => Sys2Proof.Machine.execQuarantineEnd vf s
  | .partitionAssign h p => Sys2Proof.Machine.execPartitionAssign h p s
  | .regionMap h regions world => Sys2Proof.Machine.execRegionMap h regions world s
  | .rangeSet h ranges heap thresh => Sys2Proof.Machine.execRangeSet h ranges heap thresh s
  | .policyInstall h blob => Sys2Proof.Machine.execPolicyInstall h blob s
  | .scopepolSet h bits => Sys2Proof.Machine.execScopepolSet h bits s
  | .keySlotLoad h slot key => Sys2Proof.Machine.execKeySlotLoad h slot key s
  | .counterRead h sel => Sys2Proof.Machine.execCounterRead h sel s
  | .counterSessionOpen h p => Sys2Proof.Machine.execCounterSessionOpen h p s
  | .counterSessionClose h => Sys2Proof.Machine.execCounterSessionClose h s
  | .counterSessionExport h => Sys2Proof.Machine.execCounterSessionExport h s
  | .counterSessionImport h b => Sys2Proof.Machine.execCounterSessionImport h b s
  | .traceRead h offset => Sys2Proof.Machine.execTraceRead h offset s
  | .traceSessionOpen h p => Sys2Proof.Machine.execTraceSessionOpen h p s
  | .traceSessionClose h => Sys2Proof.Machine.execTraceSessionClose h s
  | .traceSessionExport h => Sys2Proof.Machine.execTraceSessionExport h s
  | .traceSessionImport h b => Sys2Proof.Machine.execTraceSessionImport h b s
  | .podJoin h dims coords parent tide routes => Sys2Proof.Machine.execPodJoin h dims coords parent tide routes s
  | .tideRoot h root ptp => Sys2Proof.Machine.execTideRoot h root ptp s
  | .chordPlanLoad h ports routes tsw => Sys2Proof.Machine.execChordPlanLoad h ports routes tsw s
  | .scheduleLoad h progs start tree => Sys2Proof.Machine.execScheduleLoad h progs start tree s
  | .detourLoad h set progs avoid tree => Sys2Proof.Machine.execDetourLoad h set progs avoid tree s
  | .keystoneConf h rec slotA slotB segmask tiles => Sys2Proof.Machine.execKeystoneConf h rec slotA slotB segmask tiles s
  | .reset h => Sys2Proof.Machine.execReset h s
  | .isuneUnknownOpcode h => Sys2Proof.Machine.execIsuneUnknownOpcode h s
  | .powerOn => Sys2Proof.Machine.execPowerOn s
  | .hbmTrained => Sys2Proof.Machine.execHbmTrained s
  | .hostLinkUp => Sys2Proof.Machine.execHostLinkUp s
  | .bringUpReady => Sys2Proof.Machine.execBringUpReady s
  | .smbusPcapWrite v => Sys2Proof.Machine.execSmbusPcapWrite v s
  | .smbusRegisterWrite reg v => Sys2Proof.Machine.execSmbusRegisterWrite reg v s
  | .reservedWord k w => Sys2Proof.Machine.execReservedWord k w s
  | .coreCycle => Sys2Proof.Machine.execCoreCycle s
  | .scheduledSlot port => Sys2Proof.Machine.execScheduledSlot port s
  | .copyMove die ch => Sys2Proof.Machine.execCopyMove die ch s
  | .powerLoss => Sys2Proof.Machine.execPowerLoss s

end Sys2Proof.Machine
end

