-- ==== Sys2Proof/Machine/Fetch.lean ====
section
/-! DEFINITION. What comes next: the fetch of a scalar word (R33 to R38), the word at a column, the router, the matrix
engine or a link engine, the events that end waits, and what the outside brings (the agenda; DESIGN CHOICE, log 1). And the placing
of a word where the next step fetches it (DESIGN CHOICE, log 6). -/

namespace Sys2Proof.Machine

/-! ### The scalar fetch (R34 to R37) -/

/-- What a fetch at the PC of the acting unit finds: a word, any word where code was changed under the launch (R9, R34), or a
cause. -/
inductive Fetched where
  | word (w : Code)
  | changed
  | cause (c : Cause)
  deriving DecidableEq, Repr

/-- R33: the PC lies in the scalar section of the unit's record. -/
def pcInside (s : State) (u : Unit) : Bool :=
  let va := recField s u.id.recNo 0 8
  decide (va ≤ u.r.pc.toNat) && decide (u.r.pc.toNat + 4 ≤ va + recField s u.id.recNo 8 4)

/-- The place of the word at the PC, or the cause its fetch raises (R34, R353). -/
def fetchPlace (s : State) (uid : Nat) : Except Cause Place :=
  let u := s.unit uid
  if !pcInside s u then .error .fetchBounds
  else
    match translate s uid u.r.pc .load with
    | .error c => .error c
    | .ok t => if t.res then .ok t.place else .error .notResident

/-- The storage key of the word at the PC, where it lies in this package's storage without an error. -/
def fetchKey (s : State) (uid : Nat) : Option Nat :=
  match fetchPlace s uid with
  | .ok (.mem k) => if spoiledAt s k 4 then none else some k
  | _ => none

/-- The fetch of the acting unit; from another package through a range of pod kind (R352). -/
def fetchWord (s : State) : Fetched :=
  match fetchPlace s s.cur with
  | .error c => .cause c
  | .ok (.mem k) =>
    if spoiledAt s k 4 then .cause .uncorrectable
    else if codeChanged s s.u.id.recNo k then .changed
    else .word (BitVec.ofNat 32 (memNat s.mem k 4))
  | .ok (.pod p v key o) =>
    match farBytes s s.u p v key 3 o 4 with
    | .error c => .cause c
    | .ok bs => .word (BitVec.ofNat 32 (leNat bs))

/-- A word of a code kind as an instruction: a reserved one is met as such (R37). -/
def instrOf (k : CodeKind) (w : Code) : Instr :=
  match decode k w with
  | .ok i => i
  | .error _ => .reservedWord k w

/-- The event that takes up the word that a unit waits in; time passes where only a packet can end it. -/
def waitEvent : Wait → Instr
  | .handle .. => .hwaitComplete
  | .barArrive _ => .barrArrival
  | .barGen .. => .bwaitComplete
  | .lease _ => .lwaitComplete
  | .lrel _ => .lrelComplete
  | .counter .. => .cwaitcComplete
  | .tideAt _ => .cwaitComplete
  | .courseStart .. => .courseStart
  | .courseEnd => .courseEndComplete
  | .stream _ => .swaitComplete
  | .mtok _ => .mtokwComplete
  | .vtok _ => .vtokwComplete
  | .waiti => .waitiWake
  | .ntset .. => .ntsetComplete
  | .aeSpace _ | .veSpace _ | .meSpace _ | .copySpace .. => .dispatchQueueSpace
  | .crun .. => .crunAppend
  | .allowance _ => .remoteSend
  | .reply .. | .heldAtomic .. => .coreCycle
  | .pgreq .. => .pgreqPost
  | .fence _ => .fenceComplete
  | .qfence _ => .qfenceComplete
  | .phaseArrive _ | .phaseMeet _ => .phaseDepart
  | .keyst _ => .keystoneWrite
  | .freq _ => .freqTableLoaded
  | .retry n => if n = 0 then .retryResend else .coreCycle

/-- A turn of the sequencer of the acting unit: an interrupt, the word it waits in, its end, a stop, or the word at
the PC. A fetch that fails raises its cause precisely (R34). A management core's words come from outside (log 12). -/
def sqTurn (s : State) : State × Option Instr :=
  let u := s.u
  if !issuing u || u.sup then (s, none)
  else if uiTakeable u then (s, some .userInterruptEntry)
  else
    match u.wait with
    | some w => (s, some (waitEvent w))
    | none =>
      if u.halted then (s, some .unitDone)
      else if atBreak u || u.dbg.stopRequested then (s, some .debugStop)
      else
        match fetchWord s with
        | .word w => (s, some (instrOf .scalar w))
        | .changed => let p := freeVal s; (p.2, some (instrOf .scalar (p.1.setWidth 32)))
        | .cause c => (sqFault c u.r.pc 0 s, none)

/-! ### Turns of the other agents -/

/-- The word at the head of a column's queue. -/
def columnWord (u : Unit) (col : Nat) : Option Code := (tget u.ve.cols col []).head?.map (·.code)

/-- The word at the router: an element word goes to its column. -/
def routerInstr (u : Unit) : Option Instr :=
  match u.ve.run with
  | none => none
  | some r =>
    match r.words[r.widx]? with
    | none => none
    | some w => if bits w.toNat 29 3 < 6 then some .routerDispatch else some (instrOf .vector w)

/-- The word of the matrix engine. -/
def meWord (u : Unit) : Option Code := u.me.run.bind fun r => r.words[r.widx]?

/-- The word at the position of a link engine. -/
def linkWordAt (l : Link) : Option Code := if l.running then (linkWords l)[l.widx]? else none

/-! ### What the outside brings (DESIGN CHOICE, log 1) -/

/-- A link engine's word that acts on an arriving frame. -/
def takesFrame (w : Code) : Bool :=
  match instrOf .link w with
  | .linkRecv .. | .linkRedw .. | .linkReds .. | .linkFwd .. => true
  | _ => false

/-- The time of an engine's word has come (R394). -/
def wordDue (s : State) (l : Link) (w : Code) : Bool :=
  let t := s.tide.toNat
  !l.stopped && decide (l.period * Config.periodNs ≤ t) &&
  (match instrOf .link w with
   | .linkAt slot => decide (l.period * Config.periodNs + slot.toNat * Config.slotNs ≤ t)
   | .linkSlack => decide ((l.period + 1) * Config.periodNs ≤ t)
   | .reservedWord .. => false
   | _ => true)

/-- The engine that must act before time passes (R161, R394, R397): one whose word is due, and a word that takes a frame only
before its slot, on a chord port its chord slot, ends. -/
def engineToAct (s : State) (ends : Bool) : Option Nat :=
  (s.links.find? fun e => (linkWordAt e.2).any fun w =>
    wordDue s e.2 w && (!takesFrame w || (ends && (decide (e.1 < 8) || slotOf s.tide % 16 == 15)))).map (·.1)

/-- A stopped unit is on the bay: its slice stands still (R478). -/
def sliceStands (s : State) (n : Nat) : Bool :=
  s.units.any fun e => e.2.dbg.stopped && e.2.id.core.isSome && bayOf (coreOf e.2) == n

/-- Nanoseconds of tide time pass: the lanes that retune go on. -/
def passTide (s : State) (n : Nat) : State :=
  let tune := fun (x : Lane) => { x with tuning := x.tuning.map (· + n) }
  { s with
    tide := s.tide + BitVec.ofNat 64 n
    bays := tmap (fun k (b : Bay) => if sliceStands s k then { b with sliceAt := b.sliceAt + n } else b) s.bays
    links := tmap (fun _ (l : Link) => { l with lanes := tmap (fun _ x => tune x) l.lanes }) s.links }

/-- What an event leaves, if it comes about. -/
def performed (e : State → Res) (s : State) : State :=
  match e s with
  | .next s' => s'
  | _ => s

/-- An event for each of a list. -/
def performedOn {α : Type} (e : α → State → Res) (xs : List α) (s : State) : State := xs.foldl (fun s x => performed (e x) s) s

/-- Ports and lanes of a state. -/
def portsOf (s : State) : List Nat := s.links.map (·.1)
def linkLanes (s : State) : List (Nat × Nat) := s.links.flatMap fun e => (List.range 8).map (e.1, ·)

/-- What the rules place at the boundary of a slot (R156, R398, R413, R416, R417, R441, R452); each comes about where its rule's
conditions hold. -/
def boundaryWork (s : State) : State :=
  let s := performed execRouteSwap (performed execTideLost s)
  let s := performedOn (fun x => execLaneRelockTimeout x.1 x.2) (linkLanes s) s
  let s := performedOn (fun x => execLinkFailed x.1 x.2) (linkLanes s) s
  let s := performedOn execRsigRelease (portsOf s) s
  let s := performedOn execRollbackResume (s.jobs.map (·.1)) s
  performedOn execQuarantineEnd (s.vfs.map (·.1)) s

/-- Something of this package waits for the alarm slots of the present period (R411, R412, R485). -/
def alarmsDue (s : State) : Bool :=
  s.pod.alarmsAt != some (periodOf s.tide) &&
  (!s.pod.alarms.isEmpty || !s.firm.cancels.isEmpty || s.links.any fun l => l.2.missed.any fun m => decide (m.at'.period < periodOf s.tide))

/-- What the rules place before the end of the present slot: the slots of the ports are closed (R394, R412, R413), at the end of
the recentring slots the buffers are at their middle (R160), and at the end of a period come the restore of a rollback, the
reconciliation and the alarms (R411, R441, R465). -/
def slotEndWork (s : State) : State :=
  let n := slotOf s.tide
  let ps := (portsOf s).filter (portSlotEnds s)
  let s := performedOn execReplaySlot ps (performedOn execScheduledSlot ps s)
  let s := if n = 4039 then performedOn execElasticRecentre (portsOf s) s else s
  if n = 4095 then
    let s := performedOn execRollbackRestore (s.jobs.map (·.1)) s
    let s := performedOn (fun (x : Nat × Nat × Nat) => execTeardownReconcile x.1 x.2.1) s.pod.torn s
    if alarmsDue s then performed (execAlarmSlot []) s else s
  else s

/-- A turn of tide time, with the correction not yet made: it never steps back (R155). The engines act in their slots, which are
closed as they end, and at the boundary of a slot what is ready is noted (R156, R161, R394). -/
def tideTurn (s : State) (ns : Nat) : State × Option Instr :=
  let d := (ns : Int) + s.pod.slew
  let n := d.toNat
  let room := Config.slotNs - s.tide.toNat % Config.slotNs
  let ends := decide (room ≤ n)
  match engineToAct s ends with
  | some p => ({ s with port := p, agenda := .tide ns :: s.agenda }, (linkWordAt (s.link p)).map (instrOf .link))
  | none =>
    let s := { s with pod := { s.pod with slew := if d < 0 then d else 0 } }
    if !ends then (passTide s n, none)
    else
      let s := boundaryWork (slotBegins (passTide (slotEndWork s) room))
      ({ s with agenda := if room < n then .tide (n - room) :: s.agenda else s.agenda }, none)

/-- A frame on a lane, in place of the one there. -/
def landFrame (s : State) (port lane : Nat) (f : Frame) : State :=
  let l := s.link port
  s.setLink port { l with arrived := l.arrived.filter (fun a => a.1 != lane) ++ [(lane, f)] }

/-- R375: the data cache of a unit's core takes a fresh copy of a granule. -/
def fillCache (s : State) (uid g : Nat) : State :=
  let k := granule g
  s.onUnit uid fun u => { u with m := { u.m with snap := memPut u.m.snap k (memRead s.mem k 64) } }

/-- A turn: the instruction or event it comes to, and the state in which that acts. -/
def turnInstr (s : State) : Turn → State × Option Instr
  | .sq uid => sqTurn { s with cur := uid }
  | .column uid col => let s := { s with cur := uid }; (s, (columnWord s.u col).map (instrOf .vector))
  | .router uid => let s := { s with cur := uid }; (s, routerInstr s.u)
  | .me uid => let s := { s with cur := uid }; (s, (meWord s.u).map (instrOf .matrix))
  | .link port => let s := { s with port := port }; (s, (linkWordAt (s.link port)).map (instrOf .link))
  | .event uid i => ({ s with cur := uid }, some i)
  | .tide ns => tideTurn s ns
  | .corrected uid n => (count s uid 0x0A01 n, none)
  | .occupancy port flits => (s.setLink port { s.link port with elastic := flits }, none)
  | .frame port lane f => (landFrame s port lane f, none)
  | .cacheFill uid g => (fillCache s uid g, none)
  | .spoil g => (spoil s g, none)
  | .conflict uid row bank => (conflictAt s uid row bank, none)
  | .debug uid d => (setDebug s uid d, none)
  | .userMask uid m => (s.onUnit uid fun u => { u with c := { u.c with uimask := m } }, none)
  | .sideband reg => (sidebandRead s reg, none)

/-- A register of a unit whose load is under way. -/
def pendingReg (u : Unit) : Option Nat := (List.range 64).find? fun n => n != 0 && u.pend.contains (pendKey u n)

/-- With no turn named: the acting unit's loads return and its sequencer goes on; else time passes. -/
def idleTurn (s : State) : State × Option Instr :=
  if !issuing s.u || s.u.sup then (s, some .coreCycle)
  else
    match pendingReg s.u with
    | some n => (s, some (.loadDataReturn (BitVec.ofNat 6 n)))
    | none => sqTurn s

/-! ### Placing a word (DESIGN CHOICE, log 6) -/

/-- The acting unit as it fetches next: on its core, in no wait, at level U, with no clause. -/
def readyUnit (u : Unit) : Unit :=
  { u with
    st := .running, restored := true, wait := none, halted := false, pend := [], stopMask := 0
    id := { u.id with core := some (coreOf u) }
    dbg := { u.dbg with breaks := [], stopRequested := false, stopped := false }
    c := { u.c with uipend := 0 }
    r := { u.r with clsCount := 0, clsPred := false } }

/-- The range that gives the acting unit's VF one region of HBM. -/
def codeRange (w : Bool) : RangeEntry :=
  { base := 0, limit := 0x10000, offset := 0, world := BitVec.ofNat 8 w.toNat, kind := 0, path := 0, pkg := 0, vfn := 0, key := 0 }

/-- A scalar section of one page at the heap's start, for a unit whose PC lies in none. -/
def mapCode (s : State) : State :=
  let u := s.u
  let vf := u.id.vf
  let v := s.vf vf
  let s := s.setVf vf { v with st := .active, ranges := [codeRange v.world] }
  let s := { s with regionVf := tset s.regionVf 0 vf, mem := memPut s.mem (Config.poolKey + 512 * u.id.recNo) (toLe 8 0 ++ toLe 4 0x10000) }
  s.onU fun u => { u with r := { u.r with pc := 0 }, c := { u.c with heapb := 0, heapl := 1, heapo := 0 } }

/-- A scalar word at the PC of the acting unit. -/
def placeScalar (w : Code) (s : State) : State :=
  let s := { s.onU readyUnit with agenda := [.sq s.cur] }
  let s := match fetchKey s s.cur with
    | some _ => s
    | none => mapCode s
  match fetchKey s s.cur with
  | some k =>
    let i := s.u.id.recNo
    { s.putRec i { s.recOf i with code := none } with mem := memPut s.mem k (toLe 4 w.toNat) }
  | none => s

/-- An entry of the vector engine whose block is one word. -/
def oneEntry : VeEntry :=
  { off := 0, n := 1, ftz := false, det := false, n1 := 63, m1 := 0, k := [], gns := [], due := none, ord := 0 }

/-- A vector word at the head of its column, or at the router. -/
def placeVector (w : Code) (s : State) : State :=
  let c := bits w.toNat 29 3
  let r : VeRun := { veRunOf s.u oneEntry [w] with wait := 0 }
  let s := s.onU fun u => { readyUnit u with ve := { u.ve with run := some r } }
  if c < 6 then
    let v := { dispatched s.u r w with wait := 0 }
    { s.onU (fun u => { u with ve := { u.ve with cols := tset u.ve.cols c [v], clock := [] } }) with agenda := [.column s.cur c] }
  else { s with agenda := [.router s.cur] }

/-- A matrix word at the matrix engine. -/
def placeMatrix (w : Code) (s : State) : State :=
  let e : MeEntry := { off := 0, n := 1, nt := 0, ftz := false, det := false, gns := [], due := none, ord := 0 }
  let r : MeRun := { meRunOf e [] [w] with ahead := meDelay w }
  { s.onU (fun u => { readyUnit u with me := { u.me with run := some r, clock := [] } }) with agenda := [.me s.cur] }

/-- A link word at the position of the acting port's engine, whose time has come. -/
def placeLink (w : Code) (s : State) : State :=
  let l := s.link s.port
  let t := if s.tide.toNat < Config.periodNs then BitVec.ofNat 64 Config.periodNs else s.tide
  let g : Program := { words := [w], descs := ((tfind l.sets l.set).map (·.descs)).getD [] }
  let l := { l with sets := tset l.sets l.set g, widx := 0, period := t.toNat / Config.periodNs - 1, running := true, stopped := false }
  let s1 := { s.setLink s.port l with tide := t, agenda := [.link s.port] }
  s1.setLink s.port { l with startReady := readySources s1 l }

/-- The word of a row, where the next step takes it. -/
def placeWord (w : Code) (s : State) : State :=
  match kindOfWord w with
  | some (.vector, _) => placeVector w s
  | some (.matrix, _) => placeMatrix w s
  | some (.link, _) => placeLink w s
  | _ => placeScalar w s

end Sys2Proof.Machine
end

