-- ==== Sys2Proof/Machine/Order.lean ====
section
/-! DEFINITION. The order of what falls in one core cycle (R26, R186, R270, R310, R322, R324, R338, R388, R420, R485): the turns of the
agenda up to the next CORE_CYCLE are one cycle's, and of those that meet on one resource the first by the rule acts first. -/

namespace Sys2Proof.Machine

/-- What turns of one cycle can meet on. -/
inductive Contended where
  /-- a buffer handle of a unit (R310) -/
  | handle (uid h : Nat)
  /-- a barrier of a die (R338) -/
  | barrier (die n : Nat)
  /-- the corbels and the queue of a bay (R270) -/
  | bay (n : Nat)
  /-- the notification queue of a VF (R26) -/
  | notes (vf : Nat)
  /-- a copy channel of a die (R26) -/
  | channel (die ch : Nat)
  /-- the launch records of a VF (R322) -/
  | records (vf : Nat)
  /-- the ends and arrivals of a VF's units (R324, R388) -/
  | ends (vf : Nat)
  /-- the residency masks of a unit (R186) -/
  | masks (uid : Nat)
  /-- firmware, which takes one command at a time (R485) -/
  | firmware
  deriving DecidableEq, Repr

/-- A resource that a turn needs, and its rank there: the lower acts first. -/
abbrev Claim := Contended × Nat

/-! ### Ranks -/

/-- R310: observers, claims of copies by channel and of streams by number, then the sets: remote actions, link engines, epilogues
by channel, stream ends by number, HSET. -/
def rankObserve : Nat := 0
def rankCopy (ch : Nat) : Nat := 100 + ch
def rankStream (n : Nat) : Nat := 200 + n
def rankRemote : Nat := 300
def rankLink : Nat := 350
def rankEpilogue (ch : Nat) : Nat := 400 + ch
def rankEnd (n : Nat) : Nat := 500 + n
def rankHset : Nat := 600

/-- The logical number of the acting unit's core (R26). -/
def logicalNow (s : State) : Nat := logicalOf s (coreOf s.u)

/-- R270: withdrawals, other releases, ends of commands, requests by priority, core and handle, and what else serves a queue. -/
def rankRequest (s : State) (prio : BitVec 2) (l : Nat) : Nat := 100 + (prio.toNat * 256 + logicalNow s) * 16 + l
def rankServe : Nat := 100000

/-! ### The claims of a turn -/

/-- A claim on a handle of the acting unit. -/
def onHandle (s : State) (h rank : Nat) : List Claim := [(.handle s.cur h, rank)]

/-- A claim on a barrier of the acting unit's die. -/
def onBarrier (s : State) (n rank : Nat) : List Claim := [(.barrier (dieOf (coreOf s.u)) n, rank)]

/-- The release of a handle's lease, or the withdrawal of its request. -/
def onLeaseEnd (s : State) (l : Nat) : List Claim :=
  [(.bay (bayOf (coreOf s.u)), if (leaseOf s.u l).st = .queued then 0 else 1)]

/-- The claims of the word that the acting unit waits in. -/
def waitClaims (s : State) : List Claim :=
  match s.u.wait with
  | some (.handle h _) => onHandle s h rankObserve
  | some (.barGen n _) => onBarrier s n 0
  | some (.barArrive n) => onBarrier s n (2000 + logicalNow s)
  | some (.lrel l) => onLeaseEnd s l
  | some (.phaseArrive _) => [(.ends s.u.id.vf, 1 + logicalNow s)]
  | _ => []

/-- The handles that a link engine sets with a descriptor (R398). -/
def signalClaims (s : State) (d : List Byte) : List Claim :=
  [dRsig d, dDsig d].filterMap fun g =>
    if sigKind g = 1 && (descUnit s d).isSome then some (.handle (descUid d) (sigNum g), rankLink) else none

/-- The claims of a transfer word of the acting port's engine. -/
def transferClaims (s : State) (desc : BitVec 12) : List Claim :=
  let l := s.link s.port
  signalClaims s (descIn l l.set desc.toNat)

/-- The claims of the signals that a port's performed transfers give. -/
def donesClaims (s : State) (port : Nat) : List Claim := (s.link port).dones.flatMap fun x => signalClaims s x.desc

/-- The header of a command of the host. -/
def commandHdr : Instr → Option IsuneHdr
  | .launchPoolWrite h _ _ | .jobStart h _ _ | .jobCancel h _ | .migratePage h _ _ | .migratePageRefuse h _ |
    .deviceInfo h | .attest h _ _ | .measureRead h | .vfCreate h _ | .vfDestroy h | .partitionAssign h _ |
    .regionMap h _ _ | .rangeSet h _ _ _ | .policyInstall h _ | .scopepolSet h _ | .keySlotLoad h _ _ |
    .counterRead h _ | .counterSessionOpen h _ | .counterSessionClose h | .counterSessionExport h |
    .counterSessionImport h _ | .traceRead h _ | .traceSessionOpen h _ | .traceSessionClose h | .traceSessionExport h |
    .traceSessionImport h _ | .podJoin h _ _ _ _ _ | .tideRoot h _ _ | .chordPlanLoad h _ _ _ | .scheduleLoad h _ _ _ |
    .detourLoad h _ _ _ _ | .keystoneConf h _ _ _ _ _ | .reset h | .isuneUnknownOpcode h => some h
  | _ => none

/-- R485: frames of one cycle are taken in the order of their queue pairs. -/
def commandClaims (i : Instr) : List Claim := (commandHdr i).toList.map fun h => (.firmware, h.qp.toNat)

/-- The claims of an instruction on the resources of the package, in the state in which its turn takes it. -/
def resourceClaims (s : State) (i : Instr) : List Claim :=
  let vf := s.u.id.vf
  match i with
  | .hwait h _ | .htest _ h _ => onHandle s h.toNat rankObserve
  | .hset h _ => onHandle s h.toNat rankHset
  | .hwaitComplete | .bwaitComplete | .barrArrival | .lrelComplete | .phaseDepart => waitClaims s
  | .copyPrologueClaim die ch =>
    match (runOf s die ch).bind fun r => (r.plan.prologue[r.claims]?).map fun h => (r.c.uid, h.h) with
    | some (uid, h) => [(.handle uid h, rankCopy ch)]
    | none => []
  | .copyComplete die ch =>
    match runOf s die ch with
    | some r => ((r.plan.epilogue.drop r.epi).filter (!·.rem)).map fun h => (.handle r.c.uid h.h, rankEpilogue ch)
    | none => []
  | .streamGateGrant n =>
    match (streamOf s.u n.toNat).acts.find? (fun a => a.started && gated a.f && !a.granted) with
    | some a => onHandle s (gateOf a.f) (rankStream n.toNat)
    | none => []
  | .activationFinish n =>
    match (streamOf s.u n.toNat).acts.find? (fun a => actDone a && !a.finished) with
    | some a => if gated a.f then onHandle s (gateOf a.f) (rankEnd n.toNat) else []
    | none => []
  | .asyncHandle p =>
    match keyTarget s p .handle with
    | .ok (.handle uid h) => [(.handle uid h, rankRemote)]
    | _ => []
  | .linkSend _ d _ | .linkRecv _ d _ | .linkRedw _ d _ | .linkReds _ d _ => transferClaims s d
  | .scheduledSlot port | .replaySlot port => donesClaims s port
  | .binit _ n => onBarrier s n.toNat (1000 + logicalNow s)
  | .barr n => onBarrier s n.toNat (2000 + logicalNow s)
  | .btest _ n | .bwait n => onBarrier s n.toNat 0
  | .lrel l => onLeaseEnd s l.toNat
  | .corbelCommandEnd bay _ => [(.bay bay, 2)]
  | .lease l _ _ prio _ => [(.bay (bayOf (coreOf s.u)), rankRequest s prio l.toNat)]
  | .leaseQueueGrant bay | .leaseAging bay | .corbelWakeEnd bay _ => [(.bay bay, rankServe)]
  | .emergencySample .. => (List.range 32).map fun n => (.bay n, rankServe)
  | .nqpop .. => [(.notes vf, logicalNow s)]
  | .copyStart ch _ => [(.channel (dieOf (coreOf s.u)) ch.toNat, logicalNow s)]
  | .lrpatch .. => [(.records vf, 0)]
  | .lrarm _ => [(.records vf, 1)]
  | .jobStart h .. => [(.records h.vf.toNat, 1)]
  | .unitDone => [(.bay (bayOf (coreOf s.u)), 1), (.records vf, 1), (.ends vf, 1)]
  | .cancel _ => [(.ends vf, 0)]
  | .jobCancel h _ => [(.ends h.vf.toNat, 0)]
  | .phase _ => [(.ends vf, 1 + logicalNow s)]
  | .mclr _ | .mand .. => [(.masks s.cur, 0)]
  | .streamAccess _ | .streamAccessReturn _ => [(.masks s.cur, 1)]
  | _ => []

/-- The claims of an instruction. -/
def claimsOf (s : State) (i : Instr) : List Claim := resourceClaims s i ++ commandClaims i

/-- The claims of a turn taken now. -/
def turnClaims (s : State) (t : Turn) : List Claim :=
  match turnInstr s t with
  | (s', some i) => claimsOf s' i
  | _ => []

/-! ### Faults of one cycle (R420) -/

/-- The unit that uses a corbel. -/
def corbelUser (s : State) (bay c : Nat) : Option (Nat × Nat) := ((corbelOf s (12 * bay + c)).holder).map fun h => (h.1, 10)

/-- The unit whose copy a channel runs. -/
def copyUser (s : State) (die ch : Nat) : Option (Nat × Nat) := (runOf s die ch).map fun r => (r.c.uid, 11 + ch)

/-- The unit and the agent for which an event acts, with the agent's place in the order of R420. -/
def eventAgent (s : State) (uid : Nat) : Instr → Option (Nat × Nat)
  | .activationAttach | .activationStart _ | .streamAccess _ | .streamAccessReturn _ | .streamGateGrant _
  | .activationFinish _ | .streamClose => some (uid, 1)
  | .veEntryStart | .veEntryFinish | .vtokAdd | .vwtokComplete => some (uid, 8)
  | .meEntryStart | .meEntryFinish | .mtokAdd | .mwtokComplete => some (uid, 9)
  | .corbelCommandEnd b c | .tkInit b c | .tkFeed b c | .tkEmit b c | .tkSample b c | .tkReset b c | .xpConf b c | .xpTile b c
  | .ifBook b c | .ifRun b c | .ifReset b c | .slKey b c | .slIv b c | .slEnc b c | .slDec b c | .slFin b c | .scConf b c
  | .scRun b c | .scHist b c | .scCompact b c | .scCarry b c | .rlDesc b c | .rlMove b c | .rlFlush b c => corbelUser s b c
  | .copyTakeUp d ch | .copyPrologueClaim d ch | .copyMove d ch | .copyComplete d ch => copyUser s d ch
  | _ => some (uid, 0)

/-- The unit and the agent for which a turn acts. -/
def turnAgent (s : State) : Turn → Option (Nat × Nat)
  | .sq uid => some (uid, 0)
  | .column uid c => some (uid, 2 + c)
  | .router uid => some (uid, 8)
  | .me uid => some (uid, 9)
  | .event uid i => eventAgent s uid i
  | _ => none

/-- A turn taken now stops a unit with a fault. -/
def stops (s : State) (uid : Nat) (t : Turn) : Bool :=
  (s.unit uid).st != .faulted &&
  (match turnInstr s t with
   | (s', none) => (s'.unit uid).st == .faulted
   | (s', some i) =>
     match exec i s' with
     | .next s'' => (s''.unit uid).st == .faulted
     | _ => false)

/-- Of the turns of a cycle that stop a unit, that of the first agent in the order of R420. -/
def firstFault (s : State) (t : Turn) (ts : List Turn) : Turn :=
  match turnAgent s t with
  | none => t
  | some (uid, r) =>
    let rivals := ts.filterMap fun x => (turnAgent s x).bind fun y => if y.1 = uid && decide (y.2 < r) then some (y.2, x) else none
    if rivals.isEmpty || !stops s uid t then t
    else (((sortBy (fun a b => decide (a.1 < b.1)) (rivals.filter fun x => stops s uid x.2)).head?).map (·.2)).getD t

/-! ### The turn that acts -/

/-- The turn that ends a cycle. -/
def endsCycle : Turn → Bool
  | .event _ .coreCycle => true
  | _ => false

/-- Some claim of one list goes before a claim of the other on the same resource. -/
def goesBefore (xs ys : List Claim) : Bool := xs.any fun x => ys.any fun y => x.1 == y.1 && decide (x.2 < y.2)

/-- Of the turns of a cycle, the first that a turn must let go before it, with its claims. -/
def ahead (s : State) (mine : Turn × List Claim) : List Turn → Turn × List Claim
  | [] => mine
  | t :: ts =>
    let cs := turnClaims s t
    ahead s (if goesBefore cs mine.2 then (t, cs) else mine) ts

/-- The next turn, and those that stay: the first of the agenda, or one of its cycle that goes before it on the resource on which
they meet, or whose fault is the one that a unit's frame records. -/
def nextTurn (s : State) : Option (Turn × List Turn) :=
  match s.agenda with
  | [] => none
  | t :: ts =>
    let now := ts.takeWhile (!endsCycle ·)
    let s' := { s with agenda := [] }
    let t' := if endsCycle t || now.isEmpty then t
      else let x := (ahead s' (t, turnClaims s' t) now).1; firstFault s' x ((t :: now).filter (· != x))
    some (t', (t :: ts).erase t')

/-- What the next step performs. -/
def nextInstr (s : State) : State × Option Instr :=
  match nextTurn s with
  | none => idleTurn s
  | some (t, ts) => turnInstr { s with agenda := ts } t

end Sys2Proof.Machine
end

