-- ==== Sys2Proof/Machine/Step.lean ====
section
/-! DEFINITION. One step of the package: the next instruction or event, performed; and a word put where the next step
fetches it. -/

namespace Sys2Proof.Machine

/-- One step. What comes next, and the state in which it acts, is `nextInstr`'s to say. -/
def step (s : State) : Host.Outcome State Fault Refusal :=
  match nextInstr s with
  | (s', some i) => exec i s'
  | (s', none) => .next s'

/-- The state with the word w stored where the next step fetches it (DESIGN CHOICE, log 6). -/
def State.withFetchWord (s : State) (nbits w : Nat) : State :=
  if w < 2 ^ nbits then placeWord (BitVec.ofNat 32 w) s else s

end Sys2Proof.Machine
end

