-- ==== Sys2Proof/Laws/Encoding.lean ====
section
/-! SUPPORT. Reading back the fields of encoded words: the numeric value of each field of each format, and the
decoders of the vector columns on encoded words. -/

namespace Sys2Proof

/-! ### Fields -/

theorem fld_of_fn {w : Code} {lo n : Nat} {v : BitVec n} (h : fn w lo n = v.toNat) : fld w lo n = v :=
  BitVec.eq_of_toNat_eq (by simpa [fld, fn] using h)

theorem flag_of_fn {w : Code} {lo : Nat} {b : Bool} (h : fn w lo 1 = b.toNat) : flag w lo = b := by
  cases b <;> simp [flag, h]

theorem zf_of_fn {w : Code} {lo n : Nat} (h : fn w lo n = 0) : zf w lo n = true := by simp [zf, h]

theorem ne_zero_of_fn {w : Code} {lo n : Nat} (h : fn w lo n ≠ 0) : w ≠ 0 := by
  rintro rfl
  exact h (by simp [fn])

theorem mk_wf {z : Bool} {i : Instr} (hz : z = true) (h : i.wf = true) : mk z i = .ok i := by
  simp [mk, hz, h]

/-- The sum of fields at their places. -/
def fieldSum (fs : List (Nat × Nat)) : Nat := fs.foldr (fun f n => f.1 * 2 ^ f.2 + n) 0

theorem fieldSum_nil : fieldSum [] = 0 := by simp only [fieldSum, List.foldr_nil]

theorem fieldSum_cons (v lo : Nat) (fs : List (Nat × Nat)) :
    fieldSum ((v, lo) :: fs) = v * 2 ^ lo + fieldSum fs := by
  simp only [fieldSum, List.foldr_cons]

theorem foldl_fieldSum (fs : List (Nat × Nat)) (n : Nat) :
    fs.foldl (fun n f => n + f.1 * 2 ^ f.2) n = n + fieldSum fs := by
  induction fs generalizing n with
  | nil => simp [fieldSum]
  | cons f fs ih => rw [List.foldl_cons, ih, fieldSum_cons]; omega

theorem toNat_wordOf (fs : List (Nat × Nat)) : (wordOf fs).toNat = fieldSum fs % 2 ^ 32 := by
  rw [wordOf, BitVec.toNat_ofNat, foldl_fieldSum, Nat.zero_add]

/-! ### Codes -/

theorem scopeOf_code (s : Scope) : scopeOf (scopeCode s) = some s := by cases s <;> rfl
theorem scopeCode_lt (s : Scope) : scopeCode s < 7 := by cases s <;> decide
theorem levelOf_code (l : Level) : levelOf (levelCode l) = some l := by cases l <;> rfl
theorem levelCode_lt (l : Level) : levelCode l < 5 := by cases l <;> decide
theorem condOf_code (c : Cond) : condOf (condCode c) = c := by cases c <;> rfl
theorem condCode_lt (c : Cond) : condCode c < 8 := by cases c <;> decide
theorem ordOf_code (o : Ord) : ordOf (ordCode o) = o := by cases o <;> rfl

theorem withScope_of {w : Code} {s : Scope} (h : fn w 0 3 = scopeCode s) (f : Scope → Except Reserved Instr) :
    withScope w f = f s := by rw [withScope, h, scopeOf_code]

theorem withLevel_of {w : Code} {lo : Nat} {l : Level} (h : fn w lo 3 = levelCode l)
    (f : Level → Except Reserved Instr) : withLevel w lo f = f l := by rw [withLevel, h, levelOf_code]

/-! ### The formats of the scalar words -/

theorem encAlu_fields (f : Nat) (hf : f < 128) (d a b : BitVec 6) {x : Code} (hx : x = encAlu f d a b) :
    fn x 25 7 = 1 ∧ fn x 0 7 = f ∧ fn x 19 6 = d.toNat ∧ fn x 13 6 = a.toNat ∧ fn x 7 6 = b.toNat := by
  have := d.isLt; have := a.isLt; have := b.isLt
  refine ⟨?_, ?_, ?_, ?_, ?_⟩ <;> (simp only [fn, hx, encAlu, toNat_wordOf, fieldSum_cons, fieldSum_nil]; omega)

theorem encImm_fields (op : Nat) (hop : op < 128) (d a : BitVec 6) (i : BitVec 13) {x : Code}
    (hx : x = encImm op d a i) :
    fn x 25 7 = op ∧ fn x 19 6 = d.toNat ∧ fn x 13 6 = a.toNat ∧ fn x 0 13 = i.toNat := by
  have := d.isLt; have := a.isLt; have := i.isLt
  refine ⟨?_, ?_, ?_, ?_⟩ <;> (simp only [fn, hx, encImm, toNat_wordOf, fieldSum_cons, fieldSum_nil]; omega)

theorem encMem_fields (op : Nat) (hop : op < 128) (t a : BitVec 6) (sz : BitVec 2) (i : BitVec 11) {x : Code}
    (hx : x = encMem op t a sz i) :
    fn x 25 7 = op ∧ fn x 19 6 = t.toNat ∧ fn x 13 6 = a.toNat ∧ fn x 11 2 = sz.toNat ∧ fn x 0 11 = i.toNat := by
  have := t.isLt; have := a.isLt; have := sz.isLt; have := i.isLt
  refine ⟨?_, ?_, ?_, ?_, ?_⟩ <;> (simp only [fn, hx, encMem, toNat_wordOf, fieldSum_cons, fieldSum_nil]; omega)

theorem encAmo_fields (op f : Nat) (hop : op < 128) (hf : f < 16) (d a b : BitVec 6) (s : Scope) {x : Code}
    (hx : x = encAmo op f d a b s) :
    fn x 25 7 = op ∧ fn x 3 4 = f ∧ fn x 19 6 = d.toNat ∧ fn x 13 6 = a.toNat ∧ fn x 7 6 = b.toNat ∧
      fn x 0 3 = scopeCode s ∧ fn x 25 2 = op % 4 := by
  have := d.isLt; have := a.isLt; have := b.isLt; have := scopeCode_lt s
  refine ⟨?_, ?_, ?_, ?_, ?_, ?_, ?_⟩ <;> (simp only [fn, hx, encAmo, toNat_wordOf, fieldSum_cons, fieldSum_nil]; omega)

/-- A word of ops 0x20 to 0x23. -/
theorem encAmoOrd_fields (o : Ord) (f : Nat) (hf : f < 16) (d a b : BitVec 6) (s : Scope) {x : Code}
    (hx : x = encAmo (0x20 + ordCode o) f d a b s) :
    decodeSq x = decodeAmo x ∧ fn x 3 4 = f ∧ fn x 19 6 = d.toNat ∧ fn x 13 6 = a.toNat ∧ fn x 7 6 = b.toNat ∧
      fn x 0 3 = scopeCode s ∧ fn x 25 2 = ordCode o := by
  cases o <;>
  · obtain ⟨h0, h1, h2, h3, h4, h5, h6⟩ := encAmo_fields _ f (by decide) hf d a b s hx
    exact ⟨by rw [decodeSq, h0]; rfl, h1, h2, h3, h4, h5, h6⟩

theorem encPred_fields (f : Nat) (hf : f < 8) (d a b : BitVec 4) {x : Code} (hx : x = encPred f d a b) :
    fn x 25 7 = 14 ∧ fn x 10 3 = f ∧ fn x 21 4 = d.toNat ∧ fn x 17 4 = a.toNat ∧ fn x 13 4 = b.toNat ∧
      fn x 0 10 = 0 := by
  have := d.isLt; have := a.isLt; have := b.isLt
  refine ⟨?_, ?_, ?_, ?_, ?_, ?_⟩ <;> (simp only [fn, hx, encPred, toNat_wordOf, fieldSum_cons, fieldSum_nil]; omega)

theorem encBr_fields (op : Nat) (hop : op < 128) (p : BitVec 4) (n : Bool) (o : BitVec 20) {x : Code}
    (hx : x = encBr op p n o) :
    fn x 25 7 = op ∧ fn x 21 4 = p.toNat ∧ fn x 20 1 = n.toNat ∧ fn x 0 20 = o.toNat := by
  have := p.isLt; have := o.isLt; have := Bool.toNat_lt n
  refine ⟨?_, ?_, ?_, ?_⟩ <;> (simp only [fn, hx, encBr, toNat_wordOf, fieldSum_cons, fieldSum_nil]; omega)

/-! ### The vector columns -/

theorem encVe_fields (col op : Nat) (hc : col < 8) (ho : op < 64) (w : VeOps) {x : Code} (hx : x = encVe col op w) :
    fn x 29 3 = col ∧ fn x 23 6 = op ∧ fn x 23 3 = op % 8 ∧ fn x 29 1 = col % 2 ∧ veOps x = w := by
  have := w.d.isLt; have := w.a.isLt; have := w.b.isLt; have := w.m.isLt; have := w.dly.isLt
  have := Bool.toNat_lt w.f2; have := Bool.toNat_lt w.negb; have := Bool.toNat_lt w.sat
  have h : fn x 29 3 = col ∧ fn x 23 6 = op ∧ fn x 23 3 = op % 8 ∧ fn x 29 1 = col % 2 ∧ fn x 19 4 = w.d.toNat ∧
      fn x 15 4 = w.a.toNat ∧ fn x 11 4 = w.b.toNat ∧ fn x 8 3 = w.m.toNat ∧ fn x 3 5 = w.dly.toNat ∧
      fn x 0 1 = w.sat.toNat ∧ fn x 1 1 = w.negb.toNat ∧ fn x 2 1 = w.f2.toNat := by
    refine ⟨?_, ?_, ?_, ?_, ?_, ?_, ?_, ?_, ?_, ?_, ?_, ?_⟩ <;>
    (simp only [fn, hx, encVe, toNat_wordOf, fieldSum_cons, fieldSum_nil]; omega)
  obtain ⟨h1, h2, h3, h4, hd, ha, hb, hm, hy, hs, hn, hf⟩ := h
  refine ⟨h1, h2, h3, h4, ?_⟩
  rw [veOps, fld_of_fn hd, fld_of_fn ha, fld_of_fn hb, fld_of_fn hm, fld_of_fn hy, flag_of_fn hs, flag_of_fn hn,
    flag_of_fn hf]

theorem decodeVe_of {x : Code} (h : x ≠ 0) :
    decodeVe x = match fn x 29 3 with
      | 0 | 1 => decodeVeAlu x
      | 2 => decodeVeSfu x
      | 3 => decodeVeCvt x
      | 4 => decodeVeRed x
      | 5 => decodeVeMove x
      | 6 => decodeVeCtl x
      | _ => .error .opcode := by
  unfold decodeVe
  exact if_neg h

/-- A word of an ALU column. -/
theorem veAlu_round {col : BitVec 1} {op : Nat} {w : VeOps} {x : Code} {r : Except Reserved Instr} (ho : op < 64)
    (hne : encVe col.toNat op w ≠ 0) (hx : x = encVe col.toNat op w)
    (h : fn x 23 6 = op → fn x 23 3 = op % 8 → fld x 29 1 = col → veOps x = w → decodeVeAlu x = r) :
    decodeVe x = r := by
  have hc := col.isLt
  obtain ⟨h1, h2, h3, h4, h5⟩ := encVe_fields col.toNat op (by omega) ho w hx
  rw [decodeVe_of (hx ▸ hne), h1]
  have hr := h h2 h3 (fld_of_fn (by rw [h4]; omega)) h5
  have h01 : col.toNat = 0 ∨ col.toNat = 1 := by omega
  rcases h01 with h0 | h0 <;> (rw [h0]; exact hr)

/-- A word of another column. -/
theorem ve_round {col op : Nat} {w : VeOps} {x : Code} {f : Code → Except Reserved Instr} {r : Except Reserved Instr}
    (hc : col < 8) (ho : op < 64) (hne : encVe col op w ≠ 0) (hx : x = encVe col op w)
    (hcol : x ≠ 0 → fn x 29 3 = col → decodeVe x = f x) (h : fn x 23 6 = op → veOps x = w → f x = r) :
    decodeVe x = r := by
  obtain ⟨h1, h2, -, -, h5⟩ := encVe_fields col op hc ho w hx
  rw [hcol (hx ▸ hne) h1]
  exact h h2 h5

theorem encVe_ne_zero {col op : Nat} {w : VeOps} (hc : col < 8) (ho : op < 64) (h : col ≠ 0 ∨ op ≠ 0) :
    encVe col op w ≠ 0 := by
  obtain ⟨h1, h2, -⟩ := encVe_fields col op hc ho w rfl
  rcases h with h | h
  · exact ne_zero_of_fn (h1 ▸ h)
  · exact ne_zero_of_fn (h2 ▸ h)

/-- The all-zero word is no VADD: the one whose fields are all zero is not well formed. -/
theorem vadd_ne_zero {col : BitVec 1} {w : VeOps} (hwf : (Instr.vadd col w).wf = true) : encVe col.toNat 0 w ≠ 0 := by
  intro h0
  have hc := col.isLt
  obtain ⟨h1, -, -, -, h5⟩ := encVe_fields col.toNat 0 (by omega) (by decide) w h0.symm
  have hcol : col = 0 := BitVec.eq_of_toNat_eq (by rw [← h1]; decide)
  subst hcol
  rw [← h5] at hwf
  exact absurd hwf (by decide)

end Sys2Proof
end

