-- ==== Sys2Proof/Laws/PerInstr.lean ====
section
/-! SUPPORT. Per instruction: the decoder of its code kind reads the encoder's word back as the instruction,
every operand at every value. An event has no word, and nothing is claimed of it. -/

namespace Sys2Proof.Laws.RoundTrip

/-- The word of a well-formed instruction, read by the decoder of its kind, is that instruction. -/
def Statement (i : Instr) : Prop :=
  ∀ k w, kindOf i = some k → encode i = some w → i.wf = true → decode k w = .ok i

theorem of_word {i : Instr} {k : CodeKind} {w : Code} (hk : kindOf i = some k) (hw : encode i = some w)
    (h : ∀ x, x = w → i.wf = true → decode k x = .ok i) : Statement i := by
  intro k' w' hk' hw' hwf
  rw [hk] at hk'; rw [hw] at hw'
  cases hk'; cases hw'
  exact h w rfl hwf

theorem of_event {i : Instr} (h : kindOf i = none) : Statement i := by
  intro k w hk
  rw [h] at hk
  cases hk

theorem ill : Statement .ill := of_word rfl rfl fun x hx _ => by subst hx; rfl
theorem add (d a b : BitVec 6) : Statement (.add d a b) := of_word rfl rfl fun x hx hwf => by
  obtain ⟨h0, h1, h2, h3, h4⟩ := encAlu_fields 0 (by decide) d a b hx
  show decodeSq x = _
  rw [decodeSq, h0, decodeAlu, h1, fld_of_fn h2, fld_of_fn h3, fld_of_fn h4]; exact mk_wf rfl hwf
theorem sub (d a b : BitVec 6) : Statement (.sub d a b) := of_word rfl rfl fun x hx hwf => by
  obtain ⟨h0, h1, h2, h3, h4⟩ := encAlu_fields 1 (by decide) d a b hx
  show decodeSq x = _
  rw [decodeSq, h0, decodeAlu, h1, fld_of_fn h2, fld_of_fn h3, fld_of_fn h4]; exact mk_wf rfl hwf
theorem mul (d a b : BitVec 6) : Statement (.mul d a b) := of_word rfl rfl fun x hx hwf => by
  obtain ⟨h0, h1, h2, h3, h4⟩ := encAlu_fields 2 (by decide) d a b hx
  show decodeSq x = _
  rw [decodeSq, h0, decodeAlu, h1, fld_of_fn h2, fld_of_fn h3, fld_of_fn h4]; exact mk_wf rfl hwf
theorem mulhs (d a b : BitVec 6) : Statement (.mulhs d a b) := of_word rfl rfl fun x hx hwf => by
  obtain ⟨h0, h1, h2, h3, h4⟩ := encAlu_fields 3 (by decide) d a b hx
  show decodeSq x = _
  rw [decodeSq, h0, decodeAlu, h1, fld_of_fn h2, fld_of_fn h3, fld_of_fn h4]; exact mk_wf rfl hwf
theorem mulhu (d a b : BitVec 6) : Statement (.mulhu d a b) := of_word rfl rfl fun x hx hwf => by
  obtain ⟨h0, h1, h2, h3, h4⟩ := encAlu_fields 4 (by decide) d a b hx
  show decodeSq x = _
  rw [decodeSq, h0, decodeAlu, h1, fld_of_fn h2, fld_of_fn h3, fld_of_fn h4]; exact mk_wf rfl hwf
theorem divs (d a b : BitVec 6) : Statement (.divs d a b) := of_word rfl rfl fun x hx hwf => by
  obtain ⟨h0, h1, h2, h3, h4⟩ := encAlu_fields 5 (by decide) d a b hx
  show decodeSq x = _
  rw [decodeSq, h0, decodeAlu, h1, fld_of_fn h2, fld_of_fn h3, fld_of_fn h4]; exact mk_wf rfl hwf
theorem divu (d a b : BitVec 6) : Statement (.divu d a b) := of_word rfl rfl fun x hx hwf => by
  obtain ⟨h0, h1, h2, h3, h4⟩ := encAlu_fields 6 (by decide) d a b hx
  show decodeSq x = _
  rw [decodeSq, h0, decodeAlu, h1, fld_of_fn h2, fld_of_fn h3, fld_of_fn h4]; exact mk_wf rfl hwf
theorem rems (d a b : BitVec 6) : Statement (.rems d a b) := of_word rfl rfl fun x hx hwf => by
  obtain ⟨h0, h1, h2, h3, h4⟩ := encAlu_fields 7 (by decide) d a b hx
  show decodeSq x = _
  rw [decodeSq, h0, decodeAlu, h1, fld_of_fn h2, fld_of_fn h3, fld_of_fn h4]; exact mk_wf rfl hwf
theorem remu (d a b : BitVec 6) : Statement (.remu d a b) := of_word rfl rfl fun x hx hwf => by
  obtain ⟨h0, h1, h2, h3, h4⟩ := encAlu_fields 8 (by decide) d a b hx
  show decodeSq x = _
  rw [decodeSq, h0, decodeAlu, h1, fld_of_fn h2, fld_of_fn h3, fld_of_fn h4]; exact mk_wf rfl hwf
theorem and (d a b : BitVec 6) : Statement (.and d a b) := of_word rfl rfl fun x hx hwf => by
  obtain ⟨h0, h1, h2, h3, h4⟩ := encAlu_fields 9 (by decide) d a b hx
  show decodeSq x = _
  rw [decodeSq, h0, decodeAlu, h1, fld_of_fn h2, fld_of_fn h3, fld_of_fn h4]; exact mk_wf rfl hwf
theorem or (d a b : BitVec 6) : Statement (.or d a b) := of_word rfl rfl fun x hx hwf => by
  obtain ⟨h0, h1, h2, h3, h4⟩ := encAlu_fields 10 (by decide) d a b hx
  show decodeSq x = _
  rw [decodeSq, h0, decodeAlu, h1, fld_of_fn h2, fld_of_fn h3, fld_of_fn h4]; exact mk_wf rfl hwf
theorem xor (d a b : BitVec 6) : Statement (.xor d a b) := of_word rfl rfl fun x hx hwf => by
  obtain ⟨h0, h1, h2, h3, h4⟩ := encAlu_fields 11 (by decide) d a b hx
  show decodeSq x = _
  rw [decodeSq, h0, decodeAlu, h1, fld_of_fn h2, fld_of_fn h3, fld_of_fn h4]; exact mk_wf rfl hwf
theorem andn (d a b : BitVec 6) : Statement (.andn d a b) := of_word rfl rfl fun x hx hwf => by
  obtain ⟨h0, h1, h2, h3, h4⟩ := encAlu_fields 12 (by decide) d a b hx
  show decodeSq x = _
  rw [decodeSq, h0, decodeAlu, h1, fld_of_fn h2, fld_of_fn h3, fld_of_fn h4]; exact mk_wf rfl hwf
theorem shl (d a b : BitVec 6) : Statement (.shl d a b) := of_word rfl rfl fun x hx hwf => by
  obtain ⟨h0, h1, h2, h3, h4⟩ := encAlu_fields 13 (by decide) d a b hx
  show decodeSq x = _
  rw [decodeSq, h0, decodeAlu, h1, fld_of_fn h2, fld_of_fn h3, fld_of_fn h4]; exact mk_wf rfl hwf
theorem shr (d a b : BitVec 6) : Statement (.shr d a b) := of_word rfl rfl fun x hx hwf => by
  obtain ⟨h0, h1, h2, h3, h4⟩ := encAlu_fields 14 (by decide) d a b hx
  show decodeSq x = _
  rw [decodeSq, h0, decodeAlu, h1, fld_of_fn h2, fld_of_fn h3, fld_of_fn h4]; exact mk_wf rfl hwf
theorem sar (d a b : BitVec 6) : Statement (.sar d a b) := of_word rfl rfl fun x hx hwf => by
  obtain ⟨h0, h1, h2, h3, h4⟩ := encAlu_fields 15 (by decide) d a b hx
  show decodeSq x = _
  rw [decodeSq, h0, decodeAlu, h1, fld_of_fn h2, fld_of_fn h3, fld_of_fn h4]; exact mk_wf rfl hwf
theorem rol (d a b : BitVec 6) : Statement (.rol d a b) := of_word rfl rfl fun x hx hwf => by
  obtain ⟨h0, h1, h2, h3, h4⟩ := encAlu_fields 16 (by decide) d a b hx
  show decodeSq x = _
  rw [decodeSq, h0, decodeAlu, h1, fld_of_fn h2, fld_of_fn h3, fld_of_fn h4]; exact mk_wf rfl hwf
theorem mins (d a b : BitVec 6) : Statement (.mins d a b) := of_word rfl rfl fun x hx hwf => by
  obtain ⟨h0, h1, h2, h3, h4⟩ := encAlu_fields 17 (by decide) d a b hx
  show decodeSq x = _
  rw [decodeSq, h0, decodeAlu, h1, fld_of_fn h2, fld_of_fn h3, fld_of_fn h4]; exact mk_wf rfl hwf
theorem minu (d a b : BitVec 6) : Statement (.minu d a b) := of_word rfl rfl fun x hx hwf => by
  obtain ⟨h0, h1, h2, h3, h4⟩ := encAlu_fields 18 (by decide) d a b hx
  show decodeSq x = _
  rw [decodeSq, h0, decodeAlu, h1, fld_of_fn h2, fld_of_fn h3, fld_of_fn h4]; exact mk_wf rfl hwf
theorem maxs (d a b : BitVec 6) : Statement (.maxs d a b) := of_word rfl rfl fun x hx hwf => by
  obtain ⟨h0, h1, h2, h3, h4⟩ := encAlu_fields 19 (by decide) d a b hx
  show decodeSq x = _
  rw [decodeSq, h0, decodeAlu, h1, fld_of_fn h2, fld_of_fn h3, fld_of_fn h4]; exact mk_wf rfl hwf
theorem maxu (d a b : BitVec 6) : Statement (.maxu d a b) := of_word rfl rfl fun x hx hwf => by
  obtain ⟨h0, h1, h2, h3, h4⟩ := encAlu_fields 20 (by decide) d a b hx
  show decodeSq x = _
  rw [decodeSq, h0, decodeAlu, h1, fld_of_fn h2, fld_of_fn h3, fld_of_fn h4]; exact mk_wf rfl hwf
theorem clz (d a : BitVec 6) : Statement (.clz d a) := of_word rfl rfl fun x hx hwf => by
  obtain ⟨h0, h1, h2, h3, h4⟩ := encAlu_fields 21 (by decide) d a 0 hx
  show decodeSq x = _
  rw [decodeSq, h0, decodeAlu, h1, fld_of_fn h2, fld_of_fn h3, zf_of_fn h4]; exact mk_wf rfl hwf
theorem ctz (d a : BitVec 6) : Statement (.ctz d a) := of_word rfl rfl fun x hx hwf => by
  obtain ⟨h0, h1, h2, h3, h4⟩ := encAlu_fields 22 (by decide) d a 0 hx
  show decodeSq x = _
  rw [decodeSq, h0, decodeAlu, h1, fld_of_fn h2, fld_of_fn h3, zf_of_fn h4]; exact mk_wf rfl hwf
theorem popc (d a : BitVec 6) : Statement (.popc d a) := of_word rfl rfl fun x hx hwf => by
  obtain ⟨h0, h1, h2, h3, h4⟩ := encAlu_fields 23 (by decide) d a 0 hx
  show decodeSq x = _
  rw [decodeSq, h0, decodeAlu, h1, fld_of_fn h2, fld_of_fn h3, zf_of_fn h4]; exact mk_wf rfl hwf
theorem bswap (d a : BitVec 6) : Statement (.bswap d a) := of_word rfl rfl fun x hx hwf => by
  obtain ⟨h0, h1, h2, h3, h4⟩ := encAlu_fields 24 (by decide) d a 0 hx
  show decodeSq x = _
  rw [decodeSq, h0, decodeAlu, h1, fld_of_fn h2, fld_of_fn h3, zf_of_fn h4]; exact mk_wf rfl hwf
theorem sextb (d a : BitVec 6) : Statement (.sextb d a) := of_word rfl rfl fun x hx hwf => by
  obtain ⟨h0, h1, h2, h3, h4⟩ := encAlu_fields 25 (by decide) d a 0 hx
  show decodeSq x = _
  rw [decodeSq, h0, decodeAlu, h1, fld_of_fn h2, fld_of_fn h3, zf_of_fn h4]; exact mk_wf rfl hwf
theorem sexth (d a : BitVec 6) : Statement (.sexth d a) := of_word rfl rfl fun x hx hwf => by
  obtain ⟨h0, h1, h2, h3, h4⟩ := encAlu_fields 26 (by decide) d a 0 hx
  show decodeSq x = _
  rw [decodeSq, h0, decodeAlu, h1, fld_of_fn h2, fld_of_fn h3, zf_of_fn h4]; exact mk_wf rfl hwf
theorem sextw (d a : BitVec 6) : Statement (.sextw d a) := of_word rfl rfl fun x hx hwf => by
  obtain ⟨h0, h1, h2, h3, h4⟩ := encAlu_fields 27 (by decide) d a 0 hx
  show decodeSq x = _
  rw [decodeSq, h0, decodeAlu, h1, fld_of_fn h2, fld_of_fn h3, zf_of_fn h4]; exact mk_wf rfl hwf
theorem addi (d a : BitVec 6) (imm : BitVec 13) : Statement (.addi d a imm) := of_word rfl rfl fun x hx hwf => by
  obtain ⟨h0, h1, h2, h3⟩ := encImm_fields 2 (by decide) d a imm hx
  show decodeSq x = _
  rw [decodeSq, h0, fld_of_fn h1, fld_of_fn h2, fld_of_fn h3]; exact mk_wf rfl hwf
theorem andi (d a : BitVec 6) (imm : BitVec 13) : Statement (.andi d a imm) := of_word rfl rfl fun x hx hwf => by
  obtain ⟨h0, h1, h2, h3⟩ := encImm_fields 3 (by decide) d a imm hx
  show decodeSq x = _
  rw [decodeSq, h0, fld_of_fn h1, fld_of_fn h2, fld_of_fn h3]; exact mk_wf rfl hwf
theorem ori (d a : BitVec 6) (imm : BitVec 13) : Statement (.ori d a imm) := of_word rfl rfl fun x hx hwf => by
  obtain ⟨h0, h1, h2, h3⟩ := encImm_fields 4 (by decide) d a imm hx
  show decodeSq x = _
  rw [decodeSq, h0, fld_of_fn h1, fld_of_fn h2, fld_of_fn h3]; exact mk_wf rfl hwf
theorem xori (d a : BitVec 6) (imm : BitVec 13) : Statement (.xori d a imm) := of_word rfl rfl fun x hx hwf => by
  obtain ⟨h0, h1, h2, h3⟩ := encImm_fields 5 (by decide) d a imm hx
  show decodeSq x = _
  rw [decodeSq, h0, fld_of_fn h1, fld_of_fn h2, fld_of_fn h3]; exact mk_wf rfl hwf
theorem shli (d a : BitVec 6) (imm : BitVec 13) : Statement (.shli d a imm) := of_word rfl rfl fun x hx hwf => by
  obtain ⟨h0, h1, h2, h3⟩ := encImm_fields 6 (by decide) d a imm hx
  show decodeSq x = _
  rw [decodeSq, h0, fld_of_fn h1, fld_of_fn h2, fld_of_fn h3]; exact mk_wf rfl hwf
theorem shri (d a : BitVec 6) (imm : BitVec 13) : Statement (.shri d a imm) := of_word rfl rfl fun x hx hwf => by
  obtain ⟨h0, h1, h2, h3⟩ := encImm_fields 7 (by decide) d a imm hx
  show decodeSq x = _
  rw [decodeSq, h0, fld_of_fn h1, fld_of_fn h2, fld_of_fn h3]; exact mk_wf rfl hwf
theorem sari (d a : BitVec 6) (imm : BitVec 13) : Statement (.sari d a imm) := of_word rfl rfl fun x hx hwf => by
  obtain ⟨h0, h1, h2, h3⟩ := encImm_fields 8 (by decide) d a imm hx
  show decodeSq x = _
  rw [decodeSq, h0, fld_of_fn h1, fld_of_fn h2, fld_of_fn h3]; exact mk_wf rfl hwf
theorem muli (d a : BitVec 6) (imm : BitVec 13) : Statement (.muli d a imm) := of_word rfl rfl fun x hx hwf => by
  obtain ⟨h0, h1, h2, h3⟩ := encImm_fields 9 (by decide) d a imm hx
  show decodeSq x = _
  rw [decodeSq, h0, fld_of_fn h1, fld_of_fn h2, fld_of_fn h3]; exact mk_wf rfl hwf
theorem movi (d : BitVec 6) (imm : BitVec 19) : Statement (.movi d imm) := of_word rfl rfl fun x hx hwf => by
  obtain ⟨h0, h1, h2⟩ : fn x 25 7 = 10 ∧ fn x 19 6 = d.toNat ∧ fn x 0 19 = imm.toNat := by
    have := d.isLt; have := imm.isLt
    refine ⟨?_, ?_, ?_⟩ <;>
    (simp only [fn, hx, toNat_wordOf, fieldSum_cons, fieldSum_nil] <;> omega)
  show decodeSq x = _
  rw [decodeSq, h0, fld_of_fn h1, fld_of_fn h2]; exact mk_wf rfl hwf
theorem movk (d : BitVec 6) (hw : BitVec 2) (imm : BitVec 16) : Statement (.movk d hw imm) := of_word rfl rfl fun x hx hwf => by
  obtain ⟨h0, h1, h2, h3, h4⟩ : fn x 25 7 = 11 ∧ fn x 19 6 = d.toNat ∧ fn x 17 2 = hw.toNat ∧
      fn x 0 16 = imm.toNat ∧ fn x 16 1 = 0 := by
    have := d.isLt; have := hw.isLt; have := imm.isLt
    refine ⟨?_, ?_, ?_, ?_, ?_⟩ <;>
    (simp only [fn, hx, toNat_wordOf, fieldSum_cons, fieldSum_nil] <;> omega)
  show decodeSq x = _
  rw [decodeSq, h0, fld_of_fn h1, fld_of_fn h2, fld_of_fn h3, zf_of_fn h4]; exact mk_wf rfl hwf
theorem cmp (pd : BitVec 4) (a b : BitVec 6) (cc : Cond) (pa : BitVec 4) : Statement (.cmp pd a b cc pa) := of_word rfl rfl fun x hx hwf => by
  obtain ⟨h0, h1, h2, h3, h4, h5, h6, h7⟩ : fn x 25 7 = 12 ∧ fn x 21 4 = pd.toNat ∧
      fn x 15 6 = a.toNat ∧ fn x 9 6 = b.toNat ∧ fn x 5 3 = condCode cc ∧ fn x 1 4 = pa.toNat ∧
      fn x 8 1 = 0 ∧ fn x 0 1 = 0 := by
    have := pd.isLt; have := a.isLt; have := b.isLt; have := condCode_lt cc
    have := pa.isLt
    refine ⟨?_, ?_, ?_, ?_, ?_, ?_, ?_, ?_⟩ <;>
    (simp only [fn, hx, toNat_wordOf, fieldSum_cons, fieldSum_nil] <;> omega)
  show decodeSq x = _
  rw [decodeSq, h0, fld_of_fn h1, fld_of_fn h2, fld_of_fn h3, h4, condOf_code, fld_of_fn h5, zf_of_fn h6, zf_of_fn h7]; exact mk_wf rfl hwf
theorem cmpi (pd : BitVec 4) (a imm : BitVec 6) (cc : Cond) (pa : BitVec 4) : Statement (.cmpi pd a imm cc pa) := of_word rfl rfl fun x hx hwf => by
  obtain ⟨h0, h1, h2, h3, h4, h5, h6, h7⟩ : fn x 25 7 = 13 ∧ fn x 21 4 = pd.toNat ∧
      fn x 15 6 = a.toNat ∧ fn x 9 6 = imm.toNat ∧ fn x 5 3 = condCode cc ∧ fn x 1 4 = pa.toNat ∧
      fn x 8 1 = 0 ∧ fn x 0 1 = 0 := by
    have := pd.isLt; have := a.isLt; have := imm.isLt; have := condCode_lt cc
    have := pa.isLt
    refine ⟨?_, ?_, ?_, ?_, ?_, ?_, ?_, ?_⟩ <;>
    (simp only [fn, hx, toNat_wordOf, fieldSum_cons, fieldSum_nil] <;> omega)
  show decodeSq x = _
  rw [decodeSq, h0, fld_of_fn h1, fld_of_fn h2, fld_of_fn h3, h4, condOf_code, fld_of_fn h5, zf_of_fn h6, zf_of_fn h7]; exact mk_wf rfl hwf
theorem pand (pd pa pb : BitVec 4) : Statement (.pand pd pa pb) := of_word rfl rfl fun x hx hwf => by
  obtain ⟨h0, h1, h2, h3, h4, h5⟩ := encPred_fields 0 (by decide) pd pa pb hx
  show decodeSq x = _
  rw [decodeSq, h0, decodePred, h1, fld_of_fn h2, fld_of_fn h3, fld_of_fn h4, zf_of_fn h5]; exact mk_wf rfl hwf
theorem por (pd pa pb : BitVec 4) : Statement (.por pd pa pb) := of_word rfl rfl fun x hx hwf => by
  obtain ⟨h0, h1, h2, h3, h4, h5⟩ := encPred_fields 1 (by decide) pd pa pb hx
  show decodeSq x = _
  rw [decodeSq, h0, decodePred, h1, fld_of_fn h2, fld_of_fn h3, fld_of_fn h4, zf_of_fn h5]; exact mk_wf rfl hwf
theorem pxor (pd pa pb : BitVec 4) : Statement (.pxor pd pa pb) := of_word rfl rfl fun x hx hwf => by
  obtain ⟨h0, h1, h2, h3, h4, h5⟩ := encPred_fields 2 (by decide) pd pa pb hx
  show decodeSq x = _
  rw [decodeSq, h0, decodePred, h1, fld_of_fn h2, fld_of_fn h3, fld_of_fn h4, zf_of_fn h5]; exact mk_wf rfl hwf
theorem pandn (pd pa pb : BitVec 4) : Statement (.pandn pd pa pb) := of_word rfl rfl fun x hx hwf => by
  obtain ⟨h0, h1, h2, h3, h4, h5⟩ := encPred_fields 3 (by decide) pd pa pb hx
  show decodeSq x = _
  rw [decodeSq, h0, decodePred, h1, fld_of_fn h2, fld_of_fn h3, fld_of_fn h4, zf_of_fn h5]; exact mk_wf rfl hwf
theorem pmov (pd pa : BitVec 4) : Statement (.pmov pd pa) := of_word rfl rfl fun x hx hwf => by
  obtain ⟨h0, h1, h2, h3, h5, h4⟩ := encPred_fields 4 (by decide) pd pa 0 hx
  show decodeSq x = _
  rw [decodeSq, h0, decodePred, h1, fld_of_fn h2, fld_of_fn h3, zf_of_fn h4, zf_of_fn h5]; exact mk_wf rfl hwf
theorem pnot (pd pa : BitVec 4) : Statement (.pnot pd pa) := of_word rfl rfl fun x hx hwf => by
  obtain ⟨h0, h1, h2, h3, h5, h4⟩ := encPred_fields 5 (by decide) pd pa 0 hx
  show decodeSq x = _
  rw [decodeSq, h0, decodePred, h1, fld_of_fn h2, fld_of_fn h3, zf_of_fn h4, zf_of_fn h5]; exact mk_wf rfl hwf
theorem pset (pd : BitVec 4) : Statement (.pset pd) := of_word rfl rfl fun x hx hwf => by
  obtain ⟨h0, h1, h2, h3, h4⟩ : fn x 25 7 = 14 ∧ fn x 10 3 = 6 ∧ fn x 21 4 = pd.toNat ∧
      fn x 0 10 = 0 ∧ fn x 13 8 = 0 := by
    have := pd.isLt
    refine ⟨?_, ?_, ?_, ?_, ?_⟩ <;>
    (simp only [fn, hx, encPred, toNat_wordOf, fieldSum_cons, fieldSum_nil, BitVec.ofNat_eq_ofNat, BitVec.toNat_ofNat] <;> omega)
  show decodeSq x = _
  rw [decodeSq, h0, decodePred, h1, fld_of_fn h2, zf_of_fn h3, zf_of_fn h4]; exact mk_wf rfl hwf
theorem br (pq : BitVec 4) (neg : Bool) (off : BitVec 20) : Statement (.br pq neg off) := of_word rfl rfl fun x hx hwf => by
  obtain ⟨h0, h1, h2, h3⟩ := encBr_fields 0x10 (by decide) pq neg off hx
  show decodeSq x = _
  rw [decodeSq, h0, fld_of_fn h1, flag_of_fn h2, fld_of_fn h3]; exact mk_wf rfl hwf
theorem call (pq : BitVec 4) (neg : Bool) (off : BitVec 20) : Statement (.call pq neg off) := of_word rfl rfl fun x hx hwf => by
  obtain ⟨h0, h1, h2, h3⟩ := encBr_fields 0x11 (by decide) pq neg off hx
  show decodeSq x = _
  rw [decodeSq, h0, fld_of_fn h1, flag_of_fn h2, fld_of_fn h3]; exact mk_wf rfl hwf
theorem jr (a : BitVec 6) : Statement (.jr a) := of_word rfl rfl fun x hx hwf => by
  obtain ⟨h0, h1, h2, h3, h4⟩ : fn x 25 7 = 18 ∧ fn x 0 7 = 0 ∧ fn x 13 6 = a.toNat ∧ fn x 19 6 = 0
      ∧ fn x 7 6 = 0 := by
    have := a.isLt
    refine ⟨?_, ?_, ?_, ?_, ?_⟩ <;>
    (simp only [fn, hx, toNat_wordOf, fieldSum_cons, fieldSum_nil] <;> omega)
  show decodeSq x = _
  rw [decodeSq, h0, h1, fld_of_fn h2, zf_of_fn h3, zf_of_fn h4]; exact mk_wf rfl hwf
theorem callr (a : BitVec 6) : Statement (.callr a) := of_word rfl rfl fun x hx hwf => by
  obtain ⟨h0, h1, h2, h3, h4⟩ : fn x 25 7 = 18 ∧ fn x 0 7 = 1 ∧ fn x 13 6 = a.toNat ∧ fn x 19 6 = 0
      ∧ fn x 7 6 = 0 := by
    have := a.isLt
    refine ⟨?_, ?_, ?_, ?_, ?_⟩ <;>
    (simp only [fn, hx, toNat_wordOf, fieldSum_cons, fieldSum_nil] <;> omega)
  show decodeSq x = _
  rw [decodeSq, h0, h1, fld_of_fn h2, zf_of_fn h3, zf_of_fn h4]; exact mk_wf rfl hwf
theorem ret : Statement (.ret) := of_word rfl rfl fun x hx hwf => by
  obtain ⟨h0, h1, h2, h3, h4⟩ : fn x 25 7 = 18 ∧ fn x 0 7 = 2 ∧ fn x 19 6 = 0 ∧ fn x 7 6 = 0 ∧
      fn x 13 6 = 31 := by
    refine ⟨?_, ?_, ?_, ?_, ?_⟩ <;>
    (simp only [fn, hx, toNat_wordOf, fieldSum_cons, fieldSum_nil] <;> omega)
  show decodeSq x = _
  rw [decodeSq, h0, h1, zf_of_fn h2, zf_of_fn h3, h4]; exact mk_wf rfl hwf
theorem brstg (off : BitVec 20) : Statement (.brstg off) := of_word rfl rfl fun x hx hwf => by
  obtain ⟨h0, h1, h2⟩ : fn x 25 7 = 19 ∧ fn x 0 20 = off.toNat ∧ fn x 20 5 = 0 := by
    have := off.isLt
    refine ⟨?_, ?_, ?_⟩ <;>
    (simp only [fn, hx, encBr, toNat_wordOf, fieldSum_cons, fieldSum_nil, BitVec.ofNat_eq_ofNat, BitVec.toNat_ofNat, Bool.toNat_false] <;> omega)
  show decodeSq x = _
  rw [decodeSq, h0, fld_of_fn h1, zf_of_fn h2]; exact mk_wf rfl hwf
theorem brcl (pq : BitVec 4) (neg : Bool) (off : BitVec 20) : Statement (.brcl pq neg off) := of_word rfl rfl fun x hx hwf => by
  obtain ⟨h0, h1, h2, h3⟩ := encBr_fields 0x14 (by decide) pq neg off hx
  show decodeSq x = _
  rw [decodeSq, h0, fld_of_fn h1, flag_of_fn h2, fld_of_fn h3]; exact mk_wf rfl hwf
theorem pcl (pq : BitVec 4) (neg : Bool) (n1 : BitVec 3) : Statement (.pcl pq neg n1) := of_word rfl rfl fun x hx hwf => by
  obtain ⟨h0, h1, h2, h3, h4⟩ : fn x 25 7 = 21 ∧ fn x 21 4 = pq.toNat ∧ fn x 20 1 = neg.toNat ∧
      fn x 17 3 = n1.toNat ∧ fn x 0 17 = 0 := by
    have := pq.isLt; have := Bool.toNat_lt neg; have := n1.isLt
    refine ⟨?_, ?_, ?_, ?_, ?_⟩ <;>
    (simp only [fn, hx, toNat_wordOf, fieldSum_cons, fieldSum_nil] <;> omega)
  show decodeSq x = _
  rw [decodeSq, h0, fld_of_fn h1, flag_of_fn h2, fld_of_fn h3, zf_of_fn h4]; exact mk_wf rfl hwf
theorem ldu (t a : BitVec 6) (sz : BitVec 2) (imm : BitVec 11) : Statement (.ldu t a sz imm) := of_word rfl rfl fun x hx hwf => by
  obtain ⟨h0, h1, h2, h3, h4⟩ : fn x 25 7 = 24 ∧ fn x 19 6 = t.toNat ∧ fn x 13 6 = a.toNat ∧
      fn x 11 2 = sz.toNat ∧ fn x 0 11 = imm.toNat := by
    have := t.isLt; have := a.isLt; have := sz.isLt; have := imm.isLt
    refine ⟨?_, ?_, ?_, ?_, ?_⟩ <;>
    (simp only [fn, hx, encMem, toNat_wordOf, fieldSum_cons, fieldSum_nil] <;> omega)
  show decodeSq x = _
  rw [decodeSq, h0, fld_of_fn h1, fld_of_fn h2, fld_of_fn h3, fld_of_fn h4]; exact mk_wf rfl hwf
theorem lds (t a : BitVec 6) (sz : BitVec 2) (imm : BitVec 11) : Statement (.lds t a sz imm) := of_word rfl rfl fun x hx hwf => by
  obtain ⟨h0, h1, h2, h3, h4⟩ : fn x 25 7 = 25 ∧ fn x 19 6 = t.toNat ∧ fn x 13 6 = a.toNat ∧
      fn x 11 2 = sz.toNat ∧ fn x 0 11 = imm.toNat := by
    have := t.isLt; have := a.isLt; have := sz.isLt; have := imm.isLt
    refine ⟨?_, ?_, ?_, ?_, ?_⟩ <;>
    (simp only [fn, hx, encMem, toNat_wordOf, fieldSum_cons, fieldSum_nil] <;> omega)
  show decodeSq x = _
  rw [decodeSq, h0, fld_of_fn h1, fld_of_fn h2, fld_of_fn h3, fld_of_fn h4]; exact mk_wf rfl hwf
theorem st (t a : BitVec 6) (sz : BitVec 2) (imm : BitVec 11) : Statement (.st t a sz imm) := of_word rfl rfl fun x hx hwf => by
  obtain ⟨h0, h1, h2, h3, h4⟩ : fn x 25 7 = 26 ∧ fn x 19 6 = t.toNat ∧ fn x 13 6 = a.toNat ∧
      fn x 11 2 = sz.toNat ∧ fn x 0 11 = imm.toNat := by
    have := t.isLt; have := a.isLt; have := sz.isLt; have := imm.isLt
    refine ⟨?_, ?_, ?_, ?_, ?_⟩ <;>
    (simp only [fn, hx, encMem, toNat_wordOf, fieldSum_cons, fieldSum_nil] <;> omega)
  show decodeSq x = _
  rw [decodeSq, h0, fld_of_fn h1, fld_of_fn h2, fld_of_fn h3, fld_of_fn h4]; exact mk_wf rfl hwf
theorem ldm (t a : BitVec 6) (n1 : BitVec 2) (imm : BitVec 11) : Statement (.ldm t a n1 imm) := of_word rfl rfl fun x hx hwf => by
  obtain ⟨h0, h1, h2, h3, h4⟩ : fn x 25 7 = 27 ∧ fn x 19 6 = t.toNat ∧ fn x 13 6 = a.toNat ∧
      fn x 11 2 = n1.toNat ∧ fn x 0 11 = imm.toNat := by
    have := t.isLt; have := a.isLt; have := n1.isLt; have := imm.isLt
    refine ⟨?_, ?_, ?_, ?_, ?_⟩ <;>
    (simp only [fn, hx, encMem, toNat_wordOf, fieldSum_cons, fieldSum_nil] <;> omega)
  show decodeSq x = _
  rw [decodeSq, h0, fld_of_fn h1, fld_of_fn h2, fld_of_fn h3, fld_of_fn h4]; exact mk_wf rfl hwf
theorem stm (t a : BitVec 6) (n1 : BitVec 2) (imm : BitVec 11) : Statement (.stm t a n1 imm) := of_word rfl rfl fun x hx hwf => by
  obtain ⟨h0, h1, h2, h3, h4⟩ : fn x 25 7 = 28 ∧ fn x 19 6 = t.toNat ∧ fn x 13 6 = a.toNat ∧
      fn x 11 2 = n1.toNat ∧ fn x 0 11 = imm.toNat := by
    have := t.isLt; have := a.isLt; have := n1.isLt; have := imm.isLt
    refine ⟨?_, ?_, ?_, ?_, ?_⟩ <;>
    (simp only [fn, hx, encMem, toNat_wordOf, fieldSum_cons, fieldSum_nil] <;> omega)
  show decodeSq x = _
  rw [decodeSq, h0, fld_of_fn h1, fld_of_fn h2, fld_of_fn h3, fld_of_fn h4]; exact mk_wf rfl hwf
theorem amoLd (o : Ord) (d a : BitVec 6) (sc : Scope) : Statement (.amoLd o d a sc) := of_word rfl rfl fun x hx hwf => by
  obtain ⟨h0, h1, h4, h5, h6, h2, h3⟩ := encAmoOrd_fields o 0 (by decide) d a 0 sc hx
  show decodeSq x = _
  rw [h0, decodeAmo, h1]; simp only [withScope_of h2, h3, ordOf_code, fld_of_fn h4, fld_of_fn h5, zf_of_fn h6]; exact mk_wf rfl hwf
theorem amoSt (o : Ord) (a b : BitVec 6) (sc : Scope) : Statement (.amoSt o a b sc) := of_word rfl rfl fun x hx hwf => by
  obtain ⟨h0, h1, h6, h4, h5, h2, h3⟩ := encAmoOrd_fields o 1 (by decide) 0 a b sc hx
  show decodeSq x = _
  rw [h0, decodeAmo, h1]; simp only [withScope_of h2, h3, ordOf_code, fld_of_fn h4, fld_of_fn h5, zf_of_fn h6]; exact mk_wf rfl hwf
theorem amoSwap (o : Ord) (d a b : BitVec 6) (sc : Scope) : Statement (.amoSwap o d a b sc) := of_word rfl rfl fun x hx hwf => by
  obtain ⟨h0, h1, h4, h5, h6, h2, h3⟩ := encAmoOrd_fields o 2 (by decide) d a b sc hx
  show decodeSq x = _
  rw [h0, decodeAmo, h1]; simp only [withScope_of h2, h3, ordOf_code, fld_of_fn h4, fld_of_fn h5, fld_of_fn h6]; exact mk_wf rfl hwf
theorem amoCas (o : Ord) (d a b : BitVec 6) (sc : Scope) : Statement (.amoCas o d a b sc) := of_word rfl rfl fun x hx hwf => by
  obtain ⟨h0, h1, h4, h5, h6, h2, h3⟩ := encAmoOrd_fields o 3 (by decide) d a b sc hx
  show decodeSq x = _
  rw [h0, decodeAmo, h1]; simp only [withScope_of h2, h3, ordOf_code, fld_of_fn h4, fld_of_fn h5, fld_of_fn h6]; exact mk_wf rfl hwf
theorem amoAdd (o : Ord) (d a b : BitVec 6) (sc : Scope) : Statement (.amoAdd o d a b sc) := of_word rfl rfl fun x hx hwf => by
  obtain ⟨h0, h1, h4, h5, h6, h2, h3⟩ := encAmoOrd_fields o 4 (by decide) d a b sc hx
  show decodeSq x = _
  rw [h0, decodeAmo, h1]; simp only [withScope_of h2, h3, ordOf_code, fld_of_fn h4, fld_of_fn h5, fld_of_fn h6]; exact mk_wf rfl hwf
theorem amoAnd (o : Ord) (d a b : BitVec 6) (sc : Scope) : Statement (.amoAnd o d a b sc) := of_word rfl rfl fun x hx hwf => by
  obtain ⟨h0, h1, h4, h5, h6, h2, h3⟩ := encAmoOrd_fields o 5 (by decide) d a b sc hx
  show decodeSq x = _
  rw [h0, decodeAmo, h1]; simp only [withScope_of h2, h3, ordOf_code, fld_of_fn h4, fld_of_fn h5, fld_of_fn h6]; exact mk_wf rfl hwf
theorem amoOr (o : Ord) (d a b : BitVec 6) (sc : Scope) : Statement (.amoOr o d a b sc) := of_word rfl rfl fun x hx hwf => by
  obtain ⟨h0, h1, h4, h5, h6, h2, h3⟩ := encAmoOrd_fields o 6 (by decide) d a b sc hx
  show decodeSq x = _
  rw [h0, decodeAmo, h1]; simp only [withScope_of h2, h3, ordOf_code, fld_of_fn h4, fld_of_fn h5, fld_of_fn h6]; exact mk_wf rfl hwf
theorem amoXor (o : Ord) (d a b : BitVec 6) (sc : Scope) : Statement (.amoXor o d a b sc) := of_word rfl rfl fun x hx hwf => by
  obtain ⟨h0, h1, h4, h5, h6, h2, h3⟩ := encAmoOrd_fields o 7 (by decide) d a b sc hx
  show decodeSq x = _
  rw [h0, decodeAmo, h1]; simp only [withScope_of h2, h3, ordOf_code, fld_of_fn h4, fld_of_fn h5, fld_of_fn h6]; exact mk_wf rfl hwf
theorem amoMins (o : Ord) (d a b : BitVec 6) (sc : Scope) : Statement (.amoMins o d a b sc) := of_word rfl rfl fun x hx hwf => by
  obtain ⟨h0, h1, h4, h5, h6, h2, h3⟩ := encAmoOrd_fields o 8 (by decide) d a b sc hx
  show decodeSq x = _
  rw [h0, decodeAmo, h1]; simp only [withScope_of h2, h3, ordOf_code, fld_of_fn h4, fld_of_fn h5, fld_of_fn h6]; exact mk_wf rfl hwf
theorem amoMinu (o : Ord) (d a b : BitVec 6) (sc : Scope) : Statement (.amoMinu o d a b sc) := of_word rfl rfl fun x hx hwf => by
  obtain ⟨h0, h1, h4, h5, h6, h2, h3⟩ := encAmoOrd_fields o 9 (by decide) d a b sc hx
  show decodeSq x = _
  rw [h0, decodeAmo, h1]; simp only [withScope_of h2, h3, ordOf_code, fld_of_fn h4, fld_of_fn h5, fld_of_fn h6]; exact mk_wf rfl hwf
theorem amoMaxs (o : Ord) (d a b : BitVec 6) (sc : Scope) : Statement (.amoMaxs o d a b sc) := of_word rfl rfl fun x hx hwf => by
  obtain ⟨h0, h1, h4, h5, h6, h2, h3⟩ := encAmoOrd_fields o 10 (by decide) d a b sc hx
  show decodeSq x = _
  rw [h0, decodeAmo, h1]; simp only [withScope_of h2, h3, ordOf_code, fld_of_fn h4, fld_of_fn h5, fld_of_fn h6]; exact mk_wf rfl hwf
theorem amoMaxu (o : Ord) (d a b : BitVec 6) (sc : Scope) : Statement (.amoMaxu o d a b sc) := of_word rfl rfl fun x hx hwf => by
  obtain ⟨h0, h1, h4, h5, h6, h2, h3⟩ := encAmoOrd_fields o 11 (by decide) d a b sc hx
  show decodeSq x = _
  rw [h0, decodeAmo, h1]; simp only [withScope_of h2, h3, ordOf_code, fld_of_fn h4, fld_of_fn h5, fld_of_fn h6]; exact mk_wf rfl hwf
theorem amoFadd (o : Ord) (d a b : BitVec 6) (sc : Scope) : Statement (.amoFadd o d a b sc) := of_word rfl rfl fun x hx hwf => by
  obtain ⟨h0, h1, h4, h5, h6, h2, h3⟩ := encAmoOrd_fields o 12 (by decide) d a b sc hx
  show decodeSq x = _
  rw [h0, decodeAmo, h1]; simp only [withScope_of h2, h3, ordOf_code, fld_of_fn h4, fld_of_fn h5, fld_of_fn h6]; exact mk_wf rfl hwf
theorem rld (t a : BitVec 6) (sz : BitVec 2) (imm : BitVec 11) : Statement (.rld t a sz imm) := of_word rfl rfl fun x hx hwf => by
  obtain ⟨h0, h1, h2, h3, h4⟩ : fn x 25 7 = 36 ∧ fn x 19 6 = t.toNat ∧ fn x 13 6 = a.toNat ∧
      fn x 11 2 = sz.toNat ∧ fn x 0 11 = imm.toNat := by
    have := t.isLt; have := a.isLt; have := sz.isLt; have := imm.isLt
    refine ⟨?_, ?_, ?_, ?_, ?_⟩ <;>
    (simp only [fn, hx, encMem, toNat_wordOf, fieldSum_cons, fieldSum_nil] <;> omega)
  show decodeSq x = _
  rw [decodeSq, h0, fld_of_fn h1, fld_of_fn h2, fld_of_fn h3, fld_of_fn h4]; exact mk_wf rfl hwf
theorem rst (t a : BitVec 6) (sz : BitVec 2) (imm : BitVec 11) : Statement (.rst t a sz imm) := of_word rfl rfl fun x hx hwf => by
  obtain ⟨h0, h1, h2, h3, h4⟩ : fn x 25 7 = 37 ∧ fn x 19 6 = t.toNat ∧ fn x 13 6 = a.toNat ∧
      fn x 11 2 = sz.toNat ∧ fn x 0 11 = imm.toNat := by
    have := t.isLt; have := a.isLt; have := sz.isLt; have := imm.isLt
    refine ⟨?_, ?_, ?_, ?_, ?_⟩ <;>
    (simp only [fn, hx, encMem, toNat_wordOf, fieldSum_cons, fieldSum_nil] <;> omega)
  show decodeSq x = _
  rw [decodeSq, h0, fld_of_fn h1, fld_of_fn h2, fld_of_fn h3, fld_of_fn h4]; exact mk_wf rfl hwf
theorem ramoLd (d a : BitVec 6) (sc : Scope) : Statement (.ramoLd d a sc) := of_word rfl rfl fun x hx hwf => by
  obtain ⟨h0, h1, h3, h4, h5, h2, -⟩ := encAmo_fields 0x26 0 (by decide) (by decide) d a 0 sc hx
  show decodeSq x = _
  rw [decodeSq, h0, decodeRamo, h1]; simp only [withScope_of h2, fld_of_fn h3, fld_of_fn h4, zf_of_fn h5]; exact mk_wf rfl hwf
theorem ramoSt (a b : BitVec 6) (sc : Scope) : Statement (.ramoSt a b sc) := of_word rfl rfl fun x hx hwf => by
  obtain ⟨h0, h1, h5, h3, h4, h2, -⟩ := encAmo_fields 0x26 1 (by decide) (by decide) 0 a b sc hx
  show decodeSq x = _
  rw [decodeSq, h0, decodeRamo, h1]; simp only [withScope_of h2, fld_of_fn h3, fld_of_fn h4, zf_of_fn h5]; exact mk_wf rfl hwf
theorem ramoSwap (d a b : BitVec 6) (sc : Scope) : Statement (.ramoSwap d a b sc) := of_word rfl rfl fun x hx hwf => by
  obtain ⟨h0, h1, h3, h4, h5, h2, -⟩ := encAmo_fields 0x26 2 (by decide) (by decide) d a b sc hx
  show decodeSq x = _
  rw [decodeSq, h0, decodeRamo, h1]; simp only [withScope_of h2, fld_of_fn h3, fld_of_fn h4, fld_of_fn h5]; exact mk_wf rfl hwf
theorem ramoCas (d a b : BitVec 6) (sc : Scope) : Statement (.ramoCas d a b sc) := of_word rfl rfl fun x hx hwf => by
  obtain ⟨h0, h1, h3, h4, h5, h2, -⟩ := encAmo_fields 0x26 3 (by decide) (by decide) d a b sc hx
  show decodeSq x = _
  rw [decodeSq, h0, decodeRamo, h1]; simp only [withScope_of h2, fld_of_fn h3, fld_of_fn h4, fld_of_fn h5]; exact mk_wf rfl hwf
theorem ramoAdd (d a b : BitVec 6) (sc : Scope) : Statement (.ramoAdd d a b sc) := of_word rfl rfl fun x hx hwf => by
  obtain ⟨h0, h1, h3, h4, h5, h2, -⟩ := encAmo_fields 0x26 4 (by decide) (by decide) d a b sc hx
  show decodeSq x = _
  rw [decodeSq, h0, decodeRamo, h1]; simp only [withScope_of h2, fld_of_fn h3, fld_of_fn h4, fld_of_fn h5]; exact mk_wf rfl hwf
theorem ramoAnd (d a b : BitVec 6) (sc : Scope) : Statement (.ramoAnd d a b sc) := of_word rfl rfl fun x hx hwf => by
  obtain ⟨h0, h1, h3, h4, h5, h2, -⟩ := encAmo_fields 0x26 5 (by decide) (by decide) d a b sc hx
  show decodeSq x = _
  rw [decodeSq, h0, decodeRamo, h1]; simp only [withScope_of h2, fld_of_fn h3, fld_of_fn h4, fld_of_fn h5]; exact mk_wf rfl hwf
theorem ramoOr (d a b : BitVec 6) (sc : Scope) : Statement (.ramoOr d a b sc) := of_word rfl rfl fun x hx hwf => by
  obtain ⟨h0, h1, h3, h4, h5, h2, -⟩ := encAmo_fields 0x26 6 (by decide) (by decide) d a b sc hx
  show decodeSq x = _
  rw [decodeSq, h0, decodeRamo, h1]; simp only [withScope_of h2, fld_of_fn h3, fld_of_fn h4, fld_of_fn h5]; exact mk_wf rfl hwf
theorem ramoXor (d a b : BitVec 6) (sc : Scope) : Statement (.ramoXor d a b sc) := of_word rfl rfl fun x hx hwf => by
  obtain ⟨h0, h1, h3, h4, h5, h2, -⟩ := encAmo_fields 0x26 7 (by decide) (by decide) d a b sc hx
  show decodeSq x = _
  rw [decodeSq, h0, decodeRamo, h1]; simp only [withScope_of h2, fld_of_fn h3, fld_of_fn h4, fld_of_fn h5]; exact mk_wf rfl hwf
theorem ramoMins (d a b : BitVec 6) (sc : Scope) : Statement (.ramoMins d a b sc) := of_word rfl rfl fun x hx hwf => by
  obtain ⟨h0, h1, h3, h4, h5, h2, -⟩ := encAmo_fields 0x26 8 (by decide) (by decide) d a b sc hx
  show decodeSq x = _
  rw [decodeSq, h0, decodeRamo, h1]; simp only [withScope_of h2, fld_of_fn h3, fld_of_fn h4, fld_of_fn h5]; exact mk_wf rfl hwf
theorem ramoMinu (d a b : BitVec 6) (sc : Scope) : Statement (.ramoMinu d a b sc) := of_word rfl rfl fun x hx hwf => by
  obtain ⟨h0, h1, h3, h4, h5, h2, -⟩ := encAmo_fields 0x26 9 (by decide) (by decide) d a b sc hx
  show decodeSq x = _
  rw [decodeSq, h0, decodeRamo, h1]; simp only [withScope_of h2, fld_of_fn h3, fld_of_fn h4, fld_of_fn h5]; exact mk_wf rfl hwf
theorem ramoMaxs (d a b : BitVec 6) (sc : Scope) : Statement (.ramoMaxs d a b sc) := of_word rfl rfl fun x hx hwf => by
  obtain ⟨h0, h1, h3, h4, h5, h2, -⟩ := encAmo_fields 0x26 10 (by decide) (by decide) d a b sc hx
  show decodeSq x = _
  rw [decodeSq, h0, decodeRamo, h1]; simp only [withScope_of h2, fld_of_fn h3, fld_of_fn h4, fld_of_fn h5]; exact mk_wf rfl hwf
theorem ramoMaxu (d a b : BitVec 6) (sc : Scope) : Statement (.ramoMaxu d a b sc) := of_word rfl rfl fun x hx hwf => by
  obtain ⟨h0, h1, h3, h4, h5, h2, -⟩ := encAmo_fields 0x26 11 (by decide) (by decide) d a b sc hx
  show decodeSq x = _
  rw [decodeSq, h0, decodeRamo, h1]; simp only [withScope_of h2, fld_of_fn h3, fld_of_fn h4, fld_of_fn h5]; exact mk_wf rfl hwf
theorem ramoFadd (d a b : BitVec 6) (sc : Scope) : Statement (.ramoFadd d a b sc) := of_word rfl rfl fun x hx hwf => by
  obtain ⟨h0, h1, h3, h4, h5, h2, -⟩ := encAmo_fields 0x26 12 (by decide) (by decide) d a b sc hx
  show decodeSq x = _
  rw [decodeSq, h0, decodeRamo, h1]; simp only [withScope_of h2, fld_of_fn h3, fld_of_fn h4, fld_of_fn h5]; exact mk_wf rfl hwf
theorem nop : Statement (.nop) := of_word rfl rfl fun x hx hwf => by
  obtain ⟨h0, h1, h2⟩ : fn x 25 7 = 40 ∧ fn x 20 5 = 0 ∧ fn x 0 20 = 0 := by
    refine ⟨?_, ?_, ?_⟩ <;>
    (simp only [fn, hx, encSx, toNat_wordOf, fieldSum_cons, fieldSum_nil, BitVec.ofNat_eq_ofNat, BitVec.toNat_ofNat] <;> omega)
  show decodeSq x = _
  rw [decodeSq, h0, decodeSys, h1, zf_of_fn h2]; exact mk_wf rfl hwf
theorem trap (imm : BitVec 8) : Statement (.trap imm) := of_word rfl rfl fun x hx hwf => by
  obtain ⟨h0, h1, h2, h3⟩ : fn x 25 7 = 40 ∧ fn x 20 5 = 1 ∧ fn x 0 8 = imm.toNat ∧ fn x 8 12 = 0 :=
      by
    have := imm.isLt
    refine ⟨?_, ?_, ?_, ?_⟩ <;>
    (simp only [fn, hx, encSx, toNat_wordOf, fieldSum_cons, fieldSum_nil, BitVec.ofNat_eq_ofNat, BitVec.toNat_ofNat] <;> omega)
  show decodeSq x = _
  rw [decodeSq, h0, decodeSys, h1, fld_of_fn h2, zf_of_fn h3]; exact mk_wf rfl hwf
theorem eret : Statement (.eret) := of_word rfl rfl fun x hx hwf => by
  obtain ⟨h0, h1, h2⟩ : fn x 25 7 = 40 ∧ fn x 20 5 = 2 ∧ fn x 0 20 = 0 := by
    refine ⟨?_, ?_, ?_⟩ <;>
    (simp only [fn, hx, encSx, toNat_wordOf, fieldSum_cons, fieldSum_nil, BitVec.ofNat_eq_ofNat, BitVec.toNat_ofNat] <;> omega)
  show decodeSq x = _
  rw [decodeSq, h0, decodeSys, h1, zf_of_fn h2]; exact mk_wf rfl hwf
theorem uiret : Statement (.uiret) := of_word rfl rfl fun x hx hwf => by
  obtain ⟨h0, h1, h2⟩ : fn x 25 7 = 40 ∧ fn x 20 5 = 3 ∧ fn x 0 20 = 0 := by
    refine ⟨?_, ?_, ?_⟩ <;>
    (simp only [fn, hx, encSx, toNat_wordOf, fieldSum_cons, fieldSum_nil, BitVec.ofNat_eq_ofNat, BitVec.toNat_ofNat] <;> omega)
  show decodeSq x = _
  rw [decodeSq, h0, decodeSys, h1, zf_of_fn h2]; exact mk_wf rfl hwf
theorem waiti : Statement (.waiti) := of_word rfl rfl fun x hx hwf => by
  obtain ⟨h0, h1, h2⟩ : fn x 25 7 = 40 ∧ fn x 20 5 = 4 ∧ fn x 0 20 = 0 := by
    refine ⟨?_, ?_, ?_⟩ <;>
    (simp only [fn, hx, encSx, toNat_wordOf, fieldSum_cons, fieldSum_nil, BitVec.ofNat_eq_ofNat, BitVec.toNat_ofNat] <;> omega)
  show decodeSq x = _
  rw [decodeSq, h0, decodeSys, h1, zf_of_fn h2]; exact mk_wf rfl hwf
theorem halt : Statement (.halt) := of_word rfl rfl fun x hx hwf => by
  obtain ⟨h0, h1, h2⟩ : fn x 25 7 = 40 ∧ fn x 20 5 = 5 ∧ fn x 0 20 = 0 := by
    refine ⟨?_, ?_, ?_⟩ <;>
    (simp only [fn, hx, encSx, toNat_wordOf, fieldSum_cons, fieldSum_nil, BitVec.ofNat_eq_ofNat, BitVec.toNat_ofNat] <;> omega)
  show decodeSq x = _
  rw [decodeSq, h0, decodeSys, h1, zf_of_fn h2]; exact mk_wf rfl hwf
theorem fence (sc : Scope) : Statement (.fence sc) := of_word rfl rfl fun x hx hwf => by
  obtain ⟨h0, h1, h2, h3⟩ : fn x 25 7 = 40 ∧ fn x 20 5 = 6 ∧ fn x 0 3 = scopeCode sc ∧ fn x 3 17 = 0
      := by
    have := scopeCode_lt sc
    refine ⟨?_, ?_, ?_, ?_⟩ <;>
    (simp only [fn, hx, encSx, toNat_wordOf, fieldSum_cons, fieldSum_nil, BitVec.ofNat_eq_ofNat, BitVec.toNat_ofNat] <;> omega)
  show decodeSq x = _
  rw [decodeSq, h0, decodeSys, h1]; simp only [withScope_of h2, zf_of_fn h3]; exact mk_wf rfl hwf
theorem qfence (mask : BitVec 7) : Statement (.qfence mask) := of_word rfl rfl fun x hx hwf => by
  obtain ⟨h0, h1, h2, h3⟩ : fn x 25 7 = 40 ∧ fn x 20 5 = 7 ∧ fn x 0 7 = mask.toNat ∧ fn x 7 13 = 0
      := by
    have := mask.isLt
    refine ⟨?_, ?_, ?_, ?_⟩ <;>
    (simp only [fn, hx, encSx, toNat_wordOf, fieldSum_cons, fieldSum_nil, BitVec.ofNat_eq_ofNat, BitVec.toNat_ofNat] <;> omega)
  show decodeSq x = _
  rw [decodeSq, h0, decodeSys, h1, fld_of_fn h2, zf_of_fn h3]; exact mk_wf rfl hwf
theorem phase (sc : Scope) : Statement (.phase sc) := of_word rfl rfl fun x hx hwf => by
  obtain ⟨h0, h1, h2, h3⟩ : fn x 25 7 = 40 ∧ fn x 20 5 = 8 ∧ fn x 0 3 = scopeCode sc ∧ fn x 3 17 = 0
      := by
    have := scopeCode_lt sc
    refine ⟨?_, ?_, ?_, ?_⟩ <;>
    (simp only [fn, hx, encSx, toNat_wordOf, fieldSum_cons, fieldSum_nil, BitVec.ofNat_eq_ofNat, BitVec.toNat_ofNat] <;> omega)
  show decodeSq x = _
  rw [decodeSq, h0, decodeSys, h1]; simp only [withScope_of h2, zf_of_fn h3]; exact mk_wf rfl hwf
theorem tide (a : BitVec 6) : Statement (.tide a) := of_word rfl rfl fun x hx hwf => by
  obtain ⟨h0, h1, h2, h3⟩ : fn x 25 7 = 40 ∧ fn x 20 5 = 9 ∧ fn x 14 6 = a.toNat ∧ fn x 0 14 = 0 :=
      by
    have := a.isLt
    refine ⟨?_, ?_, ?_, ?_⟩ <;>
    (simp only [fn, hx, encSx, toNat_wordOf, fieldSum_cons, fieldSum_nil] <;> omega)
  show decodeSq x = _
  rw [decodeSq, h0, decodeSys, h1, fld_of_fn h2, zf_of_fn h3]; exact mk_wf rfl hwf
theorem keyst (id : BitVec 8) : Statement (.keyst id) := of_word rfl rfl fun x hx hwf => by
  obtain ⟨h0, h1, h2, h3⟩ : fn x 25 7 = 40 ∧ fn x 20 5 = 10 ∧ fn x 0 8 = id.toNat ∧ fn x 8 12 = 0 :=
      by
    have := id.isLt
    refine ⟨?_, ?_, ?_, ?_⟩ <;>
    (simp only [fn, hx, encSx, toNat_wordOf, fieldSum_cons, fieldSum_nil, BitVec.ofNat_eq_ofNat, BitVec.toNat_ofNat] <;> omega)
  show decodeSq x = _
  rw [decodeSq, h0, decodeSys, h1, fld_of_fn h2, zf_of_fn h3]; exact mk_wf rfl hwf
theorem uipoll : Statement (.uipoll) := of_word rfl rfl fun x hx hwf => by
  obtain ⟨h0, h1, h2⟩ : fn x 25 7 = 40 ∧ fn x 20 5 = 11 ∧ fn x 0 20 = 0 := by
    refine ⟨?_, ?_, ?_⟩ <;>
    (simp only [fn, hx, encSx, toNat_wordOf, fieldSum_cons, fieldSum_nil, BitVec.ofNat_eq_ofNat, BitVec.toNat_ofNat] <;> omega)
  show decodeSq x = _
  rw [decodeSq, h0, decodeSys, h1, zf_of_fn h2]; exact mk_wf rfl hwf
theorem cancel (lv : Level) : Statement (.cancel lv) := of_word rfl rfl fun x hx hwf => by
  obtain ⟨h0, h1, h2, h3⟩ : fn x 25 7 = 40 ∧ fn x 20 5 = 12 ∧ fn x 0 3 = levelCode lv ∧
      fn x 3 17 = 0 := by
    have := levelCode_lt lv
    refine ⟨?_, ?_, ?_, ?_⟩ <;>
    (simp only [fn, hx, encSx, toNat_wordOf, fieldSum_cons, fieldSum_nil, BitVec.ofNat_eq_ofNat, BitVec.toNat_ofNat] <;> omega)
  show decodeSq x = _
  rw [decodeSq, h0, decodeSys, h1]; simp only [withLevel_of h2, zf_of_fn h3]; exact mk_wf rfl hwf
theorem csrr (d : BitVec 6) (csr : BitVec 12) : Statement (.csrr d csr) := of_word rfl rfl fun x hx hwf => by
  obtain ⟨h0, h1, h2, h3⟩ : fn x 25 7 = 41 ∧ fn x 19 6 = d.toNat ∧ fn x 0 12 = csr.toNat ∧
      fn x 12 7 = 0 := by
    have := d.isLt; have := csr.isLt
    refine ⟨?_, ?_, ?_, ?_⟩ <;>
    (simp only [fn, hx, toNat_wordOf, fieldSum_cons, fieldSum_nil] <;> omega)
  show decodeSq x = _
  rw [decodeSq, h0, fld_of_fn h1, fld_of_fn h2, zf_of_fn h3]; exact mk_wf rfl hwf
theorem csrw (csr : BitVec 12) (a : BitVec 6) : Statement (.csrw csr a) := of_word rfl rfl fun x hx hwf => by
  obtain ⟨h0, h1, h2, h3, h4⟩ : fn x 25 7 = 42 ∧ fn x 0 12 = csr.toNat ∧ fn x 13 6 = a.toNat ∧
      fn x 12 1 = 0 ∧ fn x 19 6 = 0 := by
    have := csr.isLt; have := a.isLt
    refine ⟨?_, ?_, ?_, ?_, ?_⟩ <;>
    (simp only [fn, hx, toNat_wordOf, fieldSum_cons, fieldSum_nil] <;> omega)
  show decodeSq x = _
  rw [decodeSq, h0, fld_of_fn h1, fld_of_fn h2, zf_of_fn h3, zf_of_fn h4]; exact mk_wf rfl hwf
theorem csrs (d : BitVec 6) (csr : BitVec 12) (a : BitVec 6) : Statement (.csrs d csr a) := of_word rfl rfl fun x hx hwf => by
  obtain ⟨h0, h1, h2, h3, h4⟩ : fn x 25 7 = 43 ∧ fn x 19 6 = d.toNat ∧ fn x 0 12 = csr.toNat ∧
      fn x 13 6 = a.toNat ∧ fn x 12 1 = 0 := by
    have := d.isLt; have := csr.isLt; have := a.isLt
    refine ⟨?_, ?_, ?_, ?_, ?_⟩ <;>
    (simp only [fn, hx, toNat_wordOf, fieldSum_cons, fieldSum_nil] <;> omega)
  show decodeSq x = _
  rw [decodeSq, h0, fld_of_fn h1, fld_of_fn h2, fld_of_fn h3, zf_of_fn h4]; exact mk_wf rfl hwf
theorem csrc (d : BitVec 6) (csr : BitVec 12) (a : BitVec 6) : Statement (.csrc d csr a) := of_word rfl rfl fun x hx hwf => by
  obtain ⟨h0, h1, h2, h3, h4⟩ : fn x 25 7 = 44 ∧ fn x 19 6 = d.toNat ∧ fn x 0 12 = csr.toNat ∧
      fn x 13 6 = a.toNat ∧ fn x 12 1 = 0 := by
    have := d.isLt; have := csr.isLt; have := a.isLt
    refine ⟨?_, ?_, ?_, ?_, ?_⟩ <;>
    (simp only [fn, hx, toNat_wordOf, fieldSum_cons, fieldSum_nil] <;> omega)
  show decodeSq x = _
  rw [decodeSq, h0, fld_of_fn h1, fld_of_fn h2, fld_of_fn h3, zf_of_fn h4]; exact mk_wf rfl hwf
theorem vrun (a : BitVec 6) (n1 : BitVec 8) : Statement (.vrun a n1) := of_word rfl rfl fun x hx hwf => by
  obtain ⟨h0, h1, h2, h3, h4⟩ : fn x 25 7 = 48 ∧ fn x 20 5 = 0 ∧ fn x 14 6 = a.toNat ∧
      fn x 0 8 = n1.toNat ∧ fn x 8 6 = 0 := by
    have := a.isLt; have := n1.isLt
    refine ⟨?_, ?_, ?_, ?_, ?_⟩ <;>
    (simp only [fn, hx, encSx, toNat_wordOf, fieldSum_cons, fieldSum_nil] <;> omega)
  show decodeSq x = _
  rw [decodeSq, h0, decodeEng, h1, fld_of_fn h2, fld_of_fn h3, zf_of_fn h4]; exact mk_wf rfl hwf
theorem mrun (a : BitVec 6) (nt : BitVec 1) (n1 : BitVec 8) : Statement (.mrun a nt n1) := of_word rfl rfl fun x hx hwf => by
  obtain ⟨h0, h1, h2, h3, h4, h5⟩ : fn x 25 7 = 48 ∧ fn x 20 5 = 1 ∧ fn x 14 6 = a.toNat ∧
      fn x 8 1 = nt.toNat ∧ fn x 0 8 = n1.toNat ∧ fn x 9 5 = 0 := by
    have := a.isLt; have := nt.isLt; have := n1.isLt
    refine ⟨?_, ?_, ?_, ?_, ?_, ?_⟩ <;>
    (simp only [fn, hx, encSx, toNat_wordOf, fieldSum_cons, fieldSum_nil] <;> omega)
  show decodeSq x = _
  rw [decodeSq, h0, decodeEng, h1, fld_of_fn h2, fld_of_fn h3, fld_of_fn h4, zf_of_fn h5]; exact mk_wf rfl hwf
theorem sopen (n : BitVec 4) : Statement (.sopen n) := of_word rfl rfl fun x hx hwf => by
  obtain ⟨h0, h1, h2, h3⟩ : fn x 25 7 = 48 ∧ fn x 20 5 = 2 ∧ fn x 0 4 = n.toNat ∧ fn x 4 16 = 0 :=
      by
    have := n.isLt
    refine ⟨?_, ?_, ?_, ?_⟩ <;>
    (simp only [fn, hx, encSx, toNat_wordOf, fieldSum_cons, fieldSum_nil, BitVec.ofNat_eq_ofNat, BitVec.toNat_ofNat] <;> omega)
  show decodeSq x = _
  rw [decodeSq, h0, decodeEng, h1, fld_of_fn h2, zf_of_fn h3]; exact mk_wf rfl hwf
theorem sclose (n : BitVec 4) : Statement (.sclose n) := of_word rfl rfl fun x hx hwf => by
  obtain ⟨h0, h1, h2, h3⟩ : fn x 25 7 = 48 ∧ fn x 20 5 = 3 ∧ fn x 0 4 = n.toNat ∧ fn x 4 16 = 0 :=
      by
    have := n.isLt
    refine ⟨?_, ?_, ?_, ?_⟩ <;>
    (simp only [fn, hx, encSx, toNat_wordOf, fieldSum_cons, fieldSum_nil, BitVec.ofNat_eq_ofNat, BitVec.toNat_ofNat] <;> omega)
  show decodeSq x = _
  rw [decodeSq, h0, decodeEng, h1, fld_of_fn h2, zf_of_fn h3]; exact mk_wf rfl hwf
theorem swait (n : BitVec 4) : Statement (.swait n) := of_word rfl rfl fun x hx hwf => by
  obtain ⟨h0, h1, h2, h3⟩ : fn x 25 7 = 48 ∧ fn x 20 5 = 4 ∧ fn x 0 4 = n.toNat ∧ fn x 4 16 = 0 :=
      by
    have := n.isLt
    refine ⟨?_, ?_, ?_, ?_⟩ <;>
    (simp only [fn, hx, encSx, toNat_wordOf, fieldSum_cons, fieldSum_nil, BitVec.ofNat_eq_ofNat, BitVec.toNat_ofNat] <;> omega)
  show decodeSq x = _
  rw [decodeSq, h0, decodeEng, h1, fld_of_fn h2, zf_of_fn h3]; exact mk_wf rfl hwf
theorem crun (a : BitVec 6) (pd n : BitVec 4) : Statement (.crun a pd n) := of_word rfl rfl fun x hx hwf => by
  obtain ⟨h0, h1, h2, h3, h4, h5, h6⟩ : fn x 25 7 = 48 ∧ fn x 20 5 = 5 ∧ fn x 14 6 = a.toNat ∧
      fn x 8 4 = pd.toNat ∧ fn x 0 4 = n.toNat ∧ fn x 12 2 = 0 ∧ fn x 4 4 = 0 := by
    have := a.isLt; have := pd.isLt; have := n.isLt
    refine ⟨?_, ?_, ?_, ?_, ?_, ?_, ?_⟩ <;>
    (simp only [fn, hx, encSx, toNat_wordOf, fieldSum_cons, fieldSum_nil] <;> omega)
  show decodeSq x = _
  rw [decodeSq, h0, decodeEng, h1, fld_of_fn h2, fld_of_fn h3, fld_of_fn h4, zf_of_fn h5, zf_of_fn h6]; exact mk_wf rfl hwf
theorem mtokw (t : BitVec 8) : Statement (.mtokw t) := of_word rfl rfl fun x hx hwf => by
  obtain ⟨h0, h1, h2, h3⟩ : fn x 25 7 = 48 ∧ fn x 20 5 = 6 ∧ fn x 0 8 = t.toNat ∧ fn x 8 12 = 0 :=
      by
    have := t.isLt
    refine ⟨?_, ?_, ?_, ?_⟩ <;>
    (simp only [fn, hx, encSx, toNat_wordOf, fieldSum_cons, fieldSum_nil, BitVec.ofNat_eq_ofNat, BitVec.toNat_ofNat] <;> omega)
  show decodeSq x = _
  rw [decodeSq, h0, decodeEng, h1, fld_of_fn h2, zf_of_fn h3]; exact mk_wf rfl hwf
theorem vtokw (t : BitVec 8) : Statement (.vtokw t) := of_word rfl rfl fun x hx hwf => by
  obtain ⟨h0, h1, h2, h3⟩ : fn x 25 7 = 48 ∧ fn x 20 5 = 7 ∧ fn x 0 8 = t.toNat ∧ fn x 8 12 = 0 :=
      by
    have := t.isLt
    refine ⟨?_, ?_, ?_, ?_⟩ <;>
    (simp only [fn, hx, encSx, toNat_wordOf, fieldSum_cons, fieldSum_nil, BitVec.ofNat_eq_ofNat, BitVec.toNat_ofNat] <;> omega)
  show decodeSq x = _
  rw [decodeSq, h0, decodeEng, h1, fld_of_fn h2, zf_of_fn h3]; exact mk_wf rfl hwf
theorem sset (s : BitVec 4) (f : BitVec 5) (g : BitVec 6) : Statement (.sset s f g) := of_word rfl rfl fun x hx hwf => by
  obtain ⟨h0, h1, h2, h3, h4⟩ : fn x 25 7 = 0x31 ∧ fn x 21 4 = s.toNat ∧ fn x 16 5 = f.toNat ∧
      fn x 10 6 = g.toNat ∧ fn x 0 10 = 0 := by
    have := s.isLt; have := f.isLt; have := g.isLt
    refine ⟨?_, ?_, ?_, ?_, ?_⟩ <;>
    (simp only [fn, hx, toNat_wordOf, fieldSum_cons, fieldSum_nil] <;> omega)
  show decodeSq x = _
  rw [decodeSq, h0, decodeRes, h0, fld_of_fn h1, fld_of_fn h2, fld_of_fn h3, zf_of_fn h4]; exact mk_wf rfl hwf
theorem sget (s : BitVec 4) (f : BitVec 5) (g : BitVec 6) : Statement (.sget s f g) := of_word rfl rfl fun x hx hwf => by
  obtain ⟨h0, h1, h2, h3, h4⟩ : fn x 25 7 = 0x32 ∧ fn x 21 4 = s.toNat ∧ fn x 16 5 = f.toNat ∧
      fn x 10 6 = g.toNat ∧ fn x 0 10 = 0 := by
    have := s.isLt; have := f.isLt; have := g.isLt
    refine ⟨?_, ?_, ?_, ?_, ?_⟩ <;>
    (simp only [fn, hx, toNat_wordOf, fieldSum_cons, fieldSum_nil] <;> omega)
  show decodeSq x = _
  rw [decodeSq, h0, decodeRes, h0, fld_of_fn h1, fld_of_fn h2, fld_of_fn h3, zf_of_fn h4]; exact mk_wf rfl hwf
theorem vkset (k : BitVec 4) (a : BitVec 6) : Statement (.vkset k a) := of_word rfl rfl fun x hx hwf => by
  obtain ⟨h0, h1, h2, h3⟩ : fn x 25 7 = 0x33 ∧ fn x 21 4 = k.toNat ∧ fn x 15 6 = a.toNat ∧
      fn x 0 15 = 0 := by
    have := k.isLt; have := a.isLt
    refine ⟨?_, ?_, ?_, ?_⟩ <;>
    (simp only [fn, hx, toNat_wordOf, fieldSum_cons, fieldSum_nil] <;> omega)
  show decodeSq x = _
  rw [decodeSq, h0, decodeRes, h0, fld_of_fn h1, fld_of_fn h2, zf_of_fn h3]; exact mk_wf rfl hwf
theorem gnset (n : BitVec 3) (f : BitVec 5) (g : BitVec 6) : Statement (.gnset n f g) := of_word rfl rfl fun x hx hwf => by
  obtain ⟨h0, h1, h2, h3, h4, h5⟩ : fn x 25 7 = 0x34 ∧ fn x 21 3 = n.toNat ∧ fn x 16 5 = f.toNat ∧
      fn x 10 6 = g.toNat ∧ fn x 24 1 = 0 ∧ fn x 0 10 = 0 := by
    have := n.isLt; have := f.isLt; have := g.isLt
    refine ⟨?_, ?_, ?_, ?_, ?_, ?_⟩ <;> (simp only [fn, hx, toNat_wordOf, fieldSum_cons, fieldSum_nil] <;> omega)
  have h9 : ¬ fn x 16 5 = 9 := by
    have : f.toNat ≤ 8 := by simpa [Instr.wf] using hwf
    omega
  show decodeSq x = _
  rw [decodeSq, h0, decodeRes, h0]
  show (if fn x 16 5 = 9 then _ else _) = _
  rw [if_neg h9, fld_of_fn h1, fld_of_fn h2, fld_of_fn h3, zf_of_fn h4, zf_of_fn h5]; exact mk_wf rfl hwf
theorem gnsetFaddr (n : BitVec 3) (g : BitVec 6) : Statement (.gnsetFaddr n g) := of_word rfl rfl fun x hx hwf => by
  obtain ⟨h0, h1, h2, h3, h4, h5⟩ : fn x 25 7 = 0x34 ∧ fn x 21 3 = n.toNat ∧ fn x 16 5 = 9 ∧
      fn x 10 6 = g.toNat ∧ fn x 24 1 = 0 ∧ fn x 0 10 = 0 := by
    have := n.isLt; have := g.isLt
    refine ⟨?_, ?_, ?_, ?_, ?_, ?_⟩ <;> (simp only [fn, hx, toNat_wordOf, fieldSum_cons, fieldSum_nil] <;> omega)
  show decodeSq x = _
  rw [decodeSq, h0, decodeRes, h0]
  show (if fn x 16 5 = 9 then _ else _) = _
  rw [if_pos h2, fld_of_fn h1, fld_of_fn h3, zf_of_fn h4, zf_of_fn h5]; exact mk_wf rfl hwf
theorem gnget (n : BitVec 3) (f : BitVec 5) (g : BitVec 6) : Statement (.gnget n f g) := of_word rfl rfl fun x hx hwf => by
  obtain ⟨h0, h1, h2, h3, h4, h5⟩ : fn x 25 7 = 0x35 ∧ fn x 21 3 = n.toNat ∧ fn x 16 5 = f.toNat ∧
      fn x 10 6 = g.toNat ∧ fn x 24 1 = 0 ∧ fn x 0 10 = 0 := by
    have := n.isLt; have := f.isLt; have := g.isLt
    refine ⟨?_, ?_, ?_, ?_, ?_, ?_⟩ <;>
    (simp only [fn, hx, toNat_wordOf, fieldSum_cons, fieldSum_nil] <;> omega)
  show decodeSq x = _
  rw [decodeSq, h0, decodeRes, h0, fld_of_fn h1, fld_of_fn h2, fld_of_fn h3, zf_of_fn h4, zf_of_fn h5]; exact mk_wf rfl hwf
theorem gnpeek (d a b : BitVec 6) (n : BitVec 3) : Statement (.gnpeek d a b n) := of_word rfl rfl fun x hx hwf => by
  obtain ⟨h0, h1, h2, h3, h4, h5⟩ : fn x 25 7 = 0x36 ∧ fn x 19 6 = d.toNat ∧ fn x 13 6 = a.toNat ∧
      fn x 7 6 = b.toNat ∧ fn x 4 3 = n.toNat ∧ fn x 0 4 = 0 := by
    have := d.isLt; have := a.isLt; have := b.isLt; have := n.isLt
    refine ⟨?_, ?_, ?_, ?_, ?_, ?_⟩ <;>
    (simp only [fn, hx, toNat_wordOf, fieldSum_cons, fieldSum_nil] <;> omega)
  show decodeSq x = _
  rw [decodeSq, h0, decodeRes, h0, fld_of_fn h1, fld_of_fn h2, fld_of_fn h3, fld_of_fn h4, zf_of_fn h5]; exact mk_wf rfl hwf
theorem ntset (nt : BitVec 1) (level : BitVec 3) (f : BitVec 5) (g : BitVec 6) : Statement (.ntset nt level f g) := of_word rfl rfl fun x hx hwf => by
  obtain ⟨h0, h1, h2, h3, h4, h5⟩ : fn x 25 7 = 0x37 ∧ fn x 24 1 = nt.toNat ∧
      fn x 21 3 = level.toNat ∧ fn x 16 5 = f.toNat ∧ fn x 10 6 = g.toNat ∧ fn x 0 10 = 0 := by
    have := nt.isLt; have := level.isLt; have := f.isLt; have := g.isLt
    refine ⟨?_, ?_, ?_, ?_, ?_, ?_⟩ <;>
    (simp only [fn, hx, toNat_wordOf, fieldSum_cons, fieldSum_nil] <;> omega)
  show decodeSq x = _
  rw [decodeSq, h0, decodeRes, h0, fld_of_fn h1, fld_of_fn h2, fld_of_fn h3, fld_of_fn h4, zf_of_fn h5]; exact mk_wf rfl hwf
theorem binit (a : BitVec 6) (n : BitVec 9) : Statement (.binit a n) := of_word rfl rfl fun x hx hwf => by
  obtain ⟨h0, h1, h2, h3, h4, h5⟩ : fn x 25 7 = 0x38 ∧ fn x 23 2 = 0 ∧ fn x 13 6 = a.toNat ∧
      fn x 4 9 = n.toNat ∧ fn x 19 4 = 0 ∧ fn x 0 4 = 0 := by
    have := a.isLt; have := n.isLt
    refine ⟨?_, ?_, ?_, ?_, ?_, ?_⟩ <;>
    (simp only [fn, hx, toNat_wordOf, fieldSum_cons, fieldSum_nil] <;> omega)
  show decodeSq x = _
  rw [decodeSq, h0, decodeRes, h0, h1, fld_of_fn h2, fld_of_fn h3, zf_of_fn h4, zf_of_fn h5]; exact mk_wf rfl hwf
theorem barr (n : BitVec 9) : Statement (.barr n) := of_word rfl rfl fun x hx hwf => by
  obtain ⟨h0, h1, h2, h3, h4⟩ : fn x 25 7 = 0x38 ∧ fn x 23 2 = 1 ∧ fn x 4 9 = n.toNat ∧
      fn x 13 10 = 0 ∧ fn x 0 4 = 0 := by
    have := n.isLt
    refine ⟨?_, ?_, ?_, ?_, ?_⟩ <;>
    (simp only [fn, hx, toNat_wordOf, fieldSum_cons, fieldSum_nil] <;> omega)
  show decodeSq x = _
  rw [decodeSq, h0, decodeRes, h0, h1, fld_of_fn h2, zf_of_fn h3, zf_of_fn h4]; exact mk_wf rfl hwf
theorem bwait (n : BitVec 9) : Statement (.bwait n) := of_word rfl rfl fun x hx hwf => by
  obtain ⟨h0, h1, h2, h3, h4⟩ : fn x 25 7 = 0x38 ∧ fn x 23 2 = 2 ∧ fn x 4 9 = n.toNat ∧
      fn x 13 10 = 0 ∧ fn x 0 4 = 0 := by
    have := n.isLt
    refine ⟨?_, ?_, ?_, ?_, ?_⟩ <;>
    (simp only [fn, hx, toNat_wordOf, fieldSum_cons, fieldSum_nil] <;> omega)
  show decodeSq x = _
  rw [decodeSq, h0, decodeRes, h0, h1, fld_of_fn h2, zf_of_fn h3, zf_of_fn h4]; exact mk_wf rfl hwf
theorem btest (pd : BitVec 4) (n : BitVec 9) : Statement (.btest pd n) := of_word rfl rfl fun x hx hwf => by
  obtain ⟨h0, h1, h2, h3, h4, h5⟩ : fn x 25 7 = 0x38 ∧ fn x 23 2 = 3 ∧ fn x 19 4 = pd.toNat ∧
      fn x 4 9 = n.toNat ∧ fn x 13 6 = 0 ∧ fn x 0 4 = 0 := by
    have := pd.isLt; have := n.isLt
    refine ⟨?_, ?_, ?_, ?_, ?_, ?_⟩ <;>
    (simp only [fn, hx, toNat_wordOf, fieldSum_cons, fieldSum_nil] <;> omega)
  show decodeSq x = _
  rw [decodeSq, h0, decodeRes, h0, h1, fld_of_fn h2, fld_of_fn h3, zf_of_fn h4, zf_of_fn h5]; exact mk_wf rfl hwf
theorem cwaitc (a : BitVec 6) (lv : Level) : Statement (.cwaitc a lv) := of_word rfl rfl fun x hx hwf => by
  obtain ⟨h0, h1, h2, h3, h4, h5⟩ : fn x 25 7 = 0x39 ∧ fn x 24 1 = 0 ∧ fn x 9 3 = levelCode lv ∧
      fn x 12 6 = a.toNat ∧ fn x 18 6 = 0 ∧ fn x 0 9 = 0 := by
    have := a.isLt; have := levelCode_lt lv
    refine ⟨?_, ?_, ?_, ?_, ?_, ?_⟩ <;>
    (simp only [fn, hx, toNat_wordOf, fieldSum_cons, fieldSum_nil] <;> omega)
  show decodeSq x = _
  rw [decodeSq, h0, decodeRes, h0, h1]; simp only [withLevel_of h2, fld_of_fn h3, zf_of_fn h4, zf_of_fn h5]; exact mk_wf rfl hwf
theorem cread (d : BitVec 6) (lv : Level) : Statement (.cread d lv) := of_word rfl rfl fun x hx hwf => by
  obtain ⟨h0, h1, h2, h3, h4, h5⟩ : fn x 25 7 = 0x39 ∧ fn x 24 1 = 1 ∧ fn x 9 3 = levelCode lv ∧
      fn x 18 6 = d.toNat ∧ fn x 12 6 = 0 ∧ fn x 0 9 = 0 := by
    have := d.isLt; have := levelCode_lt lv
    refine ⟨?_, ?_, ?_, ?_, ?_, ?_⟩ <;>
    (simp only [fn, hx, toNat_wordOf, fieldSum_cons, fieldSum_nil] <;> omega)
  show decodeSq x = _
  rw [decodeSq, h0, decodeRes, h0, h1]; simp only [withLevel_of h2, fld_of_fn h3, zf_of_fn h4, zf_of_fn h5]; exact mk_wf rfl hwf
theorem lrpatch (a b : BitVec 6) : Statement (.lrpatch a b) := of_word rfl rfl fun x hx hwf => by
  obtain ⟨h0, h1, h2, h3, h4, h5⟩ : fn x 25 7 = 0x3A ∧ fn x 23 2 = 0 ∧ fn x 11 6 = a.toNat ∧
      fn x 5 6 = b.toNat ∧ fn x 17 6 = 0 ∧ fn x 0 5 = 0 := by
    have := a.isLt; have := b.isLt
    refine ⟨?_, ?_, ?_, ?_, ?_, ?_⟩ <;>
    (simp only [fn, hx, toNat_wordOf, fieldSum_cons, fieldSum_nil] <;> omega)
  show decodeSq x = _
  rw [decodeSq, h0, decodeRes, h0, h1, fld_of_fn h2, fld_of_fn h3, zf_of_fn h4, zf_of_fn h5]; exact mk_wf rfl hwf
theorem lrarm (a : BitVec 6) : Statement (.lrarm a) := of_word rfl rfl fun x hx hwf => by
  obtain ⟨h0, h1, h2, h3, h4⟩ : fn x 25 7 = 0x3A ∧ fn x 23 2 = 1 ∧ fn x 11 6 = a.toNat ∧
      fn x 17 6 = 0 ∧ fn x 0 11 = 0 := by
    have := a.isLt
    refine ⟨?_, ?_, ?_, ?_, ?_⟩ <;>
    (simp only [fn, hx, toNat_wordOf, fieldSum_cons, fieldSum_nil] <;> omega)
  show decodeSq x = _
  rw [decodeSq, h0, decodeRes, h0, h1, fld_of_fn h2, zf_of_fn h3, zf_of_fn h4]; exact mk_wf rfl hwf
theorem lrstat (d a : BitVec 6) : Statement (.lrstat d a) := of_word rfl rfl fun x hx hwf => by
  obtain ⟨h0, h1, h2, h3, h4⟩ : fn x 25 7 = 0x3A ∧ fn x 23 2 = 2 ∧ fn x 17 6 = d.toNat ∧
      fn x 11 6 = a.toNat ∧ fn x 0 11 = 0 := by
    have := d.isLt; have := a.isLt
    refine ⟨?_, ?_, ?_, ?_, ?_⟩ <;>
    (simp only [fn, hx, toNat_wordOf, fieldSum_cons, fieldSum_nil] <;> omega)
  show decodeSq x = _
  rw [decodeSq, h0, decodeRes, h0, h1, fld_of_fn h2, fld_of_fn h3, zf_of_fn h4]; exact mk_wf rfl hwf
theorem lease (l pd : BitVec 4) (kind : BitVec 3) (prio : BitVec 2) (ev : Bool) : Statement (.lease l pd kind prio ev) := of_word rfl rfl fun x hx hwf => by
  obtain ⟨h0, h1, h2, h3, h4, h5, h6, h7⟩ : fn x 25 7 = 0x3B ∧ fn x 23 2 = 0 ∧ fn x 19 4 = l.toNat ∧
      fn x 15 4 = pd.toNat ∧ fn x 12 3 = kind.toNat ∧ fn x 10 2 = prio.toNat ∧ fn x 9 1 = ev.toNat ∧
      fn x 0 9 = 0 := by
    have := l.isLt; have := pd.isLt; have := kind.isLt; have := prio.isLt
    have := Bool.toNat_lt ev
    refine ⟨?_, ?_, ?_, ?_, ?_, ?_, ?_, ?_⟩ <;>
    (simp only [fn, hx, toNat_wordOf, fieldSum_cons, fieldSum_nil] <;> omega)
  show decodeSq x = _
  rw [decodeSq, h0, decodeRes, h0, h1, fld_of_fn h2, fld_of_fn h3, fld_of_fn h4, fld_of_fn h5, flag_of_fn h6, zf_of_fn h7]; exact mk_wf rfl hwf
theorem lrel (l : BitVec 4) : Statement (.lrel l) := of_word rfl rfl fun x hx hwf => by
  obtain ⟨h0, h1, h2, h3⟩ : fn x 25 7 = 0x3B ∧ fn x 23 2 = 1 ∧ fn x 19 4 = l.toNat ∧ fn x 0 19 = 0
      := by
    have := l.isLt
    refine ⟨?_, ?_, ?_, ?_⟩ <;>
    (simp only [fn, hx, toNat_wordOf, fieldSum_cons, fieldSum_nil] <;> omega)
  show decodeSq x = _
  rw [decodeSq, h0, decodeRes, h0, h1, fld_of_fn h2, zf_of_fn h3]; exact mk_wf rfl hwf
theorem lstat (d : BitVec 6) (l : BitVec 4) : Statement (.lstat d l) := of_word rfl rfl fun x hx hwf => by
  obtain ⟨h0, h1, h2, h3, h4, h5⟩ : fn x 25 7 = 0x3B ∧ fn x 23 2 = 2 ∧ fn x 3 6 = d.toNat ∧
      fn x 19 4 = l.toNat ∧ fn x 9 10 = 0 ∧ fn x 0 3 = 0 := by
    have := d.isLt; have := l.isLt
    refine ⟨?_, ?_, ?_, ?_, ?_, ?_⟩ <;>
    (simp only [fn, hx, toNat_wordOf, fieldSum_cons, fieldSum_nil] <;> omega)
  show decodeSq x = _
  rw [decodeSq, h0, decodeRes, h0, h1, fld_of_fn h2, fld_of_fn h3, zf_of_fn h4, zf_of_fn h5]; exact mk_wf rfl hwf
theorem lwait (l : BitVec 4) : Statement (.lwait l) := of_word rfl rfl fun x hx hwf => by
  obtain ⟨h0, h1, h2, h3⟩ : fn x 25 7 = 0x3B ∧ fn x 23 2 = 3 ∧ fn x 19 4 = l.toNat ∧ fn x 0 19 = 0
      := by
    have := l.isLt
    refine ⟨?_, ?_, ?_, ?_⟩ <;>
    (simp only [fn, hx, toNat_wordOf, fieldSum_cons, fieldSum_nil] <;> omega)
  show decodeSq x = _
  rw [decodeSq, h0, decodeRes, h0, h1, fld_of_fn h2, zf_of_fn h3]; exact mk_wf rfl hwf
theorem hwait (h : BitVec 8) (st : BitVec 2) : Statement (.hwait h st) := of_word rfl rfl fun x hx hwf => by
  obtain ⟨h0, h1, h2, h3, h4⟩ : fn x 25 7 = 0x3C ∧ fn x 23 2 = 0 ∧ fn x 15 8 = h.toNat ∧
      fn x 13 2 = st.toNat ∧ fn x 0 13 = 0 := by
    have := h.isLt; have := st.isLt
    refine ⟨?_, ?_, ?_, ?_, ?_⟩ <;>
    (simp only [fn, hx, toNat_wordOf, fieldSum_cons, fieldSum_nil] <;> omega)
  show decodeSq x = _
  rw [decodeSq, h0, decodeRes, h0, h1, fld_of_fn h2, fld_of_fn h3, zf_of_fn h4]; exact mk_wf rfl hwf
theorem hset (h : BitVec 8) (st : BitVec 2) : Statement (.hset h st) := of_word rfl rfl fun x hx hwf => by
  obtain ⟨h0, h1, h2, h3, h4⟩ : fn x 25 7 = 0x3C ∧ fn x 23 2 = 1 ∧ fn x 15 8 = h.toNat ∧
      fn x 13 2 = st.toNat ∧ fn x 0 13 = 0 := by
    have := h.isLt; have := st.isLt
    refine ⟨?_, ?_, ?_, ?_, ?_⟩ <;>
    (simp only [fn, hx, toNat_wordOf, fieldSum_cons, fieldSum_nil] <;> omega)
  show decodeSq x = _
  rw [decodeSq, h0, decodeRes, h0, h1, fld_of_fn h2, fld_of_fn h3, zf_of_fn h4]; exact mk_wf rfl hwf
theorem htest (pd : BitVec 4) (h : BitVec 8) (st : BitVec 2) : Statement (.htest pd h st) := of_word rfl rfl fun x hx hwf => by
  obtain ⟨h0, h1, h2, h3, h4, h5⟩ : fn x 25 7 = 0x3C ∧ fn x 23 2 = 2 ∧ fn x 9 4 = pd.toNat ∧
      fn x 15 8 = h.toNat ∧ fn x 13 2 = st.toNat ∧ fn x 0 9 = 0 := by
    have := pd.isLt; have := h.isLt; have := st.isLt
    refine ⟨?_, ?_, ?_, ?_, ?_, ?_⟩ <;>
    (simp only [fn, hx, toNat_wordOf, fieldSum_cons, fieldSum_nil] <;> omega)
  show decodeSq x = _
  rw [decodeSq, h0, decodeRes, h0, h1, fld_of_fn h2, fld_of_fn h3, fld_of_fn h4, zf_of_fn h5]; exact mk_wf rfl hwf
theorem pgreq (d a : BitVec 6) : Statement (.pgreq d a) := of_word rfl rfl fun x hx hwf => by
  obtain ⟨h0, h1, h2, h3, h4⟩ : fn x 25 7 = 0x3D ∧ fn x 23 2 = 0 ∧ fn x 17 6 = d.toNat ∧
      fn x 11 6 = a.toNat ∧ fn x 0 11 = 0 := by
    have := d.isLt; have := a.isLt
    refine ⟨?_, ?_, ?_, ?_, ?_⟩ <;>
    (simp only [fn, hx, toNat_wordOf, fieldSum_cons, fieldSum_nil] <;> omega)
  show decodeSq x = _
  rw [decodeSq, h0, decodeRes, h0, h1, fld_of_fn h2, fld_of_fn h3, zf_of_fn h4]; exact mk_wf rfl hwf
theorem pgstat (d a : BitVec 6) : Statement (.pgstat d a) := of_word rfl rfl fun x hx hwf => by
  obtain ⟨h0, h1, h2, h3, h4⟩ : fn x 25 7 = 0x3D ∧ fn x 23 2 = 1 ∧ fn x 17 6 = d.toNat ∧
      fn x 11 6 = a.toNat ∧ fn x 0 11 = 0 := by
    have := d.isLt; have := a.isLt
    refine ⟨?_, ?_, ?_, ?_, ?_⟩ <;>
    (simp only [fn, hx, toNat_wordOf, fieldSum_cons, fieldSum_nil] <;> omega)
  show decodeSq x = _
  rw [decodeSq, h0, decodeRes, h0, h1, fld_of_fn h2, fld_of_fn h3, zf_of_fn h4]; exact mk_wf rfl hwf
theorem nqpop (d a : BitVec 6) : Statement (.nqpop d a) := of_word rfl rfl fun x hx hwf => by
  obtain ⟨h0, h1, h2, h3, h4⟩ : fn x 25 7 = 0x3D ∧ fn x 23 2 = 2 ∧ fn x 17 6 = d.toNat ∧
      fn x 11 6 = a.toNat ∧ fn x 0 11 = 0 := by
    have := d.isLt; have := a.isLt
    refine ⟨?_, ?_, ?_, ?_, ?_⟩ <;>
    (simp only [fn, hx, toNat_wordOf, fieldSum_cons, fieldSum_nil] <;> omega)
  show decodeSq x = _
  rw [decodeSq, h0, decodeRes, h0, h1, fld_of_fn h2, fld_of_fn h3, zf_of_fn h4]; exact mk_wf rfl hwf
theorem mclr (md : BitVec 3) : Statement (.mclr md) := of_word rfl rfl fun x hx hwf => by
  obtain ⟨h0, h1, h2, h3, h4⟩ : fn x 25 7 = 0x3E ∧ fn x 22 3 = 0 ∧ fn x 13 3 = md.toNat ∧
      fn x 16 6 = 0 ∧ fn x 0 13 = 0 := by
    have := md.isLt
    refine ⟨?_, ?_, ?_, ?_, ?_⟩ <;>
    (simp only [fn, hx, toNat_wordOf, fieldSum_cons, fieldSum_nil] <;> omega)
  show decodeSq x = _
  rw [decodeSq, h0, decodeRes, h0, h1, fld_of_fn h2, zf_of_fn h3, zf_of_fn h4]; exact mk_wf rfl hwf
theorem mset (md : BitVec 3) : Statement (.mset md) := of_word rfl rfl fun x hx hwf => by
  obtain ⟨h0, h1, h2, h3, h4⟩ : fn x 25 7 = 0x3E ∧ fn x 22 3 = 1 ∧ fn x 13 3 = md.toNat ∧
      fn x 16 6 = 0 ∧ fn x 0 13 = 0 := by
    have := md.isLt
    refine ⟨?_, ?_, ?_, ?_, ?_⟩ <;>
    (simp only [fn, hx, toNat_wordOf, fieldSum_cons, fieldSum_nil] <;> omega)
  show decodeSq x = _
  rw [decodeSq, h0, decodeRes, h0, h1, fld_of_fn h2, zf_of_fn h3, zf_of_fn h4]; exact mk_wf rfl hwf
theorem mpop (d : BitVec 6) (ma : BitVec 3) : Statement (.mpop d ma) := of_word rfl rfl fun x hx hwf => by
  obtain ⟨h0, h1, h2, h3, h4, h5⟩ : fn x 25 7 = 0x3E ∧ fn x 22 3 = 2 ∧ fn x 16 6 = d.toNat ∧
      fn x 10 3 = ma.toNat ∧ fn x 13 3 = 0 ∧ fn x 0 10 = 0 := by
    have := d.isLt; have := ma.isLt
    refine ⟨?_, ?_, ?_, ?_, ?_, ?_⟩ <;>
    (simp only [fn, hx, toNat_wordOf, fieldSum_cons, fieldSum_nil] <;> omega)
  show decodeSq x = _
  rw [decodeSq, h0, decodeRes, h0, h1, fld_of_fn h2, fld_of_fn h3, zf_of_fn h4, zf_of_fn h5]; exact mk_wf rfl hwf
theorem mfirst (d : BitVec 6) (ma : BitVec 3) : Statement (.mfirst d ma) := of_word rfl rfl fun x hx hwf => by
  obtain ⟨h0, h1, h2, h3, h4, h5⟩ : fn x 25 7 = 0x3E ∧ fn x 22 3 = 3 ∧ fn x 16 6 = d.toNat ∧
      fn x 10 3 = ma.toNat ∧ fn x 13 3 = 0 ∧ fn x 0 10 = 0 := by
    have := d.isLt; have := ma.isLt
    refine ⟨?_, ?_, ?_, ?_, ?_, ?_⟩ <;>
    (simp only [fn, hx, toNat_wordOf, fieldSum_cons, fieldSum_nil] <;> omega)
  show decodeSq x = _
  rw [decodeSq, h0, decodeRes, h0, h1, fld_of_fn h2, fld_of_fn h3, zf_of_fn h4, zf_of_fn h5]; exact mk_wf rfl hwf
theorem mand (md ma mb : BitVec 3) : Statement (.mand md ma mb) := of_word rfl rfl fun x hx hwf => by
  obtain ⟨h0, h1, h2, h3, h4, h5, h6⟩ : fn x 25 7 = 0x3E ∧ fn x 22 3 = 4 ∧ fn x 13 3 = md.toNat ∧
      fn x 10 3 = ma.toNat ∧ fn x 7 3 = mb.toNat ∧ fn x 16 6 = 0 ∧ fn x 0 7 = 0 := by
    have := md.isLt; have := ma.isLt; have := mb.isLt
    refine ⟨?_, ?_, ?_, ?_, ?_, ?_, ?_⟩ <;>
    (simp only [fn, hx, toNat_wordOf, fieldSum_cons, fieldSum_nil] <;> omega)
  show decodeSq x = _
  rw [decodeSq, h0, decodeRes, h0, h1, fld_of_fn h2, fld_of_fn h3, fld_of_fn h4, zf_of_fn h5, zf_of_fn h6]; exact mk_wf rfl hwf
theorem cstart (a : BitVec 6) : Statement (.cstart a) := of_word rfl rfl fun x hx hwf => by
  obtain ⟨h0, h1, h2, h3⟩ : fn x 25 7 = 0x3F ∧ fn x 23 2 = 0 ∧ fn x 17 6 = a.toNat ∧ fn x 0 17 = 0
      := by
    have := a.isLt
    refine ⟨?_, ?_, ?_, ?_⟩ <;>
    (simp only [fn, hx, toNat_wordOf, fieldSum_cons, fieldSum_nil] <;> omega)
  show decodeSq x = _
  rw [decodeSq, h0, decodeRes, h0, h1, fld_of_fn h2, zf_of_fn h3]; exact mk_wf rfl hwf
theorem cend : Statement (.cend) := of_word rfl rfl fun x hx hwf => by
  obtain ⟨h0, h1, h2⟩ : fn x 25 7 = 0x3F ∧ fn x 23 2 = 1 ∧ fn x 0 23 = 0 := by
    refine ⟨?_, ?_, ?_⟩ <;>
    (simp only [fn, hx, toNat_wordOf, fieldSum_cons, fieldSum_nil] <;> omega)
  show decodeSq x = _
  rw [decodeSq, h0, decodeRes, h0, h1, zf_of_fn h2]; exact mk_wf rfl hwf
theorem cwait (a : BitVec 6) : Statement (.cwait a) := of_word rfl rfl fun x hx hwf => by
  obtain ⟨h0, h1, h2, h3⟩ : fn x 25 7 = 0x3F ∧ fn x 23 2 = 2 ∧ fn x 17 6 = a.toNat ∧ fn x 0 17 = 0
      := by
    have := a.isLt
    refine ⟨?_, ?_, ?_, ?_⟩ <;>
    (simp only [fn, hx, toNat_wordOf, fieldSum_cons, fieldSum_nil] <;> omega)
  show decodeSq x = _
  rw [decodeSq, h0, decodeRes, h0, h1, fld_of_fn h2, zf_of_fn h3]; exact mk_wf rfl hwf
theorem vadd (col : BitVec 1) (w : VeOps) : Statement (.vadd col w) := of_word rfl rfl fun x hx hwf => by
  exact veAlu_round (by decide) (vadd_ne_zero hwf) hx (fun h6 h3 h1 hv => by
    rw [decodeVeAlu, h6, h1, hv]; exact mk_wf rfl hwf)
theorem vsub (col : BitVec 1) (w : VeOps) : Statement (.vsub col w) := of_word rfl rfl fun x hx hwf => by
  exact veAlu_round (by decide) (encVe_ne_zero (by omega) (by decide) (.inr (by decide))) hx (fun h6 h3 h1 hv => by
    rw [decodeVeAlu, h6, h1, hv]; exact mk_wf rfl hwf)
theorem vmul (col : BitVec 1) (w : VeOps) : Statement (.vmul col w) := of_word rfl rfl fun x hx hwf => by
  exact veAlu_round (by decide) (encVe_ne_zero (by omega) (by decide) (.inr (by decide))) hx (fun h6 h3 h1 hv => by
    rw [decodeVeAlu, h6, h1, hv]; exact mk_wf rfl hwf)
theorem vfma (col : BitVec 1) (w : VeOps) : Statement (.vfma col w) := of_word rfl rfl fun x hx hwf => by
  exact veAlu_round (by decide) (encVe_ne_zero (by omega) (by decide) (.inr (by decide))) hx (fun h6 h3 h1 hv => by
    rw [decodeVeAlu, h6, h1, hv]; exact mk_wf rfl hwf)
theorem vmin (col : BitVec 1) (w : VeOps) : Statement (.vmin col w) := of_word rfl rfl fun x hx hwf => by
  exact veAlu_round (by decide) (encVe_ne_zero (by omega) (by decide) (.inr (by decide))) hx (fun h6 h3 h1 hv => by
    rw [decodeVeAlu, h6, h1, hv]; exact mk_wf rfl hwf)
theorem vmax (col : BitVec 1) (w : VeOps) : Statement (.vmax col w) := of_word rfl rfl fun x hx hwf => by
  exact veAlu_round (by decide) (encVe_ne_zero (by omega) (by decide) (.inr (by decide))) hx (fun h6 h3 h1 hv => by
    rw [decodeVeAlu, h6, h1, hv]; exact mk_wf rfl hwf)
theorem vabs (col : BitVec 1) (w : VeOps) : Statement (.vabs col w) := of_word rfl rfl fun x hx hwf => by
  exact veAlu_round (by decide) (encVe_ne_zero (by omega) (by decide) (.inr (by decide))) hx (fun h6 h3 h1 hv => by
    rw [decodeVeAlu, h6, h1, hv]; exact mk_wf rfl hwf)
theorem vneg (col : BitVec 1) (w : VeOps) : Statement (.vneg col w) := of_word rfl rfl fun x hx hwf => by
  exact veAlu_round (by decide) (encVe_ne_zero (by omega) (by decide) (.inr (by decide))) hx (fun h6 h3 h1 hv => by
    rw [decodeVeAlu, h6, h1, hv]; exact mk_wf rfl hwf)
theorem vand (col : BitVec 1) (w : VeOps) : Statement (.vand col w) := of_word rfl rfl fun x hx hwf => by
  exact veAlu_round (by decide) (encVe_ne_zero (by omega) (by decide) (.inr (by decide))) hx (fun h6 h3 h1 hv => by
    rw [decodeVeAlu, h6, h1, hv]; exact mk_wf rfl hwf)
theorem vor (col : BitVec 1) (w : VeOps) : Statement (.vor col w) := of_word rfl rfl fun x hx hwf => by
  exact veAlu_round (by decide) (encVe_ne_zero (by omega) (by decide) (.inr (by decide))) hx (fun h6 h3 h1 hv => by
    rw [decodeVeAlu, h6, h1, hv]; exact mk_wf rfl hwf)
theorem vxor (col : BitVec 1) (w : VeOps) : Statement (.vxor col w) := of_word rfl rfl fun x hx hwf => by
  exact veAlu_round (by decide) (encVe_ne_zero (by omega) (by decide) (.inr (by decide))) hx (fun h6 h3 h1 hv => by
    rw [decodeVeAlu, h6, h1, hv]; exact mk_wf rfl hwf)
theorem vshl (col : BitVec 1) (w : VeOps) : Statement (.vshl col w) := of_word rfl rfl fun x hx hwf => by
  exact veAlu_round (by decide) (encVe_ne_zero (by omega) (by decide) (.inr (by decide))) hx (fun h6 h3 h1 hv => by
    rw [decodeVeAlu, h6, h1, hv]; exact mk_wf rfl hwf)
theorem vshr (col : BitVec 1) (w : VeOps) : Statement (.vshr col w) := of_word rfl rfl fun x hx hwf => by
  exact veAlu_round (by decide) (encVe_ne_zero (by omega) (by decide) (.inr (by decide))) hx (fun h6 h3 h1 hv => by
    rw [decodeVeAlu, h6, h1, hv]; exact mk_wf rfl hwf)
theorem vsar (col : BitVec 1) (w : VeOps) : Statement (.vsar col w) := of_word rfl rfl fun x hx hwf => by
  exact veAlu_round (by decide) (encVe_ne_zero (by omega) (by decide) (.inr (by decide))) hx (fun h6 h3 h1 hv => by
    rw [decodeVeAlu, h6, h1, hv]; exact mk_wf rfl hwf)
theorem vsel (col : BitVec 1) (w : VeOps) : Statement (.vsel col w) := of_word rfl rfl fun x hx hwf => by
  exact veAlu_round (by decide) (encVe_ne_zero (by omega) (by decide) (.inr (by decide))) hx (fun h6 h3 h1 hv => by
    rw [decodeVeAlu, h6, h1, hv]; exact mk_wf rfl hwf)
theorem vcmp (col : BitVec 1) (cc : Cond) (w : VeOps) : Statement (.vcmp col cc w) := of_word rfl rfl fun x hx hwf => by
  cases cc <;> exact veAlu_round (by decide) (encVe_ne_zero (by omega) (by decide) (.inr (by decide))) hx (fun h6 h3 h1 hv => by
    rw [decodeVeAlu, h6, h1, hv]; rw [h3]; exact mk_wf rfl hwf)
theorem vaddk (col : BitVec 1) (w : VeOps) : Statement (.vaddk col w) := of_word rfl rfl fun x hx hwf => by
  exact veAlu_round (by decide) (encVe_ne_zero (by omega) (by decide) (.inr (by decide))) hx (fun h6 h3 h1 hv => by
    rw [decodeVeAlu, h6, h1, hv]; exact mk_wf rfl hwf)
theorem vmulk (col : BitVec 1) (w : VeOps) : Statement (.vmulk col w) := of_word rfl rfl fun x hx hwf => by
  exact veAlu_round (by decide) (encVe_ne_zero (by omega) (by decide) (.inr (by decide))) hx (fun h6 h3 h1 hv => by
    rw [decodeVeAlu, h6, h1, hv]; exact mk_wf rfl hwf)
theorem vfmak (col : BitVec 1) (w : VeOps) : Statement (.vfmak col w) := of_word rfl rfl fun x hx hwf => by
  exact veAlu_round (by decide) (encVe_ne_zero (by omega) (by decide) (.inr (by decide))) hx (fun h6 h3 h1 hv => by
    rw [decodeVeAlu, h6, h1, hv]; exact mk_wf rfl hwf)
theorem vmink (col : BitVec 1) (w : VeOps) : Statement (.vmink col w) := of_word rfl rfl fun x hx hwf => by
  exact veAlu_round (by decide) (encVe_ne_zero (by omega) (by decide) (.inr (by decide))) hx (fun h6 h3 h1 hv => by
    rw [decodeVeAlu, h6, h1, hv]; exact mk_wf rfl hwf)
theorem vmaxk (col : BitVec 1) (w : VeOps) : Statement (.vmaxk col w) := of_word rfl rfl fun x hx hwf => by
  exact veAlu_round (by decide) (encVe_ne_zero (by omega) (by decide) (.inr (by decide))) hx (fun h6 h3 h1 hv => by
    rw [decodeVeAlu, h6, h1, hv]; exact mk_wf rfl hwf)
theorem vfill (col : BitVec 1) (w : VeOps) : Statement (.vfill col w) := of_word rfl rfl fun x hx hwf => by
  exact veAlu_round (by decide) (encVe_ne_zero (by omega) (by decide) (.inr (by decide))) hx (fun h6 h3 h1 hv => by
    rw [decodeVeAlu, h6, h1, hv]; exact mk_wf rfl hwf)
theorem vsfuExp (w : VeOps) : Statement (.vsfuExp w) := of_word rfl rfl fun x hx hwf => by
  exact ve_round (by decide) (by decide) (encVe_ne_zero (by decide) (by decide) (.inl (by decide))) hx (fun hne h29 => by rw [decodeVe_of hne, h29]) (fun h6 hv => by
    rw [decodeVeSfu, h6, hv]; exact mk_wf rfl hwf)
theorem vsfuExp2 (w : VeOps) : Statement (.vsfuExp2 w) := of_word rfl rfl fun x hx hwf => by
  exact ve_round (by decide) (by decide) (encVe_ne_zero (by decide) (by decide) (.inl (by decide))) hx (fun hne h29 => by rw [decodeVe_of hne, h29]) (fun h6 hv => by
    rw [decodeVeSfu, h6, hv]; exact mk_wf rfl hwf)
theorem vsfuLog (w : VeOps) : Statement (.vsfuLog w) := of_word rfl rfl fun x hx hwf => by
  exact ve_round (by decide) (by decide) (encVe_ne_zero (by decide) (by decide) (.inl (by decide))) hx (fun hne h29 => by rw [decodeVe_of hne, h29]) (fun h6 hv => by
    rw [decodeVeSfu, h6, hv]; exact mk_wf rfl hwf)
theorem vsfuLog2 (w : VeOps) : Statement (.vsfuLog2 w) := of_word rfl rfl fun x hx hwf => by
  exact ve_round (by decide) (by decide) (encVe_ne_zero (by decide) (by decide) (.inl (by decide))) hx (fun hne h29 => by rw [decodeVe_of hne, h29]) (fun h6 hv => by
    rw [decodeVeSfu, h6, hv]; exact mk_wf rfl hwf)
theorem vsfuRcp (w : VeOps) : Statement (.vsfuRcp w) := of_word rfl rfl fun x hx hwf => by
  exact ve_round (by decide) (by decide) (encVe_ne_zero (by decide) (by decide) (.inl (by decide))) hx (fun hne h29 => by rw [decodeVe_of hne, h29]) (fun h6 hv => by
    rw [decodeVeSfu, h6, hv]; exact mk_wf rfl hwf)
theorem vsfuRsqrt (w : VeOps) : Statement (.vsfuRsqrt w) := of_word rfl rfl fun x hx hwf => by
  exact ve_round (by decide) (by decide) (encVe_ne_zero (by decide) (by decide) (.inl (by decide))) hx (fun hne h29 => by rw [decodeVe_of hne, h29]) (fun h6 hv => by
    rw [decodeVeSfu, h6, hv]; exact mk_wf rfl hwf)
theorem vsfuSqrt (w : VeOps) : Statement (.vsfuSqrt w) := of_word rfl rfl fun x hx hwf => by
  exact ve_round (by decide) (by decide) (encVe_ne_zero (by decide) (by decide) (.inl (by decide))) hx (fun hne h29 => by rw [decodeVe_of hne, h29]) (fun h6 hv => by
    rw [decodeVeSfu, h6, hv]; exact mk_wf rfl hwf)
theorem vsfuTanh (w : VeOps) : Statement (.vsfuTanh w) := of_word rfl rfl fun x hx hwf => by
  exact ve_round (by decide) (by decide) (encVe_ne_zero (by decide) (by decide) (.inl (by decide))) hx (fun hne h29 => by rw [decodeVe_of hne, h29]) (fun h6 hv => by
    rw [decodeVeSfu, h6, hv]; exact mk_wf rfl hwf)
theorem vsfuSigm (w : VeOps) : Statement (.vsfuSigm w) := of_word rfl rfl fun x hx hwf => by
  exact ve_round (by decide) (by decide) (encVe_ne_zero (by decide) (by decide) (.inl (by decide))) hx (fun hne h29 => by rw [decodeVe_of hne, h29]) (fun h6 hv => by
    rw [decodeVeSfu, h6, hv]; exact mk_wf rfl hwf)
theorem vsfuSin (w : VeOps) : Statement (.vsfuSin w) := of_word rfl rfl fun x hx hwf => by
  exact ve_round (by decide) (by decide) (encVe_ne_zero (by decide) (by decide) (.inl (by decide))) hx (fun hne h29 => by rw [decodeVe_of hne, h29]) (fun h6 hv => by
    rw [decodeVeSfu, h6, hv]; exact mk_wf rfl hwf)
theorem vsfuCos (w : VeOps) : Statement (.vsfuCos w) := of_word rfl rfl fun x hx hwf => by
  exact ve_round (by decide) (by decide) (encVe_ne_zero (by decide) (by decide) (.inl (by decide))) hx (fun hne h29 => by rw [decodeVe_of hne, h29]) (fun h6 hv => by
    rw [decodeVeSfu, h6, hv]; exact mk_wf rfl hwf)
theorem vsfuErf (w : VeOps) : Statement (.vsfuErf w) := of_word rfl rfl fun x hx hwf => by
  exact ve_round (by decide) (by decide) (encVe_ne_zero (by decide) (by decide) (.inl (by decide))) hx (fun hne h29 => by rw [decodeVe_of hne, h29]) (fun h6 hv => by
    rw [decodeVeSfu, h6, hv]; exact mk_wf rfl hwf)
theorem vcvt (w : VeOps) : Statement (.vcvt w) := of_word rfl rfl fun x hx hwf => by
  exact ve_round (by decide) (by decide) (encVe_ne_zero (by decide) (by decide) (.inl (by decide))) hx (fun hne h29 => by rw [decodeVe_of hne, h29]) (fun h6 hv => by
    rw [decodeVeCvt, h6, hv]; exact mk_wf rfl hwf)
theorem vqnt (w : VeOps) : Statement (.vqnt w) := of_word rfl rfl fun x hx hwf => by
  exact ve_round (by decide) (by decide) (encVe_ne_zero (by decide) (by decide) (.inl (by decide))) hx (fun hne h29 => by rw [decodeVe_of hne, h29]) (fun h6 hv => by
    rw [decodeVeCvt, h6, hv]; exact mk_wf rfl hwf)
theorem vdqnt (w : VeOps) : Statement (.vdqnt w) := of_word rfl rfl fun x hx hwf => by
  exact ve_round (by decide) (by decide) (encVe_ne_zero (by decide) (by decide) (.inl (by decide))) hx (fun hne h29 => by rw [decodeVe_of hne, h29]) (fun h6 hv => by
    rw [decodeVeCvt, h6, hv]; exact mk_wf rfl hwf)
theorem vsrnd (w : VeOps) : Statement (.vsrnd w) := of_word rfl rfl fun x hx hwf => by
  exact ve_round (by decide) (by decide) (encVe_ne_zero (by decide) (by decide) (.inl (by decide))) hx (fun hne h29 => by rw [decodeVe_of hne, h29]) (fun h6 hv => by
    rw [decodeVeCvt, h6, hv]; exact mk_wf rfl hwf)
theorem vrsum (w : VeOps) : Statement (.vrsum w) := of_word rfl rfl fun x hx hwf => by
  exact ve_round (by decide) (by decide) (encVe_ne_zero (by decide) (by decide) (.inl (by decide))) hx (fun hne h29 => by rw [decodeVe_of hne, h29]) (fun h6 hv => by
    rw [decodeVeRed, h6, hv]; exact mk_wf rfl hwf)
theorem vrmax (w : VeOps) : Statement (.vrmax w) := of_word rfl rfl fun x hx hwf => by
  exact ve_round (by decide) (by decide) (encVe_ne_zero (by decide) (by decide) (.inl (by decide))) hx (fun hne h29 => by rw [decodeVe_of hne, h29]) (fun h6 hv => by
    rw [decodeVeRed, h6, hv]; exact mk_wf rfl hwf)
theorem vrmin (w : VeOps) : Statement (.vrmin w) := of_word rfl rfl fun x hx hwf => by
  exact ve_round (by decide) (by decide) (encVe_ne_zero (by decide) (by decide) (.inl (by decide))) hx (fun hne h29 => by rw [decodeVe_of hne, h29]) (fun h6 hv => by
    rw [decodeVeRed, h6, hv]; exact mk_wf rfl hwf)
theorem vramax (w : VeOps) : Statement (.vramax w) := of_word rfl rfl fun x hx hwf => by
  exact ve_round (by decide) (by decide) (encVe_ne_zero (by decide) (by decide) (.inl (by decide))) hx (fun hne h29 => by rw [decodeVe_of hne, h29]) (fun h6 hv => by
    rw [decodeVeRed, h6, hv]; exact mk_wf rfl hwf)
theorem vrssq (w : VeOps) : Statement (.vrssq w) := of_word rfl rfl fun x hx hwf => by
  exact ve_round (by decide) (by decide) (encVe_ne_zero (by decide) (by decide) (.inl (by decide))) hx (fun hne h29 => by rw [decodeVe_of hne, h29]) (fun h6 hv => by
    rw [decodeVeRed, h6, hv]; exact mk_wf rfl hwf)
theorem vargmx (w : VeOps) : Statement (.vargmx w) := of_word rfl rfl fun x hx hwf => by
  exact ve_round (by decide) (by decide) (encVe_ne_zero (by decide) (by decide) (.inl (by decide))) hx (fun hne h29 => by rw [decodeVe_of hne, h29]) (fun h6 hv => by
    rw [decodeVeRed, h6, hv]; exact mk_wf rfl hwf)
theorem vscan (w : VeOps) : Statement (.vscan w) := of_word rfl rfl fun x hx hwf => by
  exact ve_round (by decide) (by decide) (encVe_ne_zero (by decide) (by decide) (.inl (by decide))) hx (fun hne h29 => by rw [decodeVe_of hne, h29]) (fun h6 hv => by
    rw [decodeVeRed, h6, hv]; exact mk_wf rfl hwf)
theorem vmov (w : VeOps) : Statement (.vmov w) := of_word rfl rfl fun x hx hwf => by
  exact ve_round (by decide) (by decide) (encVe_ne_zero (by decide) (by decide) (.inl (by decide))) hx (fun hne h29 => by rw [decodeVe_of hne, h29]) (fun h6 hv => by
    rw [decodeVeMove, h6, hv]; exact mk_wf rfl hwf)
theorem viota (w : VeOps) : Statement (.viota w) := of_word rfl rfl fun x hx hwf => by
  exact ve_round (by decide) (by decide) (encVe_ne_zero (by decide) (by decide) (.inl (by decide))) hx (fun hne h29 => by rw [decodeVe_of hne, h29]) (fun h6 hv => by
    rw [decodeVeMove, h6, hv]; exact mk_wf rfl hwf)
theorem vgath (w : VeOps) : Statement (.vgath w) := of_word rfl rfl fun x hx hwf => by
  exact ve_round (by decide) (by decide) (encVe_ne_zero (by decide) (by decide) (.inl (by decide))) hx (fun hne h29 => by rw [decodeVe_of hne, h29]) (fun h6 hv => by
    rw [decodeVeMove, h6, hv]; exact mk_wf rfl hwf)
theorem vscat (w : VeOps) : Statement (.vscat w) := of_word rfl rfl fun x hx hwf => by
  exact ve_round (by decide) (by decide) (encVe_ne_zero (by decide) (by decide) (.inl (by decide))) hx (fun hne h29 => by rw [decodeVe_of hne, h29]) (fun h6 hv => by
    rw [decodeVeMove, h6, hv]; exact mk_wf rfl hwf)
theorem vbcast (w : VeOps) : Statement (.vbcast w) := of_word rfl rfl fun x hx hwf => by
  exact ve_round (by decide) (by decide) (encVe_ne_zero (by decide) (by decide) (.inl (by decide))) hx (fun hne h29 => by rw [decodeVe_of hne, h29]) (fun h6 hv => by
    rw [decodeVeMove, h6, hv]; exact mk_wf rfl hwf)
theorem vrev (w : VeOps) : Statement (.vrev w) := of_word rfl rfl fun x hx hwf => by
  exact ve_round (by decide) (by decide) (encVe_ne_zero (by decide) (by decide) (.inl (by decide))) hx (fun hne h29 => by rw [decodeVe_of hne, h29]) (fun h6 hv => by
    rw [decodeVeMove, h6, hv]; exact mk_wf rfl hwf)
theorem vilv (w : VeOps) : Statement (.vilv w) := of_word rfl rfl fun x hx hwf => by
  exact ve_round (by decide) (by decide) (encVe_ne_zero (by decide) (by decide) (.inl (by decide))) hx (fun hne h29 => by rw [decodeVe_of hne, h29]) (fun h6 hv => by
    rw [decodeVeMove, h6, hv]; exact mk_wf rfl hwf)
theorem vdilv (w : VeOps) : Statement (.vdilv w) := of_word rfl rfl fun x hx hwf => by
  exact ve_round (by decide) (by decide) (encVe_ne_zero (by decide) (by decide) (.inl (by decide))) hx (fun hne h29 => by rw [decodeVe_of hne, h29]) (fun h6 hv => by
    rw [decodeVeMove, h6, hv]; exact mk_wf rfl hwf)
theorem vcomb (w : VeOps) : Statement (.vcomb w) := of_word rfl rfl fun x hx hwf => by
  exact ve_round (by decide) (by decide) (encVe_ne_zero (by decide) (by decide) (.inl (by decide))) hx (fun hne h29 => by rw [decodeVe_of hne, h29]) (fun h6 hv => by
    rw [decodeVeMove, h6, hv]; exact mk_wf rfl hwf)
theorem vgen (w : VeOps) : Statement (.vgen w) := of_word rfl rfl fun x hx hwf => by
  exact ve_round (by decide) (by decide) (encVe_ne_zero (by decide) (by decide) (.inl (by decide))) hx (fun hne h29 => by rw [decodeVe_of hne, h29]) (fun h6 hv => by
    rw [decodeVeMove, h6, hv]; exact mk_wf rfl hwf)
theorem shapeN (imm : BitVec 16) (dly : BitVec 5) : Statement (.shapeN imm dly) := of_word rfl rfl fun x hx hwf => by
  obtain ⟨h0, h1, h2, h3, h4⟩ : fn x 29 3 = 6 ∧ fn x 23 6 = 0 ∧ fn x 7 16 = imm.toNat ∧
      fn x 2 5 = dly.toNat ∧ fn x 0 2 = 0 := by
    have := imm.isLt; have := dly.isLt
    refine ⟨?_, ?_, ?_, ?_, ?_⟩ <;>
    (simp only [fn, hx, encCtl, toNat_wordOf, fieldSum_cons, fieldSum_nil] <;> omega)
  show decodeVe x = _
  have hne : x ≠ 0 := ne_zero_of_fn (lo := 29) (n := 3) (by rw [h0]; decide)
  rw [decodeVe_of hne, h0, decodeVeCtl, h1, fld_of_fn h2, fld_of_fn h3, zf_of_fn h4]; exact mk_wf rfl hwf
theorem shapeM (imm : BitVec 16) (dly : BitVec 5) : Statement (.shapeM imm dly) := of_word rfl rfl fun x hx hwf => by
  obtain ⟨h0, h1, h2, h3, h4⟩ : fn x 29 3 = 6 ∧ fn x 23 6 = 1 ∧ fn x 7 16 = imm.toNat ∧
      fn x 2 5 = dly.toNat ∧ fn x 0 2 = 0 := by
    have := imm.isLt; have := dly.isLt
    refine ⟨?_, ?_, ?_, ?_, ?_⟩ <;>
    (simp only [fn, hx, encCtl, toNat_wordOf, fieldSum_cons, fieldSum_nil] <;> omega)
  show decodeVe x = _
  have hne : x ≠ 0 := ne_zero_of_fn (lo := 29) (n := 3) (by rw [h0]; decide)
  rw [decodeVe_of hne, h0, decodeVeCtl, h1, fld_of_fn h2, fld_of_fn h3, zf_of_fn h4]; exact mk_wf rfl hwf
theorem nest (level : BitVec 3) (len : BitVec 6) (k : BitVec 4) (dly : BitVec 5) : Statement (.nest level len k dly) := of_word rfl rfl fun x hx hwf => by
  obtain ⟨h0, h1, h2, h3, h4, h5, h6, h7⟩ : fn x 29 3 = 6 ∧ fn x 23 6 = 2 ∧ fn x 20 3 = level.toNat
      ∧ fn x 14 6 = len.toNat ∧ fn x 10 4 = k.toNat ∧ fn x 2 5 = dly.toNat ∧ fn x 0 2 = 0 ∧
      fn x 7 3 = 0 := by
    have := level.isLt; have := len.isLt; have := k.isLt; have := dly.isLt
    refine ⟨?_, ?_, ?_, ?_, ?_, ?_, ?_, ?_⟩ <;>
    (simp only [fn, hx, encCtl, toNat_wordOf, fieldSum_cons, fieldSum_nil] <;> omega)
  show decodeVe x = _
  have hne : x ≠ 0 := ne_zero_of_fn (lo := 29) (n := 3) (by rw [h0]; decide)
  rw [decodeVe_of hne, h0, decodeVeCtl, h1, fld_of_fn h2, fld_of_fn h3, fld_of_fn h4, fld_of_fn h5, zf_of_fn h6, zf_of_fn h7]; exact mk_wf rfl hwf
theorem vtok (t : BitVec 8) (dly : BitVec 5) : Statement (.vtok t dly) := of_word rfl rfl fun x hx hwf => by
  obtain ⟨h0, h1, h2, h3, h4, h5⟩ : fn x 29 3 = 6 ∧ fn x 23 6 = 3 ∧ fn x 7 8 = t.toNat ∧
      fn x 2 5 = dly.toNat ∧ fn x 0 2 = 0 ∧ fn x 15 8 = 0 := by
    have := t.isLt; have := dly.isLt
    refine ⟨?_, ?_, ?_, ?_, ?_, ?_⟩ <;>
    (simp only [fn, hx, encCtl, toNat_wordOf, fieldSum_cons, fieldSum_nil] <;> omega)
  show decodeVe x = _
  have hne : x ≠ 0 := ne_zero_of_fn (lo := 29) (n := 3) (by rw [h0]; decide)
  rw [decodeVe_of hne, h0, decodeVeCtl, h1, fld_of_fn h2, fld_of_fn h3, zf_of_fn h4, zf_of_fn h5]; exact mk_wf rfl hwf
theorem vwtok (t : BitVec 8) (dly : BitVec 5) : Statement (.vwtok t dly) := of_word rfl rfl fun x hx hwf => by
  obtain ⟨h0, h1, h2, h3, h4, h5⟩ : fn x 29 3 = 6 ∧ fn x 23 6 = 4 ∧ fn x 7 8 = t.toNat ∧
      fn x 2 5 = dly.toNat ∧ fn x 0 2 = 0 ∧ fn x 15 8 = 0 := by
    have := t.isLt; have := dly.isLt
    refine ⟨?_, ?_, ?_, ?_, ?_, ?_⟩ <;>
    (simp only [fn, hx, encCtl, toNat_wordOf, fieldSum_cons, fieldSum_nil] <;> omega)
  show decodeVe x = _
  have hne : x ≠ 0 := ne_zero_of_fn (lo := 29) (n := 3) (by rw [h0]; decide)
  rw [decodeVe_of hne, h0, decodeVeCtl, h1, fld_of_fn h2, fld_of_fn h3, zf_of_fn h4, zf_of_fn h5]; exact mk_wf rfl hwf
theorem vnop (dly : BitVec 5) : Statement (.vnop dly) := of_word rfl rfl fun x hx hwf => by
  obtain ⟨h0, h1, h2, h3, h4⟩ : fn x 29 3 = 6 ∧ fn x 23 6 = 5 ∧ fn x 2 5 = dly.toNat ∧ fn x 0 2 = 0
      ∧ fn x 7 16 = 0 := by
    have := dly.isLt
    refine ⟨?_, ?_, ?_, ?_, ?_⟩ <;>
    (simp only [fn, hx, encCtl, toNat_wordOf, fieldSum_cons, fieldSum_nil] <;> omega)
  show decodeVe x = _
  have hne : x ≠ 0 := ne_zero_of_fn (lo := 29) (n := 3) (by rw [h0]; decide)
  rw [decodeVe_of hne, h0, decodeVeCtl, h1, fld_of_fn h2, zf_of_fn h3, zf_of_fn h4]; exact mk_wf rfl hwf
theorem mnop (dly : BitVec 5) : Statement (.mnop dly) := of_word rfl rfl fun x hx hwf => by
  obtain ⟨h0, h1, h2, h3⟩ : fn x 27 5 = 0 ∧ fn x 5 5 = dly.toNat ∧ fn x 10 17 = 0 ∧ fn x 0 5 = 0 := by
    have := dly.isLt
    refine ⟨?_, ?_, ?_, ?_⟩ <;>
    (simp only [fn, hx, encMe, List.cons_append, List.nil_append, toNat_wordOf, fieldSum_cons, fieldSum_nil, BitVec.ofNat_eq_ofNat, BitVec.toNat_ofNat] <;> omega)
  have hne : x ≠ 0 := ne_zero_of_fn (lo := 5) (n := 5) (by
    have : dly ≠ 0 := by simpa [Instr.wf] using hwf
    rw [h1]; exact fun h => this (BitVec.eq_of_toNat_eq h))
  show decodeMe x = _
  rw [decodeMe, h0]
  show (if x = 0 then _ else _) = _
  rw [if_neg hne, fld_of_fn h1, zf_of_fn h2, zf_of_fn h3]; exact mk_wf rfl hwf
theorem mma (w : MmaOps) : Statement (.mma w) := of_word rfl rfl fun x hx hwf => by
  obtain ⟨h0, h1, h2, h3, h4, h5, h6, h7, h8, h9, h10, h11, h12⟩ : fn x 27 5 = 1 ∧
      fn x 25 2 = w.tile.toNat ∧ fn x 24 1 = w.aG.toNat ∧ fn x 20 4 = w.a.toNat ∧
      fn x 19 1 = w.latch.toNat ∧ fn x 18 1 = w.sgnA.toNat ∧ fn x 17 1 = w.sgnB.toNat ∧
      fn x 15 2 = w.acc.toNat ∧ fn x 11 4 = w.scl.toNat ∧ fn x 10 1 = w.scaled.toNat ∧
      fn x 5 5 = w.dly.toNat ∧ fn x 0 3 = w.fmt.toNat ∧ fn x 3 2 = 0 := by
    have := w.tile.isLt; have := w.a.isLt; have := w.latch.isLt; have := w.acc.isLt
    have := w.scl.isLt; have := w.dly.isLt; have := w.fmt.isLt; have := Bool.toNat_lt w.aG
    have := Bool.toNat_lt w.sgnA; have := Bool.toNat_lt w.sgnB; have := Bool.toNat_lt w.scaled
    refine ⟨?_, ?_, ?_, ?_, ?_, ?_, ?_, ?_, ?_, ?_, ?_, ?_, ?_⟩ <;>
    (simp only [fn, hx, encMe, List.cons_append, List.nil_append, toNat_wordOf, fieldSum_cons, fieldSum_nil] <;> omega)
  show decodeMe x = _
  rw [decodeMe, h0, fld_of_fn h1, flag_of_fn h2, fld_of_fn h3, fld_of_fn h4, flag_of_fn h5, flag_of_fn h6, fld_of_fn h7, fld_of_fn h8, flag_of_fn h9, fld_of_fn h10, fld_of_fn h11, zf_of_fn h12]; exact mk_wf rfl hwf
theorem mlatch (w : LatchOps) : Statement (.mlatch w) := of_word rfl rfl fun x hx hwf => by
  obtain ⟨h0, h1, h2, h3, h4, h5, h6, h7, h8⟩ : fn x 27 5 = 2 ∧ fn x 24 1 = w.bG.toNat ∧
      fn x 20 4 = w.b.toNat ∧ fn x 19 1 = w.latch.toNat ∧ fn x 16 3 = w.fmt.toNat ∧
      fn x 5 5 = w.dly.toNat ∧ fn x 25 2 = 0 ∧ fn x 10 6 = 0 ∧ fn x 0 5 = 0 := by
    have := w.b.isLt; have := w.latch.isLt; have := w.fmt.isLt; have := w.dly.isLt
    have := Bool.toNat_lt w.bG
    refine ⟨?_, ?_, ?_, ?_, ?_, ?_, ?_, ?_, ?_⟩ <;>
    (simp only [fn, hx, encMe, List.cons_append, List.nil_append, toNat_wordOf, fieldSum_cons, fieldSum_nil, BitVec.ofNat_eq_ofNat, BitVec.toNat_ofNat] <;> omega)
  show decodeMe x = _
  rw [decodeMe, h0, flag_of_fn h1, fld_of_fn h2, fld_of_fn h3, fld_of_fn h4, fld_of_fn h5, zf_of_fn h6, zf_of_fn h7, zf_of_fn h8]; exact mk_wf rfl hwf
theorem mswap (t t2 : BitVec 2) (dly : BitVec 5) : Statement (.mswap t t2 dly) := of_word rfl rfl fun x hx hwf => by
  obtain ⟨h0, h1, h2, h3, h4, h5⟩ : fn x 27 5 = 3 ∧ fn x 25 2 = t.toNat ∧ fn x 23 2 = t2.toNat ∧
      fn x 5 5 = dly.toNat ∧ fn x 10 13 = 0 ∧ fn x 0 5 = 0 := by
    have := t.isLt; have := t2.isLt; have := dly.isLt
    refine ⟨?_, ?_, ?_, ?_, ?_, ?_⟩ <;>
    (simp only [fn, hx, encMe, List.cons_append, List.nil_append, toNat_wordOf, fieldSum_cons, fieldSum_nil] <;> omega)
  show decodeMe x = _
  rw [decodeMe, h0, fld_of_fn h1, fld_of_fn h2, fld_of_fn h3, zf_of_fn h4, zf_of_fn h5]; exact mk_wf rfl hwf
theorem mgath (idx rows : BitVec 4) (fmt : BitVec 3) (dly : BitVec 5) : Statement (.mgath idx rows fmt dly) := of_word rfl rfl fun x hx hwf => by
  obtain ⟨h0, h1, h2, h3, h4, h5, h6, h7⟩ : fn x 27 5 = 4 ∧ fn x 20 4 = idx.toNat ∧
      fn x 16 4 = rows.toNat ∧ fn x 13 3 = fmt.toNat ∧ fn x 5 5 = dly.toNat ∧ fn x 24 3 = 0 ∧
      fn x 10 3 = 0 ∧ fn x 0 5 = 0 := by
    have := idx.isLt; have := rows.isLt; have := fmt.isLt; have := dly.isLt
    refine ⟨?_, ?_, ?_, ?_, ?_, ?_, ?_, ?_⟩ <;>
    (simp only [fn, hx, encMe, List.cons_append, List.nil_append, toNat_wordOf, fieldSum_cons, fieldSum_nil, BitVec.ofNat_eq_ofNat, BitVec.toNat_ofNat] <;> omega)
  show decodeMe x = _
  rw [decodeMe, h0, fld_of_fn h1, fld_of_fn h2, fld_of_fn h3, fld_of_fn h4, zf_of_fn h5, zf_of_fn h6, zf_of_fn h7]; exact mk_wf rfl hwf
theorem mzero (t : BitVec 2) (dly : BitVec 5) : Statement (.mzero t dly) := of_word rfl rfl fun x hx hwf => by
  obtain ⟨h0, h1, h2, h3, h4⟩ : fn x 27 5 = 5 ∧ fn x 25 2 = t.toNat ∧ fn x 5 5 = dly.toNat ∧
      fn x 10 15 = 0 ∧ fn x 0 5 = 0 := by
    have := t.isLt; have := dly.isLt
    refine ⟨?_, ?_, ?_, ?_, ?_⟩ <;>
    (simp only [fn, hx, encMe, List.cons_append, List.nil_append, toNat_wordOf, fieldSum_cons, fieldSum_nil] <;> omega)
  show decodeMe x = _
  rw [decodeMe, h0, fld_of_fn h1, fld_of_fn h2, zf_of_fn h3, zf_of_fn h4]; exact mk_wf rfl hwf
theorem mdrain (t : BitVec 2) (d dfmt : BitVec 4) (rnd : BitVec 2) (sat : Bool) (dly : BitVec 5) : Statement (.mdrain t d dfmt rnd sat dly) := of_word rfl rfl fun x hx hwf => by
  obtain ⟨h0, h1, h2, h3, h4, h5, h6, h7, h8⟩ : fn x 27 5 = 6 ∧ fn x 25 2 = t.toNat ∧
      fn x 21 4 = d.toNat ∧ fn x 17 4 = dfmt.toNat ∧ fn x 15 2 = rnd.toNat ∧ fn x 14 1 = sat.toNat ∧
      fn x 5 5 = dly.toNat ∧ fn x 10 4 = 0 ∧ fn x 0 5 = 0 := by
    have := t.isLt; have := d.isLt; have := dfmt.isLt; have := rnd.isLt
    have := Bool.toNat_lt sat; have := dly.isLt
    refine ⟨?_, ?_, ?_, ?_, ?_, ?_, ?_, ?_, ?_⟩ <;>
    (simp only [fn, hx, encMe, List.cons_append, List.nil_append, toNat_wordOf, fieldSum_cons, fieldSum_nil] <;> omega)
  show decodeMe x = _
  rw [decodeMe, h0, fld_of_fn h1, fld_of_fn h2, fld_of_fn h3, fld_of_fn h4, flag_of_fn h5, fld_of_fn h6, zf_of_fn h7, zf_of_fn h8]; exact mk_wf rfl hwf
theorem mdrainrq (t : BitVec 2) (d q : BitVec 4) (sgnO : Bool) (dly : BitVec 5) : Statement (.mdrainrq t d q sgnO dly) := of_word rfl rfl fun x hx hwf => by
  obtain ⟨h0, h1, h2, h3, h4, h5, h6, h7⟩ : fn x 27 5 = 7 ∧ fn x 25 2 = t.toNat ∧
      fn x 21 4 = d.toNat ∧ fn x 17 4 = q.toNat ∧ fn x 16 1 = sgnO.toNat ∧ fn x 5 5 = dly.toNat ∧
      fn x 10 6 = 0 ∧ fn x 0 5 = 0 := by
    have := t.isLt; have := d.isLt; have := q.isLt; have := Bool.toNat_lt sgnO
    have := dly.isLt
    refine ⟨?_, ?_, ?_, ?_, ?_, ?_, ?_, ?_⟩ <;>
    (simp only [fn, hx, encMe, List.cons_append, List.nil_append, toNat_wordOf, fieldSum_cons, fieldSum_nil] <;> omega)
  show decodeMe x = _
  rw [decodeMe, h0, fld_of_fn h1, fld_of_fn h2, fld_of_fn h3, flag_of_fn h4, fld_of_fn h5, zf_of_fn h6, zf_of_fn h7]; exact mk_wf rfl hwf
theorem mrsum (t : BitVec 2) (s : BitVec 4) (dly : BitVec 5) : Statement (.mrsum t s dly) := of_word rfl rfl fun x hx hwf => by
  obtain ⟨h0, h1, h2, h3, h4, h5⟩ : fn x 27 5 = 8 ∧ fn x 25 2 = t.toNat ∧ fn x 21 4 = s.toNat ∧
      fn x 5 5 = dly.toNat ∧ fn x 10 11 = 0 ∧ fn x 0 5 = 0 := by
    have := t.isLt; have := s.isLt; have := dly.isLt
    refine ⟨?_, ?_, ?_, ?_, ?_, ?_⟩ <;>
    (simp only [fn, hx, encMe, List.cons_append, List.nil_append, toNat_wordOf, fieldSum_cons, fieldSum_nil] <;> omega)
  show decodeMe x = _
  rw [decodeMe, h0, fld_of_fn h1, fld_of_fn h2, fld_of_fn h3, zf_of_fn h4, zf_of_fn h5]; exact mk_wf rfl hwf
theorem mcsum (t : BitVec 2) (s : BitVec 4) (dly : BitVec 5) : Statement (.mcsum t s dly) := of_word rfl rfl fun x hx hwf => by
  obtain ⟨h0, h1, h2, h3, h4, h5⟩ : fn x 27 5 = 9 ∧ fn x 25 2 = t.toNat ∧ fn x 21 4 = s.toNat ∧
      fn x 5 5 = dly.toNat ∧ fn x 10 11 = 0 ∧ fn x 0 5 = 0 := by
    have := t.isLt; have := s.isLt; have := dly.isLt
    refine ⟨?_, ?_, ?_, ?_, ?_, ?_⟩ <;>
    (simp only [fn, hx, encMe, List.cons_append, List.nil_append, toNat_wordOf, fieldSum_cons, fieldSum_nil] <;> omega)
  show decodeMe x = _
  rw [decodeMe, h0, fld_of_fn h1, fld_of_fn h2, fld_of_fn h3, zf_of_fn h4, zf_of_fn h5]; exact mk_wf rfl hwf
theorem mwscl (s : BitVec 4) (w : BitVec 1) (dly : BitVec 5) : Statement (.mwscl s w dly) := of_word rfl rfl fun x hx hwf => by
  obtain ⟨h0, h1, h2, h3, h4, h5, h6⟩ : fn x 27 5 = 10 ∧ fn x 21 4 = s.toNat ∧ fn x 20 1 = w.toNat ∧
      fn x 5 5 = dly.toNat ∧ fn x 25 2 = 0 ∧ fn x 10 10 = 0 ∧ fn x 0 5 = 0 := by
    have := s.isLt; have := w.isLt; have := dly.isLt
    refine ⟨?_, ?_, ?_, ?_, ?_, ?_, ?_⟩ <;>
    (simp only [fn, hx, encMe, List.cons_append, List.nil_append, toNat_wordOf, fieldSum_cons, fieldSum_nil, BitVec.ofNat_eq_ofNat, BitVec.toNat_ofNat] <;> omega)
  show decodeMe x = _
  rw [decodeMe, h0, fld_of_fn h1, fld_of_fn h2, fld_of_fn h3, zf_of_fn h4, zf_of_fn h5, zf_of_fn h6]; exact mk_wf rfl hwf
theorem mtok (t : BitVec 8) (dly : BitVec 5) : Statement (.mtok t dly) := of_word rfl rfl fun x hx hwf => by
  obtain ⟨h0, h1, h2, h3, h4, h5⟩ : fn x 27 5 = 11 ∧ fn x 17 8 = t.toNat ∧ fn x 5 5 = dly.toNat ∧
      fn x 25 2 = 0 ∧ fn x 10 7 = 0 ∧ fn x 0 5 = 0 := by
    have := t.isLt; have := dly.isLt
    refine ⟨?_, ?_, ?_, ?_, ?_, ?_⟩ <;>
    (simp only [fn, hx, encMe, List.cons_append, List.nil_append, toNat_wordOf, fieldSum_cons, fieldSum_nil, BitVec.ofNat_eq_ofNat, BitVec.toNat_ofNat] <;> omega)
  show decodeMe x = _
  rw [decodeMe, h0, fld_of_fn h1, fld_of_fn h2, zf_of_fn h3, zf_of_fn h4, zf_of_fn h5]; exact mk_wf rfl hwf
theorem mwtok (t : BitVec 8) (dly : BitVec 5) : Statement (.mwtok t dly) := of_word rfl rfl fun x hx hwf => by
  obtain ⟨h0, h1, h2, h3, h4, h5⟩ : fn x 27 5 = 12 ∧ fn x 17 8 = t.toNat ∧ fn x 5 5 = dly.toNat ∧
      fn x 25 2 = 0 ∧ fn x 10 7 = 0 ∧ fn x 0 5 = 0 := by
    have := t.isLt; have := dly.isLt
    refine ⟨?_, ?_, ?_, ?_, ?_, ?_⟩ <;>
    (simp only [fn, hx, encMe, List.cons_append, List.nil_append, toNat_wordOf, fieldSum_cons, fieldSum_nil, BitVec.ofNat_eq_ofNat, BitVec.toNat_ofNat] <;> omega)
  show decodeMe x = _
  rw [decodeMe, h0, fld_of_fn h1, fld_of_fn h2, zf_of_fn h3, zf_of_fn h4, zf_of_fn h5]; exact mk_wf rfl hwf
theorem mxlatch (w : LatchOps) : Statement (.mxlatch w) := of_word rfl rfl fun x hx hwf => by
  obtain ⟨h0, h1, h2, h3, h4, h5, h6, h7, h8⟩ : fn x 27 5 = 13 ∧ fn x 24 1 = w.bG.toNat ∧
      fn x 20 4 = w.b.toNat ∧ fn x 19 1 = w.latch.toNat ∧ fn x 16 3 = w.fmt.toNat ∧
      fn x 5 5 = w.dly.toNat ∧ fn x 25 2 = 0 ∧ fn x 10 6 = 0 ∧ fn x 0 5 = 0 := by
    have := w.b.isLt; have := w.latch.isLt; have := w.fmt.isLt; have := w.dly.isLt
    have := Bool.toNat_lt w.bG
    refine ⟨?_, ?_, ?_, ?_, ?_, ?_, ?_, ?_, ?_⟩ <;>
    (simp only [fn, hx, encMe, List.cons_append, List.nil_append, toNat_wordOf, fieldSum_cons, fieldSum_nil, BitVec.ofNat_eq_ofNat, BitVec.toNat_ofNat] <;> omega)
  show decodeMe x = _
  rw [decodeMe, h0, flag_of_fn h1, fld_of_fn h2, fld_of_fn h3, fld_of_fn h4, fld_of_fn h5, zf_of_fn h6, zf_of_fn h7, zf_of_fn h8]; exact mk_wf rfl hwf
theorem linkAt (slot : BitVec 12) : Statement (.linkAt slot) := of_word rfl rfl fun x hx hwf => by
  obtain ⟨h0, h1, h2, h3⟩ : fn x 28 4 = 0 ∧ fn x 24 4 = 12 ∧ fn x 0 12 = slot.toNat ∧ fn x 12 12 = 0
      := by
    have := slot.isLt
    refine ⟨?_, ?_, ?_, ?_⟩ <;>
    (simp only [fn, hx, encLink, toNat_wordOf, fieldSum_cons, fieldSum_nil] <;> omega)
  show decodeLink x = _
  rw [decodeLink, h0, h1, fld_of_fn h2, zf_of_fn h3]; exact mk_wf rfl hwf
theorem linkSend (port : BitVec 4) (desc t : BitVec 12) : Statement (.linkSend port desc t) := of_word rfl rfl fun x hx hwf => by
  obtain ⟨h0, h1, h2, h3⟩ : fn x 28 4 = 1 ∧ fn x 24 4 = port.toNat ∧ fn x 12 12 = desc.toNat ∧
      fn x 0 12 = t.toNat := by
    have := port.isLt; have := desc.isLt; have := t.isLt
    refine ⟨?_, ?_, ?_, ?_⟩ <;>
    (simp only [fn, hx, encLink, toNat_wordOf, fieldSum_cons, fieldSum_nil] <;> omega)
  show decodeLink x = _
  rw [decodeLink, h0, fld_of_fn h1, fld_of_fn h2, fld_of_fn h3]; exact mk_wf rfl hwf
theorem linkRecv (port : BitVec 4) (desc t : BitVec 12) : Statement (.linkRecv port desc t) := of_word rfl rfl fun x hx hwf => by
  obtain ⟨h0, h1, h2, h3⟩ : fn x 28 4 = 2 ∧ fn x 24 4 = port.toNat ∧ fn x 12 12 = desc.toNat ∧
      fn x 0 12 = t.toNat := by
    have := port.isLt; have := desc.isLt; have := t.isLt
    refine ⟨?_, ?_, ?_, ?_⟩ <;>
    (simp only [fn, hx, encLink, toNat_wordOf, fieldSum_cons, fieldSum_nil] <;> omega)
  show decodeLink x = _
  rw [decodeLink, h0, fld_of_fn h1, fld_of_fn h2, fld_of_fn h3]; exact mk_wf rfl hwf
theorem linkFwd (port out : BitVec 4) : Statement (.linkFwd port out) := of_word rfl rfl fun x hx hwf => by
  obtain ⟨h0, h1, h2, h3⟩ : fn x 28 4 = 3 ∧ fn x 24 4 = port.toNat ∧ fn x 0 4 = out.toNat ∧
      fn x 4 20 = 0 := by
    have := port.isLt; have := out.isLt
    refine ⟨?_, ?_, ?_, ?_⟩ <;>
    (simp only [fn, hx, encLink, toNat_wordOf, fieldSum_cons, fieldSum_nil] <;> omega)
  show decodeLink x = _
  rw [decodeLink, h0, fld_of_fn h1, fld_of_fn h2, zf_of_fn h3]; exact mk_wf rfl hwf
theorem linkRedw (port : BitVec 4) (desc t : BitVec 12) : Statement (.linkRedw port desc t) := of_word rfl rfl fun x hx hwf => by
  obtain ⟨h0, h1, h2, h3⟩ : fn x 28 4 = 4 ∧ fn x 24 4 = port.toNat ∧ fn x 12 12 = desc.toNat ∧
      fn x 0 12 = t.toNat := by
    have := port.isLt; have := desc.isLt; have := t.isLt
    refine ⟨?_, ?_, ?_, ?_⟩ <;>
    (simp only [fn, hx, encLink, toNat_wordOf, fieldSum_cons, fieldSum_nil] <;> omega)
  show decodeLink x = _
  rw [decodeLink, h0, fld_of_fn h1, fld_of_fn h2, fld_of_fn h3]; exact mk_wf rfl hwf
theorem linkReds (port : BitVec 4) (desc t : BitVec 12) : Statement (.linkReds port desc t) := of_word rfl rfl fun x hx hwf => by
  obtain ⟨h0, h1, h2, h3⟩ : fn x 28 4 = 5 ∧ fn x 24 4 = port.toNat ∧ fn x 12 12 = desc.toNat ∧
      fn x 0 12 = t.toNat := by
    have := port.isLt; have := desc.isLt; have := t.isLt
    refine ⟨?_, ?_, ?_, ?_⟩ <;>
    (simp only [fn, hx, encLink, toNat_wordOf, fieldSum_cons, fieldSum_nil] <;> omega)
  show decodeLink x = _
  rw [decodeLink, h0, fld_of_fn h1, fld_of_fn h2, fld_of_fn h3]; exact mk_wf rfl hwf
theorem linkMark (port : BitVec 4) (id : BitVec 12) : Statement (.linkMark port id) := of_word rfl rfl fun x hx hwf => by
  obtain ⟨h0, h1, h2, h3⟩ : fn x 28 4 = 6 ∧ fn x 24 4 = port.toNat ∧ fn x 0 12 = id.toNat ∧
      fn x 12 12 = 0 := by
    have := port.isLt; have := id.isLt
    refine ⟨?_, ?_, ?_, ?_⟩ <;>
    (simp only [fn, hx, encLink, toNat_wordOf, fieldSum_cons, fieldSum_nil] <;> omega)
  show decodeLink x = _
  rw [decodeLink, h0, fld_of_fn h1, fld_of_fn h2, zf_of_fn h3]; exact mk_wf rfl hwf
theorem linkKey (id : BitVec 8) : Statement (.linkKey id) := of_word rfl rfl fun x hx hwf => by
  obtain ⟨h0, h1, h2, h3⟩ : fn x 28 4 = 7 ∧ fn x 24 4 = 12 ∧ fn x 0 8 = id.toNat ∧ fn x 8 16 = 0 :=
      by
    have := id.isLt
    refine ⟨?_, ?_, ?_, ?_⟩ <;>
    (simp only [fn, hx, encLink, toNat_wordOf, fieldSum_cons, fieldSum_nil] <;> omega)
  show decodeLink x = _
  rw [decodeLink, h0, h1, fld_of_fn h2, zf_of_fn h3]; exact mk_wf rfl hwf
theorem linkSlack : Statement (.linkSlack) := of_word rfl rfl fun x hx hwf => by
  obtain ⟨h0, h1, h2⟩ : fn x 28 4 = 8 ∧ fn x 24 4 = 12 ∧ fn x 0 24 = 0 := by
    refine ⟨?_, ?_, ?_⟩ <;>
    (simp only [fn, hx, encLink, toNat_wordOf, fieldSum_cons, fieldSum_nil] <;> omega)
  show decodeLink x = _
  rw [decodeLink, h0, h1, zf_of_fn h2]; exact mk_wf rfl hwf
theorem linkEnd : Statement (.linkEnd) := of_word rfl rfl fun x hx hwf => by
  obtain ⟨h0, h1, h2⟩ : fn x 28 4 = 9 ∧ fn x 24 4 = 12 ∧ fn x 0 24 = 0 := by
    refine ⟨?_, ?_, ?_⟩ <;>
    (simp only [fn, hx, encLink, toNat_wordOf, fieldSum_cons, fieldSum_nil] <;> omega)
  show decodeLink x = _
  rw [decodeLink, h0, h1, zf_of_fn h2]; exact mk_wf rfl hwf
theorem linkSetdt (set : BitVec 4) : Statement (.linkSetdt set) := of_word rfl rfl fun x hx hwf => by
  obtain ⟨h0, h1, h2, h3⟩ : fn x 28 4 = 10 ∧ fn x 24 4 = 12 ∧ fn x 0 4 = set.toNat ∧ fn x 4 20 = 0
      := by
    have := set.isLt
    refine ⟨?_, ?_, ?_, ?_⟩ <;>
    (simp only [fn, hx, encLink, toNat_wordOf, fieldSum_cons, fieldSum_nil] <;> omega)
  show decodeLink x = _
  rw [decodeLink, h0, h1, fld_of_fn h2, zf_of_fn h3]; exact mk_wf rfl hwf
theorem linkTune (port : BitVec 4) (lane : BitVec 3) (ch : BitVec 6) : Statement (.linkTune port lane ch) := of_word rfl rfl fun x hx hwf => by
  obtain ⟨h0, h1, h2, h3, h4⟩ : fn x 28 4 = 11 ∧ fn x 24 4 = port.toNat ∧ fn x 0 3 = lane.toNat ∧
      fn x 3 6 = ch.toNat ∧ fn x 9 15 = 0 := by
    have := port.isLt; have := lane.isLt; have := ch.isLt
    refine ⟨?_, ?_, ?_, ?_, ?_⟩ <;>
    (simp only [fn, hx, encLink, toNat_wordOf, fieldSum_cons, fieldSum_nil] <;> omega)
  show decodeLink x = _
  rw [decodeLink, h0, fld_of_fn h1, fld_of_fn h2, fld_of_fn h3, zf_of_fn h4]; exact mk_wf rfl hwf
theorem reservedWord (k : CodeKind) (w : Code) : Statement (.reservedWord k w) := of_event rfl
theorem tidelRead (d : BitVec 6) : Statement (.tidelRead d) := of_event rfl
theorem counterLowRead (d : BitVec 6) (n : BitVec 5) : Statement (.counterLowRead d n) := of_event rfl
theorem loadDataReturn (r : BitVec 6) : Statement (.loadDataReturn r) := of_event rfl
theorem activationStart (s : BitVec 4) : Statement (.activationStart s) := of_event rfl
theorem streamGateGrant (s : BitVec 4) : Statement (.streamGateGrant s) := of_event rfl
theorem streamAccess (s : BitVec 4) : Statement (.streamAccess s) := of_event rfl
theorem streamAccessReturn (s : BitVec 4) : Statement (.streamAccessReturn s) := of_event rfl
theorem activationFinish (s : BitVec 4) : Statement (.activationFinish s) := of_event rfl
theorem corbelWakeEnd (bay c : Nat) : Statement (.corbelWakeEnd bay c) := of_event rfl
theorem tkInit (bay c : Nat) : Statement (.tkInit bay c) := of_event rfl
theorem tkFeed (bay c : Nat) : Statement (.tkFeed bay c) := of_event rfl
theorem tkEmit (bay c : Nat) : Statement (.tkEmit bay c) := of_event rfl
theorem corbelCommandEnd (bay c : Nat) : Statement (.corbelCommandEnd bay c) := of_event rfl
theorem copyStart (ch : BitVec 5) (x : Word) : Statement (.copyStart ch x) := of_event rfl
theorem copyStatusRead (d : BitVec 6) (ch : BitVec 5) : Statement (.copyStatusRead d ch) := of_event rfl
theorem copyTakeUp (die ch : Nat) : Statement (.copyTakeUp die ch) := of_event rfl
theorem copyComplete (die ch : Nat) : Statement (.copyComplete die ch) := of_event rfl
theorem unitPlacement (vf : Nat) : Statement (.unitPlacement vf) := of_event rfl
theorem scheduledSlot (port : Nat) : Statement (.scheduledSlot port) := of_event rfl
theorem copyMove (die ch : Nat) : Statement (.copyMove die ch) := of_event rfl
theorem userInterruptEntry : Statement (.userInterruptEntry) := of_event rfl
theorem waitiWake : Statement (.waitiWake) := of_event rfl
theorem dispatchQueueSpace : Statement (.dispatchQueueSpace) := of_event rfl
theorem holdCycle : Statement (.holdCycle) := of_event rfl
theorem courseSlip : Statement (.courseSlip) := of_event rfl
theorem courseCcOverflow : Statement (.courseCcOverflow) := of_event rfl
theorem courseStart : Statement (.courseStart) := of_event rfl
theorem courseEndComplete : Statement (.courseEndComplete) := of_event rfl
theorem cwaitComplete : Statement (.cwaitComplete) := of_event rfl
theorem activationAttach : Statement (.activationAttach) := of_event rfl
theorem streamClose : Statement (.streamClose) := of_event rfl
theorem swaitComplete : Statement (.swaitComplete) := of_event rfl
theorem segmentRestoreComplete : Statement (.segmentRestoreComplete) := of_event rfl
theorem veEntryStart : Statement (.veEntryStart) := of_event rfl
theorem routerDispatch : Statement (.routerDispatch) := of_event rfl
theorem veEntryFinish : Statement (.veEntryFinish) := of_event rfl
theorem vtokAdd : Statement (.vtokAdd) := of_event rfl
theorem vwtokComplete : Statement (.vwtokComplete) := of_event rfl
theorem vtokwComplete : Statement (.vtokwComplete) := of_event rfl
theorem meEntryStart : Statement (.meEntryStart) := of_event rfl
theorem meEntryFinish : Statement (.meEntryFinish) := of_event rfl
theorem mtokAdd : Statement (.mtokAdd) := of_event rfl
theorem mwtokComplete : Statement (.mwtokComplete) := of_event rfl
theorem mtokwComplete : Statement (.mtokwComplete) := of_event rfl
theorem ntsetComplete : Statement (.ntsetComplete) := of_event rfl
theorem freqTableLoaded : Statement (.freqTableLoaded) := of_event rfl
theorem crunAppend : Statement (.crunAppend) := of_event rfl
theorem lwaitComplete : Statement (.lwaitComplete) := of_event rfl
theorem lrelComplete : Statement (.lrelComplete) := of_event rfl
theorem hwaitComplete : Statement (.hwaitComplete) := of_event rfl
theorem preemptionComplete : Statement (.preemptionComplete) := of_event rfl
theorem unitDone : Statement (.unitDone) := of_event rfl
theorem cwaitcComplete : Statement (.cwaitcComplete) := of_event rfl
theorem barrArrival : Statement (.barrArrival) := of_event rfl
theorem bwaitComplete : Statement (.bwaitComplete) := of_event rfl
theorem pgreqPost : Statement (.pgreqPost) := of_event rfl
theorem retryResend : Statement (.retryResend) := of_event rfl
theorem phaseDepart : Statement (.phaseDepart) := of_event rfl
theorem fenceComplete : Statement (.fenceComplete) := of_event rfl
theorem qfenceComplete : Statement (.qfenceComplete) := of_event rfl
theorem remoteSend : Statement (.remoteSend) := of_event rfl
theorem routeSwap : Statement (.routeSwap) := of_event rfl
theorem tideLost : Statement (.tideLost) := of_event rfl
theorem faultFrameTaken : Statement (.faultFrameTaken) := of_event rfl
theorem machineCheck : Statement (.machineCheck) := of_event rfl
theorem keystoneWrite : Statement (.keystoneWrite) := of_event rfl
theorem debugStop : Statement (.debugStop) := of_event rfl
theorem powerOn : Statement (.powerOn) := of_event rfl
theorem hbmTrained : Statement (.hbmTrained) := of_event rfl
theorem hostLinkUp : Statement (.hostLinkUp) := of_event rfl
theorem bringUpReady : Statement (.bringUpReady) := of_event rfl
theorem coreCycle : Statement (.coreCycle) := of_event rfl
theorem powerLoss : Statement (.powerLoss) := of_event rfl
theorem segmentSaveComplete (core seg : Nat) : Statement (.segmentSaveComplete core seg) := of_event rfl
theorem loopBufferExit (ae ve me : Bool) : Statement (.loopBufferExit ae ve me) := of_event rfl
theorem leaseQueueGrant (bay : Nat) : Statement (.leaseQueueGrant bay) := of_event rfl
theorem leaseAging (bay : Nat) : Statement (.leaseAging bay) := of_event rfl
theorem corbelWarmTimeout (bay c : Nat) : Statement (.corbelWarmTimeout bay c) := of_event rfl
theorem tkSample (bay c : Nat) : Statement (.tkSample bay c) := of_event rfl
theorem tkReset (bay c : Nat) : Statement (.tkReset bay c) := of_event rfl
theorem xpConf (bay c : Nat) : Statement (.xpConf bay c) := of_event rfl
theorem xpTile (bay c : Nat) : Statement (.xpTile bay c) := of_event rfl
theorem ifBook (bay c : Nat) : Statement (.ifBook bay c) := of_event rfl
theorem ifRun (bay c : Nat) : Statement (.ifRun bay c) := of_event rfl
theorem ifReset (bay c : Nat) : Statement (.ifReset bay c) := of_event rfl
theorem slKey (bay c : Nat) : Statement (.slKey bay c) := of_event rfl
theorem slIv (bay c : Nat) : Statement (.slIv bay c) := of_event rfl
theorem slEnc (bay c : Nat) : Statement (.slEnc bay c) := of_event rfl
theorem slDec (bay c : Nat) : Statement (.slDec bay c) := of_event rfl
theorem slFin (bay c : Nat) : Statement (.slFin bay c) := of_event rfl
theorem scConf (bay c : Nat) : Statement (.scConf bay c) := of_event rfl
theorem scRun (bay c : Nat) : Statement (.scRun bay c) := of_event rfl
theorem scHist (bay c : Nat) : Statement (.scHist bay c) := of_event rfl
theorem scCompact (bay c : Nat) : Statement (.scCompact bay c) := of_event rfl
theorem scCarry (bay c : Nat) : Statement (.scCarry bay c) := of_event rfl
theorem rlDesc (bay c : Nat) : Statement (.rlDesc bay c) := of_event rfl
theorem rlMove (bay c : Nat) : Statement (.rlMove bay c) := of_event rfl
theorem rlFlush (bay c : Nat) : Statement (.rlFlush bay c) := of_event rfl
theorem emergencySample (temps : List (BitVec 16)) (power : BitVec 16) : Statement (.emergencySample temps power) := of_event rfl
theorem thermalTrip (temp : BitVec 16) : Statement (.thermalTrip temp) := of_event rfl
theorem copyPrologueClaim (die ch : Nat) : Statement (.copyPrologueClaim die ch) := of_event rfl
theorem launchPoolWrite (h : IsuneHdr) (first : Nat) (recs : List (List Byte)) : Statement (.launchPoolWrite h first recs) := of_event rfl
theorem jobStart (h : IsuneHdr) (job : Nat) (recs : List Nat) : Statement (.jobStart h job recs) := of_event rfl
theorem jobCancel (h : IsuneHdr) (job : Nat) : Statement (.jobCancel h job) := of_event rfl
theorem gangPlacement (vf : Nat) : Statement (.gangPlacement vf) := of_event rfl
theorem readyQueueAging (vf : Nat) : Statement (.readyQueueAging vf) := of_event rfl
theorem sliceEnd (outVf inVf : Nat) : Statement (.sliceEnd outVf inVf) := of_event rfl
theorem migratePage (h : IsuneHdr) (va : Word) (ipa : BitVec 48) : Statement (.migratePage h va ipa) := of_event rfl
theorem migratePageRefuse (h : IsuneHdr) (va : Word) : Statement (.migratePageRefuse h va) := of_event rfl
theorem migrationCopyEnd (die : Nat) : Statement (.migrationCopyEnd die) := of_event rfl
theorem migrationTimeout (die : Nat) : Statement (.migrationTimeout die) := of_event rfl
theorem hostRdmaWrite (qp : Nat) (va : Word) (data : List Byte) : Statement (.hostRdmaWrite qp va data) := of_event rfl
theorem hostRdmaRead (qp : Nat) (va : Word) (n : Nat) : Statement (.hostRdmaRead qp va n) := of_event rfl
theorem hostRdmaAtomic (qp : Nat) (va : Word) (cas : Bool) (cmp arg : Word) : Statement (.hostRdmaAtomic qp va cas cmp arg) := of_event rfl
theorem hostSend (qp : Nat) (data : List Byte) : Statement (.hostSend qp data) := of_event rfl
theorem asyncRead (p : Packet) : Statement (.asyncRead p) := of_event rfl
theorem asyncWrite (p : Packet) : Statement (.asyncWrite p) := of_event rfl
theorem asyncAtomic (p : Packet) : Statement (.asyncAtomic p) := of_event rfl
theorem asyncReduce (p : Packet) : Statement (.asyncReduce p) := of_event rfl
theorem asyncHandle (p : Packet) : Statement (.asyncHandle p) := of_event rfl
theorem asyncReply (p : Packet) : Statement (.asyncReply p) := of_event rfl
theorem asyncNack (p : Packet) : Statement (.asyncNack p) := of_event rfl
theorem asyncRetry (p : Packet) : Statement (.asyncRetry p) := of_event rfl
theorem remoteReplyTimeout (tag : Nat) : Statement (.remoteReplyTimeout tag) := of_event rfl
theorem asyncSlot (port : Nat) : Statement (.asyncSlot port) := of_event rfl
theorem markerReceive (port lane : Nat) (id : BitVec 12) : Statement (.markerReceive port lane id) := of_event rfl
theorem rsigRelease (port : Nat) : Statement (.rsigRelease port) := of_event rfl
theorem laneRelock (port lane delay : Nat) : Statement (.laneRelock port lane delay) := of_event rfl
theorem laneRelockTimeout (port lane : Nat) : Statement (.laneRelockTimeout port lane) := of_event rfl
theorem linkFailed (port lane : Nat) : Statement (.linkFailed port lane) := of_event rfl
theorem replaySlot (port : Nat) : Statement (.replaySlot port) := of_event rfl
theorem alarmSlot (heard : List Alarm) : Statement (.alarmSlot heard) := of_event rfl
theorem tideExchange (a : TideStamps) : Statement (.tideExchange a) := of_event rfl
theorem elasticRecentre (port : Nat) : Statement (.elasticRecentre port) := of_event rfl
theorem scrubError (key : Nat) (correctable : Bool) : Statement (.scrubError key correctable) := of_event rfl
theorem keystoneHeaderWrite (rec : Nat) : Statement (.keystoneHeaderWrite rec) := of_event rfl
theorem rollbackRestore (job : Nat) : Statement (.rollbackRestore job) := of_event rfl
theorem rollbackResume (job : Nat) : Statement (.rollbackResume job) := of_event rfl
theorem deviceInfo (h : IsuneHdr) : Statement (.deviceInfo h) := of_event rfl
theorem attest (h : IsuneHdr) (nonce : List Byte) (vf : BitVec 8) : Statement (.attest h nonce vf) := of_event rfl
theorem measureRead (h : IsuneHdr) : Statement (.measureRead h) := of_event rfl
theorem vfCreate (h : IsuneHdr) (p : VfSpec) : Statement (.vfCreate h p) := of_event rfl
theorem vfDestroy (h : IsuneHdr) : Statement (.vfDestroy h) := of_event rfl
theorem vfTeardownComplete (vf : Nat) : Statement (.vfTeardownComplete vf) := of_event rfl
theorem teardownReconcile (pkg vf : Nat) : Statement (.teardownReconcile pkg vf) := of_event rfl
theorem quarantineEnd (vf : Nat) : Statement (.quarantineEnd vf) := of_event rfl
theorem partitionAssign (h : IsuneHdr) (p : PartitionSpec) : Statement (.partitionAssign h p) := of_event rfl
theorem regionMap (h : IsuneHdr) (regions : List Nat) (world : Bool) : Statement (.regionMap h regions world) := of_event rfl
theorem rangeSet (h : IsuneHdr) (ranges : List RangeEntry) (heap : HeapSpec) (thresh : BitVec 16) : Statement (.rangeSet h ranges heap thresh) := of_event rfl
theorem policyInstall (h : IsuneHdr) (blob : List Byte) : Statement (.policyInstall h blob) := of_event rfl
theorem scopepolSet (h : IsuneHdr) (bits : BitVec 3) : Statement (.scopepolSet h bits) := of_event rfl
theorem keySlotLoad (h : IsuneHdr) (slot : Nat) (key : List Byte) : Statement (.keySlotLoad h slot key) := of_event rfl
theorem counterRead (h : IsuneHdr) (sel : CounterSel) : Statement (.counterRead h sel) := of_event rfl
theorem counterSessionOpen (h : IsuneHdr) (p : SessionSpec) : Statement (.counterSessionOpen h p) := of_event rfl
theorem counterSessionClose (h : IsuneHdr) : Statement (.counterSessionClose h) := of_event rfl
theorem counterSessionExport (h : IsuneHdr) : Statement (.counterSessionExport h) := of_event rfl
theorem counterSessionImport (h : IsuneHdr) (b : SessionBlob) : Statement (.counterSessionImport h b) := of_event rfl
theorem traceRead (h : IsuneHdr) (offset : Nat) : Statement (.traceRead h offset) := of_event rfl
theorem traceSessionOpen (h : IsuneHdr) (p : SessionSpec) : Statement (.traceSessionOpen h p) := of_event rfl
theorem traceSessionClose (h : IsuneHdr) : Statement (.traceSessionClose h) := of_event rfl
theorem traceSessionExport (h : IsuneHdr) : Statement (.traceSessionExport h) := of_event rfl
theorem traceSessionImport (h : IsuneHdr) (b : SessionBlob) : Statement (.traceSessionImport h b) := of_event rfl
theorem podJoin (h : IsuneHdr) (dims coords : List Nat) (parent : Nat) (tide : Word) (routes : List RouteSpec) : Statement (.podJoin h dims coords parent tide routes) := of_event rfl
theorem tideRoot (h : IsuneHdr) (root : Nat) (ptp : Option Nat) : Statement (.tideRoot h root ptp) := of_event rfl
theorem chordPlanLoad (h : IsuneHdr) (ports : List ChordSpec) (routes : List RouteSpec) (tsw : Word) : Statement (.chordPlanLoad h ports routes tsw) := of_event rfl
theorem scheduleLoad (h : IsuneHdr) (progs : List LinkProg) (start : Nat) (tree : List Byte) : Statement (.scheduleLoad h progs start tree) := of_event rfl
theorem detourLoad (h : IsuneHdr) (set : Nat) (progs : List LinkProg) (avoid : List (Nat × Nat × Nat)) (tree : List Byte) : Statement (.detourLoad h set progs avoid tree) := of_event rfl
theorem keystoneConf (h : IsuneHdr) (rec : Nat) (slotA slotB segmask : Word) (tiles : Bool) : Statement (.keystoneConf h rec slotA slotB segmask tiles) := of_event rfl
theorem reset (h : IsuneHdr) : Statement (.reset h) := of_event rfl
theorem isuneUnknownOpcode (h : IsuneHdr) : Statement (.isuneUnknownOpcode h) := of_event rfl
theorem smbusPcapWrite (v : BitVec 16) : Statement (.smbusPcapWrite v) := of_event rfl
theorem smbusRegisterWrite (reg : BitVec 8) (v : BitVec 16) : Statement (.smbusRegisterWrite reg v) := of_event rfl
end Sys2Proof.Laws.RoundTrip
end

