-- ==== Sys2Proof/Safety.lean ====
section
/-! DEFINITION. The terms that claims are stated in: when a scalar word may issue, what a step leaves as it was, and
what a safe step is. -/

namespace Sys2Proof.Machine

/-- A step of the part ends in a state: faults and refusals of the part itself are states (R419, R483). -/
def SafeStep (s : State) : Prop := ∃ t, step s = .next t

/-- The instruction completes in s: its meaning answers a next state, of which P holds. -/
def Does (i : Instr) (s : State) (P : State → Prop) : Prop := ∃ t, exec i s = .next t ∧ P t

/-! ### When a scalar word issues -/

/-- The sequencer of the acting unit issues a word that reads the registers rs, with the word's own effect: the unit
runs and waits for nothing, no clause holds the word back (R114), every register read is in place (R110). -/
def CanIssue (s : State) (rs : List (BitVec 6)) : Prop :=
  sqIdle s.u = false ∧ (s.u.r.clsCount = 0 ∨ s.u.r.clsPred = true) ∧ notReady s.u rs = false

/-- The acting unit's word at the PC is governed by a clause whose guard is false (R114). -/
def ClauseHolds (s : State) : Prop := sqIdle s.u = false ∧ s.u.r.clsCount ≠ 0 ∧ s.u.r.clsPred = false

/-! ### What a step leaves as it was -/

/-- A wait of the acting unit's word raises no COURSE_SLIP: no course runs, or its slip budget has room (R148). -/
def MayHold (s : State) : Prop := s.u.course.active = true → s.u.course.slip.toNat < s.u.course.slipmax.toNat

/-- The acting unit's word waits: no register and no byte of memory has changed. -/
def WaitsIn (s t : State) (w : Wait) : Prop := t.u.wait = some w ∧ t.u.r = s.u.r ∧ t.mem = s.mem

/-- Nothing but the acting unit has changed: every byte of memory is as before, and every other part. -/
def OnlyUnit (s t : State) : Prop := { t with units := s.units } = s ∧ ∀ k, k ≠ s.cur → t.unit k = s.unit k

/-- The acting unit with the bytes used up that its sequencer had asked for at other packages (R352). -/
def used (s : State) : Unit := dropFar .sq s.u

/-- A unit with what the sequencer keeps of the issue of a word put back to what it was in s. -/
def back (s : State) (u : Unit) : Unit :=
  { u with r := s.u.r, ctr := s.u.ctr, wait := s.u.wait, pend := s.u.pend, poll := s.u.poll }

/-- Of the acting unit only its registers have changed, and what the sequencer keeps of the issue of a word. -/
def OnlyRegs (s t : State) : Prop := OnlyUnit s t ∧ back s t.u = used s

/-- CLS.COUNT after a governed word has completed (R114). -/
def clsAfter (r : Regs) : BitVec 4 := if r.clsCount = 0 then 0 else r.clsCount - 1

/-- The counters after a word has issued: SQ_ISSUE, 0x0102, counts it (R468), but not in a stopped unit. -/
def issueCounted (u : Unit) : Counters := if u.dbg.stopped then u.ctr else addEvent u.ctr 0x0102 1

/-- The word at the PC of s has completed and the next word follows it: the PC, CLS (R114), SQ_ISSUE (R468). -/
def Advanced (s t : State) : Prop :=
  t.u.r.pc = s.u.r.pc + 4 ∧ t.u.r.clsCount = clsAfter s.u.r ∧ t.u.r.clsPred = s.u.r.clsPred ∧ t.u.wait = none ∧
  t.u.ctr = issueCounted s.u

/-- The word at the PC of s has completed with a transfer of control to pc: the clause ends (R114). -/
def Jumped (s t : State) (pc : Word) : Prop :=
  t.u.r.pc = pc ∧ t.u.r.clsCount = 0 ∧ t.u.r.clsPred = s.u.r.clsPred ∧ t.u.wait = none ∧
  t.u.ctr = issueCounted s.u

/-- The general registers are those of s but for Gd, which holds v; a write to G0 is discarded (R41, R101). -/
def WroteG (s t : State) (d : BitVec 6) (v : Word) : Prop :=
  (∀ n : BitVec 6, gOf t n = if n = d ∧ n ≠ 0 then v else gOf s n) ∧
  { t.u.r with g := s.u.r.g, pc := s.u.r.pc, clsCount := s.u.r.clsCount } = s.u.r

/-- The predicates are those of s but for Pd, which holds b; a write to P0 and to a stage predicate at or above
STG.NS is discarded (R101, R103). -/
def WroteP (s t : State) (d : BitVec 4) (b : Bool) : Prop :=
  (∀ n : BitVec 4, pOf t n =
    if n = d ∧ n ≠ 0 ∧ (n.toNat < 8 ∨ n.toNat - 8 < s.u.r.ns.toNat) then b else pOf s n) ∧
  { t.u.r with p := s.u.r.p, sv := s.u.r.sv, pc := s.u.r.pc, clsCount := s.u.r.clsCount } = s.u.r

/-- Of the registers of the acting unit only the PC and CLS have changed. -/
def KeptRegs (s t : State) : Prop := { t.u.r with pc := s.u.r.pc, clsCount := s.u.r.clsCount } = s.u.r

/-- A word that completes with no effect of its own. -/
def OnlyAdvances (s t : State) : Prop := OnlyRegs s t ∧ Advanced s t ∧ KeptRegs s t

/-- A word that completes with a transfer of control and no other effect. -/
def OnlyJumps (s t : State) (pc : Word) : Prop := OnlyRegs s t ∧ Jumped s t pc ∧ KeptRegs s t

/-- A register word: it completes, Gd = v, nothing else changes. -/
def SetsG (s t : State) (d : BitVec 6) (v : Word) : Prop := OnlyRegs s t ∧ Advanced s t ∧ WroteG s t d v

/-- A predicate word: it completes, Pd = b, nothing else changes. -/
def SetsP (s t : State) (d : BitVec 4) (b : Bool) : Prop := OnlyRegs s t ∧ Advanced s t ∧ WroteP s t d b

/-- A word that completes, changing the acting unit by f beside its issue, and nothing else. -/
def Changes (s t : State) (f : Unit → Unit) : Prop :=
  OnlyUnit s t ∧ Advanced s t ∧ KeptRegs s t ∧ back s t.u = dropFar .sq (f s.u)

/-! ### Memory -/

/-- Every part of the state but the units and the storage is as before, and every unit but the
acting one. -/
def OnlyUnitMem (s t : State) : Prop :=
  { t with units := s.units, mem := s.mem } = s ∧ ∀ k, k ≠ s.cur → t.unit k = s.unit k

/-- The byte at a key of the package's storage. -/
def byteAt (s : State) (k : Nat) : Byte := memGet s.mem k

/-- Every byte outside the n bytes from key k reads as before. -/
def SameBytesBut (s t : State) (k n : Nat) : Prop := ∀ a, a < k ∨ k + n ≤ a → byteAt t a = byteAt s a

/-- The bytes bs lie from key k on. -/
def HoldsBytes (t : State) (k : Nat) (bs : List Byte) : Prop := ∀ i, i < bs.length → byteAt t (k + i) = bs.getD i 0

/-! ### Exceptions (R419, R422) -/

/-- The acting unit has stopped at a fault of one of its agents with FPC = fpc: its frame says cause, agent, precision,
address, DETAIL, PC, CLS and tide; it is FAULTED, and queued for firmware. Its registers and control registers but the
frame, every byte of memory, and every other unit are as before. -/
def StoppedBy (a : Agent) (precise : Bool) (s t : State) (c : Cause) (addr : Word) (detail : Nat) (fpc : Word) : Prop :=
  t.u.st = .faulted ∧ t.firm.frames = s.firm.frames ++ [s.cur] ∧
  frameReg t.u 0 = BitVec.ofNat 64 (causeCode c + 256 * (causeCode c / 16) + 0x1000 * precise.toNat +
    0x4000 * s.u.c.inui.toNat + 2 ^ 16 * agentCode a + 2 ^ 24 * (detail % 256)) ∧
  frameReg t.u 1 = fpc ∧ frameReg t.u 2 = addr ∧
  frameReg t.u 3 = BitVec.ofNat 64 (s.u.r.clsCount.toNat + 16 * s.u.r.clsPred.toNat) ∧ frameReg t.u 4 = s.tide ∧
  { t with units := s.units, dies := s.dies, firm := { t.firm with frames := s.firm.frames } } = s ∧
  (∀ k, k ≠ s.cur → t.unit k = s.unit k) ∧
  { t.u with st := s.u.st, c := { t.u.c with frame := s.u.c.frame }, ctr := s.u.ctr, wait := s.u.wait,
             stash := s.u.stash, poll := s.u.poll, halted := s.u.halted } = dropFars (fun _ => true) s.u

/-- The acting unit has stopped at a precise fault of its sequencer. -/
def Trapped (s t : State) (c : Cause) (addr : Word) (detail : Nat) (fpc : Word) : Prop :=
  StoppedBy .sq true s t c addr detail fpc

/-- The word at the PC has raised a cause precisely: FPC is its address, and it counts as not issued (R109). -/
def Traps (s t : State) (c : Cause) (addr : Word) (detail : Nat) : Prop :=
  Trapped s t c addr detail s.u.r.pc ∧ t.u.ctr = s.u.ctr

/-! ### Words of the vector columns (R193, R194, R200) -/

/-- Word v is at work at the head of a column's queue, with rest behind it, and may take its next ordinal. -/
def AtColumn (s : State) (col : Nat) (v : VWord) (rest : List VWord) : Prop :=
  colLive s.u col = true ∧ tget s.u.ve.cols col [] = v :: rest ∧ v.issued = true

/-- The one activation of stream n is the load a, whose queue begins with x. -/
def Supplies (s : State) (n : BitVec 4) (a : Act) (x : Elem) : Prop :=
  (streamOf s.u n.toNat).acts = [a] ∧ actDir a = 0 ∧ a.taken < a.total ∧ a.queue.head? = some x

/-- The one activation of stream n is the store a, which has a place. -/
def Accepts (s : State) (n : BitVec 4) (a : Act) : Prop :=
  (streamOf s.u n.toNat).acts = [a] ∧ actDir a = 1 ∧ a.given < a.total ∧ roomFor (streamOf s.u n.toNat) a a.given = true

/-- The one activation of stream n is the read-modify-write a, whose old element x has been read. -/
def Updates (s : State) (n : BitVec 4) (a : Act) (x : Elem) : Prop :=
  (streamOf s.u n.toNat).acts = [a] ∧ actDir a = 2 ∧ a.given < a.total ∧ a.queue.head? = some x

/-- One element has been taken from load a of stream n. -/
def Took (t : State) (n : BitVec 4) (a : Act) : Prop :=
  (streamOf t.u n.toNat).acts = [{ a with taken := a.taken + 1, queue := a.queue.drop 1 }]

/-- The element x has been given to store a of stream n. -/
def Gave (t : State) (n : BitVec 4) (a : Act) (x : Elem) : Prop :=
  (streamOf t.u n.toNat).acts = [{ a with given := a.given + 1, outq := a.outq ++ [x] }]

/-- The element x has replaced the old element of read-modify-write a of stream n. -/
def Replaced (t : State) (n : BitVec 4) (a : Act) (x : Elem) : Prop :=
  (streamOf t.u n.toNat).acts =
    [{ a with given := a.given + 1, taken := a.taken + 1, queue := a.queue.drop 1, outq := a.outq ++ [x] }]

/-- Word v of a column has done ordinal v.ord of n: the registers, every byte of memory and every other unit are as
before, and the word has left the column if that was its last. -/
def OrdinalDone (s t : State) (col : Nat) (v : VWord) (rest : List VWord) (n : Nat) : Prop :=
  t.u.r = s.u.r ∧ (∀ k, byteAt t k = byteAt s k) ∧ (∀ k, k ≠ s.cur → t.unit k = s.unit k) ∧
  tget t.u.ve.cols col [] = if n ≤ v.ord + 1 then rest else { v with ord := v.ord + 1 } :: rest

/-! ### Words of the router (R193, R219) -/

/-- The running entry r is at word w, and the router may act on it. -/
def AtRouter (s : State) (r : VeRun) (w : Code) : Prop :=
  routerLive s.u = true ∧ s.u.ve.run = some r ∧ r.words[r.widx]? = some w ∧ r.atEnd = false ∧ r.wait = 0 ∧ r.moved = false

/-! ### Words of the matrix engine (R233, R249) -/

/-- The running entry r of the matrix engine is at a word that has issued. -/
def AtMe (s : State) (r : MeRun) : Prop :=
  meLive s.u = true ∧ s.u.me.run = some r ∧ r.atEnd = false ∧ r.issued = true

/-- Run r is at word i, of plan p, whose time has come and which the engine accepts, and every stream that it names has an
activation (R144, R178, R234). -/
def MeComesTo (s : State) (r : MeRun) (p : MePlan) : Prop :=
  meLive s.u = true ∧ s.u.me.run = some r ∧ r.atEnd = false ∧ r.issued = false ∧ acceptsMe s.u r (meCode r) = true ∧
  meTime s.u r (meCode r) = true ∧ ∀ n ∈ p.srcs ++ p.dsts, (oldestAct (streamOf s.u n)).isSome = true

/-- The issue of word i of the matrix engine, of plan p: the first of its causes stops it, else it issues once its operands
are there, and neither tile nor latch has changed but that a gather empties GL (R233, R237, R248). -/
def MeIssues (i : Instr) (s : State) (r : MeRun) (p : MePlan) : Prop :=
  MeComesTo s r p →
    let stops := fun (c : Cause) (d : Nat) => Does i s (fun x => StoppedBy .me false s x c 0 d s.u.r.pc)
    (p.gen = true → stops .genForm 0) ∧
    (p.gen = false → p.empty = true → stops .meState 0) ∧
    (p.gen = false → p.empty = false → p.form = true ∨ p.bad = true → stops .meFormat 0) ∧
    (p.gen = false → p.empty = false → p.form = false → p.bad = false →
      (∀ n, meDir s.u p = some n → stops .streamDirection n) ∧
      (meDir s.u p = none → (∀ n ∈ p.srcs ++ p.dsts, operandHere s.u n = true) → Does i s (fun x =>
        x.u.me.run = some { r with first := false, ahead := 0, issued := true, ord := 0, kept := [] } ∧
        x.u.r = s.u.r ∧ x.u.c = s.u.c ∧ x.u.ve = s.u.ve ∧ x.u.ae = s.u.ae ∧ OnlyUnit s x ∧
        x.u.me.st = { s.u.me.st with gl := { s.u.me.st.gl with full := s.u.me.st.gl.full && !p.gathers } })))

/-- The engine goes on within its word after item r.ord of n, or with the next word of the block; ds are the streams
that the word writes. -/
def meAfter (r : MeRun) (n : Nat) (ds : List Nat) : MeRun :=
  if n ≤ r.ord + 1 then meNext { r with wrote := (r.wrote ++ ds).eraseDups } else { r with ord := r.ord + 1 }

/-- The registers and control registers of the acting unit, its vector engine, every byte of memory and every other
unit are as before. -/
def KeptRest (s t : State) : Prop :=
  t.u.r = s.u.r ∧ t.u.c = s.u.c ∧ t.u.ve = s.u.ve ∧ (∀ k, byteAt t k = byteAt s k) ∧
  ∀ k, k ≠ s.cur → t.unit k = s.unit k

/-- A table that lists its numbers in rising order. -/
def Rising {α : Type} (t : Tab α) : Prop := t.Pairwise fun a b => a.1 < b.1

/-- An integer as INT32, wrapped, and whether it lies outside INT32. -/
def wrap32 (i : Int) : BitVec 32 := BitVec.ofInt 32 i
def past32 (i : Int) : Bool := decide (i < -2147483648) || decide (2147483647 < i)

/-! ### Commands of the host (R483 to R485) -/

/-- The command is of a device queue pair, and its header passes the checks for a command of these needs. -/
def TakesCommand (s : State) (h : IsuneHdr) (n : CmdNeeds) : Prop := deviceQp s h = true ∧ headerStatus s h n = none

/-- The last message to the host is the response to the command: its status, detail and payload. -/
def Responds (t : State) (h : IsuneHdr) (status detail : Nat) (fields : List Nat) (bytes : List Byte) : Prop :=
  t.hostOut.getLast? = some { qp := h.qp.toNat, opcode := h.opcode, tag := h.tag, kind := 1, status, detail, fields, bytes }

/-- The command is open: it answers when its last step ends. -/
def StaysOpen (t : State) (h : IsuneHdr) : Prop := t.firm.open_.getLast? = some h.tag

/-- The command is refused with a status and has no other effect. -/
def Rejects (i : Instr) (s : State) (h : IsuneHdr) (status detail : Nat) : Prop :=
  exec i s = .next (respond s h status detail [] [])

/-! ### Barriers, records, copies -/

/-- Every part of the state but the units and the dies is as before, and every unit but the acting one. -/
def OnlyUnitDies (s t : State) : Prop :=
  { t with units := s.units, dies := s.dies } = s ∧ ∀ k, k ≠ s.cur → t.unit k = s.unit k

/-- Every barrier but barrier n of a die is as before. -/
def OtherBarriers (s t : State) (die n : Nat) : Prop :=
  ∀ d m, d ≠ die ∨ m ≠ n → barrierOf t d m = barrierOf s d m

/-- Every channel but channel ch of a die is as before. -/
def OtherChannels (s t : State) (die ch : Nat) : Prop :=
  ∀ d m, d ≠ die ∨ m ≠ ch → channelOf t d m = channelOf s d m

/-- The running copy of a channel is r, its prologue claims are granted, and its unit may act. -/
def AtCopy (s : State) (die ch : Nat) (r : CopyRun) : Prop :=
  (channelOf s die ch).run = some r ∧ copyLive s r.c.uid = true ∧ r.claims = r.plan.prologue.length

/-! ### Leases and corbels (R264 to R280) -/

/-- Every lease handle but handle l of unit uid is as before. -/
def OtherLeases (s t : State) (uid l : Nat) : Prop :=
  ∀ v m, v ≠ uid ∨ m ≠ l → leaseOf (t.unit v) m = leaseOf (s.unit v) m

/-- Handle l of unit uid has been granted corbel c of bay n at priority p: the lease and the corbel are WAKING, for
60 cycles from WARM and 1,800 from OFF, with the corbel's state cleared (R264, R266). -/
def Granted (s t : State) (n c uid l : Nat) (p : BitVec 2) : Prop :=
  (leaseOf (t.unit uid) l).st = .waking ∧ (leaseOf (t.unit uid) l).leasePrio = p ∧
  (leaseOf (t.unit uid) l).corbel = some (12 * n + c) ∧
  corbelAt (t.bay n) c =
    { corbelAt (s.bay n) c with
      st := .waking, timer := if (corbelAt (s.bay n) c).st = .warm then 60 else 1800, holder := some (uid, l), mem := .clear } ∧
  (∀ d, d ≠ c → corbelAt (t.bay n) d = corbelAt (s.bay n) d) ∧ OtherLeases s t uid l ∧ t.mem = s.mem

/-- The head command of handle l of unit uid is taken up by corbel c of a bay and is of a code: it names its fields
alone (R279). -/
def TakesUp (s : State) (bay c uid l : Nat) (cmd : CorbelCmd) (code : Nat) (named : List (Nat × Nat)) : Prop :=
  c < 12 ∧ headCmd s (12 * bay + c) = some (uid, l, cmd) ∧ fieldAt cmd.blk 0 1 = code ∧
  code / 16 = (corbelOf s (12 * bay + c)).kind.toNat + 1 ∧ zeroElse cmd.blk named = true

/-- The command has done its work: its corbel holds m, its end with the result is due, memory is M; every other lease
and corbel is as before, and the registers of the unit (R278, R280). -/
def CmdDone (s t : State) (bay c uid l : Nat) (m : CorbelMem) (result : Nat) (M : Mem) : Prop :=
  leaseOf (t.unit uid) l =
    { leaseOf (s.unit uid) l with running := true, ending := some (0, BitVec.ofNat 32 result) } ∧
  OtherLeases s t uid l ∧ corbelOf t (12 * bay + c) = { corbelOf s (12 * bay + c) with mem := m } ∧
  (∀ g, g ≠ 12 * bay + c → corbelOf t g = corbelOf s g) ∧ (t.unit uid).r = (s.unit uid).r ∧ t.mem = M

/-- Command l of unit uid has failed with a cause: it has ended with ERROR, its unit has stopped at the corbel, and memory,
registers and corbels are as before (R280). -/
def CmdFailed (s t : State) (uid l : Nat) (c : Cause) (addr : Word) : Prop :=
  let L := leaseOf (s.unit uid) l
  (t.unit uid).st = .faulted ∧ t.firm.frames = s.firm.frames ++ [uid] ∧
  (frameReg (t.unit uid) 0).toNat % 256 = causeCode c ∧
  (frameReg (t.unit uid) 0).toNat / 2 ^ 16 % 256 = agentCode (.corbel l) ∧ frameReg (t.unit uid) 2 = addr ∧
  leaseOf (t.unit uid) l = { L with cmds := L.cmds.drop 1, running := false, ending := none, lastSt := 1, done := L.done + 1 } ∧
  (t.unit uid).r = (s.unit uid).r ∧ t.mem = s.mem ∧ ∀ g, corbelOf t g = corbelOf s g

/-- The work r that a command taken up comes to, on operands anywhere that it can read and write: its writes are in memory,
its corbel holds its state, and its end is due; its first cause stops the unit (R279, R280). -/
def CmdWorks (i : Instr) (s : State) (bay c uid l : Nat) (r : CmdRes) : Prop :=
  let read := r.reads.foldl (fun s q => countVa s uid q.1 q.2) s
  let done := cmdWrites uid (.corbel l) read r.writes
  r.busy = false → (∀ e, r.fault = some e → wanting e.1 = false) →
  (done.2 = none → r.fault = none → Does i s (fun t => CmdDone s t bay c uid l r.mem r.result done.1.mem)) ∧
  (∀ e, done.2 = some (some e) ∧ wanting e.1 = false ∨ done.2 = none ∧ r.fault = some e → Does i s (fun t =>
    (t.unit uid).st = .faulted ∧ (frameReg (t.unit uid) 0).toNat % 256 = causeCode e.1 ∧ frameReg (t.unit uid) 2 = e.2 ∧
    (leaseOf (t.unit uid) l).lastSt = 1 ∧ (t.unit uid).r = (s.unit uid).r ∧ t.mem = done.1.mem))

/-- n bytes of elements of e bytes at an address field lie in the usable scratchpad of a unit, readable (R279). -/
def InWindow (s : State) (uid : Nat) (va : Word) (n e : Nat) : Prop :=
  va.toNat % e = 0 ∧ n % e = 0 ∧ Config.win ≤ va.toNat ∧ va.toNat - Config.win + n ≤ usable (s.unit uid) ∧
  scrSpoiled s (s.unit uid) (va.toNat - Config.win) n = false

/-- The n bytes at an address field of the window, and the memory with bytes written there. -/
def winBytes (s : State) (uid : Nat) (va : Word) (n : Nat) : List Byte :=
  scrRead s.mem (s.unit uid) (va.toNat - Config.win) n
def winPut (s : State) (uid : Nat) (m : Mem) (va : Word) (bs : List Byte) : Mem :=
  scrPut m (s.unit uid) (va.toNat - Config.win) bs

/-! ### Packets (R404 to R408) -/

/-- Port n has room in its buffer for asynchronous packets (R408). -/
def HasRoom (s : State) (n : Nat) : Prop := (s.link n).abuf.length < 256

/-- The packet has entered the buffer of port n, behind those there. -/
def Enters (s t : State) (n : Nat) (k : PacketKind) (p : Packet) : Prop :=
  (t.link n).abuf = (s.link n).abuf ++ [{ kind := k, p := p }]

/-- A packet can be answered: the port of the way back has room. -/
def CanAnswer (s : State) (p : Packet) : Prop := HasRoom s (outPort (backPacket s p 0 []))

/-- The packet is answered with a kind, a size or reason, and data, on the way back (R407). -/
def Answers (s t : State) (p : Packet) (k : PacketKind) (size : Nat) (data : List Byte) : Prop :=
  Enters s t (outPort (backPacket s p size data)) k (backPacket s p size data)

/-- The bytes of t are those of s, but for those of a run from key k whose bit is set in the mask of a write packet: of these
the packet's, whole, or a nibble of each (R75). -/
def MaskedAt (s t : State) (k n : Nat) (p : Packet) : Prop :=
  ∀ a, byteAt t a =
    if k ≤ a ∧ a < k + n ∧ p.bmask.getLsbD (a - k) = true then mixByte (byteAt s a) (aopMask p.aop) (p.data.getD (a - k) 0)
    else byteAt s a

/-- The unit has stopped at a failed request of its own (R131): its frame names the cause, the address and DETAIL. -/
def Failed (s t : State) (uid : Nat) (r : Remote) (c : Cause) (detail : Nat) : Prop :=
  (t.unit uid).st = .faulted ∧ t.firm.frames = s.firm.frames ++ [uid] ∧
  frameReg (t.unit uid) 0 = BitVec.ofNat 64 (causeCode c + 256 * (causeCode c / 16) + 0x1000 * r.waits.toNat +
    0x4000 * (s.unit uid).c.inui.toNat + 2 ^ 24 * (detail % 256)) ∧
  frameReg (t.unit uid) 1 = (s.unit uid).r.pc ∧
  frameReg (t.unit uid) 2 = BitVec.ofNat 64 ((r.cap.getD 0) * 2 ^ 56 + r.off.toNat) ∧
  (t.unit uid).r = (s.unit uid).r ∧ (∀ x ∈ (t.unit uid).m.remotes, x.tag ≠ r.tag) ∧ t.mem = s.mem

/-! ### Link engines (R392 to R401) -/

/-- The acting engine runs, and the period of its word has begun. -/
def AtLink (s : State) : Prop :=
  (s.link s.port).running = true ∧ (s.link s.port).stopped = false ∧
  (s.link s.port).period * 49152 ≤ s.tide.toNat

/-- Only links have changed, and whether requests are held for a plan (R415). -/
def OnlyLinks (s t : State) : Prop :=
  { t with links := s.links, pod := { t.pod with holding := s.pod.holding } } = s

/-- The acting engine has performed its word with the change l to itself, and nothing else has changed. -/
def EngineDid (s t : State) (l : Link) : Prop :=
  OnlyLinks s t ∧ t.link s.port = { l with widx := (s.link s.port).widx + 1 } ∧ ∀ n, n ≠ s.port → t.link n = s.link n

end Sys2Proof.Machine
end

