-- ==== Sys2Proof/Certificates/Slice0/Obligations.lean ====
section
/-! DEFINITION. The statements for the provers. Each is a proposition about the machine, with the rules of spec/ that it
formalises in its comment. -/

open Sys2Proof Sys2Proof.Machine

/-- Every ALU word that issues completes, writes into Gd the value that R117 gives for its function of Ga and Gb,
and changes nothing else: no flag, no memory, no other register but the PC and CLS. -/
def Obligations.AluFunctions : Prop :=
  ∀ (s : State) (d a b : BitVec 6),
    let x := gOf s a
    let y := gOf s b
    let n := y.toNat % 64
    (CanIssue s [a, b] →
      Does (.add d a b) s (SetsG s · d (BitVec.ofNat 64 (x.toNat + y.toNat))) ∧
      Does (.sub d a b) s (SetsG s · d (BitVec.ofInt 64 (x.toNat - y.toNat))) ∧
      Does (.mul d a b) s (SetsG s · d (BitVec.ofNat 64 (x.toNat * y.toNat))) ∧
      Does (.mulhs d a b) s (SetsG s · d (BitVec.ofInt 64 (x.toInt * y.toInt / 2 ^ 64))) ∧
      Does (.mulhu d a b) s (SetsG s · d (BitVec.ofNat 64 (x.toNat * y.toNat / 2 ^ 64))) ∧
      Does (.divs d a b) s (SetsG s · d
        (if y = 0 then BitVec.allOnes 64 else if x = BitVec.intMin 64 ∧ y = -1 then x
         else BitVec.ofInt 64 (x.toInt.tdiv y.toInt))) ∧
      Does (.divu d a b) s (SetsG s · d
        (if y = 0 then BitVec.allOnes 64 else BitVec.ofNat 64 (x.toNat / y.toNat))) ∧
      Does (.rems d a b) s (SetsG s · d
        (if y = 0 then x else if x = BitVec.intMin 64 ∧ y = -1 then 0
         else BitVec.ofInt 64 (x.toInt - x.toInt.tdiv y.toInt * y.toInt))) ∧
      Does (.remu d a b) s (SetsG s · d (if y = 0 then x else BitVec.ofNat 64 (x.toNat % y.toNat))) ∧
      Does (.and d a b) s (SetsG s · d (x &&& y)) ∧
      Does (.or d a b) s (SetsG s · d (x ||| y)) ∧
      Does (.xor d a b) s (SetsG s · d (x ^^^ y)) ∧
      Does (.andn d a b) s (SetsG s · d (x &&& ~~~y)) ∧
      Does (.shl d a b) s (SetsG s · d (BitVec.ofNat 64 (x.toNat * 2 ^ n))) ∧
      Does (.shr d a b) s (SetsG s · d (BitVec.ofNat 64 (x.toNat / 2 ^ n))) ∧
      Does (.sar d a b) s (SetsG s · d (BitVec.ofInt 64 (x.toInt / 2 ^ n))) ∧
      Does (.rol d a b) s (SetsG s · d ((x <<< n) ||| (x >>> (64 - n)))) ∧
      Does (.mins d a b) s (SetsG s · d (if x.toInt ≤ y.toInt then x else y)) ∧
      Does (.maxs d a b) s (SetsG s · d (if x.toInt ≤ y.toInt then y else x)) ∧
      Does (.minu d a b) s (SetsG s · d (if x.toNat ≤ y.toNat then x else y)) ∧
      Does (.maxu d a b) s (SetsG s · d (if x.toNat ≤ y.toNat then y else x))) ∧
    (CanIssue s [a] →
      (∃ k, k ≤ 64 ∧ (∀ i, i < k → x.getLsbD (63 - i) = false) ∧ (k = 64 ∨ x.getLsbD (63 - k) = true) ∧
        Does (.clz d a) s (SetsG s · d (BitVec.ofNat 64 k))) ∧
      (∃ k, k ≤ 64 ∧ (∀ i, i < k → x.getLsbD i = false) ∧ (k = 64 ∨ x.getLsbD k = true) ∧
        Does (.ctz d a) s (SetsG s · d (BitVec.ofNat 64 k))) ∧
      Does (.popc d a) s (SetsG s · d (BitVec.ofNat 64 ((List.range 64).countP (x.getLsbD ·)))) ∧
      (∃ v : Word, (∀ k, k < 8 → v.extractLsb' (8 * k) 8 = x.extractLsb' (8 * (7 - k)) 8) ∧
        Does (.bswap d a) s (SetsG s · d v)) ∧
      Does (.sextb d a) s (SetsG s · d ((x.setWidth 8).signExtend 64)) ∧
      Does (.sexth d a) s (SetsG s · d ((x.setWidth 16).signExtend 64)) ∧
      Does (.sextw d a) s (SetsG s · d ((x.setWidth 32).signExtend 64)))

/-- Each immediate word that issues completes and writes into Gd the ALU function of its name, of Ga and the
sign-extended immediate, and changes nothing else. The shift words act so at every immediate; R44 admits only 0
to 63 in a well-formed one. -/
def Obligations.ImmediateOperations : Prop :=
  ∀ (s : State) (d a : BitVec 6) (imm : BitVec 13), CanIssue s [a] →
    let x := gOf s a
    let y : Word := imm.signExtend 64
    let n := y.toNat % 64
    Does (.addi d a imm) s (SetsG s · d (BitVec.ofNat 64 (x.toNat + y.toNat))) ∧
    Does (.andi d a imm) s (SetsG s · d (x &&& y)) ∧
    Does (.ori d a imm) s (SetsG s · d (x ||| y)) ∧
    Does (.xori d a imm) s (SetsG s · d (x ^^^ y)) ∧
    Does (.shli d a imm) s (SetsG s · d (BitVec.ofNat 64 (x.toNat * 2 ^ n))) ∧
    Does (.shri d a imm) s (SetsG s · d (BitVec.ofNat 64 (x.toNat / 2 ^ n))) ∧
    Does (.sari d a imm) s (SetsG s · d (BitVec.ofInt 64 (x.toInt / 2 ^ n))) ∧
    Does (.muli d a imm) s (SetsG s · d (BitVec.ofNat 64 (x.toNat * y.toNat)))

/-- MOVI writes the sign-extended 19-bit immediate into Gd. MOVK replaces the halfword hw of Gd and keeps its other
bits. Both complete whenever they issue, and change nothing else. -/
def Obligations.MoveImmediates : Prop :=
  ∀ (s : State) (d : BitVec 6) (imm : BitVec 19) (hw : BitVec 2) (h : BitVec 16),
    (CanIssue s [] → Does (.movi d imm) s (SetsG s · d (imm.signExtend 64))) ∧
    (CanIssue s [d] → ∃ v : Word,
      (∀ i, i < 64 → v.getLsbD i = if i / 16 = hw.toNat then h.getLsbD (i % 16) else (gOf s d).getLsbD i) ∧
      Does (.movk d hw h) s (SetsG s · d v))

/-- CMP and CMPI that issue complete and write the comparison of R120 combined with Pa into Pd; each predicate word that issues
completes and writes its function of Pa and Pb into Pd. Nothing else changes; a write to P0 or to a stage predicate at or above
STG.NS is discarded. -/
def Obligations.PredicateWords : Prop :=
  ∀ (s : State) (pd pa pb : BitVec 4) (a b : BitVec 6) (imm : BitVec 6) (cc : Cond),
    let c := fun (x y : Word) => match cc with
      | .eq => decide (x = y)
      | .ne => decide (x ≠ y)
      | .lt => decide (x.toInt < y.toInt)
      | .ge => decide (y.toInt ≤ x.toInt)
      | .ltu => decide (x.toNat < y.toNat)
      | .geu => decide (y.toNat ≤ x.toNat)
      | .bits => decide (x &&& y ≠ 0)
      | .nbits => decide (x &&& y = 0)
    let p := pOf s pa
    let q := pOf s pb
    (CanIssue s [a, b] → Does (.cmp pd a b cc pa) s (SetsP s · pd (c (gOf s a) (gOf s b) && p))) ∧
    (CanIssue s [a] → Does (.cmpi pd a imm cc pa) s (SetsP s · pd (c (gOf s a) (imm.signExtend 64) && p))) ∧
    (CanIssue s [] →
      Does (.pand pd pa pb) s (SetsP s · pd (p && q)) ∧
      Does (.por pd pa pb) s (SetsP s · pd (p || q)) ∧
      Does (.pxor pd pa pb) s (SetsP s · pd (p ^^ q)) ∧
      Does (.pandn pd pa pb) s (SetsP s · pd (p && !q)) ∧
      Does (.pmov pd pa) s (SetsP s · pd p) ∧
      Does (.pnot pd pa) s (SetsP s · pd (!p)) ∧
      Does (.pset pd) s (SetsP s · pd true))

/-- A branch whose guard holds jumps to PC + 4 off20, and CALL then has G31 = PC + 4; with a false guard only the PC
and CLS move on. The register jumps clear bits 1:0 of the target, and CALLR reads its target before it writes
G31. A jump ends the clause. Nothing else changes. -/
def Obligations.BranchesAndCalls : Prop :=
  ∀ (s : State) (pq : BitVec 4) (neg : Bool) (off : BitVec 20) (a : BitVec 6),
    let g := pOf s pq != neg
    let t := s.u.r.pc + off.signExtend 64 * 4
    let clear := fun (v : Word) => BitVec.ofNat 64 (v.toNat / 4 * 4)
    let links := fun (x : State) (pc : Word) => OnlyRegs s x ∧ Jumped s x pc ∧ WroteG s x 31 (s.u.r.pc + 4)
    (CanIssue s [] →
      Does (.br pq neg off) s (fun x => if g then OnlyJumps s x t else OnlyAdvances s x) ∧
      Does (.call pq neg off) s (fun x => if g then links x t else OnlyAdvances s x)) ∧
    (CanIssue s [a] →
      Does (.jr a) s (OnlyJumps s · (clear (gOf s a))) ∧
      Does (.callr a) s (links · (clear (gOf s a)))) ∧
    (CanIssue s [31] → Does .ret s (OnlyJumps s · (clear (gOf s 31))))

/-- BRSTG lowers LC when it is above zero, shifts a new stage into STG.SV, and while a stage is valid advances the
ring and branches. BRCL branches and lowers LC while its guard holds and LC is above zero. PCL latches its guard
and governs n1 + 1 words; inside a clause it raises CLAUSE_ORDER. -/
def Obligations.CountedLoops : Prop :=
  ∀ (s : State) (pq : BitVec 4) (neg : Bool) (off : BitVec 20) (n1 : BitVec 3), CanIssue s [] →
    let r := s.u.r
    let t := r.pc + off.signExtend 64 * 4
    let g := pOf s pq != neg
    let lc : Word := if r.lc.toNat > 0 then r.lc - 1 else r.lc
    let sv : BitVec 8 := BitVec.ofNat 8 ((r.sv.toNat * 2 + (if r.lc.toNat > 0 then 1 else 0)) % 2 ^ r.ns.toNat)
    Does (.brstg off) s (fun x => OnlyRegs s x ∧
      { x.u.r with pc := r.pc, clsCount := r.clsCount, lc := r.lc, sv := r.sv, goff := r.goff } = r ∧
      x.u.r.lc = lc ∧ x.u.r.sv = sv ∧
      (if sv = 0 then Advanced s x ∧ x.u.r.goff = r.goff else Jumped s x t ∧ x.u.r.goff = r.goff + 1)) ∧
    Does (.brcl pq neg off) s (fun x => OnlyRegs s x ∧
      { x.u.r with pc := r.pc, clsCount := r.clsCount, lc := r.lc } = r ∧
      (if g ∧ r.lc.toNat > 0 then Jumped s x t ∧ x.u.r.lc = r.lc - 1 else Advanced s x ∧ x.u.r.lc = r.lc)) ∧
    (r.clsCount = 0 → Does (.pcl pq neg n1) s (fun x => OnlyRegs s x ∧
      x.u.r = { r with pc := r.pc + 4, clsPred := g, clsCount := n1.setWidth 4 + 1 } ∧ x.u.wait = none ∧
      x.u.ctr = issueCounted s.u)) ∧
    (r.clsCount ≠ 0 → Does (.pcl pq neg n1) s (Traps s · .clauseOrder 0 0))

/-- At level U, CSRR of each control register whose read latches nothing completes, gives Gd the register's fields
in the places that the manual gives them, with reserved bits 0, and changes nothing else: the heap triple, the
interrupt registers, the loop registers, CLS, RESFLAG, SLIP, SLIPMAX, COURSE, TIDEH, MODE, VSHAPE, FXSCALE, the
seeds, the counter latches and CSTATn, SCOPEPOL, the manifest constants and the fault frame. -/
def Obligations.ControlRegisterReads : Prop :=
  ∀ (s : State) (d : BitVec 6), CanIssue s [] → s.u.sup = false →
    let c := s.u.c
    let r := s.u.r
    let nat := fun (n : Nat) => (BitVec.ofNat 64 n : Word)
    let reads := fun (n : BitVec 12) (v : Word) => Does (.csrr d n) s (SetsG s · d v)
    reads 0x10 (nat (2 ^ 16 * c.heapb.toNat)) ∧ reads 0x11 (nat (2 ^ 16 * c.heapl.toNat)) ∧
    reads 0x12 (nat (2 ^ 16 * c.heapo.toNat)) ∧ reads 0x18 c.utvec ∧ reads 0x20 c.uihandler ∧ reads 0x21 c.uipc ∧
    reads 0x22 (nat c.uimask.toNat) ∧ reads 0x23 (nat c.uipend.toNat) ∧ reads 0x30 r.lc ∧
    reads 0x31 (nat (r.ns.toNat + 256 * r.sv.toNat)) ∧ reads 0x32 (nat r.goff.toNat) ∧
    reads 0x33 (nat (r.clsCount.toNat + 16 * r.clsPred.toNat)) ∧
    reads 0x40 (nat (c.resNr.toNat + 2 * c.resMulti.toNat + 2 ^ 16 * c.resPage.toNat)) ∧
    reads 0x50 (nat s.u.course.slip.toNat) ∧ reads 0x51 (nat s.u.course.slipmax.toNat) ∧
    reads 0x52 (nat (s.u.course.active.toNat + 16 * s.u.course.num.toNat + 2 ^ 32 * s.u.course.cc.toNat)) ∧
    reads 0x61 (nat c.tideh.toNat) ∧
    reads 0x70 (nat (c.ftz.toNat + 2 * c.det.toNat + 4 * c.coursed.toNat + 16 * c.fxsel.toNat + 256 * c.inui.toNat)) ∧
    reads 0x80 (nat (c.vn1.toNat + 2 ^ 16 * c.vm1.toNat)) ∧ reads 0xA0 c.seedl ∧ reads 0xA1 c.seedh ∧
    reads 0x900 (nat c.scopepol.toNat) ∧
    (∀ k, k < 8 → reads (BitVec.ofNat 12 (0x90 + k)) (tget c.fxscale k 0)) ∧
    (∀ k, k < 32 → reads (BitVec.ofNat 12 (0x101 + 2 * k)) (nat (tget s.u.ctr.latch k 0).toNat)) ∧
    (∀ k, k < 32 → reads (BitVec.ofNat 12 (0x140 + k)) (
      let absent := tget s.u.ctr.absent k false
      let event := if absent then 0 else counterEvent s.u.ctr k
      nat (event + 2 ^ 16 * absent.toNat + 2 ^ 17 * (decide (16 ≤ k) && (absent || event != 0)).toNat))) ∧
    (∀ k, k < 256 → reads (BitVec.ofNat 12 (0x800 + k)) (tget c.manifest k 0)) ∧
    (∀ k, k < 128 → reads (BitVec.ofNat 12 (0xC00 + k)) (tget c.frame k 0))

/-- CSRW, CSRS and CSRC that issue complete. CSRW writes Ga; CSRS and CSRC return the old value in Gd and write it OR
Ga, AND NOT Ga. At either level they replace the writable fields of UTVEC, UIHANDLER, UIPC, UIMASK, RESFLAG, MODE,
VCTL, FXSCALE, LC, STG and RING: addresses with bits 1:0 cleared, STG with NS held to 8 and no stage at or above it,
MODE without DET, COURSED and INUI; of UIPEND each clears the ones of Ga. A write to SLIP, COURSE, the tide halves,
the counters or the manifest is ignored, and a read of TIDEL or CLOn by CSRS or CSRC latches the other half. At level
U a write to a register that only level S writes (R104) traps with PRIVILEGED and has no effect; at level S it replaces
the fields of the unit whose frame firmware is handling (log 12). Nothing else changes. -/
def Obligations.ControlRegisterWrites : Prop :=
  ∀ (s : State) (d a : BitVec 6), CanIssue s [a] →
    let c := s.u.c
    let r := s.u.r
    let v := gOf s a
    let nat := fun (n : Nat) => (BitVec.ofNat 64 n : Word)
    let word := fun (x : Word) => x &&& ~~~(3 : Word)
    let setsC := fun (c' : Csrs) (x : State) =>
      OnlyUnit s x ∧ { back s x.u with c := s.u.c } = used s ∧ Advanced s x ∧ x.u.c = c'
    let setsR := fun (r' : Regs) (x : State) =>
      OnlyRegs s x ∧ Advanced s x ∧ { x.u.r with pc := r'.pc, clsCount := r'.clsCount } = r'
    let inC := fun (n : BitVec 12) (old : Word) (f : Word → Csrs) =>
      Does (.csrw n a) s (fun x => setsC (f v) x ∧ KeptRegs s x) ∧
      Does (.csrs d n a) s (fun x => setsC (f (old ||| v)) x ∧ WroteG s x d old) ∧
      Does (.csrc d n a) s (fun x => setsC (f (old &&& ~~~v)) x ∧ WroteG s x d old)
    let inR := fun (n : BitVec 12) (old : Word) (f : Word → Regs → Regs) =>
      Does (.csrw n a) s (setsR (f v r)) ∧ Does (.csrs d n a) s (setsR (f (old ||| v) (setG r d.toNat old))) ∧
      Does (.csrc d n a) s (setsR (f (old &&& ~~~v) (setG r d.toNat old)))
    let readOnly := fun (n : BitVec 12) (old : Word) =>
      Does (.csrw n a) s (OnlyAdvances s) ∧ Does (.csrs d n a) s (SetsG s · d old) ∧
      Does (.csrc d n a) s (SetsG s · d old)
    (inC 0x18 c.utvec (fun x => { c with utvec := word x }) ∧
      inC 0x20 c.uihandler (fun x => { c with uihandler := word x }) ∧
      inC 0x21 c.uipc (fun x => { c with uipc := word x }) ∧
      inC 0x22 (nat c.uimask.toNat) (fun x => { c with uimask := x.setWidth 7 }) ∧
      inC 0x23 (nat c.uipend.toNat) (fun _ => { c with uipend := c.uipend &&& ~~~(v.setWidth 7) }) ∧
      inC 0x40 (nat (c.resNr.toNat + 2 * c.resMulti.toNat + 2 ^ 16 * c.resPage.toNat))
        (fun x => { c with resNr := x.getLsbD 0, resMulti := x.getLsbD 1, resPage := x.extractLsb' 16 38 }) ∧
      inC 0x70 (nat (c.ftz.toNat + 2 * c.det.toNat + 4 * c.coursed.toNat + 16 * c.fxsel.toNat + 256 * c.inui.toNat))
        (fun x => { c with ftz := x.getLsbD 0, fxsel := x.extractLsb' 4 3 }) ∧
      inC 0x80 (nat (c.vn1.toNat + 2 ^ 16 * c.vm1.toNat))
        (fun x => { c with vn1 := x.extractLsb' 0 16, vm1 := x.extractLsb' 16 16 }) ∧
      (∀ k, k < 8 → inC (BitVec.ofNat 12 (0x90 + k)) (tget c.fxscale k 0) (fun x => { c with fxscale := tset c.fxscale k x }))) ∧
    (inR 0x30 r.lc (fun x r => { r with lc := x }) ∧
      inR 0x31 (nat (r.ns.toNat + 256 * r.sv.toNat)) (fun x r => { r with
        ns := BitVec.ofNat 4 (min 8 (x.toNat % 16))
        sv := BitVec.ofNat 8 (x.toNat / 256 % 2 ^ min 8 (x.toNat % 16)) }) ∧
      inR 0x32 (nat r.goff.toNat) (fun x r => { r with goff := x.setWidth 5 })) ∧
    (readOnly 0x50 (nat s.u.course.slip.toNat) ∧
      readOnly 0x52 (nat (s.u.course.active.toNat + 16 * s.u.course.num.toNat + 2 ^ 32 * s.u.course.cc.toNat)) ∧
      readOnly 0x61 (nat c.tideh.toNat) ∧
      (∀ k, k < 32 → readOnly (BitVec.ofNat 12 (0x101 + 2 * k)) (nat (tget s.u.ctr.latch k 0).toNat)) ∧
      (∀ k, k < 32 → readOnly (BitVec.ofNat 12 (0x160 + k)) 0) ∧
      (∀ k, k < 256 → readOnly (BitVec.ofNat 12 (0x800 + k)) (tget c.manifest k 0)) ∧
      Does (.csrw 0x60 a) s (OnlyAdvances s) ∧
      (let latches := fun (x : State) => setsC { c with tideh := BitVec.ofNat 32 (s.tide.toNat / 2 ^ 32) } x ∧
         WroteG s x d (nat (s.tide.toNat % 2 ^ 32))
       Does (.csrs d 0x60 a) s latches ∧ Does (.csrc d 0x60 a) s latches) ∧
      (∀ k, k < 32 → Does (.csrw (BitVec.ofNat 12 (0x100 + 2 * k)) a) s (OnlyAdvances s) ∧
        (let count := tget s.u.ctr.val k 0
         let latches := fun (x : State) => OnlyRegs s x ∧ WroteG s x d (nat (count.toNat % 2 ^ 32)) ∧
           x.u.r.pc = r.pc + 4 ∧ x.u.r.clsCount = clsAfter r ∧ x.u.wait = none ∧
           x.u.ctr = issueCounted { s.u with ctr := { s.u.ctr with
             latch := tset s.u.ctr.latch k (BitVec.ofNat 32 (count.toNat / 2 ^ 32)) } }
         Does (.csrs d (BitVec.ofNat 12 (0x100 + 2 * k)) a) s latches ∧
         Does (.csrc d (BitVec.ofNat 12 (0x100 + 2 * k)) a) s latches)) ∧
      (∀ k, k < 32 → Does (.csrw (BitVec.ofNat 12 (0x140 + k)) a) s (OnlyAdvances s))) ∧
    (s.u.sup = false → ∀ n : BitVec 12, (n = 0x10 ∨ n = 0x11 ∨ n = 0x12 ∨ n = 0x33 ∨ n = 0x51 ∨ n = 0xA0 ∨ n = 0xA1 ∨
        n = 0x900 ∨ (0xC00 ≤ n.toNat ∧ n.toNat ≤ 0xC7F)) →
      Does (.csrw n a) s (Traps s · .privileged 0 0) ∧ Does (.csrs d n a) s (Traps s · .privileged 0 0) ∧
      Does (.csrc d n a) s (Traps s · .privileged 0 0)) ∧
    (s.u.sup = true → ∀ k rest, s.firm.frames = k :: rest → k ≠ s.cur →
      let w := s.unit k
      let sets := fun (w' : Machine.Unit) (x : State) => { x with units := s.units } = s ∧ Advanced s x ∧
        back s x.u = used s ∧ x.unit k = w' ∧ ∀ j, j ≠ k → j ≠ s.cur → x.unit j = s.unit j
      let inS := fun (n : BitVec 12) (old : Word) (f : Word → Machine.Unit) =>
        Does (.csrw n a) s (fun x => sets (f v) x ∧ KeptRegs s x) ∧
        Does (.csrs d n a) s (fun x => sets (f (old ||| v)) x ∧ WroteG s x d old) ∧
        Does (.csrc d n a) s (fun x => sets (f (old &&& ~~~v)) x ∧ WroteG s x d old)
      inS 0x10 (nat (2 ^ 16 * w.c.heapb.toNat)) (fun x => { w with c := { w.c with heapb := x.extractLsb' 16 38 } }) ∧
      inS 0x11 (nat (2 ^ 16 * w.c.heapl.toNat)) (fun x => { w with c := { w.c with heapl := x.extractLsb' 16 38 } }) ∧
      inS 0x12 (nat (2 ^ 16 * w.c.heapo.toNat)) (fun x => { w with c := { w.c with heapo := x.extractLsb' 16 32 } }) ∧
      inS 0x33 (nat (w.r.clsCount.toNat + 16 * w.r.clsPred.toNat)) (fun x => { w with r := { w.r with
        clsCount := BitVec.ofNat 4 (min 8 (x.toNat % 16)), clsPred := x.getLsbD 4 } }) ∧
      inS 0x51 (nat w.course.slipmax.toNat) (fun x => { w with course := { w.course with slipmax := x.setWidth 32 } }) ∧
      inS 0xA0 w.c.seedl (fun x => { w with c := { w.c with seedl := x } }) ∧
      inS 0xA1 w.c.seedh (fun x => { w with c := { w.c with seedh := x } }) ∧
      inS 0x900 (nat w.c.scopepol.toNat) (fun x => { w with c := { w.c with scopepol := x.setWidth 3 } }) ∧
      ∀ m, m < 128 → inS (BitVec.ofNat 12 (0xC00 + m)) (tget w.c.frame m 0)
        (fun x => { w with c := { w.c with frame := tset w.c.frame m (x &&& frameMask m) } }))

/-- TIDEL_READ gives the low half of the tide time and latches the high half in TIDEH; COUNTER_LOW_READ of counter n
gives its low half and latches the high half in CHIn; TIDE gives the tide time whole. Nothing else changes. -/
def Obligations.LatchedReads : Prop :=
  ∀ (s : State) (d : BitVec 6) (n : BitVec 5), CanIssue s [] →
    let count := tget s.u.ctr.val n.toNat 0
    Does (.tidelRead d) s (fun x => OnlyUnit s x ∧ { back s x.u with c := s.u.c } = used s ∧ Advanced s x ∧
      WroteG s x d (BitVec.ofNat 64 (s.tide.toNat % 2 ^ 32)) ∧
      x.u.c = { s.u.c with tideh := BitVec.ofNat 32 (s.tide.toNat / 2 ^ 32) }) ∧
    Does (.counterLowRead d n) s (fun x => OnlyRegs s x ∧
      WroteG s x d (BitVec.ofNat 64 (count.toNat % 2 ^ 32)) ∧ x.u.r.pc = s.u.r.pc + 4 ∧
      x.u.r.clsCount = clsAfter s.u.r ∧ x.u.wait = none ∧
      x.u.ctr = issueCounted { s.u with ctr := { s.u.ctr with
        latch := tset s.u.ctr.latch n.toNat (BitVec.ofNat 32 (count.toNat / 2 ^ 32)) } }) ∧
    Does (.tide d) s (SetsG s · d s.tide)

/-- The all-zero word and every other reserved scalar word that the sequencer meets stop the unit with
ILLEGAL_OPCODE precisely, also when a clause with a false guard governs them. A reserved vector word is met by
the column its bits 31:29 name, or by the router, and a reserved matrix word by the matrix engine; the fault is
then that agent's and not precise. A reserved link word is never issued, and a reserved copy word is met at
take-up. -/
def Obligations.ReservedWordsTrap : Prop :=
  ∀ (s : State) (w : Code),
    let engine := fun (a : Agent) (x : State) => StoppedBy a false s x .illegalOpcode 0 0 s.u.r.pc ∧ x.u.ctr = s.u.ctr
    (sqIdle s.u = false → Does .ill s (Traps s · .illegalOpcode 0 0)) ∧
    (sqIdle s.u = false → Does (.reservedWord .scalar w) s (Traps s · .illegalOpcode 0 0)) ∧
    (live s.u = true → Does (.reservedWord .vector w) s
      (engine (if w.toNat / 2 ^ 29 < 6 then .col (w.toNat / 2 ^ 29) else .router))) ∧
    (live s.u = true → Does (.reservedWord .matrix w) s (engine .me)) ∧
    exec (.reservedWord .link w) s = .next s ∧ exec (.reservedWord .copy w) s = .next s

/-- NOP and UIPOLL only complete, UIPOLL leaving an entry point for interrupts. TRAP raises USER_TRAP with its
immediate as DETAIL and FPC the next word. ERET traps with PRIVILEGED at level U; at level S it resumes the unit
whose frame is first in firmware's queue from that frame. UIRET outside a handler raises UIRET_STATE. WAITI
completes when an enabled source is pending and otherwise waits; WAITI_WAKE completes it once one is. At a word
boundary with a source pending and enabled, a handler set, no handler running, no clause and no course (or at an
entry point), USER_INTERRUPT_ENTRY saves the PC in UIPC, sets MODE.INUI, exchanges the two banks of G24 to G31
and goes to UIHANDLER, leaving a wait that can be left. UIRET in a handler with no reflected fault exchanges the
banks back, clears INUI and goes to UIPC; with one open it also restores CLS from the frame and restarts the
stopped agents. -/
def Obligations.ControlWordsAndInterrupts : Prop :=
  (∀ (s : State) (imm : BitVec 8), CanIssue s [] →
    let pending := s.u.c.uipend &&& s.u.c.uimask ≠ 0
    let resumed := fun (u v : Machine.Unit) =>
      v.st = .running ∧ v.stopMask = 0 ∧
      v.r = { u.r with pc := tget u.c.frame 1 0 &&& ~~~(3 : Word), clsPred := (tget u.c.frame 3 0).getLsbD 4,
                       clsCount := BitVec.ofNat 4 (tget u.c.frame 3 0).toNat } ∧
      { v with st := u.st, stopMask := u.stopMask, wait := u.wait, stash := u.stash, r := u.r } = u
    Does .nop s (OnlyAdvances s) ∧
    Does .uipoll s (fun x => OnlyAdvances s x ∧ x.u.poll = true) ∧
    Does (.trap imm) s (fun x => Trapped s x .userTrap 0 imm.toNat (s.u.r.pc + 4) ∧ x.u.ctr = issueCounted s.u) ∧
    (s.u.sup = false → Does .eret s (Traps s · .privileged 0 0)) ∧
    (s.u.sup = true → ∀ k rest, s.firm.frames = k :: rest → k ≠ s.cur → (s.unit k).st = .faulted →
      Does .eret s (fun x => x.firm.frames = rest ∧ resumed (s.unit k) (x.unit k) ∧ Advanced s x ∧
        ∀ j, j ≠ k → j ≠ s.cur → x.unit j = s.unit j)) ∧
    (s.u.c.inui = false → Does .uiret s (Traps s · .uiretState 0 0)) ∧
    (pending → Does .waiti s (fun x => OnlyAdvances s x ∧ x.u.poll = true)) ∧
    (¬ pending → Does .waiti s (fun x => OnlyUnit s x ∧ { x.u with poll := s.u.poll } = { s.u with wait := some .waiti }))) ∧
  (∀ s : State,
    let u := s.u
    let swapped := fun (x : State) => ∀ n : BitVec 6, gOf x n =
      if 24 ≤ n.toNat ∧ n.toNat < 32 then tget u.r.shadow n.toNat 0 else gOf s n
    let clean := u.c.uipc &&& ~~~(3 : Word)
    (live u = true → u.halted = false → u.c.uipend &&& u.c.uimask ≠ 0 → u.c.inui = false → u.r.clsCount = 0 →
      u.c.uihandler ≠ 0 → (u.c.coursed = false ∨ u.poll = true) → (∀ w, u.wait = some w → interruptible w = true) →
      Does .userInterruptEntry s (fun x => OnlyUnit s x ∧
        x.u = { u with c := { u.c with uipc := u.r.pc, inui := true }, wait := none, poll := false, r := x.u.r } ∧
        x.u.r.pc = u.c.uihandler ∧ swapped x ∧
        { x.u.r with pc := u.r.pc, g := u.r.g, shadow := u.r.shadow } = u.r)) ∧
    (CanIssue s [] → u.c.inui = true → tget u.c.frame 0 0 &&& 0x2000 = 0 →
      Does .uiret s (fun x => OnlyUnit s x ∧ x.u.c = { u.c with inui := false } ∧ x.u.r.pc = clean ∧ swapped x ∧
        x.u.r.clsCount = clsAfter u.r ∧ x.u.wait = none ∧ x.u.ctr = issueCounted u ∧
        { back s x.u with c := u.c } = used s)) ∧
    (CanIssue s [] → u.c.inui = true → tget u.c.frame 0 0 &&& 0x2000 ≠ 0 →
      Does .uiret s (fun x => OnlyUnit s x ∧ x.u.c.inui = false ∧ x.u.r.pc = clean ∧ swapped x ∧
        x.u.r.clsCount.toNat = (tget u.c.frame 3 0).toNat % 16 ∧ x.u.r.clsPred = (tget u.c.frame 3 0).getLsbD 4 ∧
        tget x.u.c.frame 0 0 &&& 0x2000 = 0 ∧ x.u.stopMask = 0)) ∧
    (issuing u = true → u.wait = some .waiti → u.c.uipend &&& u.c.uimask ≠ 0 →
      Does .waitiWake s (fun x => OnlyAdvances s x ∧ x.u.poll = true)))

/-- A scalar load of 1, 2, 4 or 8 bytes at an aligned window address below the publish region, of bytes without an
uncorrectable error and without watchpoints, completes: Gd is the little-endian bytes, zero-extended by LDU and
sign-extended by LDS. LDM loads n1 + 1 words of 8 bytes into the registers from t upward. No byte of memory and
nothing else changes; the registers loaded wait for their data. A store of 1, 2, 4 or 8 bytes at an aligned
window address below the publish region, without watchpoints, completes: the bytes of Gt lie at the storage of
that logical scratch address, every byte outside them reads as before, and no register but the PC and CLS
changes. STM stores n1 + 1 registers of 8 bytes from t upward. -/
def Obligations.WindowAccesses : Prop :=
  (∀ (s : State) (t a : BitVec 6) (sz n1 : BitVec 2) (imm : BitVec 11), CanIssue s [a] →
    s.u.dbg.watches = [] → usable s.u ≤ 2 ^ 22 →
    let n := 2 ^ sz.toNat
    let va := gOf s a + imm.signExtend 64 * BitVec.ofNat 64 n
    let la := va.toNat - Config.win
    let bytes := scrRead s.mem s.u la n
    (va.toNat % n = 0 → Config.win ≤ va.toNat → la + n ≤ usable s.u → spoiledAt s (scrKey s.u la) n = false →
      Does (.ldu t a sz imm) s (SetsG s · t (BitVec.ofNat 64 (leNat bytes))) ∧
      Does (.lds t a sz imm) s (SetsG s · t ((BitVec.ofNat (8 * n) (leNat bytes)).signExtend 64))) ∧
    (let va := gOf s a + imm.signExtend 64 * 8
     let la := va.toNat - Config.win
     va.toNat % 8 = 0 → Config.win ≤ va.toNat → la + 8 * (n1.toNat + 1) ≤ usable s.u → s.spoiled = [] →
      Does (.ldm t a n1 imm) s (fun x => OnlyRegs s x ∧ Advanced s x ∧
        { x.u.r with g := s.u.r.g, pc := s.u.r.pc, clsCount := s.u.r.clsCount } = s.u.r ∧
        ∀ r : BitVec 6, gOf x r =
          if (r - t).toNat ≤ n1.toNat ∧ r ≠ 0 then BitVec.ofNat 64 (leNat (scrRead s.mem s.u (la + 8 * (r - t).toNat) 8))
          else gOf s r))) ∧
  (∀ (s : State) (t a : BitVec 6) (sz n1 : BitVec 2) (imm : BitVec 11),
    s.u.dbg.watches = [] → usable s.u ≤ 2 ^ 22 → s.u.id.segs ≤ s.u.id.segMap.length → s.u.id.segMap.Nodup →
    let n := 2 ^ sz.toNat
    let va := gOf s a + imm.signExtend 64 * BitVec.ofNat 64 n
    let la := va.toNat - Config.win
    let done := fun (x : State) => OnlyUnitMem s x ∧ back s x.u = used s ∧ Advanced s x ∧ KeptRegs s x
    (CanIssue s [t, a] → va.toNat % n = 0 → Config.win ≤ va.toNat → la + n ≤ usable s.u →
      Does (.st t a sz imm) s (fun x => done x ∧ SameBytesBut s x (scrKey s.u la) n ∧
        HoldsBytes x (scrKey s.u la) (toLe n (gOf s t).toNat))) ∧
    (let va := gOf s a + imm.signExtend 64 * 8
     let la := va.toNat - Config.win
     let key := fun (k : Nat) => scrKey s.u (la + 8 * k)
     CanIssue s (a :: (List.range (n1.toNat + 1)).map (fun k => t + BitVec.ofNat 6 k)) →
      va.toNat % 8 = 0 → Config.win ≤ va.toNat → la + 8 * (n1.toNat + 1) ≤ usable s.u →
      Does (.stm t a n1 imm) s (fun x => done x ∧
        (∀ b, (∀ k, k ≤ n1.toNat → b < key k ∨ key k + 8 ≤ b) → byteAt x b = byteAt s b) ∧
        ∀ k, k ≤ n1.toNat → HoldsBytes x (key k) (toLe 8 (gOf s (t + BitVec.ofNat 6 k)).toNat))))

/-- A misaligned scalar load or store outside the copy aperture raises DATA_MISALIGNED, an aligned one at a
non-canonical address NONCANONICAL, one at a window address beyond the bytes below the publish region SCRATCH_BOUNDS,
and one in the aperture that is not the 8-byte load of a channel's status or its 8-byte starting store COPY_APERTURE
(its order: log 34): each precisely, with the address in FADDR and no effect. An AMO at an aligned window address whose scope is allowed
returns the old value in Gd and stores the result of its function in the storage of the address, with every
other byte as before. A release needs the publish region drained and no earlier remote access; an acquire
refreshes what ordinary loads see. FADD acts on FP32 with 4 bytes, or under MODE.DET on the saturating
fixed-point sum of 8 bytes. CAS compares with the old value of Gd. An aligned AMO with scope POD while SCOPEPOL
bit 0 is clear, or SYSTEM while bit 0 or 1 is clear, traps with SCOPE_DENIED. -/
def Obligations.AccessTrapsAndAtomics : Prop :=
  (∀ (s : State) (t a : BitVec 6) (sz : BitVec 2) (imm : BitVec 11), CanIssue s [t, a] → CanIssue s [a] →
    s.u.dbg.watches = [] →
    let n := 2 ^ sz.toNat
    let va := gOf s a + imm.signExtend 64 * BitVec.ofNat 64 n
    let all := fun (c : Cause) => Does (.ldu t a sz imm) s (Traps s · c va 0) ∧ Does (.lds t a sz imm) s (Traps s · c va 0) ∧
      Does (.st t a sz imm) s (Traps s · c va 0)
    (inAperture va = false → va.toNat % n ≠ 0 → all .dataMisaligned) ∧
    (inAperture va = true → Does (.lds t a sz imm) s (Traps s · .copyAperture va 0) ∧
      (n ≠ 8 ∨ (va.toNat - Config.copyAp) % 64 ≠ 8 → Does (.ldu t a sz imm) s (Traps s · .copyAperture va 0)) ∧
      (n ≠ 8 ∨ (va.toNat - Config.copyAp) % 64 ≠ 0 → Does (.st t a sz imm) s (Traps s · .copyAperture va 0))) ∧
    (va.toNat % n = 0 → ¬ (va.toNat < 2 ^ 53 ∨ 2 ^ 64 - 2 ^ 53 ≤ va.toNat) → all .noncanonical) ∧
    (va.toNat % n = 0 → Config.win ≤ va.toNat → usable s.u < va.toNat - Config.win + n → all .scratchBounds)) ∧
  ((∀ (s : State) (o : Ord) (d a b : BitVec 6) (sc : Scope), CanIssue s [a, b, d] → CanIssue s [a, b] → CanIssue s [a, 0] →
        s.u.dbg.watches = [] → s.spoiled = [] → scopeDenied s.u.c sc = false →
        (o = .rel ∨ o = .ar → s.u.m.pub = [] ∧ s.u.m.remotes = []) →
        let va := gOf s a
        let key := scrKey s.u (va.toNat - Config.win)
        let y := gOf s b
        let old : Word := BitVec.ofNat 64 (memNat s.mem key 8)
        let updates := fun (n : Nat) (rd : BitVec 6) (was : Word) (new : Nat) (x : State) =>
          OnlyUnitMem s x ∧ Advanced s x ∧ WroteG s x rd was ∧
          { back s x.u with m := { x.u.m with snap := s.u.m.snap } } = used s ∧
          x.u.m.snap = (if o = .acq ∨ o = .ar then x.mem else s.u.m.snap) ∧
          SameBytesBut s x key n ∧ HoldsBytes x key (toLe n new)
        Config.win ≤ va.toNat → usable s.u ≤ 2 ^ 22 →
        (va.toNat % 8 = 0 → va.toNat - Config.win + 8 ≤ usable s.u →
          Does (.amoLd o d a sc) s (updates 8 d old old.toNat) ∧
          Does (.amoSt o a b sc) s (updates 8 0 old y.toNat) ∧
          Does (.amoSwap o d a b sc) s (updates 8 d old y.toNat) ∧
          Does (.amoCas o d a b sc) s (updates 8 d old (if old = gOf s d then y else old).toNat) ∧
          Does (.amoAdd o d a b sc) s (updates 8 d old (old + y).toNat) ∧
          Does (.amoAnd o d a b sc) s (updates 8 d old (old &&& y).toNat) ∧
          Does (.amoOr o d a b sc) s (updates 8 d old (old ||| y).toNat) ∧
          Does (.amoXor o d a b sc) s (updates 8 d old (old ^^^ y).toNat) ∧
          Does (.amoMins o d a b sc) s (updates 8 d old (if old.toInt ≤ y.toInt then old else y).toNat) ∧
          Does (.amoMinu o d a b sc) s (updates 8 d old (if old.toNat ≤ y.toNat then old else y).toNat) ∧
          Does (.amoMaxs o d a b sc) s (updates 8 d old (if old.toInt ≤ y.toInt then y else old).toNat) ∧
          Does (.amoMaxu o d a b sc) s (updates 8 d old (if old.toNat ≤ y.toNat then y else old).toNat)) ∧
        (va.toNat % 4 = 0 → va.toNat - Config.win + 4 ≤ usable s.u → s.u.c.det = false →
          let was := memNat s.mem key 4
          Does (.amoFadd o d a b sc) s (updates 4 d (BitVec.ofNat 64 was)
            (rne32b (addV (toVal .fp32 was) (toVal .fp32 (y.toNat % 2 ^ 32)))))) ∧
        (va.toNat % 8 = 0 → va.toNat - Config.win + 8 ≤ usable s.u → s.u.c.det = true →
          Does (.amoFadd o d a b sc) s (updates 8 d old
            (packInt .int64 (max (-(2 ^ 63)) (min (2 ^ 63 - 1) (old.toInt + (fixOperand s.u.c y).toInt))))))) ∧
  (∀ (s : State) (o : Ord) (d a b : BitVec 6) (sc : Scope), CanIssue s [a, b] → s.u.dbg.watches = [] →
      let va := gOf s a
      va.toNat % 8 = 0 → Config.win ≤ va.toNat → va.toNat - Config.win + 8 ≤ usable s.u →
      (sc = .pod ∧ s.u.c.scopepol.getLsbD 0 = false ∨
        sc = .system ∧ (s.u.c.scopepol.getLsbD 0 = false ∨ s.u.c.scopepol.getLsbD 1 = false)) →
      Does (.amoAdd o d a b sc) s (Traps s · .scopeDenied va 0) ∧ Does (.amoSwap o d a b sc) s (Traps s · .scopeDenied va 0)))

/-- A store of 8 bytes at an aligned address below the copy aperture that translates for a store and whose page is
not counted completes when the publish region has room: the unit's own bytes stand in the region (R125), no byte
of memory changes, and no register but the PC and CLS. With no entry for its granule and no room it traps with
PUBLISH_FULL. LDU of 8 bytes of a page that is not resident writes 0 into Gd and sets RESFLAG.NR with the page,
or MULTI when NR stands for another page. -/
def Obligations.GlobalAccesses : Prop :=
  (∀ (s : State) (t a : BitVec 6) (imm : BitVec 11) (tr : Tr), CanIssue s [t, a] → s.u.dbg.watches = [] →
      let va := gOf s a + imm.signExtend 64 * 8
      let gva := BitVec.ofNat 64 (va.toNat / 64 * 64)
      va.toNat % 8 = 0 → va.toNat < Config.copyAp → translate s s.cur va .store = .ok tr → tr.counted = false →
      (s.u.m.pub.length < pubCapacity s.u → Does (.st t a 3 imm) s (fun x =>
        (∀ k, byteAt x k = byteAt s k) ∧ Advanced s x ∧ KeptRegs s x ∧
        (∀ i, i < 8 → pubGet x.u.m.pub (va + BitVec.ofNat 64 i) = some ((gOf s t).extractLsb' (8 * i) 8)) ∧
        (∀ b : Word, (b.toNat < va.toNat ∨ va.toNat + 8 ≤ b.toNat) → pubGet x.u.m.pub b = pubGet s.u.m.pub b))) ∧
      (pubCapacity s.u = s.u.m.pub.length → (∀ e ∈ s.u.m.pub, e.gva ≠ gva) →
        Does (.st t a 3 imm) s (Traps s · .publishFull va 0))) ∧
  (∀ (s : State) (t a : BitVec 6) (imm : BitVec 11) (tr : Tr), CanIssue s [a] → s.u.dbg.watches = [] →
      let va := gOf s a + imm.signExtend 64 * 8
      let page := va.extractLsb' 16 38
      va.toNat % 8 = 0 → va.toNat < Config.copyAp → translate s s.cur va .load = .ok tr → tr.res = false →
      Does (.ldu t a 3 imm) s (fun x => OnlyUnit s x ∧ Advanced s x ∧ WroteG s x t 0 ∧ { back s x.u with c := s.u.c } = used s ∧
        x.u.c = if s.u.c.resNr = false then { s.u.c with resNr := true, resPage := page }
          else if s.u.c.resPage ≠ page then { s.u.c with resMulti := true } else s.u.c))

/-- A remote word through a valid capability that grants its access, to an endpoint in the pod with a route, at an
aligned offset, with send allowance left, no chord plan pending, and for a RAMO an allowed scope, sends one request
with the capability's package, VF and key, the offset modulo 2^56, its size and operation, and takes one from the
allowance. RLD and RAMO then wait for the reply; RST completes at once. No register and no byte of memory
changes yet. Through an invalid capability RLD and RST trap with CAP_INVALID, through one that does not grant
the access CAP_PERMISSION, and RLD without a route ENDPOINT_UNREACHABLE. -/
def Obligations.RemoteAccesses : Prop :=
  (∀ (s : State) (t a b : BitVec 6) (sz : BitVec 2) (imm : BitVec 11) (sc : Scope),
        CanIssue s [a] → CanIssue s [t, a] → CanIssue s [a, b] → CanIssue s [a, b, t] → CanIssue s [a, 0] →
        s.pod.plan = none → MayHold s →
        let p := gOf s a
        let ci := p.toNat / 2 ^ 56
        let cap := tget s.u.m.caps ci blankCap
        let sends := fun (kind : PacketKind) (off : BitVec 56) (n aop : Nat) (dst : Option Nat) (x : State) =>
          (x.unit s.cur).m.caps = tset s.u.m.caps ci { cap with allow := cap.allow - 1 } ∧
          ∃ q ∈ (x.unit s.cur).m.remotes, q.kind = kind ∧ q.cap = some ci ∧ q.off = off ∧ q.pkt.offset = off ∧
            q.pkt.dstPkg.toNat = cap.pkg.toNat ∧ q.pkt.dstVf.toNat = cap.vfn.toNat ∧ q.pkt.rkey = cap.rkey ∧
            q.pkt.size = BitVec.ofNat 8 n.log2 ∧ q.pkt.aop = BitVec.ofNat 8 aop ∧ q.dst = dst ∧ q.tag = s.nextTag ∧
            q.waits = (kind != .write)
        let waits := fun (x : State) => WaitsIn s x (.reply s.nextTag false)
        cap.v = true → cap.allow ≠ 0 → cap.pkg.toNat < podSize s →
        (let n := 2 ^ sz.toNat
         let off : BitVec 56 := (p + imm.signExtend 64 * BitVec.ofNat 64 n).setWidth 56
         off.toNat % n = 0 → (routeFor s cap.pkg.toNat off).isSome = true →
          (cap.r = true → Does (.rld t a sz imm) s (fun x => sends .read off n 0 (some t.toNat) x ∧ waits x)) ∧
          (cap.w = true → Does (.rst t a sz imm) s (fun x => sends .write off n 0 none x ∧ x.u.r.pc = s.u.r.pc + 4 ∧
            x.u.wait = none ∧
            KeptRegs s x ∧ x.mem = s.mem))) ∧
        (let off : BitVec 56 := p.setWidth 56
         cap.amo = true → scopeDenied s.u.c (if sc = .system then .system else .pod) = false → off.toNat % 8 = 0 →
          (routeFor s cap.pkg.toNat off).isSome = true →
          let rmw := fun (aop : Nat) (d : BitVec 6) (x : State) => sends .atomic off 8 aop (some d.toNat) x ∧ waits x
          Does (.ramoLd t a sc) s (rmw 0 t) ∧ Does (.ramoSt a b sc) s (rmw 1 0) ∧ Does (.ramoSwap t a b sc) s (rmw 2 t) ∧
          Does (.ramoCas t a b sc) s (rmw 3 t) ∧ Does (.ramoAdd t a b sc) s (rmw 4 t) ∧
          Does (.ramoAnd t a b sc) s (rmw 5 t) ∧ Does (.ramoOr t a b sc) s (rmw 6 t) ∧
          Does (.ramoXor t a b sc) s (rmw 7 t) ∧ Does (.ramoMins t a b sc) s (rmw 8 t) ∧
          Does (.ramoMinu t a b sc) s (rmw 9 t) ∧ Does (.ramoMaxs t a b sc) s (rmw 10 t) ∧
          Does (.ramoMaxu t a b sc) s (rmw 11 t) ∧
          (s.u.c.det = true → Does (.ramoFadd t a b sc) s (rmw 13 t))) ∧
        (let off : BitVec 56 := p.setWidth 56
         cap.amo = true → scopeDenied s.u.c (if sc = .system then .system else .pod) = false → off.toNat % 4 = 0 →
          (routeFor s cap.pkg.toNat off).isSome = true → s.u.c.det = false →
          Does (.ramoFadd t a b sc) s (fun x => sends .atomic off 4 12 (some t.toNat) x ∧ waits x))) ∧
  (∀ (s : State) (t a : BitVec 6) (sz : BitVec 2) (imm : BitVec 11), CanIssue s [a] → CanIssue s [t, a] →
      let p := gOf s a
      let ci := p.toNat / 2 ^ 56
      let cap := tget s.u.m.caps ci blankCap
      let off : BitVec 56 := (p + imm.signExtend 64 * BitVec.ofNat 64 (2 ^ sz.toNat)).setWidth 56
      let addr := BitVec.ofNat 64 (ci * 2 ^ 56 + off.toNat)
      (cap.v = false → Does (.rld t a sz imm) s (Traps s · .capInvalid addr 0) ∧
        Does (.rst t a sz imm) s (Traps s · .capInvalid addr 0)) ∧
      (cap.v = true → cap.r = false → Does (.rld t a sz imm) s (Traps s · .capPermission addr 0)) ∧
      (cap.v = true → cap.w = false → Does (.rst t a sz imm) s (Traps s · .capPermission addr 0)) ∧
      (cap.v = true → cap.r = true → routeFor s cap.pkg.toNat off = none →
        Does (.rld t a sz imm) s (Traps s · .endpointUnreachable addr 0)))

/-- SSET that issues completes, stores the writable bits of a field of a stream register, and nothing else; a write
of STAT, and of CUR at level U, is ignored; at level S it moves the stream's next element (log 14). SGET returns the
field, with STAT and CUR as the stream stands. With room in the queue, SOPEN of a stream whose fields pass the checks
of R177 appends an entry with a copy of the fields, MODE.FTZ and MODE.DET and the next activation number, and SCLOSE
appends a close: outside a course with nothing else changed, in a course with the due cycle of the course entry that
it takes, and a trap where none can be taken. With the queue full they wait; SOPEN of fields that fail the checks traps
with the check's cause and the stream in DETAIL. SWAIT of an idle stream completes, after which ordinary loads see what
is performed; else it waits. The end of the wait completes it. -/
def Obligations.StreamRegistersAndDispatch : Prop :=
  (∀ (s : State) (n : BitVec 4) (f : BitVec 5) (g : BitVec 6),
    let st := streamOf s.u n.toNat
    let ones : Nat := match f.toNat with
      | 0 => 2 ^ 11 - 1
      | 1 | 15 => 2 ^ 64 - 1
      | 2 | 3 | 4 | 5 | 6 | 7 => 2 ^ 16 - 1
      | 8 | 9 | 10 | 11 | 12 | 13 | 16 => 2 ^ 48 - 1
      | 14 => 2 ^ 20 - 1
      | 17 => 2 ^ 9 - 1
      | _ => 0
    let st' := { st with f := tset st.f f.toNat (gOf s g &&& BitVec.ofNat 64 ones) }
    let puts := fun (x : Stream) (u : Machine.Unit) => { u with ae := { u.ae with s := tset u.ae.s n.toNat x } }
    (CanIssue s [g] → f.toNat < 18 → Does (.sset n f g) s (Changes s · (puts st'))) ∧
    (CanIssue s [g] → Does (.sset n 18 g) s (OnlyAdvances s) ∧
      (s.u.sup = false → Does (.sset n 19 g) s (OnlyAdvances s)) ∧
      (s.u.sup = true → Does (.sset n 19 g) s (Changes s · (puts (setCur st ((gOf s g).toNat % 2 ^ 48)))))) ∧
    (CanIssue s [] → f.toNat < 18 → Does (.sget n f g) s (SetsG s · g (tget st.f f.toNat 0))) ∧
    (CanIssue s [] → Does (.sget n 18 g) s (SetsG s · g (BitVec.ofNat 64 (streamStat st))) ∧
      Does (.sget n 19 g) s (SetsG s · g (BitVec.ofNat 64 (streamCur st % 2 ^ 48))))) ∧
  (∀ (s : State) (n : BitVec 4), CanIssue s [] →
    let st := streamOf s.u n.toNat
    let room := s.u.ae.queue.length < Config.queueCap
    let entry := fun (close : Bool) (due : Option Nat) =>
      ({ close := close, stream := n.toNat, f := st.f, id := s.u.ae.nextId, cov := s.u.me.covered, ftz := s.u.c.ftz
         det := s.u.c.det, due := due, ord := s.u.ae.ord } : AeEntry)
    let ae := fun (e : AeEntry) =>
      { s.u.ae with queue := s.u.ae.queue ++ [e], nextId := s.u.ae.nextId + 1, ord := s.u.ae.ord + 1 }
    let numbered := fun (close : Bool) => (aeEntry close n.toNat (unpoll s)).2
    let dispatches := fun (i : Instr) (close : Bool) =>
      (room → s.u.course.active = false → Does i s (Changes s · (fun u => { u with ae := ae (entry close none) }))) ∧
      (room → s.u.course.active = true →
        (∀ due s', courseTake (numbered close) 0 = .ok (due, s') → Does i s (fun x =>
          x.u.ae = ae (entry close due) ∧ x.u.course = s'.u.course ∧ x.u.r.pc = s.u.r.pc + 4 ∧ x.u.wait = none ∧
          KeptRegs s x)) ∧
        (courseTake (numbered close) 0 = .error (.courseTable, 0) → Does i s (Traps s · .courseTable 0 0))) ∧
      (¬ room → MayHold s → Does i s (WaitsIn s · (.aeSpace (entry close none))))
    (openCause st.f = none → dispatches (.sopen n) false) ∧ dispatches (.sclose n) true ∧
    (∀ c, openCause st.f = some c → Does (.sopen n) s (Traps s · c 0 n.toNat))) ∧
  (∀ (s : State) (n : BitVec 4),
    let sees := fun (u : Machine.Unit) => { u with m := { u.m with snap := s.mem } }
    (CanIssue s [] → streamIdle s.u n.toNat = true → Does (.swait n) s (Changes s · sees)) ∧
    (CanIssue s [] → streamIdle s.u n.toNat = false → MayHold s → Does (.swait n) s (WaitsIn s · (.stream n.toNat))) ∧
    (issuing s.u = true → s.u.wait = some (.stream n.toNat) → streamIdle s.u n.toNat = true →
      Does .swaitComplete s (Changes s · sees)))

/-- Of a unit whose access engine may act: an entry that is due at the head of its queue attaches to a stream with at
most one activation; the first activation not started, those before it having issued all, starts; a gated one is
granted when its handle is FULL (a load) or FREE (a store or RMW), which it sets to DRAINING or FILLING; one that has
performed everything finishes, which raises the unit's completion counter and, gated, sets its handle FREE or FULL, and
leaves the stream once its elements are taken; a close ends the loads of its stream, cuts the stores to what they were
given, and leaves the queue once the stream is idle. Untraced, nothing else changes. -/
def Obligations.Activations : Prop :=
  ∀ (s : State) (n : BitVec 4) (e : AeEntry) (q : List AeEntry) (a : Act) (pre post : List Act),
    issuing s.u = true → s.u.stopMask.getLsbD 1 = false →
    let st := streamOf s.u n.toNat
    let due := e.due = none ∨ s.u.course.active = false ∨ ∃ d, e.due = some d ∧ d ≤ s.u.course.cc.toNat
    let fresh : Act :=
      { id := e.id, f := e.f, total := streamTotal e.f, started := false, granted := false, closed := false
        finished := false, issued := 0, taken := 0, given := 0, wrote := 0, performed := 0, half := false, flushTo := 0
        cov := e.cov, exited := false, inflight := [], queue := [], outq := [] }
    let acts := fun (x : State) => (streamOf x.u n.toNat).acts
    let putAe := fun (u : Machine.Unit) (as : List Act) =>
      { u with ae := { u.ae with s := tset u.ae.s n.toNat { st with acts := as } } }
    let only := fun (x : State) => x.u.r = s.u.r ∧ (s.u.sess = none → OnlyUnit s x ∧
      { x.u with ae := s.u.ae, m := { x.u.m with handles := s.u.m.handles, counter := s.u.m.counter } } = s.u)
    let here := st.acts = pre ++ a :: post ∧ ∀ y ∈ pre ++ post, y.id ≠ a.id
    let issuedAll := fun (y : Act) => y.half = false ∧ (if actDir y = 0 then y.issued else y.wrote) = y.total
    let isOver := fun (y : Act) => if actDir y = 0 then y.started = true ∧ y.half = false ∧ y.issued = y.total ∧ y.inflight = []
      else y.performed = y.total
    let cut := fun (y : Act) => if y.closed then some y else if actDir y = 0 then none else
      some { y with closed := true, total := y.given, flushTo := y.given, issued := min y.issued y.given, inflight := []
                    queue := [] }
    let ended := st.acts.filter fun y => actDir y = 0 && !y.finished
    (s.u.ae.queue = e :: q → e.close = false → e.stream = n.toNat → due → st.acts.length < 2 →
      exec .activationAttach s = .next (s.onU fun u =>
        { putAe u (st.acts ++ [fresh]) with ae := { (putAe u (st.acts ++ [fresh])).ae with queue := q } })) ∧
    (here → (∀ y ∈ pre, y.started = true ∧ issuedAll y) → a.started = false → Does (.activationStart n) s (fun x =>
      acts x = pre ++ { a with started := true } :: post ∧ x.u.m.handles = s.u.m.handles ∧
      x.u.m.counter = s.u.m.counter ∧ only x)) ∧
    (here → (∀ y ∈ pre, y.started = false ∨ gated y.f = false ∨ y.granted = true) → a.started = true →
      a.granted = false → gated a.f = true → handleOf s.u (gateOf a.f) = (if actDir a = 0 then .full else .free) →
      exec (.streamGateGrant n) s = .next (s.onU fun u =>
        { putAe u (pre ++ { a with granted := true } :: post) with m := { u.m with
          handles := tset u.m.handles (gateOf a.f) (if actDir a = 0 then .draining else .filling) } })) ∧
    (here → (∀ y ∈ pre, ¬ isOver y) → isOver a → a.finished = false → Does (.activationFinish n) s (fun x =>
      acts x = (if a.queue = [] then pre ++ post else pre ++ { a with finished := true } :: post) ∧
      x.u.m.counter = s.u.m.counter + 1 ∧
      x.u.m.handles = (if gated a.f then
        tset s.u.m.handles (gateOf a.f) (if actDir a = 0 ∨ a.closed = true then .free else .full) else s.u.m.handles) ∧
      only x)) ∧
    (here → (∀ y ∈ pre, ¬ isOver y) → isOver a → a.finished = true → a.queue = [] →
      exec (.activationFinish n) s = .next (s.onU fun u => putAe u (pre ++ post))) ∧
    (s.u.ae.queue = e :: q → e.close = true → e.stream = n.toNat → due → Does .streamClose s (fun x =>
      acts x = st.acts.filterMap cut ∧ x.u.ae.queue = (if st.acts.filterMap cut = [] then q else e :: q) ∧
      x.u.m.counter.toNat = (s.u.m.counter.toNat + ended.length + (if st.acts.filterMap cut = [] then 1 else 0)) % 2 ^ 64 ∧
      (∀ h, handleOf x.u h = if ended.any (fun y => gated y.f && gateOf y.f == h) then .free else handleOf s.u h) ∧
      only x))

/-- Of a unit whose access engine may act: the next access of the one activation of a stream, started and past its
gate. A load or RMW with room in its queue puts the element of its ordinal in flight: of kind 0 the bytes at the
element's scratch address, with its scale where the stream has scales; of kind 1 the performed bytes of a resident
page, or 0 with the residency bit of the ordinal for a load of a page that is not; of kind 2 the word of the tile,
where a consumed token orders it after the writes; of kind 3 it sends the read of the element. A store or RMW whose
next chunk may be written writes, of kind 0, the last element given to it into its bytes and no others, and of kind 2
into the tile. The return of an access moves the oldest element in flight into the operand queue. -/
def Obligations.StreamAccesses : Prop :=
  ∀ (s : State) (n : BitVec 4) (a : Act), issuing s.u = true → s.u.stopMask.getLsbD 1 = false →
    let st := streamOf s.u n.toNat
    let f := a.f
    let nb := max 1 (elemBytes f)
    let place := fun (e : Nat) => elemAt f (actBase f) e
    let ready := st.acts = [a] ∧ a.started = true ∧ (gated f = true → a.granted = true) ∧ a.half = false ∧
      (actDir a ≠ 0 → a.wrote < a.total)
    let kept := fun (x : State) => (∀ k, byteAt x k = byteAt s k) ∧ x.u.r = s.u.r ∧ ∀ k, k ≠ s.cur → x.unit k = s.unit k
    let flies := fun (v : Word) (sc : Option (BitVec 32)) (x : State) => (streamOf x.u n.toNat).acts =
      [{ a with issued := a.issued + 1, inflight := a.inflight ++ [{ bits := v, scale := sc }] }]
    (ready → actDir a ≠ 1 → pendingWrite a = none → a.issued < a.total → roomFor st a a.issued = true →
      let p := place a.issued
      let value := fun (bs : List Byte) => if elemBytes f = 0 then BitVec.ofNat 64 (leNat bs / 16 ^ p.2 % 16)
        else (BitVec.ofNat 64 (leNat bs) : Word)
      let sa := scaleAt f (sbaseOf f) a.issued
      (Machine.kindOf f = 0 → s.spoiled = [] → 0 ≤ p.1 → p.1.toNat + nb ≤ usable s.u →
        (blkLen f = 0 → Does (.streamAccess n) s (fun x => flies (value (scrRead s.mem s.u p.1.toNat nb)) none x ∧ kept x)) ∧
        (blkLen f ≠ 0 → 0 ≤ sa → sa.toNat + scaleBytes f ≤ usable s.u → Does (.streamAccess n) s (fun x =>
          flies (value (scrRead s.mem s.u p.1.toNat nb))
            (some (BitVec.ofNat 32 (leNat (scrRead s.mem s.u sa.toNat (scaleBytes f))))) x ∧ kept x))) ∧
      (Machine.kindOf f = 1 → blkLen f = 0 → s.spoiled = [] → ∀ tr k, translate s s.cur (BitVec.ofInt 64 p.1) .load = .ok tr →
        tr.place = .mem k → tr.wb = false →
        (tr.res = true → Does (.streamAccess n) s (fun x => flies (value (memRead s.mem k nb)) none x ∧ x.u.r = s.u.r)) ∧
        (tr.res = false → actDir a = 0 → Does (.streamAccess n) s (fun x => flies 0 none x ∧ kept x ∧
          (rmaskOf f ≠ 0 → (tget x.u.ve.masks (rmaskOf f) 0).getLsbD (min a.issued 65535) = true)))) ∧
      (Machine.kindOf f = 2 → blkLen f = 0 →
        let t := baseOf f / 16384
        let i := (baseOf f % 16384 : Nat) + nestOffset f 6 0 a.issued
        0 ≤ i → i < 16384 → tget s.u.me.wrote t 0 ≤ a.cov → Does (.streamAccess n) s (fun x =>
          flies ((tget (tget s.u.me.st.tiles t blankTile).w i.toNat 0).setWidth 64) none x ∧ kept x)) ∧
      (Machine.kindOf f = 3 → blkLen f = 0 →
        let ci := baseOf f / 2 ^ 56
        let c := tget s.u.m.caps ci blankCap
        let off := BitVec.ofInt 56 p.1
        c.v = true → c.r = true → c.allow ≠ 0 → (routeFor s c.pkg.toNat off).isSome = true →
        Does (.streamAccess n) s (fun x => flies (BitVec.ofNat 64 p.2) none x ∧ x.u.r = s.u.r ∧
          (tget x.u.m.caps ci blankCap).allow = c.allow - 1 ∧
          ∃ r ∈ x.u.m.remotes, r.kind = .read ∧ r.cap = some ci ∧ r.off = off ∧ r.strm = some (n.toNat, a.id, 2 * a.issued)))) ∧
    (ready → actDir a ≠ 0 → ∀ e, a.outq = [e] → mayWrite a a.wrote = true → (blkLen f = 0 ∨ e.scale = none) →
      let wrote := fun (x : State) =>
        (streamOf x.u n.toNat).acts = [{ a with wrote := a.wrote + 1, performed := a.performed + 1, outq := [] }] ∧ x.u.r = s.u.r
      let p := place a.wrote
      let key := scrKey s.u p.1.toNat
      (Machine.kindOf f = 0 → 0 ≤ p.1 → p.1.toNat + nb ≤ usable s.u → p.1 % nb = 0 → elemBytes f ≠ 0 →
        Does (.streamAccess n) s (fun x => wrote x ∧ HoldsBytes x key (toLe nb e.bits.toNat) ∧ SameBytesBut s x key nb)) ∧
      (Machine.kindOf f = 0 → 0 ≤ p.1 → p.1.toNat + nb ≤ usable s.u → elemBytes f = 0 →
        Does (.streamAccess n) s (fun x => wrote x ∧ SameBytesBut s x key 1 ∧
          (byteAt x key).toNat = if p.2 = 0 then (byteAt s key).toNat / 16 * 16 + e.bits.toNat % 16
            else (byteAt s key).toNat % 16 + 16 * (e.bits.toNat % 16))) ∧
      (Machine.kindOf f = 2 →
        let t := baseOf f / 16384
        let i := (baseOf f % 16384 : Nat) + nestOffset f 6 0 a.wrote
        0 ≤ i → i < 16384 → tget s.u.me.used t 0 ≤ a.cov → meNames s t = false → Does (.streamAccess n) s (fun x =>
          wrote x ∧ (∀ k, byteAt x k = byteAt s k) ∧ (tget x.u.me.st.tiles t blankTile).live = true ∧
          tget (tget x.u.me.st.tiles t blankTile).w i.toNat 0 = e.bits.setWidth 32))) ∧
    (∀ e rest, st.acts = [a] → a.inflight = e :: rest → flying s.u n.toNat a = false → (a.half = true → rest ≠ []) →
      exec (.streamAccessReturn n) s = .next (s.onU fun u => { u with ae := { u.ae with
        s := tset u.ae.s n.toNat { st with acts := [{ a with inflight := rest, queue := a.queue ++ [e] }] } } }))

/-- MCLR, MSET and MAND write a mask of M1 to M7 and nothing else, and a write to M0 is discarded. MPOP gives the
number of 1 bits of a mask and MFIRST the index of its lowest 1 bit, or 65,536. -/
def Obligations.MaskWords : Prop :=
  ∀ (s : State) (md ma mb : BitVec 3) (d : BitVec 6), CanIssue s [] →
    let mask := fun (m : BitVec 3) => if m = 0 then BitVec.allOnes 65536 else tget s.u.ve.masks m.toNat 0
    let sets := fun (v : BitVec 65536) (x : State) => Changes s x (fun u => if md = 0 then u else
      { u with ve := { u.ve with masks := tset u.ve.masks md.toNat v } })
    Does (.mclr md) s (sets 0) ∧ Does (.mset md) s (sets (BitVec.allOnes 65536)) ∧
    Does (.mand md ma mb) s (sets (mask ma &&& mask mb)) ∧
    Does (.mpop d ma) s (SetsG s · d (BitVec.ofNat 64 ((List.range 65536).countP ((mask ma).getLsbD ·)))) ∧
    (∃ k, k ≤ 65536 ∧ (∀ i, i < k → (mask ma).getLsbD i = false) ∧ (k = 65536 ∨ (mask ma).getLsbD k = true) ∧
      Does (.mfirst d ma) s (SetsG s · d (BitVec.ofNat 64 k)))

/-- CSTART of a coursed unit with no course running, a valid record whose start has come and idle engines begins the
course with CC and SLIP 0, also with engines busy it traps with COURSE_STATE; before its start it waits, and outside
COURSED mode or in a course it traps with COURSE_STATE. CEND with every entry taken and the engines idle ends the course
and leaves an entry point; with the engines busy it waits; with entries left it traps with COURSE_TABLE. CWAIT
completes at its tide time, waits before it, and traps in a course. The ends of these waits complete the words. In a
running course, where something has not been done at its time, a hold cycle within the slip budget holds the unit for
the cycle and raises SLIP by 1, with CC as it was; beyond the budget COURSE_SLIP is raised at once at the agent that
could not go on. A held unit with SLIP above SLIPMAX stops with COURSE_SLIP, and CC at its highest value in a cycle
that is no hold raises COURSE_TABLE at the sequencer. A word whose wait holds the course makes the cycle a hold. -/
def Obligations.Courses : Prop :=
  (∀ (s s' : State) (a : BitVec 6) (tstart nent slipmax entoff : Nat),
    let x := gOf s a
    let start := (s.recOf s.u.id.recNo).tstart + tstart
    let num := BitVec.ofNat 12 x.toNat
    let course := fun (n : BitVec 12) =>
      ({ active := true, num := n, cc := 0, slip := 0, slipmax := BitVec.ofNat 32 slipmax, nent := nent, entoff := entoff
         taken := 0, lastDue := [] } : Course)
    let begun := fun (n : BitVec 12) (u : Machine.Unit) => { u with course := course n }
    let ended := fun (u : Machine.Unit) => { u with course := { u.course with active := false } }
    (CanIssue s [a] → s.u.c.coursed = true → s.u.course.active = false → x.toNat < 4096 →
      courseRecord (unpoll s) x.toNat = .ok ((tstart, nent, slipmax, entoff), s') →
      (start ≤ s.tide.toNat → enginesIdle s.u = true → Does (.cstart a) s (fun t =>
        t.u.course = course num ∧ t.u.r.pc = s.u.r.pc + 4 ∧ t.u.wait = none ∧ KeptRegs s t)) ∧
      (start ≤ s.tide.toNat → enginesIdle s.u = false → Does (.cstart a) s (Traps s · .courseState 0 0)) ∧
      (s.tide.toNat < start → Does (.cstart a) s (fun t =>
        t.u.wait = some (.courseStart num start slipmax nent entoff) ∧ t.u.r = s.u.r))) ∧
    (CanIssue s [a] → s.u.c.coursed = false ∨ s.u.course.active = true → Does (.cstart a) s (Traps s · .courseState 0 0)) ∧
    (CanIssue s [a] → s.u.c.coursed = true → s.u.course.active = false →
      4096 ≤ x.toNat ∨ courseRecord (unpoll s) x.toNat = .error (.courseTable, 0) →
      Does (.cstart a) s (Traps s · .courseTable 0 0)) ∧
    (issuing s.u = true → s.u.wait = some (.courseStart num start slipmax nent entoff) → start ≤ s.tide.toNat →
      enginesIdle s.u = true → Does .courseStart s (Changes s · (begun num))) ∧
    (CanIssue s [] → s.u.course.active = false → Does .cend s (Traps s · .courseState 0 0)) ∧
    (CanIssue s [] → s.u.course.active = true → s.u.course.nent ≤ s.u.course.taken →
      (enginesIdle s.u = true → Does .cend s (fun t => Changes s t ended ∧ t.u.poll = true)) ∧
      (enginesIdle s.u = false → Does .cend s (WaitsIn s · .courseEnd))) ∧
    (CanIssue s [] → s.u.course.active = true → s.u.course.taken < s.u.course.nent →
      Does .cend s (Traps s · .courseTable 0 0)) ∧
    (issuing s.u = true → s.u.wait = some .courseEnd → enginesIdle s.u = true →
      Does .courseEndComplete s (fun t => Changes s t ended ∧ t.u.poll = true)) ∧
    (CanIssue s [a] → s.u.course.active = true → Does (.cwait a) s (Traps s · .courseState 0 0)) ∧
    (CanIssue s [a] → s.u.course.active = false →
      (x.toNat ≤ s.tide.toNat → Does (.cwait a) s (OnlyAdvances s)) ∧
      (s.tide.toNat < x.toNat → Does (.cwait a) s (WaitsIn s · (.tideAt x)))) ∧
    (issuing s.u = true → s.u.wait = some (.tideAt x) → x.toNat ≤ s.tide.toNat → Does .cwaitComplete s (OnlyAdvances s))) ∧
  (∀ s : State, s.u.restored = true → s.u.course.active = true →
    let c := s.u.course
    let up : Course := { c with slip := if c.slip = BitVec.allOnes 32 then c.slip else c.slip + 1 }
    (s.u.st = .running → (holdAgent s.u).isSome = true → c.slip.toNat < c.slipmax.toNat →
      Does .holdCycle s (fun x => OnlyUnit s x ∧ { x.u with ctr := s.u.ctr } = { s.u with st := .held, course := up })) ∧
    (s.u.st = .running → ∀ a, holdAgent s.u = some a → c.slipmax.toNat < up.slip.toNat → Does .holdCycle s (fun x =>
      x.u.st = .faulted ∧ x.u.course = up ∧ x.u.r = s.u.r ∧ x.mem = s.mem ∧ x.firm.frames = s.firm.frames ++ [s.cur] ∧
      (frameReg x.u 0).toNat % 256 = causeCode .courseSlip ∧ (frameReg x.u 0).toNat / 2 ^ 16 % 256 = agentCode a)) ∧
    (s.u.st = .held → c.slipmax.toNat < c.slip.toNat → Does .courseSlip s (fun x =>
      StoppedBy ((holdAgent s.u).getD .sq) false s x .courseSlip 0 0 s.u.r.pc ∧ x.u.ctr = s.u.ctr)) ∧
    (s.u.st = .running → holdAgent s.u = none → c.cc = BitVec.allOnes 32 → Does .courseCcOverflow s (fun x =>
      StoppedBy .sq false s x .courseTable 0 0 s.u.r.pc ∧ x.u.ctr = s.u.ctr)) ∧
    (∀ n : BitVec 4, CanIssue s [] → streamIdle s.u n.toNat = false → c.slip.toNat < c.slipmax.toNat →
      Does (.swait n) s (fun x => x.u.st = .held ∧ x.u.course = up ∧ x.u.wait = some (.stream n.toNat))))

/-- GNSET stores the writable bits of a generator field and GNGET returns the field. GNPEEK gives the element at
coordinates (Ga, Gb) of a well-formed register with the unit's key, zero-extended, and traps with GEN_FORM on an
ill-formed one. A write of FADDR with a good DIM, an aligned canonical address and readable entries loads the
table, of the scratch window the FP32 values there, and waits for it, and the end of the load completes the word; a
bad DIM traps with GEN_FORM. -/
def Obligations.GeneratorWords : Prop :=
  ∀ (s : State) (n : BitVec 3) (f : BitVec 5) (d a b : BitVec 6),
    let r := genOf s.u n.toNat
    let ones : Nat := match f.toNat with
      | 0 => 2 ^ 12 - 1
      | 1 | 9 => 2 ^ 64 - 1
      | 2 | 3 | 6 => 2 ^ 48 - 1
      | 4 | 5 => 2 ^ 32 - 1
      | 7 => 2 ^ 16 - 1
      | 8 => 2 ^ 9 - 1
      | _ => 0
    let pos := fun (field : Nat) (x : Word) => ((tget r.f field 0).toNat + x.toNat % 2 ^ 48) % 2 ^ 48
    let va := gOf s a
    let dim := (tget r.f 8 0).toNat
    let r' := { r with f := tset r.f f.toNat (gOf s d &&& BitVec.ofNat 64 ones) }
    (CanIssue s [d] → Does (.gnset n f d) s (Changes s · (fun u => { u with gns := tset u.gns n.toNat r' }))) ∧
    (CanIssue s [] → Does (.gnget n f d) s (SetsG s · d (tget r.f f.toNat 0))) ∧
    (CanIssue s [a, b] → genBad r = false →
      let swap := (tget r.f 0 0).getLsbD 10
      let x := if swap then gOf s b else gOf s a
      let y := if swap then gOf s a else gOf s b
      Does (.gnpeek d a b n) s (SetsG s · d
        (BitVec.ofNat 64 (genBits (genKey s.u r) r s.u.c.ftz (pos 2 x) (pos 3 y))))) ∧
    (CanIssue s [a, b] → genBad r = true → Does (.gnpeek d a b n) s (Traps s · .genForm 0 n.toNat)) ∧
    (CanIssue s [a] → dimGood dim = false → Does (.gnsetFaddr n a) s (Traps s · .genForm 0 0)) ∧
    (CanIssue s [a] → dimGood dim = true → va.toNat % 4 = 0 → va.toNat + 4 * (dim / 2) ≤ 2 ^ 53 →
      (∀ k, k < dim / 2 → freqCause (unpoll s) (va + BitVec.ofNat 64 (4 * k)) = none ∧
        freqBusy (unpoll s) (va + BitVec.ofNat 64 (4 * k)) = false) → MayHold s →
      Does (.gnsetFaddr n a) s (fun x => x.u.wait = some (.freq n.toNat) ∧ x.u.r = s.u.r ∧
        (genOf x.u n.toNat).f = tset r.f 9 va)) ∧
    (CanIssue s [a] → dimGood dim = true → va.toNat % 4 = 0 → Config.win ≤ va.toNat →
      va.toNat - Config.win + 4 * (dim / 2) ≤ usable s.u → usable s.u ≤ 2 ^ 22 → s.spoiled = [] → MayHold s →
      Does (.gnsetFaddr n a) s (fun x => WaitsIn s x (.freq n.toNat) ∧ (genOf x.u n.toNat).f = tset r.f 9 va ∧
        ∀ k, k < dim / 2 → tget (genOf x.u n.toNat).freq k 0 =
          BitVec.ofNat 32 (leNat (scrRead s.mem s.u (va.toNat - Config.win + 4 * k) 4)))) ∧
    (issuing s.u = true → s.u.wait = some (.freq n.toNat) → Does .freqTableLoaded s (OnlyAdvances s))

/-- Each arithmetic word of column 0 or 1, of floating sources, takes one element of each source and gives the
destination the exact result of its function of a and b′ (−b under negb, or the constant), rounded once to FP32
and converted to the destination's format under SAT and FTZ, or 0 where the mask bit is 0; VFMA and VFMAK
replace the old element of a read-modify-write destination, or keep it where the bit is 0; VSEL takes a where
the bit is 1, else b; VFILL gives the constant. No register and no byte of memory changes. -/
def Obligations.VectorArithmetic : Prop :=
  ∀ (s : State) (col : BitVec 1) (w : VeOps) (v : VWord) (rest : List VWord) (aa ab ad : Act) (xa xb xd : Elem) (r : VeRun) (bit : Bool),
    let ftz := entryFtz s.u
    let n := v.shN * v.shM
    let fa := streamFmt aa.f
    let fb := streamFmt ab.f
    let fd := streamFmt ad.f
    AtColumn s col.toNat v rest → s.u.ve.run = some r → maskBit s.u r v.seq w.m.toNat v.ord = some bit →
    let c := col.toNat
    let a := workVal (widenFmt ftz fa xa.bits.toNat)
    let b := workVal (negW w.negb (widenFmt ftz fb xb.bits.toNat))
    let k := workVal (negW w.negb (.f32 (entryK s.u w.b)))
    let old := fmtVal ftz fd xd.bits.toNat
    let out := fun (y : Val) => rawElem (outBits fd w.sat ftz (workF y))
    let put := fun (y : Val) => if bit then out y else rawElem 0
    let one := fun (y : Elem) (x : State) => OrdinalDone s x c v rest n ∧ Took x w.a aa ∧ Gave x w.d ad y
    let two := fun (y : Elem) (x : State) => one y x ∧ Took x w.b ab
    let acc := fun (y : Val) (x : State) => OrdinalDone s x c v rest n ∧ Took x w.a aa ∧
      Replaced x w.d ad (if bit then out y else { xd with scale := none })
    v.wt = 0 →
    (Supplies s w.a aa xa → isFloat fa = true → Accepts s w.d ad →
      Does (.vabs col w) s (one (put (absV a))) ∧ Does (.vneg col w) s (one (put (negV a))) ∧
      Does (.vaddk col w) s (one (put (addV a k))) ∧ Does (.vmulk col w) s (one (put (mulV a k))) ∧
      Does (.vmink col w) s (one (put (minV a k))) ∧ Does (.vmaxk col w) s (one (put (maxV a k)))) ∧
    (Supplies s w.a aa xa → Supplies s w.b ab xb → isFloat fa = true → isFloat fb = true → Accepts s w.d ad →
      Does (.vadd col w) s (two (put (addV a b))) ∧ Does (.vsub col w) s (two (put (addV a (negV b)))) ∧
      Does (.vmul col w) s (two (put (mulV a b))) ∧ Does (.vmin col w) s (two (put (minV a b))) ∧
      Does (.vmax col w) s (two (put (maxV a b))) ∧
      Does (.vsel col w) s (two (rawElem (outBits fd w.sat ftz
        (if bit then widenFmt ftz fa xa.bits.toNat else widenFmt ftz fb xb.bits.toNat))))) ∧
    (isFloat fd = true → Accepts s w.d ad → Does (.vfill col w) s (fun x => OrdinalDone s x c v rest n ∧
      Gave x w.d ad (if bit then rawElem (outBits fd w.sat ftz (negW w.negb (.f32 (entryK s.u w.b)))) else rawElem 0))) ∧
    (Supplies s w.a aa xa → isFloat fa = true → Updates s w.d ad xd → Does (.vfmak col w) s (acc (addV (mulV a k) old))) ∧
    (Supplies s w.a aa xa → Supplies s w.b ab xb → isFloat fa = true → isFloat fb = true → Updates s w.d ad xd →
      Does (.vfma col w) s (fun x => acc (addV (mulV a b) old) x ∧ Took x w.b ab))

/-- For integer sources, whose working width is 64 bits when one is INT64 and else 32, the arithmetic and logical words
compute exactly and keep the low bits, or under SAT the limit: of a and b′, of a and a constant, of a alone, and with
the old element of an integer read-modify-write destination; VSEL selects by the mask bit and VFILL gives the constant.
The shifts shift by the low 6 bits of an integer b, by some count below 64 for a floating b (log 15), a count of the
width or more giving 0, or the sign for VSAR. The result is written in the destination's format, 0 where the mask bit
is 0. VCMP of two floating or two integer sources takes one element of each and writes bit v.ord of mask d: 0 where its
governing mask bit is 0, else the comparison; of floating values false for an unordered pair but for NE, LTU and GEU.
It waits while an earlier word has not read or written that bit. Every other bit of every mask stays. -/
def Obligations.VectorIntegersAndCompares : Prop :=
  (∀ (s : State) (col : BitVec 1) (w : VeOps) (v : VWord) (rest : List VWord) (aa ab ad : Act) (xa xb xd : Elem) (r : VeRun)
      (bit : Bool),
    let ftz := entryFtz s.u
    let n := v.shN * v.shM
    let fa := streamFmt aa.f
    let fb := streamFmt ab.f
    let fd := streamFmt ad.f
    AtColumn s col.toNat v rest → s.u.ve.run = some r → maskBit s.u r v.seq w.m.toNat v.ord = some bit →
    let a := fmtInt fa xa.bits.toNat
    let neg := fun (i : Int) => if w.negb then -i else i
    let b0 := fmtInt fb xb.bits.toNat
    let b := neg b0
    let kk := neg (entryK s.u w.b).toInt
    let width := if v.wt = 2 then 64 else 32
    let k := (fmtInt fb xb.bits.toNat % 64).toNat
    let logic := fun (f : Word → Word → Word) => (f (BitVec.ofInt 64 a) (BitVec.ofInt 64 b)).toInt
    let done := fun (y : Elem) (x : State) => OrdinalDone s x col.toNat v rest n ∧ Took x w.a aa ∧ Took x w.b ab ∧ Gave x w.d ad y
    let gives := fun (y : Int) => done (if bit then rawElem (outBits fd w.sat ftz (.int (redInt v.wt w.sat y))) else rawElem 0)
    let shifts := fun (y : Int) => done (if bit then rawElem (outBits fd false ftz (.int (redInt v.wt false y))) else rawElem 0)
    let out := fun (y : Int) => rawElem (outBits fd w.sat ftz (.int (redInt v.wt w.sat y)))
    let one := fun (y : Int) (x : State) => OrdinalDone s x col.toNat v rest n ∧ Took x w.a aa ∧
      Gave x w.d ad (if bit then out y else rawElem 0)
    let acc := fun (y : Int) (x : State) => OrdinalDone s x col.toNat v rest n ∧ Took x w.a aa ∧
      Replaced x w.d ad (if bit then out (y + fmtInt fd xd.bits.toNat) else { xd with scale := none })
    let own := v.wt = if fa = .int64 then 2 else 1
    let both := v.wt = if fa = .int64 ∨ fb = .int64 then 2 else 1
    (v.wt = 1 → isFloat fd = false → Accepts s w.d ad → Does (.vfill col w) s (fun x => OrdinalDone s x col.toNat v rest n ∧
      Gave x w.d ad (if bit then out kk else rawElem 0))) ∧
    (Supplies s w.a aa xa → isFloat fa = false →
      (own → Accepts s w.d ad →
        Does (.vabs col w) s (one a.natAbs) ∧ Does (.vneg col w) s (one (-a)) ∧ Does (.vaddk col w) s (one (a + kk)) ∧
        Does (.vmulk col w) s (one (a * kk)) ∧ Does (.vmink col w) s (one (min a kk)) ∧ Does (.vmaxk col w) s (one (max a kk))) ∧
      (own → isFloat fd = false → Updates s w.d ad xd → Does (.vfmak col w) s (acc (a * kk))) ∧
      (both → Supplies s w.b ab xb → isFloat fb = false → isFloat fd = false → Updates s w.d ad xd →
        Does (.vfma col w) s (fun x => acc (a * b) x ∧ Took x w.b ab)) ∧
      (both → Supplies s w.b ab xb → isFloat fb = false → Accepts s w.d ad →
        Does (.vsel col w) s (done (out (if bit then a else b0)))) ∧
      (own → Supplies s w.b ab xb → isFloat fb = true → Accepts s w.d ad →
        Does (.vshl col w) s (fun x => ∃ k, k < 64 ∧ shifts (if width ≤ k then 0 else a * 2 ^ k) x) ∧
        Does (.vshr col w) s (fun x => ∃ k, k < 64 ∧ shifts (if width ≤ k then 0 else a % 2 ^ width / 2 ^ k) x) ∧
        Does (.vsar col w) s (fun x => ∃ k, k < 64 ∧ shifts (a / 2 ^ min k (width - 1)) x))) ∧
    (Supplies s w.a aa xa → Supplies s w.b ab xb → Accepts s w.d ad → isFloat fa = false → isFloat fb = false → both →
      Does (.vadd col w) s (gives (a + b)) ∧ Does (.vsub col w) s (gives (a - b)) ∧ Does (.vmul col w) s (gives (a * b)) ∧
      Does (.vmin col w) s (gives (min a b)) ∧ Does (.vmax col w) s (gives (max a b)) ∧
      Does (.vand col w) s (gives (logic (· &&& ·))) ∧ Does (.vor col w) s (gives (logic (· ||| ·))) ∧
      Does (.vxor col w) s (gives (logic (· ^^^ ·))) ∧
      Does (.vshl col w) s (shifts (if width ≤ k then 0 else a * 2 ^ k)) ∧
      Does (.vshr col w) s (shifts (if width ≤ k then 0 else a % 2 ^ width / 2 ^ k)) ∧
      Does (.vsar col w) s (shifts (a / 2 ^ min k (width - 1))))) ∧
  (∀ (s : State) (col : BitVec 1) (cc : Cond) (w : VeOps) (v : VWord) (rest : List VWord) (aa ab : Act) (xa xb : Elem) (r : VeRun) (bit : Bool),
    let ftz := entryFtz s.u
    let n := v.shN * v.shM
    let fa := streamFmt aa.f
    let fb := streamFmt ab.f
    AtColumn s col.toNat v rest → s.u.ve.run = some r → maskBit s.u r v.seq w.m.toNat v.ord = some bit →
    let a := workVal (widenFmt ftz fa xa.bits.toNat)
    let b := workVal (widenFmt ftz fb xb.bits.toNat)
    let i := fmtInt fa xa.bits.toNat
    let j := fmtInt fb xb.bits.toNat
    let m : Int := if v.wt = 2 then 2 ^ 64 else 2 ^ 32
    let un := isNan a || isNan b
    let floats := match cc with
      | .eq => eqV a b
      | .ne => !eqV a b
      | .lt => ltV a b
      | .ge => !un && !ltV a b
      | .ltu => un || ltV a b
      | _ => un || !ltV a b
    let ints := match cc with
      | .eq => decide (i = j)
      | .ne => decide (i ≠ j)
      | .lt => decide (i < j)
      | .ge => decide (j ≤ i)
      | .ltu => decide (i % m < j % m)
      | .geu => decide (j % m ≤ i % m)
      | .bits => decide (BitVec.ofInt 64 i &&& BitVec.ofInt 64 j ≠ 0)
      | .nbits => decide (BitVec.ofInt 64 i &&& BitVec.ofInt 64 j = 0)
    let holds := if v.wt = 0 then floats else ints
    w.d ≠ 0 → v.ord < 65536 → Supplies s w.a aa xa → Supplies s w.b ab xb →
    (v.wt = 0 ∧ isFloat fa = true ∧ isFloat fb = true ∧ cc ≠ .bits ∧ cc ≠ .nbits ∨
      v.wt = (if fa = .int64 ∨ fb = .int64 then 2 else 1) ∧ isFloat fa = false ∧ isFloat fb = false) →
    (maskFree s.u v.seq w.d.toNat v.ord = true → Does (.vcmp col cc w) s (fun x =>
      OrdinalDone s x col.toNat v rest n ∧ Took x w.a aa ∧ Took x w.b ab ∧
      ∀ k e, e < 65536 → (tget x.u.ve.masks k 0).getLsbD e =
        if k = w.d.toNat ∧ e = v.ord then (bit && holds) else (tget s.u.ve.masks k 0).getLsbD e)) ∧
    (maskFree s.u v.seq w.d.toNat v.ord = false → exec (.vcmp col cc w) s = .next s))

/-- Of a floating source, each SFU word takes one element and gives the destination the value of its function: from
a 16-bit format to the same one rounded once; else rounded to FP32 and then to the destination's format under
SAT, flushed under FTZ; 0 where the mask bit is 0. That the value is the exact one before rounding is the
model's reading of R98 (DEDUCED, log 10). -/
def Obligations.SpecialFunctions : Prop :=
  ∀ (s : State) (w : VeOps) (v : VWord) (rest : List VWord) (aa ad : Act) (xa : Elem) (r : VeRun) (bit : Bool),
    let ftz := entryFtz s.u
    let n := v.shN * v.shM
    let fa := streamFmt aa.f
    let fd := streamFmt ad.f
    AtColumn s 2 v rest → s.u.ve.run = some r → maskBit s.u r v.seq w.m.toNat v.ord = some bit →
    let y := fun (f : Nat) => sfuVal f (flushV ftz (toVal fa xa.bits.toNat))
    let via := fun (f : Nat) => flushBits .fp32 ftz (roundTo .fp32 (y f) .rne false)
    let bits := fun (f : Nat) => if fa = fd ∧ (fa = .bf16 ∨ fa = .fp16) then flushBits fd ftz (roundTo fd (y f) .rne w.sat)
      else flushBits fd ftz (roundTo fd (toVal .fp32 (via f)) .rne w.sat)
    let gives := fun (f : Nat) (x : State) => OrdinalDone s x 2 v rest n ∧ Took x w.a aa ∧
      Gave x w.d ad (rawElem (if bit then bits f else 0))
    v.wt = 0 → Supplies s w.a aa xa → isFloat fa = true → Accepts s w.d ad →
    Does (.vsfuExp w) s (gives 0) ∧
    Does (.vsfuExp2 w) s (gives 1) ∧
    Does (.vsfuLog w) s (gives 2) ∧
    Does (.vsfuLog2 w) s (gives 3) ∧
    Does (.vsfuRcp w) s (gives 4) ∧
    Does (.vsfuRsqrt w) s (gives 5) ∧
    Does (.vsfuSqrt w) s (gives 6) ∧
    Does (.vsfuTanh w) s (gives 7) ∧
    Does (.vsfuSigm w) s (gives 8) ∧
    Does (.vsfuSin w) s (gives 9) ∧
    Does (.vsfuCos w) s (gives 10) ∧
    Does (.vsfuErf w) s (gives 11)

/-- VCVT gives the source element rounded once in the word's mode, or narrowed where source and destination are
integers; VSRND rounds a floating one stochastically to the word's format and then to the destination's; VDQNT
multiplies it by its block's scale; each gives 0 where the mask bit is 0. VQNT first forms the block that begins at its
next output with one scale, masked elements left out, in its rounding modes; then it gives the elements one by one, and
takes the source's with the last of them. A reduction takes an element of its row into lane c mod 64 by its lane
operation where the mask bit is 1, and after the row's last element gives the tree over the lanes in the destination's
format and goes on to the next row. VARGMX keeps in each lane the greatest value with the least column and gives that
column. VSCAN takes an element and gives the prefix of its row, with or without it. -/
def Obligations.ConversionsAndReductions : Prop :=
  (∀ (s : State) (w : VeOps) (v : VWord) (rest : List VWord) (aa ad : Act) (xa : Elem) (r : VeRun) (bit : Bool),
    let ftz := entryFtz s.u
    let n := v.shN * v.shM
    let fa := streamFmt aa.f
    let fd := streamFmt ad.f
    AtColumn s 3 v rest → s.u.ve.run = some r → maskBit s.u r v.seq w.m.toNat v.ord = some bit →
    let t := (fmtOf w.b.toNat).getD .fp16
    let sr := RMode.sr (srBits s.u.ve.cvt v.ord)
    let mode := if w.b = 0 then RMode.rne else if w.b = 1 then .rtz else sr
    let x0 := fmtVal ftz fa xa.bits.toNat
    let same := fun (x : State) => x.u.r = s.u.r ∧ (∀ j, byteAt x j = byteAt s j) ∧ ∀ k, k ≠ s.cur → x.unit k = s.unit k
    let gives := fun (y : Nat) (x : State) => OrdinalDone s x 3 v rest n ∧ Took x w.a aa ∧
      Gave x w.d ad (rawElem (if bit then y else 0))
    Supplies s w.a aa xa → Accepts s w.d ad → v.wt = wtOf [fa] →
    Does (.vcvt w) s (gives (if isFloat fa ∨ isFloat fd then flushBits fd ftz (roundTo fd x0 mode w.sat)
      else narrowInt fd (fmtInt fa xa.bits.toNat) w.sat)) ∧
    (isFloat fa = true → Does (.vsrnd w) s
      (gives (flushBits fd ftz (roundTo fd (toVal t (flushBits t ftz (roundTo t x0 sr w.sat))) .rne w.sat)))) ∧
    (blkLen aa.f ≠ 0 → Does (.vdqnt w) s (gives (outBits fd w.sat ftz
      (workF (flushV ftz (mulV (toVal fa xa.bits.toNat) (scaleVal ftz (xa, aa.f)))))))) ∧
    (qntBad s.u w v = false → ∀ b q, v.kept = b :: q → v.taken ≤ aa.queue.length → aa.taken + v.taken ≤ aa.total →
      Does (.vqnt w) s (fun x => same x ∧ Gave x w.d ad b ∧
        (streamOf x.u w.a.toNat).acts = (if q = [] then
          [{ aa with taken := aa.taken + v.taken, queue := aa.queue.drop v.taken }] else [aa]) ∧
        tget x.u.ve.cols 3 [] = if n ≤ v.ord + 1 then rest else { v with ord := v.ord + 1, kept := q } :: rest)) ∧
    (let k := min (blkLen ad.f) (min (n - v.ord) (ad.total - ad.given))
     let modes := qntModes w.b.toNat n k v.ord s.u.ve.cvt
     ∀ bs, maskRun s.u r v.seq w.m.toNat v.ord k = some bs →
     let vals := (bs.zip (aa.queue.take k)).map fun p => if p.1 then some (fmtVal ftz fa p.2.bits.toNat) else none
     let q := quantBlock fd ftz (vals.zip modes.1)
     let kept := q.2.map fun b => ({ bits := BitVec.ofNat 64 b, scale := some (BitVec.ofNat 32 q.1) } : Elem)
     qntBad s.u w v = false → v.kept = [] → k ≤ aa.queue.length → Does (.vqnt w) s (fun x => same x ∧
      (streamOf x.u w.a.toNat).acts = [aa] ∧ (streamOf x.u w.d.toNat).acts = [ad] ∧ x.u.ve.cvt = modes.2 ∧
      tget x.u.ve.cols 3 [] = { v with taken := k, kept := kept } :: rest))) ∧
  (∀ (s : State) (w : VeOps) (v : VWord) (rest : List VWord) (aa ad : Act) (xa : Elem) (r : VeRun) (bit : Bool),
    let ftz := entryFtz s.u
    let fa := streamFmt aa.f
    let fd := streamFmt ad.f
    AtColumn s 4 v rest → s.u.ve.run = some r → maskBit s.u r v.seq w.m.toNat v.taken = some bit →
    let wt := v.wt
    let x1 := widenFmt ftz fa xa.bits.toNat
    let c := v.taken - v.ord * v.shN
    let same := fun (x : State) => x.u.r = s.u.r ∧ (∀ j, byteAt x j = byteAt s j) ∧ ∀ k, k ≠ s.cur → x.unit k = s.unit k
    let goesOn := fun (v' : VWord) (x : State) => same x ∧ Took x w.a aa ∧ (streamOf x.u w.d.toNat).acts = [ad] ∧
      tget x.u.ve.cols 4 [] = v' :: rest
    let ends := fun (y : Nat) (v' : VWord) (x : State) => same x ∧ Gave x w.d ad (rawElem y) ∧
      (streamOf x.u w.a.toNat).acts = [aa] ∧ tget x.u.ve.cols 4 [] = if v.shM ≤ v.ord + 1 then rest else v' :: rest
    let laned := fun (op : RedOp) (l : List Work) (c : Nat) =>
      if bit then setAt l (c % 64) (op.lane wt w.sat (at' l (c % 64) (op.ident wt)) x1) else l
    let tree := fun (op : RedOp) => outBits fd w.sat ftz (laneTree (op.comb wt w.sat) (lanesOf op v) (op.ident wt))
    let isFold := fun (i : Instr) (op : RedOp) =>
      (v.taken < (v.ord + 1) * v.shN → Does i s (goesOn { v with taken := v.taken + 1, lanes := laned op (lanesOf op v) c })) ∧
      ((v.ord + 1) * v.shN ≤ v.taken → Does i s (ends (tree op) { v with ord := v.ord + 1, lanes := [] }))
    let args := if bit then setAt (argLanes v) (c % 64) (argWin (at' (argLanes v) (c % 64) (.int 0, -1)) (x1, (c : Int)))
      else argLanes v
    let col := v.ord % v.shN
    let before := if col = 0 then List.replicate 64 (redSum.ident wt) else lanesOf redSum v
    let after := laned redSum before col
    let scanned := laneTree (redSum.comb wt w.sat) (if w.f2 then before else after) (redSum.ident wt)
    wt = wtOf [fa] → Supplies s w.a aa xa → Accepts s w.d ad →
    isFold (.vrsum w) redSum ∧ isFold (.vrmax w) redMax ∧ isFold (.vrmin w) redMin ∧ isFold (.vramax w) redAmax ∧
    isFold (.vrssq w) redSsq ∧
    (v.taken < (v.ord + 1) * v.shN → isFloat fd = false → Does (.vargmx w) s (goesOn
      { v with taken := v.taken + 1, lanes := args.map (·.1), lidx := args.map (·.2) })) ∧
    ((v.ord + 1) * v.shN ≤ v.taken → isFloat fd = false → Does (.vargmx w) s (ends
      (narrowInt fd (laneTree argWin (argLanes v) (.int 0, -1)).2 w.sat) { v with ord := v.ord + 1, lanes := [], lidx := [] })) ∧
    Does (.vscan w) s (fun x => same x ∧ Took x w.a aa ∧ Gave x w.d ad (rawElem (outBits fd w.sat ftz scanned)) ∧
      tget x.u.ve.cols 4 [] = if v.shN * v.shM ≤ v.ord + 1 then rest
        else { v with ord := v.ord + 1, taken := v.taken + 1, lanes := after } :: rest))

/-- Each MOVE word gives the element that R213 to R216 name for its ordinal, or 0 where the mask bit is 0: VMOV the
next one, VIOTA the constant plus the ordinal, VBCAST the row's one, VREV the row's from the end, VILV from each
source in turn, VDILV one to each destination, VGEN the generator's at row and column, VCOMB first sums its
slots and then gives the sums, VGATH the bytes at the integer index in the scratchpad. VSCAT writes the element's bytes
at the index and no other byte, and none where the mask bit is 0. -/
def Obligations.Moves : Prop :=
  ∀ (s : State) (w : VeOps) (v : VWord) (rest : List VWord) (aa ab ad : Act) (xa xb : Elem) (r : VeRun) (bit : Bool),
    let ftz := entryFtz s.u
    let n := v.shN * v.shM
    let fa := streamFmt aa.f
    let fb := streamFmt ab.f
    let fd := streamFmt ad.f
    AtColumn s 5 v rest → s.u.ve.run = some r → maskBit s.u r v.seq w.m.toNat v.ord = some bit →
    let conv := fun (f : Fmt) (x : Elem) => rawElem (outBits fd w.sat ftz (widenFmt ftz f x.bits.toNat))
    let put := fun (y : Elem) => if bit then y else rawElem 0
    let acts := fun (x : State) (m : BitVec 4) => (streamOf x.u m.toNat).acts
    let g := entryGen s.u w.b.toNat
    let gives := fun (total : Nat) (y : Elem) (x : State) => OrdinalDone s x 5 v rest total ∧ Gave x w.d ad (put y)
    let one := fun (y : Elem) (x : State) => gives n y x ∧ Took x w.a aa
    let reach := fun (k : BitVec 4) (i : Int) (sz : Nat) => (entryK s.u k).toNat + sz * i.toNat
    let inside := fun (k : BitVec 4) (i : Int) (sz : Nat) => 0 ≤ i ∧ reach k i sz + sz ≤ usable s.u ∧
      (entryK s.u k).toNat % sz = 0 ∧ spoiledAt s (scrKey s.u (reach k i sz)) sz = false ∧ 0 < sz
    let ia := fmtInt fa xa.bits.toNat
    let ib := fmtInt fb xb.bits.toNat
    let wt1 := wtOf [fa]
    (v.wt = wt1 → Supplies s w.a aa xa → Accepts s w.d ad → 0 < v.shN →
      Does (.vmov w) s (one (conv fa xa)) ∧
      Does (.vbcast w) s (fun x => gives n (conv fa xa) x ∧
        if (v.ord + 1) % v.shN = 0 then Took x w.a aa else acts x w.a = [aa]) ∧
      (∀ y, v.shN ≤ aa.queue.length → aa.queue[v.shN - 1 - v.ord % v.shN]? = some y → rowBytes fa v.shN ≤ 1024 →
        (v.ord + 1) % v.shN ≠ 0 → Does (.vrev w) s (fun x => gives n (conv fa y) x ∧ acts x w.a = [aa])) ∧
      (∀ y, v.shN ≤ aa.queue.length → aa.queue[0]? = some y → rowBytes fa v.shN ≤ 1024 → aa.taken + v.shN ≤ aa.total →
        (v.ord + 1) % v.shN = 0 → Does (.vrev w) s (fun x => gives n (conv fa y) x ∧
          acts x w.a = [{ aa with taken := aa.taken + v.shN, queue := aa.queue.drop v.shN }])) ∧
      (∀ e more, Accepts s w.b ab → w.b ≠ w.d → aa.queue = xa :: e :: more → aa.taken + 2 ≤ aa.total →
        Does (.vdilv w) s (fun x => gives n (conv fa xa) x ∧
          Gave x w.b ab (put (rawElem (outBits fb w.sat ftz (widenFmt ftz fa e.bits.toNat)))) ∧
          acts x w.a = [{ aa with taken := aa.taken + 2, queue := more }])) ∧
      (v.taken < n → v.shN ≤ 64 → Does (.vcomb w) s (fun x => Took x w.a aa ∧
        (∀ k, byteAt x k = byteAt s k) ∧ acts x w.d = [ad] ∧ tget x.u.ve.cols 5 [] = { v with
          taken := v.taken + 1
          lanes := if v.taken < v.shN then v.lanes.take v.taken ++ [widenFmt ftz fa xa.bits.toNat] ++ v.lanes.drop v.taken ++
              [widenFmt ftz fa xa.bits.toNat]
            else combAdd v (widenFmt ftz fa xa.bits.toNat) } :: rest))) ∧
    (n ≤ v.taken → v.shN ≤ 64 → Accepts s w.d ad → Does (.vcomb w) s (fun x => OrdinalDone s x 5 v rest v.shN ∧
      Gave x w.d ad (rawElem (outBits fd w.sat ftz (at' v.lanes (if bit then v.ord else v.shN + v.ord) (.int 0)))))) ∧
    (Supplies s w.a aa xa → Supplies s w.b ab xb → Accepts s w.d ad → isFloat fa = isFloat fb → v.wt = wtOf [fa, fb] →
      Does (.vilv w) s (fun x => gives (2 * n) (if v.ord % 2 = 0 then conv fa xa else conv fb xb) x ∧
        if v.ord % 2 = 0 then acts x w.a = [aa] ∧ acts x w.b = [ab] else Took x w.a aa ∧ Took x w.b ab)) ∧
    (v.wt = 1 → Accepts s w.d ad → Does (.viota w) s (gives n (rawElem (outBits fd w.sat ftz
      (.int (redInt 1 w.sat ((entryK s.u w.b).toInt + v.ord))))))) ∧
    (v.wt = wtOf [genFmt g] → Accepts s w.d ad → Does (.vgen w) s (gives n (rawElem (outBits fd w.sat ftz
      (widenFmt ftz (genFmt g) (genElem (genKey s.u g) g ftz 0 0 (v.ord / v.shN) (v.ord % v.shN))))))) ∧
    (v.wt = 1 → Supplies s w.a aa xa → Accepts s w.d ad → isFloat fa = false → elemBytes ad.f ≠ 0 →
      (bit = true → inside w.b ia (elemBytes ad.f)) →
      Does (.vgath w) s (one (rawElem (leNat (scrRead s.mem s.u (reach w.b ia (elemBytes ad.f)) (elemBytes ad.f)))))) ∧
    (v.wt = 1 → Supplies s w.a aa xa → Supplies s w.b ab xb → isFloat fb = false → elemBytes aa.f ≠ 0 →
      (bit = true → inside w.d ib (elemBytes aa.f)) →
      let key := scrKey s.u (reach w.d ib (elemBytes aa.f))
      Does (.vscat w) s (fun x => Took x w.a aa ∧ Took x w.b ab ∧ x.u.r = s.u.r ∧
        (bit = true → HoldsBytes x key (toLe (elemBytes aa.f) xa.bits.toNat)) ∧
        SameBytesBut s x key (if bit then elemBytes aa.f else 0)))

/-- At a word without delay left, the router puts an element word at the end of its column's queue of at most 8 with
the shape and position it carries, and the entry's first of its column with the due cycle; SHAPE sets N or M, NEST sets its level's counter to 0, VNOP does nothing,
VTOK appends a token add, and VWTOK takes one from a token above 0 and waits at 0. After each the router goes on
to the next word of the nest. -/
def Obligations.RouterWords : Prop :=
  ∀ (s : State) (r : VeRun) (wd : Code) (imm : BitVec 16) (dly : BitVec 5) (level : BitVec 3) (len : BitVec 6) (k : BitVec 4)
    (t : BitVec 8), AtRouter s r wd →
    let u := s.u
    let onward := fun (r' : VeRun) (u' : Machine.Unit) => { u' with ve := { u'.ve with run := some (routerNext r') } }
    let c := wd.toNat / 2 ^ 29
    let q := tget u.ve.cols c []
    let first := !r.met.contains c
    let delay := bits wd.toNat 3 5
    let item : VWord :=
      { code := wd, widx := r.widx, ctr := r.ctr, shN := r.shN, shM := r.shM, seq := u.ve.seq, first := first
        wait := if first then delay else 0, due := if first then r.e.due.map (· + delay) else none
        issued := false, wt := 0, ord := 0, taken := 0, lanes := [], lidx := [], kept := [] }
    let add : TokAdd := { tok := t.toNat, seq := u.ve.seq, streams := r.wrote, given := none }
    let less := { u with
      ve := { u.ve with toks := tset u.ve.toks t.toNat (tokOf u t.toNat - 1) }
      me := coverTok u.me t.toNat }
    (c < 6 → q.length < 8 → Does .routerDispatch s (fun x => OnlyUnit s x ∧ x.u.r = u.r ∧
      tget x.u.ve.cols c [] = q ++ [item] ∧ x.u.ve.seq = u.ve.seq + 1 ∧ ∀ j, j ≠ c → tget x.u.ve.cols j [] = tget u.ve.cols j [])) ∧
    (c < 6 → 8 ≤ q.length → exec .routerDispatch s = .next s) ∧
    exec (.shapeN imm dly) s = .next (s.setU (onward { r with shN := imm.toNat + 1 } u)) ∧
    exec (.shapeM imm dly) s = .next (s.setU (onward { r with shM := imm.toNat + 1 } u)) ∧
    exec (.nest level len k dly) s = .next (s.setU (onward { r with ctr := setAt r.ctr level.toNat 0 } u)) ∧
    exec (.vnop dly) s = .next (s.setU (onward r u)) ∧
    exec (.vtok t dly) s = .next (s.setU (onward r { u with ve := { u.ve with adds := u.ve.adds ++ [add] } })) ∧
    (tokOf u t.toNat ≠ 0 → exec (.vwtok t dly) s = .next (s.setU (onward r less))) ∧
    (tokOf u t.toNat = 0 → exec (.vwtok t dly) s = .next s) ∧
    (c = 6 → bits wd.toNat 23 6 = 4 → bits wd.toNat 7 8 = t.toNat → tokOf u t.toNat ≠ 0 →
      exec .vwtokComplete s = .next (s.setU (onward r less)))

/-- VKSET writes a constant. VRUN of a block inside the vector section whose pages are resident appends an entry with the
mode, shape, constants and generators of the moment, in a course with the due cycle of its course entry, or waits while
the queue is full; outside the section it traps with FETCH_BOUNDS, at a page with a cause with that cause, and without a
good course entry with COURSE_TABLE. The wait for a place of an AE or VE entry ends once there is one. The head entry
starts when it is due and no entry runs and its nest is well formed, else raises NEST_FORM; words changed under the
launch are any words. A token add notes the elements its words have given once they have left their columns, and is made
once those are performed; an entry finishes when its block is at its end and its columns are empty, which raises the
unit's counter. VTOKW takes one from a token above 0 and otherwise waits. -/
def Obligations.VectorEntries : Prop :=
  ∀ (s : State) (a : BitVec 6) (kn : BitVec 4) (n1 : BitVec 8) (t : BitVec 8),
    let u := s.u
    let len := n1.toNat + 1
    let off := gOf s a
    let entry : VeEntry :=
      { off := off.toNat, n := len, ftz := u.c.ftz, det := u.c.det, n1 := u.c.vn1, m1 := u.c.vm1, k := u.ve.k, gns := u.gns
        due := none, ord := u.ve.ord }
    let sec := sectionOf s u 16
    let inside := off.toNat + len ≤ sec.2 / 4
    let pages := codeCause (unpoll s) (sec.1 + 4 * off.toNat) (4 * len)
    let room := u.ve.queue.length < Config.queueCap
    let ve := fun (e : VeEntry) => { u.ve with queue := u.ve.queue ++ [e], ord := u.ve.ord + 1 }
    let ae := fun (e : AeEntry) => { u.ae with queue := u.ae.queue ++ [e] }
    let taken := fun (w : Machine.Unit) => { w with
      ve := { w.ve with toks := tset w.ve.toks t.toNat (tokOf w t.toNat - 1) }
      me := coverTok w.me t.toNat
      m := { w.m with snap := s.mem } }
    let onward := fun (s' x : State) => x.u.course = s'.u.course ∧ x.u.r.pc = u.r.pc + 4 ∧ x.u.wait = none ∧ KeptRegs s x
    (CanIssue s [a] → Does (.vkset kn a) s (Changes s · (fun u => { u with
      ve := { u.ve with k := tset u.ve.k kn.toNat ((gOf s a).setWidth 32) } }))) ∧
    (CanIssue s [a] → inside → pages = none → room →
      (u.course.active = false → Does (.vrun a n1) s (Changes s · (fun u => { u with ve := ve entry }))) ∧
      (u.course.active = true →
        (∀ due s', courseTake (unpoll s) 1 = .ok (due, s') → Does (.vrun a n1) s (fun x =>
          x.u.ve = ve { entry with due := due } ∧ onward s' x)) ∧
        (courseTake (unpoll s) 1 = .error (.courseTable, 0) → Does (.vrun a n1) s (Traps s · .courseTable 0 0)))) ∧
    (CanIssue s [a] → inside → pages = none → ¬ room → MayHold s → Does (.vrun a n1) s (WaitsIn s · (.veSpace entry))) ∧
    (CanIssue s [a] → inside → ∀ c va, pages = some (c, va) → (∀ p, c ≠ .elsewhere p) →
      Does (.vrun a n1) s (Traps s · c va 0)) ∧
    (CanIssue s [a] → ¬ inside → Does (.vrun a n1) s (Traps s · .fetchBounds 0 0)) ∧
    (∀ e, issuing u = true → u.wait = some (.veSpace e) → room →
      (u.course.active = false → Does .dispatchQueueSpace s (Changes s · (fun u => { u with ve := ve { e with due := none } }))) ∧
      (∀ due s', u.course.active = true → courseTake s 1 = .ok (due, s') → Does .dispatchQueueSpace s (fun x =>
        x.u.ve = ve { e with due := due } ∧ onward s' x))) ∧
    (∀ e, issuing u = true → u.wait = some (.aeSpace e) → u.ae.queue.length < Config.queueCap →
      (u.course.active = false → Does .dispatchQueueSpace s (Changes s · (fun u => { u with ae := ae { e with due := none } }))) ∧
      (∀ due s', u.course.active = true → courseTake s 0 = .ok (due, s') → Does .dispatchQueueSpace s (fun x =>
        x.u.ae = ae { e with due := due } ∧ onward s' x))) ∧
    (∀ e q cs, u.ve.queue = e :: q → u.ve.run = none → routerLive u = true →
      e.due = none ∨ u.course.active = false ∨ (∃ d, e.due = some d ∧ d ≤ u.course.cc.toNat) →
      blockWords s 16 e.off e.n = .ok cs →
      let runs := fun (ws : List Code) (x : State) => x.u.r = u.r ∧ x.u.ve = { u.ve with queue := q, run := some (veRunOf u e ws) }
      (∀ ws : List Code, cs = ws.map some → nestBad (headersOf e.k ws) ws.length = false → Does .veEntryStart s (fun x => runs ws x ∧
        (u.sess = none → x = s.setU { dropFar .router u with ve := { u.ve with queue := q, run := some (veRunOf u e ws) } }))) ∧
      (∀ ws : List Code, cs = ws.map some → nestBad (headersOf e.k ws) ws.length = true →
        Does .veEntryStart s (fun x => StoppedBy .router false s x .nestForm 0 0 u.r.pc)) ∧
      Does .veEntryStart s (fun x => ∃ ws, ws.length = cs.length ∧ (∀ (i : Nat) c, cs[i]? = some (some c) → ws[i]? = some c) ∧
        if nestBad (headersOf e.k ws) ws.length then x.u.st = .faulted else runs ws x)) ∧
    (∀ e q c va, u.ve.queue = e :: q → u.ve.run = none → routerLive u = true →
      e.due = none ∨ u.course.active = false ∨ (∃ d, e.due = some d ∧ d ≤ u.course.cc.toNat) →
      blockWords s 16 e.off e.n = .error (c, va) → (∀ p, c ≠ .elsewhere p) →
      Does .veEntryStart s (fun x => StoppedBy .router false s x c va 0 u.r.pc)) ∧
    (∀ x rest, live u = true → u.ve.adds = x :: rest → (∀ v ∈ colWords u, x.seq ≤ v.seq) →
      let g := givenOf u x.streams
      let f := flushTo u g
      (x.given = none → exec .vtokAdd s = .next (s.setU { f with
        ve := { f.ve with adds := { x with given := some g } :: rest } })) ∧
      (∀ g, x.given = some g → g.all (performedTo u) = true →
        (tokOf u x.tok ≠ 0xFFFF → exec .vtokAdd s = .next (s.setU { u with
          ve := { u.ve with toks := tset u.ve.toks x.tok (tokOf u x.tok + 1), adds := rest } })) ∧
        (tokOf u x.tok = 0xFFFF → Does .vtokAdd s (fun y => StoppedBy .router false s y .tokenOverflow 0 x.tok u.r.pc)))) ∧
    (∀ r, u.ve.run = some r → r.atEnd = true → colWords u = [] → routerLive u = true → Does .veEntryFinish s (fun x =>
      x.u.r = u.r ∧ x.u.ve = { u.ve with run := none } ∧ x.u.m.counter = u.m.counter + 1 ∧
      (u.sess = none → x = s.setU { u with ve := { u.ve with run := none }, m := { u.m with counter := u.m.counter + 1 } }))) ∧
    (CanIssue s [] → tokOf u t.toNat ≠ 0 → Does (.vtokw t) s (Changes s · taken)) ∧
    (CanIssue s [] → tokOf u t.toNat = 0 → MayHold s → Does (.vtokw t) s (WaitsIn s · (.vtok t.toNat))) ∧
    (issuing u = true → u.wait = some (.vtok t.toNat) → tokOf u t.toNat ≠ 0 → Does .vtokwComplete s (Changes s · taken))

/-- An MMA that issues passes its checks, or raises the cause of the first it fails (GEN_FORM, ME_STATE where a latch is not
FULL, ME_FORMAT, STREAM_DIRECTION). An issued one takes what has come of its row's elements and scales; with the row all
there, in the integer forms the 128 words of row i become old + Σ a·b, wrapped, or clamped under acc 2, which sets SATF;
the row sum takes Σ a and after row 127 each column sum Σ b, wrapped, which sets SUMWRAP. In the floating forms they
become the rounded sum of the old word and the row's addend. LIVE is set, TY follows the form after row 127; no other
tile, no latch, no register and no byte of memory changes. -/
def Obligations.MatrixProducts : Prop :=
  ∀ (s : State) (w : MmaOps) (r : MeRun),
    let p := mmaPlan w s.u r
    let t := tileEff s.u.me.st r w.tile
    let x := tileOf s.u t
    let l := latchOf s.u (latchEff s.u.me.st r w.latch)
    let k := mmaK w.fmt
    let i := r.ord
    let queued := fun (n : BitVec 4) => ((headAct (streamOf s.u n.toNat)).map (·.queue)).getD []
    let nA := if w.aG then 0 else k
    let n := if w.aG ∨ w.scaled = false then nA else nA + (if w.fmt = 5 ∨ w.fmt = 6 then 8 else 1)
    let as := if nA ≤ r.kept.length then r.kept else r.kept ++ (queued w.a).take (nA - r.kept.length)
    let all := if n ≤ as.length then as else as ++ (queued w.scl).take (n - as.length)
    let row := mmaRow w s { r with kept := all }
    let scales := mmaScales w s { r with kept := all }
    let here := AtMe s r ∧ i < 128 ∧ r.kept.length ≤ n ∧ nA ≤ as.length ∧ n ≤ all.length ∧ p.bad = false ∧
      (w.scaled = true → w.aG = false → w.a ≠ w.scl)
    let keeps := fun (y : State) => KeptRest s y ∧
      y.u.me.run = some (if 127 ≤ i then meAfter r 128 [] else { r with ord := i + 1, kept := [] }) ∧ (tileOf y.u t).live = true ∧
      (∀ t', t' ≠ t → tileOf y.u t' = tileOf s.u t') ∧ { y.u.me.st with tiles := s.u.me.st.tiles } = s.u.me.st ∧
      (w.aG = true → y.u.ae = s.u.ae) ∧
      ∀ e, e / 128 ≠ i → tget (tileOf y.u t).w e 0 = tget x.w e 0
    let old := fun (j : Nat) => tget x.w (128 * i + j) 0
    let b := fun (e j : Nat) => fmtInt (mmaFmt w.fmt w.sgnB) (tget l.b (128 * e + j) 0).toNat
    MeIssues (.mma w) s r p ∧
    (AtMe s r → p.bad = false → w.aG = false → r.kept.length < nA → as.length < nA → queued w.a ≠ [] →
      Does (.mma w) s (fun y => KeptRest s y ∧ y.u.me.run = some { r with kept := as } ∧ y.u.me.st = s.u.me.st)) ∧
    (here → Rising x.w → mmaIntForm w = false →
      Does (.mma w) s (fun y => keeps y ∧ (tileOf y.u t).int = (x.int && i ≠ 127) ∧
        ∀ j, j < 128 → tget (tileOf y.u t).w (128 * i + j) 0 =
          accAdd r.e.ftz (old j) ((mmaAddends w r.e.ftz l row scales).getD j .nan))) ∧
    (here → Rising x.w → Rising x.cs → Rising l.b → mmaIntForm w = true →
      let a := row.map (fmtInt (mmaFmt w.fmt w.sgnA))
      let sum := fun (j : Nat) => (old j).toInt + ((List.range k).map fun e => a.getD e 0 * b e j).sum
      let rowSum := (tget x.rs i 0).toInt + a.sum
      let colSum := fun (j : Nat) => (tget x.cs j 0).toInt + ((List.range k).map fun e => b e j).sum
      Does (.mma w) s (fun y => keeps y ∧ (tileOf y.u t).int = (x.int || i = 127) ∧
        (∀ j, j < 128 → tget (tileOf y.u t).w (128 * i + j) 0 =
          if w.acc = 2 then wrap32 (max (-2147483648) (min 2147483647 (sum j))) else wrap32 (sum j)) ∧
        (tileOf y.u t).satf = (x.satf || w.acc = 2 && (List.range 128).any fun j => past32 (sum j)) ∧
        (∀ e, tget (tileOf y.u t).rs e 0 = if e = i then wrap32 rowSum else tget x.rs e 0) ∧
        (∀ j, j < 128 → tget (tileOf y.u t).cs j 0 = if i = 127 then wrap32 (colSum j) else tget x.cs j 0) ∧
        (tileOf y.u t).sumwrap = (x.sumwrap || past32 rowSum || i = 127 && (List.range 128).any fun j => past32 (colSum j))))

/-- A latch word issues with its checks. An issued one: MLATCH and MXLATCH put the next element of the stream, or the generator's, at its place
b[k][j]; after the last the latch is FULL, with its format and the weight scales. MGATH copies the 128 bytes at
its index into the gather latch's row, raises ME_INDEX for an index out of the scratchpad, and after the last
row clears the rows not gathered. MWSCL puts the element into the scale register that stream format and form
name. No tile, register or byte of memory changes. -/
def Obligations.MatrixLatches : Prop :=
  ∀ (s : State) (w : LatchOps) (r : MeRun) (a : Act) (y : Elem) (n rows : BitVec 4) (f : BitVec 3) (wt : BitVec 1) (dly : BitVec 5),
    let st := s.u.me.st
    let kk := mmaK w.fmt
    let e := r.ord
    let lx := latchEff st r w.latch
    let l := latchOf s.u lx
    let loads := fun (k j v : Nat) (t : State) => KeptRest s t ∧ t.u.me.run = some (meAfter r (128 * kk) []) ∧
      { t.u.me.st with latches := st.latches } = st ∧ (∀ m, m ≠ lx → latchOf t.u m = latchOf s.u m) ∧
      (∀ i, tget (latchOf t.u lx).b i 0 = if i = 128 * k + j then BitVec.ofNat 16 v else tget l.b i 0) ∧
      { latchOf t.u lx with b := l.b } =
        if 128 * kk ≤ e + 1 then { l with fmt := w.fmt, wscale := st.wsrF, wcodes := st.wsrC, full := true } else l
    let g := meGen r w.b
    let drawn := fun (i j : Nat) => genElem (genKey s.u g) g r.e.ftz (drowOf st r) (dcolOf st r) i j
    let v := fmtInt (streamFmt a.f) y.bits.toNat
    let key := scrKey s.u (128 * v.toNat)
    let nr := 8 * (rows.toNat + 1)
    let scales := fun (total : Nat) (kind : Elem) (m : MeState) (t : State) => KeptRest s t ∧ Took t n a ∧ t.u.me.st = m ∧
      t.u.me.run = some (if total ≤ e + 1 then meNext { r with wrote := r.wrote.eraseDups } else { r with ord := e + 1, kept := [kind] })
    let fp := rawElem 1
    let code := rawElem 0
    MeIssues (.mlatch w) s r (latchPlan w s.u r) ∧ MeIssues (.mxlatch w) s r (latchPlan w s.u r) ∧
    MeIssues (.mgath n rows f dly) s r { bareMe with srcs := [n.toNat], bad := headFloat s.u n.toNat, gathers := true } ∧
    MeIssues (.mwscl n wt dly) s r { bareMe with srcs := [n.toNat], bad := fmtNot s.u n.toNat [.fp32, .uint8] } ∧
    (AtMe s r → (w.bG = false → Supplies s w.b a y → streamFmt a.f ∈ mmaFmts w.fmt →
      Does (.mlatch w) s (fun t => loads (e / 128) (e % 128) y.bits.toNat t ∧ Took t w.b a) ∧
      Does (.mxlatch w) s (fun t => loads (e % kk) (e / kk) y.bits.toNat t ∧ Took t w.b a)) ∧
    (w.bG = true →
      Does (.mlatch w) s (fun t => loads (e / 128) (e % 128) (drawn (e / 128) (e % 128)) t ∧ t.u.ae = s.u.ae) ∧
      Does (.mxlatch w) s (fun t => loads (e % kk) (e / kk) (drawn (e / kk) (e % kk)) t ∧ t.u.ae = s.u.ae)) ∧
    (Supplies s n a y → isFloat (streamFmt a.f) = false → 0 ≤ v → 128 * (v + 1) ≤ usable s.u → spoiledAt s key 128 = false →
      Does (.mgath n rows f dly) s (fun t => KeptRest s t ∧ Took t n a ∧ t.u.me.run = some (meAfter r nr []) ∧
        { t.u.me.st with gl := st.gl } = st ∧ t.u.me.st.gl.full = decide (nr ≤ e + 1) ∧
        t.u.me.st.gl.fmt = (if nr ≤ e + 1 then f else st.gl.fmt) ∧
        ∀ i, tget t.u.me.st.gl.b i 0 =
          if i / 128 = e then (scrRead s.mem s.u (128 * v.toNat) 128).getD (i % 128) 0
          else if nr ≤ e + 1 ∧ 128 * nr ≤ i then 0 else tget st.gl.b i 0)) ∧
    (Supplies s n a y → isFloat (streamFmt a.f) = false → v < 0 ∨ (usable s.u : Int) < 128 * (v + 1) →
      Does (.mgath n rows f dly) s (fun t => StoppedBy .me false s t .meIndex 0 0 s.u.r.pc)) ∧
    (Supplies s n a y → streamFmt a.f = .fp32 → e = 0 ∨ r.kept = [fp] →
      Does (.mwscl n wt dly) s (if wt = 0 then scales 128 fp { st with asrF := tset st.asrF e (y.bits.setWidth 32) }
        else scales 1 fp { st with wsrF := y.bits.setWidth 32 })) ∧
    (Supplies s n a y → streamFmt a.f = .uint8 → e = 0 ∨ r.kept = [code] →
      Does (.mwscl n wt dly) s (scales 1024 code
        (if wt = 0 then { st with asrC := tset st.asrC e (y.bits.setWidth 8) }
         else { st with wsrC := tset st.wsrC e (y.bits.setWidth 8) }))))

/-- A drain issues with its checks. An issued one whose destination has a place: MDRAIN gives word ord of the tile, read as FP32 or INT32 by
TY, converted to the destination's format in the word's mode; the drain generator steps once per 64 elements in
mode SR. MDRAINRQ first keeps 512 parameters, then gives ((acc + corr)·mult / 2^(31+shift), half to even, + zo)
clamped to 8 bits. MRSUM and MCSUM give the 128 sums and then the status element. No tile, register or byte of
memory changes. -/
def Obligations.MatrixDrains : Prop :=
  ∀ (s : State) (r : MeRun) (t : BitVec 2) (d q f : BitVec 4) (rnd : BitVec 2) (sat sgn : Bool) (dly : BitVec 5) (aq ad : Act) (y : Elem),
    let st := s.u.me.st
    let e := r.ord
    let x := tileOf s.u (tileEff st r t)
    let word := tget x.w e 0
    let fd := streamFmt ad.f
    let mode := if rnd = 0 then RMode.rne else if rnd = 1 then .rtz else .sr (srBits st.drain e)
    let out := match x.int, isFloat fd with
      | true, true => flushBits fd r.e.ftz (roundTo fd (ofInt word.toInt) mode sat)
      | true, false => narrowInt fd word.toInt sat
      | false, _ => flushBits fd r.e.ftz (roundTo fd (toVal .fp32 word.toNat) mode sat)
    let gives := fun (total v : Nat) (u : State) => KeptRest s u ∧ Gave u d ad (rawElem v) ∧
      u.u.me.run = some (meAfter r total [d.toNat])
    let par := fun (i : Nat) => sint (r.kept.getD (4 * (e % 128) + i) (rawElem 0)).bits.toNat 32
    let sh := 31 + ((r.kept.getD (4 * (e % 128) + 2) (rawElem 0)).bits.toNat % 64)
    let num := (word.toInt + par 0) * par 1
    let half := if num % 2 ^ sh * 2 = 2 ^ sh then (if num / 2 ^ sh % 2 = 0 then num / 2 ^ sh else num / 2 ^ sh + 1)
      else (2 * num + 2 ^ sh) / 2 ^ (sh + 1)
    let z := half + par 3
    let sums := fun (tab : Tab (BitVec 32)) => if e < 128 then (tget tab e 0).toNat
      else x.satf.toNat + 2 * x.sumwrap.toNat + 4 * x.int.toNat
    let out8 := if sgn then Fmt.int8 else .uint8
    let tl := tileEff st r t
    MeIssues (.mdrain t d f rnd sat dly) s r { bareMe with
      dsts := [d.toNat], uses := [tl]
      bad := fmtNot s.u d.toNat [(fmtOf f.toNat).getD .fp32] || (headAct (streamOf s.u d.toNat)).any (actDir · == 2) } ∧
    MeIssues (.mdrainrq t d q sgn dly) s r { bareMe with
      srcs := [q.toNat], dsts := [d.toNat], uses := [tl], form := !x.int || d == q
      bad := fmtNot s.u q.toNat [.int32] || fmtNot s.u d.toNat [out8] } ∧
    (let p := { bareMe with dsts := [d.toNat], uses := [tl], bad := fmtNot s.u d.toNat [.int32] }
     MeIssues (.mrsum t d dly) s r p ∧ MeIssues (.mcsum t d dly) s r p) ∧
    (AtMe s r → (Accepts s d ad → fmtOf f.toNat = some fd → Does (.mdrain t d f rnd sat dly) s (fun u => gives 16384 out u ∧
      u.u.me.st = if rnd = 2 ∧ e % 64 = 63 then { st with drain := srStep st.drain } else st)) ∧
    (Accepts s d ad → Supplies s q aq y → streamFmt aq.f = .int32 → fd = (if sgn then .int8 else .uint8) → x.int = true → d ≠ q →
      r.kept.length < 512 → Does (.mdrainrq t d q sgn dly) s (fun u => KeptRest s u ∧ Took u q aq ∧ u.u.me.st = st ∧
        (streamOf u.u d.toNat).acts = [ad] ∧ u.u.me.run = some { r with kept := r.kept ++ [y] })) ∧
    (Accepts s d ad → fd = (if sgn then .int8 else .uint8) → 512 ≤ r.kept.length →
      Does (.mdrainrq t d q sgn dly) s (fun u => u.u.me.st = st ∧ gives 16384
        (if sgn then (max (-128) (min 127 z) % 256).toNat else (max 0 (min 255 z)).toNat) u)) ∧
    (Accepts s d ad → fd = .int32 →
      Does (.mrsum t d dly) s (fun u => u.u.me.st = st ∧ gives 129 (sums x.rs) u) ∧
      Does (.mcsum t d dly) s (fun u => u.u.me.st = st ∧ gives 129 (sums x.cs) u)))

/-- The words without streams issue at their time. An issued one does its effect, and the engine goes on to the next word of
the nest: MNOP none; MZERO clears the tile's words, sums, flags and LIVE and leaves TY; MSWAP exchanges two tiles; MTOK
appends a token add; MWTOK takes one from a token above 0 and waits at 0. A token add is made once the elements before
it are performed, and at 65,535 raises TOKEN_OVERFLOW. MRUN of a block inside the matrix section whose pages are resident
appends an entry, in a course with the due cycle of its course entry, or waits while the queue is full; outside the
section it traps with FETCH_BOUNDS, at a page with a cause with that cause, and without a good course entry with
COURSE_TABLE. NTSET of a table that no entry names writes the field's stored bits; else it waits until none does. The
head entry starts when it is due and no entry runs and its nest is well formed, else raises NEST_FORM; an entry at the
end of its block finishes, which raises the unit's counter. MTOKW takes one from a token above 0 and otherwise waits. A
loop-buffer exit is noted by the engines that exit, and a bank snapshot clears the conflict matrix. -/
def Obligations.MatrixControlAndEntries : Prop :=
  (∀ (s : State) (r : MeRun) (a b : BitVec 2) (t : BitVec 8) (dly : BitVec 5),
    let u := s.u
    let me := u.me
    let i := tileEff me.st r a
    let j := tileEff me.st r b
    let run : MeRun := { r with wrote := r.wrote.eraseDups }
    let onward := fun (x : Machine.Unit) => Host.Outcome.next (s.setU { x with me := { x.me with run := some (meNext run) } })
    let zero : Tile := { w := [], int := (tileOf u i).int, live := false, rs := [], cs := [], satf := false, sumwrap := false }
    let g := givenOf u r.wrote
    let add : TokAdd := { tok := t.toNat, seq := me.seq, streams := r.wrote, given := some g }
    let less := { u with
      ve := { u.ve with toks := tset u.ve.toks t.toNat (tokOf u t.toNat - 1) }
      me := coverTok me t.toNat }
    (MeIssues (.mnop dly) s r bareMe ∧ MeIssues (.mtok t dly) s r bareMe ∧ MeIssues (.mwtok t dly) s r bareMe ∧
      MeIssues (.mzero a dly) s r { bareMe with writes := [i] } ∧ MeIssues (.mswap a b dly) s r { bareMe with writes := [i, j] }) ∧
    (AtMe s r →
      exec (.mnop dly) s = onward u ∧
      exec (.mzero a dly) s = onward (setTile u i zero) ∧
      exec (.mswap a b dly) s = onward (setTile (setTile u i (tileOf u j)) j (tileOf u i)) ∧
      exec (.mtok t dly) s = onward { flushTo u g with me := { (flushTo u g).me with adds := (flushTo u g).me.adds ++ [add] } } ∧
      (tokOf u t.toNat ≠ 0 → exec (.mwtok t dly) s = onward less) ∧
      (tokOf u t.toNat = 0 → (meLate u r = false → exec (.mwtok t dly) s = .next s) ∧
        (meLate u r = true → MayHold s → Does (.mwtok t dly) s (fun x => OnlyUnit s x ∧
          { x.u with ctr := u.ctr, course := u.course } = { u with st := .held } ∧ x.u.course.slip = u.course.slip + 1))) ∧
      (∀ w, r.words[r.widx]? = some w → w.toNat / 2 ^ 27 = 0x0C → bits w.toNat 17 8 = t.toNat → tokOf u t.toNat ≠ 0 →
        exec .mwtokComplete s = onward less)) ∧
    (∀ x rest, live u = true → me.adds = x :: rest → (x.given.getD []).all (performedTo u) = true →
      (tokOf u x.tok ≠ 0xFFFF → exec .mtokAdd s = .next (s.setU { u with
        ve := { u.ve with toks := tset u.ve.toks x.tok (tokOf u x.tok + 1) }
        me := { me with adds := rest, live := me.live ++ [(x.tok, x.seq)] } })) ∧
      (tokOf u x.tok = 0xFFFF → Does .mtokAdd s (fun y => StoppedBy .me false s y .tokenOverflow 0 x.tok u.r.pc)))) ∧
  (∀ (s : State) (a : BitVec 6) (nt : BitVec 1) (lv : BitVec 3) (f : BitVec 5) (n1 : BitVec 8) (t : BitVec 8),
    let u := s.u
    let me := u.me
    let len := n1.toNat + 1
    let off := gOf s a
    let entry : MeEntry :=
      { off := off.toNat, n := len, nt := nt.toNat, ftz := u.c.ftz, det := u.c.det, gns := u.gns, due := none, ord := me.ord }
    let sec := sectionOf s u 32
    let inside := off.toNat + len ≤ sec.2 / 4
    let pages := codeCause (unpoll s) (sec.1 + 4 * off.toNat) (4 * len)
    let room := me.queue.length < Config.queueCap
    let queued := fun (e : MeEntry) => { me with queue := me.queue ++ [e], ord := me.ord + 1 }
    let onward := fun (s' x : State) => x.u.course = s'.u.course ∧ x.u.r.pc = u.r.pc + 4 ∧ x.u.wait = none ∧ KeptRegs s x
    let taken := fun (w : Machine.Unit) => { w with
      ve := { w.ve with toks := tset w.ve.toks t.toNat (tokOf w t.toNat - 1) }
      me := coverTok w.me t.toNat
      m := { w.m with snap := s.mem } }
    let place := 64 * nt.toNat + 8 * lv.toNat + f.toNat
    let ones : Word := match f.toNat with
      | 0 => 0xFFFF
      | 1 => 0x7FFF
      | 2 => 3
      | 3 => 1
      | _ => 0xFFFFFFFF
    let sets := fun (v : Word) (w : Machine.Unit) =>
      { w with me := { w.me with st := { w.me.st with nt := tset w.me.st.nt place (v &&& ones) } } }
    let free := (∀ e ∈ me.queue, e.nt ≠ nt.toNat) ∧ ∀ r, me.run = some r → r.e.nt ≠ nt.toNat
    (CanIssue s [a] → inside → pages = none → room →
      (u.course.active = false → Does (.mrun a nt n1) s (Changes s · (fun u => { u with me := queued entry }))) ∧
      (u.course.active = true →
        (∀ due s', courseTake (unpoll s) 2 = .ok (due, s') → Does (.mrun a nt n1) s (fun x =>
          x.u.me = queued { entry with due := due } ∧ onward s' x)) ∧
        (courseTake (unpoll s) 2 = .error (.courseTable, 0) → Does (.mrun a nt n1) s (Traps s · .courseTable 0 0)))) ∧
    (CanIssue s [a] → inside → pages = none → ¬ room → MayHold s → Does (.mrun a nt n1) s (WaitsIn s · (.meSpace entry))) ∧
    (CanIssue s [a] → inside → ∀ c va, pages = some (c, va) → (∀ p, c ≠ .elsewhere p) →
      Does (.mrun a nt n1) s (Traps s · c va 0)) ∧
    (CanIssue s [a] → ¬ inside → Does (.mrun a nt n1) s (Traps s · .fetchBounds 0 0)) ∧
    (∀ e, issuing u = true → u.wait = some (.meSpace e) → room →
      (u.course.active = false → Does .dispatchQueueSpace s (Changes s · (fun u => { u with me := queued { e with due := none } }))) ∧
      (∀ due s', u.course.active = true → courseTake s 2 = .ok (due, s') → Does .dispatchQueueSpace s (fun x =>
        x.u.me = queued { e with due := due } ∧ onward s' x))) ∧
    (CanIssue s [a] → free → Does (.ntset nt lv f a) s (Changes s · (sets off))) ∧
    (CanIssue s [a] → ¬ free → MayHold s → Does (.ntset nt lv f a) s (fun x =>
      WaitsIn s x (.ntset nt.toNat lv.toNat f.toNat off) ∧ x.u.me = me)) ∧
    (∀ v, issuing u = true → u.wait = some (.ntset nt.toNat lv.toNat f.toNat v) → free →
      Does .ntsetComplete s (Changes s · (sets v))) ∧
    (∀ e q, me.queue = e :: q → me.run = none → meLive u = true →
      e.due = none ∨ u.course.active = false ∨ (∃ d, e.due = some d ∧ d ≤ u.course.cc.toNat) →
      let ls := ntLevels me.st e.nt
      let runs := fun (ws : List Code) (x : State) => x.u.r = u.r ∧ x.u.me = { me with queue := q, run := some (meRunOf e ls ws) }
      (∀ cs, blockWords s 32 e.off e.n = .ok cs →
        (∀ ws : List Code, cs = ws.map some → ntBad ls ws.length = false → Does .meEntryStart s (fun x => runs ws x ∧
          (u.sess = none → x = s.setU { dropFar .me u with me := { me with queue := q, run := some (meRunOf e ls ws) } }))) ∧
        (∀ ws : List Code, cs = ws.map some → ntBad ls ws.length = true →
          Does .meEntryStart s (fun x => StoppedBy .me false s x .nestForm 0 0 u.r.pc)) ∧
        Does .meEntryStart s (fun x => ∃ ws, ws.length = cs.length ∧ (∀ (i : Nat) c, cs[i]? = some (some c) → ws[i]? = some c) ∧
          if ntBad ls ws.length then x.u.st = .faulted else runs ws x)) ∧
      (∀ c va, blockWords s 32 e.off e.n = .error (c, va) → (∀ p, c ≠ .elsewhere p) →
        Does .meEntryStart s (fun x => StoppedBy .me false s x c va 0 u.r.pc))) ∧
    (∀ r, me.run = some r → r.atEnd = true → meLive u = true → Does .meEntryFinish s (fun x =>
      x.u.r = u.r ∧ x.u.me = { me with run := none } ∧ x.u.m.counter = u.m.counter + 1 ∧
      (u.sess = none → x = s.setU { u with me := { me with run := none }, m := { u.m with counter := u.m.counter + 1 } }))) ∧
    (CanIssue s [] → tokOf u t.toNat ≠ 0 → Does (.mtokw t) s (Changes s · taken)) ∧
    (CanIssue s [] → tokOf u t.toNat = 0 → MayHold s → Does (.mtokw t) s (WaitsIn s · (.mtok t.toNat))) ∧
    (issuing u = true → u.wait = some (.mtok t.toNat) → tokOf u t.toNat ≠ 0 → Does .mtokwComplete s (Changes s · taken)) ∧
    (∀ ae ve m : Bool, live u = true → (ae || ve || m) = true → (ae = true → aeExits u = true) →
      (ve = true → veExits u = true) → (m = true → meExits u = true) → Does (.loopBufferExit ae ve m) s (fun x =>
        x.u.r = u.r ∧ x.u.ve = { u.ve with run := if ve then u.ve.run.map fun r => { r with exited := true } else u.ve.run } ∧
        x.u.me = { me with run := if m then me.run.map fun r => { r with exited := true } else me.run } ∧
        (∀ n, (streamOf x.u n).acts = (streamOf u n).acts.map fun y => if ae && actExits y then { y with exited := true } else y) ∧
        (u.sess = none → OnlyUnit s x) ∧ ∀ sp, u.sess = some sp → sp.banksnap = true → x.u.ctr.conflict = [])))

/-- LEASE traps for priority 0 outside coursed mode and for a handle in use; else it is granted a corbel at once, is
refused with P = 0, or queues; a lease that is AWAKE and no request of the bay's queue is evicted only if its
unit is suspended, or it is evictable, of a higher number, and its VF allows it. LREL frees the handle and makes
the corbel WARM, or waits for a running command; LSTAT gives the status; LWAIT completes when the handle is FREE
or EVICTED or its commands have ended; CRUN appends the block, gives P = 0 for an evicted handle, and traps or
waits as R277 says. -/
def Obligations.Leases : Prop :=
  ∀ (s : State) (l pd : BitVec 4) (kind : BitVec 3) (prio : BitVec 2) (ev : Bool) (a d : BitVec 6),
    let u := s.u
    let L := leaseOf u l.toNat
    let bayN := bayOf (coreOf u)
    let b := s.bay bayN
    let w := worldOf s s.cur
    let asked := { L with kind := kind, prio := prio, ev := ev, lastSt := 0, done := 0, ordNext := 0 }
    let free := L.st = .free ∨ L.st = .evicted
    let earlier := ∃ q ∈ b.queue, q.cur.toNat ≤ prio.toNat
    let answers := fun (p : Bool) (x : Lease) (t : State) => Advanced s t ∧ WroteP s t pd p ∧ leaseOf t.u l.toNat = x ∧
      OtherLeases s t s.cur l.toNat ∧ t.mem = s.mem
    let dropped := fun (k : Nat) => if L.cmds.length ≤ k then L else { L with
      cmds := L.cmds.take k, lastSt := 3, done := L.done + BitVec.ofNat 8 (L.cmds.length - k) }
    let off := fun (g : Nat) (t : State) => corbelOf t g =
      { corbelOf s g with st := .warm, timer := 65536, holder := none, mem := .clear }
    let unasked := fun (g : Nat) => ∀ q ∈ (s.bay (g / 12)).queue, q.uid ≠ s.cur ∨ q.l ≠ l.toNat
    let va := gOf s a
    let la := va.toNat - Config.win
    let okBlock := Config.win ≤ va.toNat ∧ va.toNat % 64 = 0 ∧ la + 64 ≤ usable u
    let appended := { L with
      cmds := L.cmds ++ [{ blk := scrRead s.mem u la 64, ord := L.ordNext }], ordNext := L.ordNext + 1 }
    let sees := fun (u : Machine.Unit) => { u with m := { u.m with snap := s.mem } }
    let done := L.st = .free ∨ L.st = .evicted ∨ L.st = .awake ∧ L.cmds = []
    (CanIssue s [] → prio = 0 → u.c.coursed = false → Does (.lease l pd kind prio ev) s (Traps s · .leasePrio 0 0)) ∧
    (CanIssue s [] → prio ≠ 0 ∨ u.c.coursed = true →
      (¬ free → Does (.lease l pd kind prio ev) s (Traps s · .leaseHandle 0 0)) ∧
      (free → (∀ c, c < 12 → suits b w kind c = false) →
        Does (.lease l pd kind prio ev) s (fun t => answers false { asked with st := .free } t ∧ t.bays = s.bays)) ∧
      (∀ c, free → ¬ earlier → findCorbel b w kind = some c → Does (.lease l pd kind prio ev) s (fun t =>
        Advanced s t ∧ WroteP s t pd true ∧ Granted s t bayN c s.cur l.toNat prio)) ∧
      (free → Does (.lease l pd kind prio ev) s (fun t =>
        t.u.r.pc = u.r.pc + 4 ∧ t.u.wait = none ∧ t.mem = s.mem ∧ ∃ p, WroteP s t pd p)) ∧
      (free → earlier ∨ b.power = true → (∃ c, c < 12 ∧ suits b w kind c = true) →
        (b.queue.length < 16 → Does (.lease l pd kind prio ev) s (fun t => answers true { asked with st := .queued } t ∧
          (t.bay bayN).queue = b.queue ++
            [{ uid := s.cur, l := l.toNat, kind, prio, cur := prio, ev, age := 0, ord := s.cycle }] ∧
          (t.bay bayN).corbels = b.corbels)) ∧
        (16 ≤ b.queue.length → Does (.lease l pd kind prio ev) s (fun t => answers false { asked with st := .free } t ∧
          t.bays = s.bays))) ∧
      (∀ uid m, (leaseOf (s.unit uid) m).st = .awake → uid ≠ s.cur ∨ m ≠ l.toNat →
        (∀ q ∈ b.queue, q.uid ≠ uid ∨ q.l ≠ m) →
        Does (.lease l pd kind prio ev) s (fun t => leaseOf (t.unit uid) m ≠ leaseOf (s.unit uid) m →
          (s.unit uid).st = .suspended ∨ (prio.toNat < (leaseOf (s.unit uid) m).leasePrio.toNat ∧
            (leaseOf (s.unit uid) m).ev = true ∧ (s.vf (s.unit uid).id.vf).scopepol.getLsbD 2 = true)))) ∧
    (CanIssue s [] →
      (L.st = .free → Does (.lrel l) s (OnlyAdvances s)) ∧
      (L.st = .evicted → Does (.lrel l) s (fun t => Advanced s t ∧ leaseOf t.u l.toNat = { L with st := .free } ∧
        OtherLeases s t s.cur l.toNat ∧ t.bays = s.bays ∧ t.mem = s.mem)) ∧
      (L.st = .queued → Does (.lrel l) s (fun t => Advanced s t ∧ (leaseOf t.u l.toNat).st = .free)) ∧
      (∀ g, L.st = .waking ∨ L.st = .awake → L.running = false → writesOut u l.toNat = false → L.corbel = some g → unasked g →
        Does (.lrel l) s (fun t => Advanced s t ∧ leaseOf t.u l.toNat = { dropped 0 with st := .free, corbel := none } ∧ t.mem = s.mem ∧
          ((s.bay (g / 12)).queue = [] →
            OtherLeases s t s.cur l.toNat ∧ off g t ∧ ∀ h, h ≠ g → corbelOf t h = corbelOf s h))) ∧
      (L.st = .waking ∨ L.st = .awake → L.running = true ∨ writesOut u l.toNat = true → MayHold s →
        Does (.lrel l) s (fun t => WaitsIn s t (.lrel l.toNat) ∧ leaseOf t.u l.toNat = dropped (if L.running then 1 else 0)))) ∧
    (issuing u = true → u.wait = some (.lrel l.toNat) → L.running = false → writesOut u l.toNat = false →
      (∀ g, L.st ≠ .evicted → L.corbel = some g → unasked g →
        Does .lrelComplete s (fun t => Advanced s t ∧ leaseOf t.u l.toNat = { L with st := .free, corbel := none } ∧ t.mem = s.mem ∧
          ((s.bay (g / 12)).queue = [] → OtherLeases s t s.cur l.toNat ∧ off g t))) ∧
      (L.st = .evicted → Does .lrelComplete s (fun t => Advanced s t ∧ leaseOf t.u l.toNat = { L with st := .free } ∧
        OtherLeases s t s.cur l.toNat ∧ t.bays = s.bays ∧ t.mem = s.mem))) ∧
    (CanIssue s [] → Does (.lstat d l) s (SetsG s · d (BitVec.ofNat 64 (leaseCode L.st + 2 ^ 3 * L.kind.toNat +
      2 ^ 6 * (leasePrioNow s s.cur l.toNat).toNat + 2 ^ 8 * L.ev.toNat + 2 ^ 12 * min 8 L.cmds.length +
      2 ^ 16 * L.lastSt.toNat + 2 ^ 24 * L.done.toNat + 2 ^ 32 * L.result.toNat)))) ∧
    (CanIssue s [] → (done → Does (.lwait l) s (Changes s · sees)) ∧
      (¬ done → MayHold s → Does (.lwait l) s (WaitsIn s · (.lease l.toNat)))) ∧
    (issuing u = true → u.wait = some (.lease l.toNat) → done → Does .lwaitComplete s (Changes s · sees)) ∧
    (CanIssue s [a] →
      (L.st = .free → Does (.crun a pd l) s (Traps s · .leaseHandle 0 0)) ∧
      (L.st = .evicted → Does (.crun a pd l) s (SetsP s · pd false)) ∧
      (L.st ≠ .free → L.st ≠ .evicted →
        (¬ okBlock → Does (.crun a pd l) s (Traps s · .corbelBlock va 0)) ∧
        (okBlock → L.cmds.length < 8 → scrSpoiled s u la 64 = true → Does (.crun a pd l) s (Traps s · .uncorrectable va 0)) ∧
        (okBlock → L.cmds.length < 8 → scrSpoiled s u la 64 = false → Does (.crun a pd l) s (answers true appended)) ∧
        (okBlock → 8 ≤ L.cmds.length → MayHold s → Does (.crun a pd l) s (fun t =>
          WaitsIn s t (.crun l.toNat pd.toNat va) ∧ leaseOf t.u l.toNat = L)))) ∧
    (issuing u = true → u.wait = some (.crun l.toNat pd.toNat va) → L.st ≠ .free → L.st ≠ .evicted → okBlock →
      L.cmds.length < 8 → scrSpoiled s u la 64 = false → Does .crunAppend s (answers true appended))

/-- The head of a bay's queue that is grantable leaves the queue, is granted its corbel and sets UIPEND bit 3. Aging
raises by one level, not above 1, every request that has waited 2^20 cycles. A WAKING corbel whose time is over
is AWAKE with its lease; a WARM one whose time is over is OFF. A sample sets the readings of the package and
dies, the power emergency above the limit and the thermal emergency of a bay above 100 °C, clears that below 95
°C, and leaves corbels and leases alone where no emergency changes. -/
def Obligations.BayEvents : Prop :=
  ∀ (s : State) (n c uid l : Nat) (r : LeaseReq) (q : List LeaseReq) (temps : List (BitVec 16)) (power : BitVec 16),
    let b := s.bay n
    let g := 12 * n + c
    let x := corbelOf s g
    let aged := b.queue.map fun r => if 2 ^ 20 ≤ r.age then
      { r with age := r.age - 2 ^ 20, cur := if r.cur.toNat ≤ 1 then r.cur else r.cur - 1 } else r
    let limit := min 2900 s.smb.pcap.toNat
    let half := fun (k : Nat) => (temps.getD k 0).toNat
    (queueOrder s n = r :: q → findCorbel b (worldOf s r.uid) r.kind = some c → Does (.leaseQueueGrant n) s (fun t =>
      Granted s t n c r.uid r.l r.cur ∧ (t.unit r.uid).c.uipend = (s.unit r.uid).c.uipend ||| 8 ∧
      (t.unit r.uid).r = (s.unit r.uid).r ∧ (t.bay n).queue = b.queue.filter fun p => !(p.uid == r.uid && p.l == r.l))) ∧
    (queueOrder s n = [] → exec (.leaseQueueGrant n) s = .next s) ∧
    ((∃ r ∈ b.queue, 2 ^ 20 ≤ r.age) → Does (.leaseAging n) s (fun t => t.mem = s.mem ∧ ∀ q ∈ (t.bay n).queue, q ∈ aged)) ∧
    ((∃ r ∈ b.queue, 2 ^ 20 ≤ r.age) → (∀ k, findCorbel b false k = none ∧ findCorbel b true k = none) →
      exec (.leaseAging n) s = .next (s.setBay n { b with queue := aged })) ∧
    (c < 12 → x.holder = some (uid, l) → x.st = .waking → x.timer = 0 → (∀ q ∈ b.queue, q.uid ≠ uid ∨ q.l ≠ l) →
      Does (.corbelWakeEnd n c) s (fun t => corbelOf t g = { x with st := .awake } ∧
        leaseOf (t.unit uid) l = { leaseOf (s.unit uid) l with st := .awake } ∧ t.mem = s.mem ∧
        (b.queue = [] → OtherLeases s t uid l ∧ ∀ h, h ≠ g → corbelOf t h = corbelOf s h))) ∧
    (c < 12 → x.st = .warm → x.timer = 0 → Does (.corbelWarmTimeout n c) s (fun t =>
      corbelOf t g = { x with st := .off } ∧ (∀ h, h ≠ g → corbelOf t h = corbelOf s h) ∧ t.units = s.units ∧ t.mem = s.mem)) ∧
    (n < 32 → Does (.emergencySample temps power) s (fun t =>
      (t.bay n).thermal = (if 200 < half n then true else if half n < 190 then false else b.thermal) ∧
      (limit < power.toNat → (t.bay n).power = true) ∧ t.smb.pwr = power ∧ t.smb.pcap = s.smb.pcap ∧ t.mem = s.mem ∧
      ∀ uid, (t.unit uid).r = (s.unit uid).r)) ∧
    ((∀ k, k < 32 → (s.bay k).power = false ∧ (s.bay k).thermal = false ∧ half k ≤ 200) → power.toNat ≤ limit →
      Does (.emergencySample temps power) s (fun t => t.units = s.units ∧ (∀ h, corbelOf t h = corbelOf s h) ∧
        (∀ k, (t.bay k).queue = (s.bay k).queue ∧ (t.bay k).thermal = false ∧ (t.bay k).power = false) ∧ t.firm.calm =
          if 100 * power.toNat < 95 * limit then s.firm.calm + 1 else 0))

/-- A command at the head of an AWAKE lease is taken up by its corbel; one of another kind or with a reserved byte
that is not zero raises ILLEGAL_OPCODE. TK.INIT empties the set, TK.FEED keeps the best K, TK.EMIT writes them,
TK.SAMPLE writes the index picked, TK.RESET clears; XP.CONF keeps its block and XP.TILE, shown for element
formats of whole bytes without scales, writes the transposed tile row by row; IF.BOOK keeps the lengths, IF.RUN
writes the symbols decoded and moves POS, IF.RESET sets it to 0. Where it can
read and write its operands, wherever they lie, each does its work or stops its unit at its first cause; what it
reads and writes is shown in the scratch window. -/
def Obligations.CorbelDataCommands : Prop :=
  ∀ (s : State) (bay c uid l : Nat) (cmd : CorbelCmd),
    let blk := cmd.blk
    let m := (corbelOf s (12 * bay + c)).mem
    let rd := winBytes s uid
    let ends := fun (m : CorbelMem) (result : Nat) (M : Mem) (t : State) => CmdDone s t bay c uid l m result M
    let win := InWindow s uid
    let put := winPut s uid
    let n24 := fieldAt blk 24 4
    let a8 := fieldW blk 8
    let a16 := fieldW blk 16
    let e := fun (fmt : Nat) => fmtBits (tkFmt fmt) / 8
    (∀ i code named, (i, code, named) ∈ ([
      (.tkInit bay c, 0x10, [(8, 11)]),
      (.tkFeed bay c, 0x11, [(8, 27)]),
      (.tkEmit bay c, 0x12, [(8, 23)]),
      (.tkSample bay c, 0x13, [(8, 31)]),
      (.tkReset bay c, 0x14, []),
      (.xpConf bay c, 0x20, [(8, 23)]),
      (.xpTile bay c, 0x21, [(8, 39)]),
      (.ifBook bay c, 0x30, [(8, 17)]),
      (.ifRun bay c, 0x31, [(8, 35)]),
      (.ifReset bay c, 0x32, [])] : List (Instr × Nat × List (Nat × Nat))) →
      c < 12 → headCmd s (12 * bay + c) = some (uid, l, cmd) → fieldAt blk 0 1 = code →
      code / 16 ≠ (corbelOf s (12 * bay + c)).kind.toNat + 1 ∨ zeroElse blk named = false →
      exec i s = .next (cmdFails s uid l cmd.ord (.illegalOpcode, 0))) ∧
    (∀ i code named f, (i, code, named, f) ∈ ([
      (.tkInit bay c, 0x10, [(8, 11)], Machine.tkInit),
      (.tkFeed bay c, 0x11, [(8, 27)], Machine.tkFeed),
      (.tkEmit bay c, 0x12, [(8, 23)], Machine.tkEmit),
      (.tkSample bay c, 0x13, [(8, 31)], Machine.tkSample),
      (.tkReset bay c, 0x14, [], Machine.tkReset),
      (.xpConf bay c, 0x20, [(8, 23)], Machine.xpConf),
      (.xpTile bay c, 0x21, [(8, 39)], Machine.xpTile),
      (.ifBook bay c, 0x30, [(8, 17)], Machine.ifBook),
      (.ifRun bay c, 0x31, [(8, 35)], Machine.ifRun),
      (.ifReset bay c, 0x32, [], Machine.ifReset)]
        : List (Instr × Nat × List (Nat × Nat) × (State → Nat → CorbelMem → List Byte → CmdRes))) →
      TakesUp s bay c uid l cmd code named → CmdWorks i s bay c uid l (f s uid m blk)) ∧
    (TakesUp s bay c uid l cmd 0x10 [(8, 11)] →
      (1 ≤ fieldAt blk 8 2 → fieldAt blk 8 2 ≤ 1024 → fieldAt blk 10 1 ≤ 1 → fieldAt blk 11 1 ∈ [0, 1, 2, 10] →
        Does (.tkInit bay c) s (ends (.topk (fieldAt blk 8 2) (fieldAt blk 10 1) (fieldAt blk 11 1) 0 []) 0 s.mem)) ∧
      (fieldAt blk 8 2 = 0 ∨ 1024 < fieldAt blk 8 2 ∨ 1 < fieldAt blk 10 1 →
        Does (.tkInit bay c) s (CmdFailed s · uid l .corbelField 0))) ∧
    (∀ k order fmt fed cands, TakesUp s bay c uid l cmd 0x11 [(8, 27)] → m = .topk k order fmt fed cands → fmt ∈ [0, 1, 2, 10] →
      1 ≤ n24 → n24 ≤ 2 ^ 20 → win a8 (n24 * e fmt) (e fmt) →
      let new := (List.range n24).map fun i => (BitVec.ofNat 64 (fieldAt (rd a8 (n24 * e fmt)) (e fmt * i) (e fmt)), a16 + BitVec.ofNat 64 i)
      Does (.tkFeed bay c) s (ends (.topk k order fmt (fed + n24)
        (new.foldl (fun best x => (insertBy (tkBefore order (tkFmt fmt)) x best).take k) cands)) 0 s.mem)) ∧
    (∀ k order fmt fed cands, TakesUp s bay c uid l cmd 0x12 [(8, 23)] → m = .topk k order fmt fed cands → fmt ∈ [0, 1, 2, 10] →
      win a8 (cands.length * e fmt) (e fmt) → win a16 (cands.length * 8) 8 →
      Does (.tkEmit bay c) s (ends m cands.length (put (put s.mem a8 (cands.flatMap fun x => toLe (e fmt) x.1.toNat)) a16
        (cands.flatMap fun x => toLe 8 x.2.toNat)))) ∧
    (∀ k order fmt fed x cands, TakesUp s bay c uid l cmd 0x13 [(8, 31)] → m = .topk k order fmt fed (x :: cands) → fmt ∈ [0, 1, 2] →
      win a8 8 8 →
      let ws := (x :: cands).map fun y => tkWeight (tkFmt fmt) y.1.toNat
      let total := ws.foldl (fun t w => rne32 (addV t w)) (zeroV false)
      let h := (hash a16 (fieldW blk 24) 0).toNat / 2 ^ 40
      let pick := if eqV total (zeroV false) then 0
        else (tkPick (rne32 (mulV (.fin false h (-24)) total)) (zeroV false) 0 ws).getD 0
      Does (.tkSample bay c) s (ends m pick (put s.mem a8 (toLe 8 ((x :: cands).getD pick (0, 0)).2.toNat)))) ∧
    (TakesUp s bay c uid l cmd 0x14 [] → Does (.tkReset bay c) s (ends .clear 0 s.mem)) ∧
    (TakesUp s bay c uid l cmd 0x11 [(8, 27)] → 1 ≤ n24 → n24 ≤ 2 ^ 20 → m = .clear →
      Does (.tkFeed bay c) s (CmdFailed s · uid l .corbelState 0)) ∧
    (let dim := fun (k : Nat) => 1 ≤ k ∧ k ≤ 256
     let rows := fieldAt blk 12 2
     let cols := fieldAt blk 14 2
     TakesUp s bay c uid l cmd 0x20 [(8, 23)] → fieldAt blk 8 1 ≤ 9 → fieldAt blk 9 1 ≤ 9 → fieldAt blk 10 1 ≤ 1 →
      fieldAt blk 11 1 ≤ 1 → dim rows → dim cols → (fieldAt blk 9 1 ∈ [5, 8] → rows % 32 = 0) →
      (fieldAt blk 8 1 ∈ [5, 8] → cols % 32 = 0) → rowSize (tkFmt (fieldAt blk 8 1)) cols ≤ fieldAt blk 16 4 →
      rowSize (tkFmt (fieldAt blk 9 1)) rows ≤ fieldAt blk 20 4 → Does (.xpConf bay c) s (ends (.xpose blk) 0 s.mem)) ∧
    (∀ cf, TakesUp s bay c uid l cmd 0x21 [(8, 39)] → m = .xpose cf → fieldAt cf 8 1 ∈ [0, 1, 2, 6, 7] → fieldAt cf 9 1 ∈ [0, 1, 2, 4, 6, 7] →
      let fi := tkFmt (fieldAt cf 8 1)
      let fo := tkFmt (fieldAt cf 9 1)
      let mode : RMode := if fieldAt cf 10 1 = 1 then .rtz else .rne
      let rows := fieldAt cf 12 2
      let cols := fieldAt cf 14 2
      let src := fun (r : Nat) => a8 + BitVec.ofNat 64 (r * fieldAt cf 16 4)
      let dst := fun (j : Nat) => a16 + BitVec.ofNat 64 (j * fieldAt cf 20 4)
      let ei := fmtBits fi / 8
      let eo := fmtBits fo / 8
      let x := fun (r j : Nat) => fieldAt (rd (src r) (cols * ei)) (ei * j) ei
      let line := fun (j : Nat) => (List.range rows).flatMap fun r =>
        toLe eo (roundTo fo (toVal fi (x r j)) mode (fieldAt cf 11 1 = 1))
      1 ≤ rows → 1 ≤ cols → fieldW blk 24 = 0 → fieldW blk 32 = 0 →
      (∀ r, r < rows → win (src r) (cols * ei) ei) → (∀ j, j < cols → win (dst j) (rows * eo) eo) →
      Does (.xpTile bay c) s (ends m 0 ((List.range cols).foldl (fun M j => put M (dst j) (line j)) s.mem))) ∧
    (TakesUp s bay c uid l cmd 0x30 [(8, 17)] → 1 ≤ fieldAt blk 16 2 → fieldAt blk 16 2 ≤ 4096 → win a8 (fieldAt blk 16 2) 1 →
      let lens := rd a8 (fieldAt blk 16 2)
      let used := lens.filter (· ≠ 0)
      let weight := (used.map fun b => 2 ^ (15 - b.toNat)).sum
      ((∀ b ∈ lens, b.toNat ≤ 15) → weight ≤ 2 ^ 15 → Does (.ifBook bay c) s (ends (.infl lens 0) 0 s.mem)) ∧
      ((∃ b ∈ lens, 15 < b.toNat) ∨ 2 ^ 15 < weight →
        Does (.ifBook bay c) s (CmdFailed s · uid l .corbelData 0))) ∧
    (∀ lens pos, TakesUp s bay c uid l cmd 0x31 [(8, 35)] → m = .infl lens pos → 1 ≤ fieldAt blk 32 4 → fieldAt blk 32 4 ≤ 2 ^ 20 →
      let limit := fieldAt blk 16 8
      let n := fieldAt blk 32 4
      let len := (min limit (pos + 15 * n) + 7) / 8 - pos / 8
      let va := a8 + BitVec.ofNat 64 (pos / 8)
      let bit := fun (p : Nat) => if limit ≤ p then none else ((rd va len)[p / 8 - pos / 8]?).map fun b => b.getLsbD (p % 8)
      let d := ifSymbols lens bit n pos
      win va len 1 → d.2.2 = none → win (fieldW blk 24) (2 * n) 2 →
      Does (.ifRun bay c) s (ends (.infl lens d.2.1) (d.2.1 % 2 ^ 32) (put s.mem (fieldW blk 24) (d.1.flatMap (toLe 2))))) ∧
    (∀ lens pos, TakesUp s bay c uid l cmd 0x32 [] → m = .infl lens pos → Does (.ifReset bay c) s (ends (.infl lens 0) 0 s.mem))

/-- SL.KEY takes the slot's key or raises CORBEL_KEY; SL.IV starts a message with its AAD; SL.ENC and SL.DEC write
the CTR output and hash the ciphertext; SL.FIN writes the tag, or compares it and on a mismatch zeroes what
SL.DEC wrote. SC.CONF sets the carry to the identity; SC.RUN writes prefixes; SC.HIST counts bins; SC.COMPACT
keeps flagged elements; SC.CARRY writes or loads the carry. RL.DESC keeps its block, RL.MOVE writes tokens into
pages, RL.FLUSH ends. The end of a command counts it and sets UIPEND bit 1. Where it can read and write
its operands, wherever they lie, each does its work or stops its unit at its first cause; what it reads and writes is
shown in the scratch window. -/
def Obligations.CorbelStateCommands : Prop :=
  ∀ (s : State) (bay c uid l : Nat) (cmd : CorbelCmd),
    let blk := cmd.blk
    let m := (corbelOf s (12 * bay + c)).mem
    let rd := winBytes s uid
    let ends := fun (m : CorbelMem) (result : Nat) (M : Mem) (t : State) => CmdDone s t bay c uid l m result M
    let win := InWindow s uid
    let put := winPut s uid
    let n24 := fieldAt blk 24 4
    let a8 := fieldW blk 8
    let a16 := fieldW blk 16
    let ok := 1 ≤ n24 ∧ n24 ≤ 2 ^ 20
    (∀ i code named, (i, code, named) ∈ ([
      (.slKey bay c, 0x40, [(8, 8)]),
      (.slIv bay c, 0x41, [(8, 27)]),
      (.slEnc bay c, 0x42, [(8, 27)]),
      (.slDec bay c, 0x43, [(8, 27)]),
      (.slFin bay c, 0x44, [(8, 15)]),
      (.scConf bay c, 0x50, [(8, 10)]),
      (.scRun bay c, 0x51, [(8, 27)]),
      (.scHist bay c, 0x52, [(8, 32)]),
      (.scCompact bay c, 0x53, [(8, 35)]),
      (.scCarry bay c, 0x54, [(8, 16)]),
      (.rlDesc bay c, 0x60, [(8, 32)]),
      (.rlMove bay c, 0x61, [(8, 27)]),
      (.rlFlush bay c, 0x62, [])] : List (Instr × Nat × List (Nat × Nat))) →
      c < 12 → headCmd s (12 * bay + c) = some (uid, l, cmd) → fieldAt blk 0 1 = code →
      code / 16 ≠ (corbelOf s (12 * bay + c)).kind.toNat + 1 ∨ zeroElse blk named = false →
      exec i s = .next (cmdFails s uid l cmd.ord (.illegalOpcode, 0))) ∧
    (∀ i code named f, (i, code, named, f) ∈ ([
      (.slKey bay c, 0x40, [(8, 8)], Machine.slKey),
      (.slIv bay c, 0x41, [(8, 27)], Machine.slIv),
      (.slEnc bay c, 0x42, [(8, 27)], Machine.slData true),
      (.slDec bay c, 0x43, [(8, 27)], Machine.slData false),
      (.slFin bay c, 0x44, [(8, 15)], Machine.slFin),
      (.scConf bay c, 0x50, [(8, 10)], Machine.scConf),
      (.scRun bay c, 0x51, [(8, 27)], Machine.scRun),
      (.scHist bay c, 0x52, [(8, 32)], Machine.scHist),
      (.scCompact bay c, 0x53, [(8, 35)], Machine.scCompact),
      (.scCarry bay c, 0x54, [(8, 16)], Machine.scCarry),
      (.rlDesc bay c, 0x60, [(8, 32)], Machine.rlDesc),
      (.rlMove bay c, 0x61, [(8, 27)], Machine.rlMove),
      (.rlFlush bay c, 0x62, [], Machine.rlFlush)]
        : List (Instr × Nat × List (Nat × Nat) × (State → Nat → CorbelMem → List Byte → CmdRes))) →
      TakesUp s bay c uid l cmd code named → CmdWorks i s bay c uid l (f s uid m blk)) ∧
    (TakesUp s bay c uid l cmd 0x40 [(8, 8)] → fieldAt blk 8 1 < 16 →
      (∀ key, tfind (s.vf (s.unit uid).id.vf).slots (fieldAt blk 8 1) = some key →
        Does (.slKey bay c) s (ends (.sealed key none) 0 s.mem)) ∧
      (tfind (s.vf (s.unit uid).id.vf).slots (fieldAt blk 8 1) = none →
        Does (.slKey bay c) s (CmdFailed s · uid l .corbelKey 0))) ∧
    (∀ key msg, TakesUp s bay c uid l cmd 0x41 [(8, 27)] → m = .sealed key msg → n24 ≤ 2 ^ 20 → win a8 12 1 → win a16 n24 1 →
      Does (.slIv bay c) s (ends (.sealed key (some {
        iv := rd a8 12, aadLen := n24
        hash := ghashOf (ghKey (roundKeys key)) 0 (rd a16 n24), len := 0, decs := 0, areas := [], enc := none, last := false })) 0 s.mem)) ∧
    (∀ key msg, m = .sealed key (some msg) → ok →
      a8 = a16 ∨ a8.toNat + n24 ≤ a16.toNat ∨ a16.toNat + n24 ≤ a8.toNat → win a8 n24 1 → win a16 n24 1 → msg.last = false →
      let out := ctrBytes (roundKeys key) msg.iv ((n24 + 15) / 16) (msg.len / 16 + 1) (rd a8 n24)
      let hash := fun (bs : List Byte) => ghashOf (ghKey (roundKeys key)) msg.hash bs
      let len := msg.len + n24
      let last := decide (n24 % 16 ≠ 0)
      (TakesUp s bay c uid l cmd 0x42 [(8, 27)] → msg.enc ≠ some false →
        Does (.slEnc bay c) s (ends (.sealed key (some { msg with hash := hash out, len, last, enc := some true })) 0 (put s.mem a16 out))) ∧
      (TakesUp s bay c uid l cmd 0x43 [(8, 27)] → msg.enc ≠ some true → msg.decs < 64 →
        (msg.areas.map (·.2)).foldl (· + ·) 0 + n24 ≤ 2 ^ 20 →
        Does (.slDec bay c) s (ends (.sealed key (some { msg with
          hash := hash (rd a8 n24), len, last, enc := some false, decs := msg.decs + 1, areas := msg.areas ++ [(a16, n24)] })) 0 (put s.mem a16 out)))) ∧
    (∀ key msg, TakesUp s bay c uid l cmd 0x44 [(8, 15)] → m = .sealed key (some msg) → win a8 16 1 →
      let tag := gcmTag (roundKeys key) msg.iv msg.hash msg.aadLen msg.len
      let zeroed := msg.areas.foldl (fun M a => put M a.1 (List.replicate a.2 0)) s.mem
      (msg.enc ≠ some false → Does (.slFin bay c) s (ends (.sealed key none) 0 (put s.mem a8 tag))) ∧
      (msg.enc = some false → rd a8 16 = tag → Does (.slFin bay c) s (ends (.sealed key none) 0 s.mem)) ∧
      (msg.enc = some false → rd a8 16 ≠ tag → (∀ a ∈ msg.areas, win a.1 a.2 1) →
        Does (.slFin bay c) s (ends (.sealed key none) 1 zeroed))) ∧
    (TakesUp s bay c uid l cmd 0x50 [(8, 10)] → fieldAt blk 8 1 ∈ [0, 10, 11] → fieldAt blk 9 1 ≤ 2 → fieldAt blk 10 1 ≤ 1 →
      Does (.scConf bay c) s (fun t => ∃ v : Word, ends (.scan (fieldAt blk 8 1) (fieldAt blk 9 1) (fieldAt blk 10 1 = 1) v) 0 s.mem t ∧
        v.toNat % 2 ^ fmtBits (tkFmt (fieldAt blk 8 1)) = (scIdentity (tkFmt (fieldAt blk 8 1)) (fieldAt blk 9 1)).toNat)) ∧
    (∀ fmt op excl carry, m = .scan fmt op excl carry → fmt ∈ [0, 10, 11] →
      let f := tkFmt fmt
      let e := fmtBits f / 8
      let xs := fun (n : Nat) => (List.range n).map fun i => fieldAt (rd a8 (n * e)) (e * i) e
      let o := scOutputs f op excl (carry.toNat % 2 ^ fmtBits f) (xs n24)
      let keys := xs n24
      let nb := fieldAt blk 28 4
      let bins := scBins s uid a16 (fieldAt blk 32 1) nb [] keys
      let n32 := fieldAt blk 32 4
      let kept := ((xs n32).zip (rd a16 n32)).filter fun p => p.2 ≠ 0
      let dir := fieldAt blk 16 1
      (TakesUp s bay c uid l cmd 0x51 [(8, 27)] → ok → win a8 (n24 * e) e → win a16 (n24 * e) e →
        Does (.scRun bay c) s (fun t => ∃ v : Word, v.toNat % 2 ^ fmtBits f = o.2 % 2 ^ fmtBits f ∧
          ends (.scan fmt op excl v) 0 (put s.mem a16 (o.1.flatMap (toLe e))) t)) ∧
      (TakesUp s bay c uid l cmd 0x52 [(8, 32)] → ok → fmt ≠ 0 → 1 ≤ nb → nb ≤ 65536 → nb &&& (nb - 1) = 0 → fieldAt blk 32 1 ≤ 63 →
        win a8 (n24 * e) e → win a16 (4 * nb) 4 → (∀ k, k < nb → scrSpoiled s (s.unit uid) (a16.toNat - Config.win + 4 * k) 4 = false) →
        Does (.scHist bay c) s (ends m 0 (bins.1.foldl (fun M b =>
          put M (a16 + BitVec.ofNat 64 (4 * b.1)) (toLe 4 (b.2.1 + b.2.2))) s.mem))) ∧
      (TakesUp s bay c uid l cmd 0x53 [(8, 35)] → 1 ≤ n32 → n32 ≤ 2 ^ 20 → win a8 (n32 * e) e → win a16 n32 1 →
        win (fieldW blk 24) (kept.length * e) e →
        Does (.scCompact bay c) s (ends m kept.length (put s.mem (fieldW blk 24) (kept.flatMap fun p => toLe e p.1)))) ∧
      (TakesUp s bay c uid l cmd 0x54 [(8, 16)] → win a8 8 8 →
        (dir = 1 → Does (.scCarry bay c) s (ends (.scan fmt op excl (BitVec.ofNat 64 (leNat (rd a8 8)))) 0 s.mem)) ∧
        (dir = 0 → Does (.scCarry bay c) s (ends m 0 (put s.mem a8 (toLe 8 carry.toNat)))))) ∧
    (let np := fieldAt blk 16 4
     let ps := fieldAt blk 20 4
     let h := fieldAt blk 28 2
     let d := fieldAt blk 30 2
     TakesUp s bay c uid l cmd 0x60 [(8, 32)] → 1 ≤ np → np ≤ 65536 → 4096 ≤ ps → ps ≤ 2 ^ 21 → ps &&& (ps - 1) = 0 →
      fieldAt blk 24 1 ≤ 4 → fieldAt blk 25 1 ≤ 4 → fieldAt blk 26 1 ≤ 1 → fieldAt blk 27 1 ≤ 1 → 1 ≤ h → h ≤ 256 → 1 ≤ d →
      d ≤ 1024 → fieldAt blk 32 1 ≤ 1 → ps % (h * d * (fmtBits (tkFmt (fieldAt blk 25 1)) / 8)) = 0 →
      Does (.rlDesc bay c) s (ends (.relay blk) 0 s.mem)) ∧
    (∀ cf, TakesUp s bay c uid l cmd 0x61 [(8, 27)] → m = .relay cf → ok →
      let e := fmtBits (tkFmt (fieldAt cf 24 1)) / 8
      let len := n24 * (fieldAt cf 28 2 * fieldAt cf 30 2 * e)
      let moved := rlTokens s uid cf n24 (fieldAt blk 16 8) (rd a8 len)
      win a8 len e → win (fieldW cf 8) (8 * fieldAt cf 16 4) 8 → moved.2 = none →
      (∀ w ∈ moved.1, win w.va w.bs.length w.e) →
      Does (.rlMove bay c) s (ends m 0 (moved.1.foldl (fun M w => put M w.va w.bs) s.mem))) ∧
    (TakesUp s bay c uid l cmd 0x62 [] → Does (.rlFlush bay c) s (ends m 0 s.mem)) ∧
    (∀ st res, c < 12 → (corbelOf s (12 * bay + c)).holder = some (uid, l) →
      let u := s.unit uid
      let L := leaseOf u l
      L.ending = some (st, res) → L.running = true → live u = true ∨ u.st = .suspended → writesOut u l = false →
      exec (.corbelCommandEnd bay c) s = .next (s.putUnit uid { dropFar (.corbel l) u with
        m := { u.m with leases := tset u.m.leases l { L with
          cmds := L.cmds.drop 1, running := false, ending := none, lastSt := st, done := L.done + 1, result := res } }
        c := { u.c with uipend := u.c.uipend ||| 2 } }))

/-- BINIT of a barrier with no arrivals sets EXP; a count outside 1 to 65,535 raises BAR_FORM, arrivals BAR_STATE,
another VF's barrier BAR_DENIED. BARR of an initialised barrier that the unit has not arrived at in this
generation counts the arrival, completes the generation with the last, and keeps the record; else BAR_STATE or
BAR_ORDER; it waits for accesses to other packages. BWAIT completes at once without an entry, when the entry's
generation is over removes it, and else waits; BTEST gives the same as a predicate. HWAIT completes when the
handle is in the state named and else waits, claiming nothing; HSET sets it; HTEST gives whether it is in the
state. CREAD gives the counter of its level: the unit's, the launch's, the graph's, the job's phases or the
job's launches; CWAITC completes when the counter has reached the value and else waits. Each of these that
observes completes with a refresh of what ordinary loads see. -/
def Obligations.BarriersHandlesCounters : Prop :=
  (∀ (s : State) (n : BitVec 9) (a : BitVec 6) (pd : BitVec 4),
    let u := s.u
    let die := dieOf (coreOf u)
    let b := barrierOf s die n.toNat
    let mine := b.vf = none ∨ b.vf = some u.id.vf
    let entry := (u.m.arrivals.find? fun e => e.1 == n.toNat).map (·.2)
    let count := (gOf s a).toNat
    let arr := if b.arr + 1 = b.exp then { b with arr := 0, gen := b.gen + 1 } else { b with arr := b.arr + 1 }
    let puts := fun (b' : Barrier) (f : Machine.Unit → Machine.Unit) (t : State) => OnlyUnitDies s t ∧ OtherBarriers s t die n.toNat ∧
      barrierOf t die n.toNat = b' ∧ Advanced s t ∧ KeptRegs s t ∧ back s t.u = dropFar .sq (f u)
    let arrives := fun (u : Machine.Unit) =>
      { u with m := { u.m with arrivals := (u.m.arrivals.filter fun e => e.1 != n.toNat) ++ [(n.toNat, b.gen)] } }
    let sees := fun (u : Machine.Unit) => { u with m := { u.m with snap := s.mem } }
    let leaves := fun (u : Machine.Unit) =>
      { u with m := { u.m with arrivals := u.m.arrivals.filter fun e => e.1 != n.toNat, snap := s.mem } }
    let open_ := b.exp ≠ 0 ∧ entry ≠ some b.gen ∧ (entry = none → u.m.arrivals.length < 16)
    let past := entry = none ∨ entry ≠ some b.gen
    (CanIssue s [a] → mine → 1 ≤ count → count ≤ 65535 → b.arr = 0 →
      Does (.binit a n) s (puts { b with exp := BitVec.ofNat 16 count } id)) ∧
    (CanIssue s [a] → mine → count = 0 ∨ 65535 < count → Does (.binit a n) s (Traps s · .barForm 0 0)) ∧
    (CanIssue s [a] → mine → 1 ≤ count → count ≤ 65535 → b.arr ≠ 0 → Does (.binit a n) s (Traps s · .barState 0 0)) ∧
    (CanIssue s [a] → ¬ mine → Does (.binit a n) s (Traps s · .barDenied 0 0)) ∧
    (CanIssue s [] →
      (¬ mine → Does (.barr n) s (Traps s · .barDenied 0 0) ∧ Does (.bwait n) s (Traps s · .barDenied 0 0) ∧
        Does (.btest pd n) s (Traps s · .barDenied 0 0)) ∧
      (mine → b.exp = 0 → Does (.barr n) s (Traps s · .barState 0 0)) ∧
      (mine → b.exp ≠ 0 → ¬ open_ → Does (.barr n) s (Traps s · .barOrder 0 0)) ∧
      (mine → open_ → remotesDone u = true → Does (.barr n) s (puts arr arrives)) ∧
      (mine → open_ → remotesDone u = false → MayHold s → Does (.barr n) s (fun t =>
        WaitsIn s t (.barArrive n.toNat) ∧ t.dies = s.dies)) ∧
      (mine → entry = none → Does (.bwait n) s (Changes s · sees)) ∧
      (∀ g, mine → entry = some g → b.gen ≠ g → Does (.bwait n) s (Changes s · leaves)) ∧
      (∀ g, mine → entry = some g → b.gen = g → MayHold s → Does (.bwait n) s (fun t =>
        WaitsIn s t (.barGen n.toNat g) ∧ t.u.m.arrivals = u.m.arrivals)) ∧
      (mine → past → Does (.btest pd n) s (fun t => OnlyUnit s t ∧ Advanced s t ∧ WroteP s t pd true ∧
        t.u.m = { u.m with snap := s.mem })) ∧
      (mine → ¬ past → Does (.btest pd n) s (SetsP s · pd false))) ∧
    (issuing u = true → u.wait = some (.barArrive n.toNat) → mine → open_ → remotesDone u = true →
      Does .barrArrival s (puts arr arrives)) ∧
    (∀ g, issuing u = true → u.wait = some (.barGen n.toNat g) → b.gen ≠ g → Does .bwaitComplete s (Changes s · leaves))) ∧
  (∀ (s : State) (h : BitVec 8) (st : BitVec 2) (pd : BitVec 4) (d a : BitVec 6) (lv : Level) (v : Word),
    let u := s.u
    let x : HState := if st = 0 then .free else if st = 1 then .filling else if st = 2 then .full else .draining
    let now := tget u.m.handles h.toNat .free
    let j := s.job (65536 * u.id.vf + u.id.job)
    let value : Level → Word
      | .unit => u.m.counter
      | .launch => (s.recOf u.id.recNo).launchCtr
      | .graph => tget (s.vf u.id.vf).graphs (65536 * u.id.job + recGraph s u.id.recNo) 0
      | .phase => j.phaseCtr
      | .job => j.jobCtr
    let sees := fun (u : Machine.Unit) => { u with m := { u.m with snap := s.mem } }
    let reads := fun (t : State) => OnlyUnit s t ∧ Advanced s t ∧ t.u.m = { u.m with snap := s.mem }
    (CanIssue s [] →
      (now = x → Does (.hwait h st) s (Changes s · sees)) ∧
      (now ≠ x → MayHold s → Does (.hwait h st) s (fun t => WaitsIn s t (.handle h.toNat x) ∧ t.u.m = u.m)) ∧
      Does (.hset h st) s (Changes s · (fun u => { u with m := { u.m with handles := tset u.m.handles h.toNat x } })) ∧
      (now = x → Does (.htest pd h st) s (fun t => reads t ∧ WroteP s t pd true)) ∧
      (now ≠ x → Does (.htest pd h st) s (SetsP s · pd false)) ∧
      Does (.cread d lv) s (fun t => reads t ∧ WroteG s t d (value lv))) ∧
    (issuing u = true → u.wait = some (.handle h.toNat x) → now = x → Does .hwaitComplete s (Changes s · sees)) ∧
    (CanIssue s [a] →
      ((gOf s a).toNat ≤ (value lv).toNat → Does (.cwaitc a lv) s (Changes s · sees)) ∧
      ((value lv).toNat < (gOf s a).toNat → MayHold s → Does (.cwaitc a lv) s (fun t =>
        WaitsIn s t (.counter lv (gOf s a)) ∧ t.u.m = u.m))) ∧
    (issuing u = true → u.wait = some (.counter lv v) → v.toNat ≤ (value lv).toNat → Does .cwaitcComplete s (Changes s · sees)))

/-- Each traps with LREC_DENIED for a record outside the VF's range. LRPATCH of a record that is IDLE or WAITING
copies 64 bytes from the scratch window into its argument block and changes no other byte; it traps for a place
outside the window and for a READY or ACTIVE record. LRARM of a READY or ACTIVE record raises the job's overrun
count; of a WAITING one that awaits more releases, takes one; with the last release the record is READY, or traps with
LAUNCH_FORM where a check of its form fails. LRSTAT gives the record's status. -/
def Obligations.LaunchRecords : Prop :=
  ∀ (s : State) (d a b : BitVec 6),
    let u := s.u
    let v := s.vf u.id.vf
    let i := (gOf s a).toNat
    let mine := i < 8192 ∧ v.poolFirst ≤ i ∧ i < v.poolFirst + v.poolCount
    let r := s.recOf i
    let va := gOf s b
    let la := va.toNat - Config.win
    let inWin := Config.win ≤ va.toNat ∧ va.toNat % 64 = 0 ∧ la + 64 ≤ usable u
    let idle := r.st = .idle ∨ r.st = .waiting
    let key := 0x20000000000 + 512 * i + 384
    let jk := jobOfRec s i
    let code := match r.st with
      | .idle => 0
      | .waiting => 1
      | .ready => 2
      | .active => 3
    let onlyJob := fun (t : State) => Advanced s t ∧ KeptRegs s t ∧ t.mem = s.mem ∧ (∀ k, k ≠ s.cur → t.unit k = s.unit k) ∧
      (∀ k, k ≠ jk → t.job k = s.job k) ∧ ∀ k, k ≠ i → t.recOf k = s.recOf k
    (CanIssue s [a, b] →
      (¬ mine → Does (.lrpatch a b) s (Traps s · .lrecDenied 0 0)) ∧
      (mine → ¬ inWin → Does (.lrpatch a b) s (Traps s · .scratchBounds va 0)) ∧
      (mine → inWin → ¬ idle → Does (.lrpatch a b) s (Traps s · .lrecState 0 0)) ∧
      (mine → inWin → idle → scrSpoiled s u la 64 = true → Does (.lrpatch a b) s (Traps s · .uncorrectable va 0)) ∧
      (mine → inWin → idle → scrSpoiled s u la 64 = false → Does (.lrpatch a b) s (fun t => OnlyUnitMem s t ∧ Advanced s t ∧
        KeptRegs s t ∧ back s t.u = used s ∧ HoldsBytes t key (scrRead s.mem u la 64) ∧ SameBytesBut s t key 64))) ∧
    (CanIssue s [a] →
      (¬ mine → Does (.lrarm a) s (Traps s · .lrecDenied 0 0) ∧ Does (.lrstat d a) s (Traps s · .lrecDenied 0 0)) ∧
      (mine → r.st = .ready ∨ r.st = .active → Does (.lrarm a) s (fun t => onlyJob t ∧ t.recOf i = r ∧
        t.job jk = { s.job jk with overrun := (s.job jk).overrun + 1 })) ∧
      (mine → vfOfRec s i = some u.id.vf → r.st = .waiting → 2 ≤ r.live → Does (.lrarm a) s (fun t => onlyJob t ∧
        t.recOf i = { r with live := r.live - 1, releasedAt := (s.job jk).phaseCtr.toNat, cancelled := false })) ∧
      (mine → vfOfRec s i = some u.id.vf → s.cur / 128 ≠ i →
        r.st = .waiting ∧ r.live ≤ 1 ∨ r.st = .idle ∧ recField s i 118 2 ≤ 1 →
        (recFails s i u.id.vf = none → Does (.lrarm a) s (fun t =>
          Advanced s t ∧ KeptRegs s t ∧ t.mem = s.mem ∧ (t.recOf i).st = .ready)) ∧
        (∀ c, recFails s i u.id.vf = some c → Does (.lrarm a) s (fun t => t.u.st = .faulted ∧ t.u.r = u.r ∧ t.mem = s.mem ∧
          (t.recOf i).st = .idle ∧ (frameReg t.u 0).toNat % 256 = causeCode .launchForm))) ∧
      (mine → Does (.lrstat d a) s (SetsG s · d (BitVec.ofNat 64 (code + 2 ^ 8 * r.live + 2 ^ 24 * (r.ended % 256) +
        2 ^ 32 * r.runs.toNat + 2 ^ 40 * r.refused.toNat)))))

/-- A starting store of a good value on a channel of the VF's world with fewer than 8 copies appends a copy with the
unit, the template, the 64 argument bytes, the modes and the ordinal, and counts it; with 8 it waits until there is
a place. A bad
value, template or world raises COPY_APERTURE, and an argument block outside the scratchpad SCRATCH_BOUNDS. A
read of the status gives the copies done, queued and held. -/
def Obligations.CopyAperture : Prop :=
  ∀ (s : State) (ch : BitVec 5) (x : Word) (d : BitVec 6),
    let u := s.u
    let die := dieOf (coreOf u)
    let c := channelOf s die ch.toNat
    let arg := x.toNat / 2 ^ 16 % 2 ^ 16 * 64
    let n := c.queue.length + c.run.isSome.toNat
    let held := (c.aside.any fun r => r.c.uid == s.cur) || c.asideQ.any fun r => r.uid == s.cur
    let good := x.toNat < 2 ^ 32 ∧ x.toNat % 2 ^ 16 < 4096 ∧ c.world = (s.vf u.id.vf).world
    let copy : Copy :=
      { uid := s.cur, tmpl := x.toNat % 2 ^ 16, arg := scrRead s.mem u arg 64, ftz := u.c.ftz, det := u.c.det
        fxsel := u.c.fxsel, fxscale := tget u.c.fxscale u.c.fxsel.toNat 0, n := u.m.copies }
    let appends := fun (t : State) => OnlyUnitDies s t ∧ Advanced s t ∧ KeptRegs s t ∧ OtherChannels s t die ch.toNat ∧
      channelOf t die ch.toNat = { c with queue := c.queue ++ [copy] } ∧
      back s t.u = { used s with m := { u.m with copies := u.m.copies + 1 } }
    (CanIssue s [] →
      (¬ good → Does (.copyStart ch x) s (Traps s · .copyAperture (BitVec.ofNat 64 (0xFFFFFFFFFFBFF800 + 64 * ch.toNat)) 0)) ∧
      (good → usable u < arg + 64 →
        Does (.copyStart ch x) s (Traps s · .scratchBounds (BitVec.ofNat 64 (Config.win + arg)) 0)) ∧
      (good → arg + 64 ≤ usable u → scrSpoiled s u arg 64 = true →
        Does (.copyStart ch x) s (Traps s · .uncorrectable (BitVec.ofNat 64 (Config.win + arg)) 0)) ∧
      (good → arg + 64 ≤ usable u → scrSpoiled s u arg 64 = false → n < 8 → Does (.copyStart ch x) s appends) ∧
      (good → arg + 64 ≤ usable u → scrSpoiled s u arg 64 = false → 8 ≤ n → MayHold s → Does (.copyStart ch x) s (fun t =>
        WaitsIn s t (.copySpace ch.toNat x) ∧ t.dies = s.dies)) ∧
      Does (.copyStatusRead d ch) s (SetsG s · d (BitVec.ofNat 64 ((tget u.m.donecnt ch.toNat 0).toNat + 2 ^ 8 * min 8 n +
        2 ^ 12 * held.toNat)))) ∧
    (issuing u = true → u.wait = some (.copySpace ch.toNat x) → n < 8 → Does .dispatchQueueSpace s appends)

/-- A channel without a running copy takes up again a copy set aside, or the next one: with a template that passes the
check it runs from position 0, with its claim in the DET tracker; one that fails it, whose path carries no such
reduction, or whose claim meets another is set aside and stops the unit with the cause. The next prologue claim is granted
when its handle is in the state it waits for. A move writes what its elements give to a granule of the destination at
once, or combines one element into memory; of a plain copy within the scratchpad, shown where the position's granule is
its own, the element's bytes and nothing else. A copy that has moved all does its local epilogue, with HANDLE_STATE of a
handle in no state for it, and completes: it is counted, releases its DET claim, and raises its interrupt. -/
def Obligations.CopyEvents : Prop :=
  ∀ (s : State) (die ch : Nat),
    let c := channelOf s die ch
    (∀ r, c.run = none → nextCopy s c = some (.again r) → Does (.copyTakeUp die ch) s (fun t => OtherChannels s t die ch ∧
      t.units = s.units ∧ t.mem = s.mem ∧
      channelOf t die ch = { c with run := some r, aside := c.aside.filter fun y => !(y.c.uid == r.c.uid && y.c.n == r.c.n) })) ∧
    (∀ x bs, c.run = none → nextCopy s c = some (.fresh x) →
      let u := s.unit x.uid
      let va := BitVec.ofNat 64 (recField s u.id.recNo 80 8 + 256 * x.tmpl)
      let k := dropCopy c x
      let runs := fun (p : CopyPlan) (t : State) => channelOf t die ch = { k with run := some (startRun u x p) } ∧
        OtherChannels s t die ch ∧ t.mem = s.mem ∧ (t.unit x.uid).r = u.r
      let stops := fun (e : Cause × Word) (t : State) => (t.unit x.uid).st = .faulted ∧
        channelOf t die ch = { k with asideQ := x :: k.asideQ } ∧ t.mem = s.mem ∧
        frameReg (t.unit x.uid) 0 = BitVec.ofNat 64 (causeCode e.1 + 256 * (causeCode e.1 / 16) +
          0x4000 * u.c.inui.toNat + 2 ^ 16 * 11 + 2 ^ 24 * (ch % 256)) ∧ frameReg (t.unit x.uid) 2 = e.2
      corbBusy s x.uid va 256 = false → strictRead s x.uid (granules va.toNat 256) va 256 = (bs, none) →
      (∀ e, planOf bs x = .error e → Does (.copyTakeUp die ch) s (stops e)) ∧
      (∀ p, planOf bs x = .ok p → pathRefuses s x p = true → Does (.copyTakeUp die ch) s (stops (.atomicPath, p.dst.base))) ∧
      (∀ p, planOf bs x = .ok p → pathRefuses s x p = false →
        (claimOf s ch x p = none → Does (.copyTakeUp die ch) s (runs p)) ∧
        (∀ q, claimOf s ch x p = some q → (s.die die).det.any (claimsMeet q) = true →
          Does (.copyTakeUp die ch) s (stops (.detOverlap, 0))) ∧
        (∀ q, claimOf s ch x p = some q → (s.die die).det.any (claimsMeet q) = false → (s.die die).det.length < 64 →
          Does (.copyTakeUp die ch) s (fun t => runs p t ∧ (t.die die).det = (s.die die).det ++ [q])))) ∧
    (∀ r h, c.run = some r → copyLive s r.c.uid = true → r.plan.prologue[r.claims]? = some h →
      let want : HState := if h.act = 0 then .free else .full
      let next : HState := if h.act = 0 then .filling else .draining
      let u := s.unit r.c.uid
      (tget u.m.handles h.h .free = want → Does (.copyPrologueClaim die ch) s (fun t =>
        t.unit r.c.uid = { u with m := { u.m with handles := tset u.m.handles h.h next } } ∧
        (∀ k, k ≠ r.c.uid → t.unit k = s.unit k) ∧ OtherChannels s t die ch ∧ t.mem = s.mem ∧
        channelOf t die ch = { c with run := some { r with claims := r.claims + 1 } })) ∧
      (tget u.m.handles h.h .free ≠ want → exec (.copyPrologueClaim die ch) s = .next s)) ∧
    (∀ r, AtCopy s die ch r → r.pos < posTotal r.plan → r.plan.gather = none ∨ r.idx ≠ [] →
      let p := r.plan
      let went := fun (r' : CopyRun) (s' t : State) =>
        t.mem = s'.mem ∧ (channelOf t die ch).run = some r' ∧ (t.unit r.c.uid).r = (s.unit r.c.uid).r
      (∀ r' g e s', (∀ op f, p.reduce ≠ some (op, f, false)) → collect s die ch 128 r = (r', some g, e) →
        copyWrite s r die ch g ((r'.buf.filter (·.1 == g)).flatMap (·.2)) = .ok s' →
        Does (.copyMove die ch) s (went { r' with got := [], buf := r'.buf.filter (·.1 != g) } s')) ∧
      (∀ op f x bs b s', p.reduce = some (op, f, false) → rowIndex r = some x →
        (p.dst.kind = 0 → (dstAddr p (outAt p (countersAt p r.pos) 0).off).toNat + unitSize (tkFmt p.dst.fmt) ≤ usable (s.unit r.c.uid)) →
        valueAt s r die ch (countersAt p r.pos) x = (.ok bs, b) →
        copyReduce s r die ch op (tkFmt f) { outAt p (countersAt p r.pos) 0 with b := b } = .ok s' →
        Does (.copyMove die ch) s (went { nextPos r with got := [] } s'))) ∧
    (∀ r, AtCopy s die ch r →
      let p := r.plan
      let u := s.unit r.c.uid
      let f := tkFmt p.src.fmt
      let e := fmtBits f / 8
      let i := countersAt p r.pos
      let src := (p.src.base + BitVec.ofInt 64 (srcOff p i 0)).toNat
      let dst := fun (k : Nat) => (p.dst.base + BitVec.ofInt 64 (dstOff p (countersAt p k))).toNat
      p.body = true → p.src.kind = 0 → p.dst.kind = 0 → p.src.fmt = p.dst.fmt → isNibble f = false → p.conv = none →
      p.gather = none → p.reduce = none → r.buf = [] → r.pos < posTotal p →
      (∀ k, r.pos < k → k < posTotal p → dst k / 64 ≠ dst r.pos / 64) →
      (src + e ≤ usable u → dst r.pos + e ≤ usable u → dst r.pos % 64 + e ≤ 64 → scrSpoiled s u src e = false →
        Does (.copyMove die ch) s (fun t =>
          HoldsBytes t (scrKey u (dst r.pos)) (scrRead s.mem u src e) ∧ SameBytesBut s t (scrKey u (dst r.pos)) e ∧
          channelOf t die ch = { c with run := some { r with pos := r.pos + 1, got := [] } } ∧ OtherChannels s t die ch ∧
          (t.unit r.c.uid).r = u.r)) ∧
      (dst r.pos + e ≤ usable u → usable u < src + e → Does (.copyMove die ch) s (fun t =>
        (t.unit r.c.uid).st = .faulted ∧ t.mem = s.mem ∧
        frameReg (t.unit r.c.uid) 2 = BitVec.ofNat 64 Config.win + BitVec.ofNat 64 src))) ∧
    (∀ r, AtCopy s die ch r → posTotal r.plan ≤ r.pos → chanQuiet s r.c.uid die ch = true → r.failed = none →
      let u := s.unit r.c.uid
      let ends := fun (hs : Tab HState) (bits : BitVec 4) (t : State) => channelOf t die ch = { c with run := none } ∧
        OtherChannels s t die ch ∧
        (t.die die).det = (s.die die).det.filter (fun k => !(k.uid == r.c.uid && k.ch == ch)) ∧ t.mem = s.mem ∧
        t.unit r.c.uid = { u with
          m := { u.m with handles := hs, donecnt := tset u.m.donecnt ch (tget u.m.donecnt ch 0 + 1), counter := u.m.counter + 1 }
          c := { u.c with uipend := u.c.uipend ||| bits.setWidth _ } }
      let irq : BitVec 4 := if r.plan.irq then 1 else 0
      (r.plan.epilogue[r.epi]? = none → Does (.copyComplete die ch) s (ends u.m.handles irq)) ∧
      (∀ h, r.plan.epilogue[r.epi]? = some h → r.plan.epilogue[r.epi + 1]? = none → h.rem = false →
        let now := tget u.m.handles h.h .free
        (h.act = 2 → Does (.copyComplete die ch) s (ends (tset u.m.handles h.h .free) irq)) ∧
        (h.act ≠ 2 → now = .free ∨ now = .filling →
          Does (.copyComplete die ch) s (ends (tset u.m.handles h.h .full) (irq ||| 4))) ∧
        (h.act ≠ 2 → now = .full ∨ now = .draining → Does (.copyComplete die ch) s (fun t => (t.unit r.c.uid).st = .faulted ∧
          (t.unit r.c.uid).m.handles = u.m.handles ∧ channelOf t die ch = { c with run := none } ∧
          frameReg (t.unit r.c.uid) 0 = BitVec.ofNat 64 (causeCode .handleState + 256 * (causeCode .handleState / 16) +
            0x4000 * u.c.inui.toNat + 2 ^ 16 * 11 + 2 ^ 24 * (h.h % 256))))))

/-- LAUNCH_POOL_WRITE of good records of the VF, all IDLE, writes their 512 bytes each and no other byte. JOB_START
of an IDLE record that awaits more releases makes it WAITING with fresh units. A unit at the head of the VF's
queues that has a place leaves the queue and takes its core, with the PC, arguments, index and count of R102; a
gang takes its places together. Aging moves an entry up one level; the end of a slice asks the units to leave
and serves the other VF; a unit asked to leave is suspended at a boundary and joins its queue; saved segments
pass on and restored ones let the unit resume. -/
def Obligations.Launches : Prop :=
  ∀ (s : State) (h : IsuneHdr) (first job vf i : Nat) (recs : List (List Byte)) (e : ReadyEntry),
    let v := s.vf h.vf.toNat
    let mine := fun (i : Nat) => v.poolFirst ≤ i ∧ i < v.poolFirst + v.poolCount
    let n := recField s i 118 2
    (TakesCommand s h vfCmd → (∀ b ∈ recs, b.length = 512) → (∀ k, k < recs.length → mine (first + k)) →
      ((∀ k, k < recs.length → (s.recOf (first + k)).st = .idle) → Does (.launchPoolWrite h first recs) s (fun t =>
        Responds t h 0 0 [] [] ∧ t.units = s.units ∧
        SameBytesBut s t (0x20000000000 + 512 * first) (512 * recs.length) ∧
        ∀ k b, recs[k]? = some b → HoldsBytes t (0x20000000000 + 512 * (first + k)) b ∧
          t.recOf (first + k) = { s.recOf (first + k) with runs := 0 })) ∧
      (∀ k, k < recs.length → (s.recOf (first + k)).st ≠ .idle → (∀ j, j < k → (s.recOf (first + j)).st = .idle) →
        Rejects (.launchPoolWrite h first recs) s h 15 (first + k))) ∧
    (∀ is, TakesCommand s h vfCmd → (∀ i ∈ is, mine i) → (∀ c ∈ s.firm.cancels, c.2 ≠ 65536 * h.vf.toNat + job) →
      Does (.jobStart h job is) s (Responds · h 0 0 [] [])) ∧
    (Rising s.vfs → TakesCommand s h vfCmd → mine i → vfOfRec s i = some h.vf.toNat → (s.recOf i).st = .idle → 2 ≤ n →
      s.firm.cancels = [] → Does (.jobStart h job [i]) s (fun t => Responds t h 0 0 [] [] ∧
        t.recOf i = { s.recOf i with st := .waiting, live := n - 1, job, releasedAt := 0, cancelled := false } ∧
        (t.job (65536 * h.vf.toNat + job)).running = true ∧ (t.job (65536 * h.vf.toNat + job)).recs = [i] ∧
        ∀ k, k < min (recUnits s i) 128 → (t.unit (uidOf i k)).st = .waiting ∧ (t.unit (uidOf i k)).id.idx = k)) ∧
    (readyHead s vf = some e → (s.vf vf).st = .active → ∀ k pos segs, e.unit = some k →
      let uid := uidOf e.recNo k
      let u := s.unit uid
      unitPlace s uid vf = some (pos, segs) → placeWants s uid pos = none → Does (.unitPlacement vf) s (fun t =>
        (t.core pos).occupant = some uid ∧ (t.unit uid).id.core = some pos ∧ (t.recOf u.id.recNo).st = .active ∧
        (t.vf vf).ready = (s.vf vf).ready.filter (fun x => x.ord != e.ord) ∧
        (u.st = .suspended → (t.unit uid).r = u.r ∧ (t.unit uid).st = .running) ∧
        (u.st ≠ .suspended →
          let w := (t.unit uid).r
          let field := fun (o n : Nat) => (BitVec.ofNat 64 (recField t u.id.recNo o n) : Word)
          w.pc = field 48 8 ∧ (∀ a, a < 8 → tget w.g (1 + a) 0 = field (384 + 8 * a) 8) ∧
          tget w.g 9 0 = BitVec.ofNat 64 u.id.idx ∧ tget w.g 10 0 = BitVec.ofNat 64 u.id.count ∧
          { w with pc := 0, g := [] } = { blankRegs with pc := 0, g := [] }))) ∧
    (readyHead s vf = some e → (s.vf vf).st = .active → ∀ k, e.unit = some k → unitPlace s (uidOf e.recNo k) vf = none →
      Does (.unitPlacement vf) s (fun t => t.mem = s.mem ∧ ∀ uid, (t.unit uid).r = (s.unit uid).r ∧
        { t.unit uid with preempt := false } = { s.unit uid with preempt := false })) ∧
    (readyHead s vf = none → exec (.unitPlacement vf) s = .next s ∧ exec (.gangPlacement vf) s = .next s) ∧
    (readyHead s vf = some e → (s.vf vf).st = .active → e.unit = none → ∀ ps,
      let us := (unitsOf s e.recNo).filter fun u => (s.unit u).st == .ready || (s.unit u).st == .suspended
      let start := recField s e.recNo 104 8
      gangPlaces s vf e.recNo us = some ps → (∀ p ∈ ps, placeWants s p.1 p.2.1 = none) →
      ((s.recOf e.recNo).st = .ready → start = 0 ∨ s.tide.toNat + 8000 ≤ start →
        Does (.gangPlacement vf) s (fun t => (∀ p ∈ ps, (t.unit p.1).id.core = some p.2.1) ∧
          (t.recOf e.recNo).tstart = if start = 0 then (s.tide.toNat + 8000 + 49152 - 1) / 49152 * 49152 else start)) ∧
      ((s.recOf e.recNo).st ≠ .ready → Does (.gangPlacement vf) s (fun t => ∀ p ∈ ps, (t.unit p.1).id.core = some p.2.1))) ∧
    ((∃ x ∈ (s.vf vf).ready, 2 ^ 22 ≤ x.age) → exec (.readyQueueAging vf) s = .next (s.setVf vf { s.vf vf with
      ready := (s.vf vf).ready.map fun x => if 2 ^ 22 ≤ x.age then
        { x with age := x.age - 2 ^ 22, level := if x.level ≤ 1 then x.level else x.level - 1 } else x })) ∧
    (∀ inVf, inVf ≠ vf → Rising s.bays → (∃ n, (s.bay n).active = some vf ∧ (s.bay n).vfs.contains inVf = true) →
      (∀ n, (s.bay n).active = some vf → (s.bay n).vfs.contains inVf = true →
        (s.bay n).sliceAt + (s.bay n).quantum ≤ s.tide.toNat) →
      Does (.sliceEnd vf inVf) s (fun t => t.mem = s.mem ∧
        (∀ n, (s.bay n).active = some vf → (s.bay n).vfs.contains inVf = true →
          (t.bay n).active = some inVf ∧ (t.bay n).sliceAt = s.tide.toNat) ∧
        ∀ uid, (t.unit uid).r = (s.unit uid).r ∧ (t.unit uid).st = (s.unit uid).st)) ∧
    (let q := saveContext s s.cur
     s.u.st = .running → s.u.preempt = true → s.u.id.gang = false → atBoundary s.u = true → enginesAtBoundary s.u = true →
      q.2 = true → Does .preemptionComplete s (fun t => t.u.st = .suspended ∧ t.u.r = s.u.r ∧ t.mem = q.1.mem ∧
        (t.core (coreOf s.u)).occupant = none ∧ (∀ k, k ≠ s.cur → (t.unit k).r = (s.unit k).r) ∧
        ∃ o l, (t.vf s.u.id.vf).ready =
          (s.vf s.u.id.vf).ready ++ [{ recNo := s.u.id.recNo, unit := some s.u.id.idx, level := l, ord := o, age := 0 }])) ∧
    (∀ core seg, (segOf (s.core core) seg).st = 3 →
      let o := segOf (s.core core) seg
      let q := saveBytes o.uid (s, true) (saveArea s o.uid o.logical) (memRead s.mem (segKey core seg) 0x10000)
      q.2 = true →
        ((s.core core).occupant = none →
          Does (.segmentSaveComplete core seg) s (fun t => (segOf (t.core core) seg).st = 0 ∧ t.mem = q.1.mem)) ∧
        (∀ uid, (s.core core).occupant = some uid →
          Does (.segmentSaveComplete core seg) s (fun t => (segOf (t.core core) seg).uid = uid))) ∧
    (∀ s' k, s.u.st = .running → s.u.restored = false → s.u.id.suspendedAt ≠ 0 →
      segsAre s s.cur (fun st => st == 1 || st == 4) = true → restoreAll s s.cur = .ok s' → contextKept s' s.cur = .ok k →
      Does .segmentRestoreComplete s (fun t => t.u.restored = true ∧ t.u.id.suspendedAt = 0 ∧ t.mem = s'.mem ∧
        (k = true → t.u.r = s'.u.r)))

/-- HALT stops the sequencer at the word. A halted unit with its engines idle and its copies complete drains its publish
region, and once its requests are answered it is DONE: its core is free, and the launch's counts rise; with the last unit
the record is IDLE, and the unit's launch, graph and job counters rise by 1. CANCEL UNIT ends the unit; CANCEL of the
launch, graph, phase or job, and JOB_CANCEL, leave no unit that the level covers alive, nor the issuing unit; JOB_CANCEL
answers with the overrun count. -/
def Obligations.UnitEnds : Prop :=
  ∀ (s : State) (h : IsuneHdr) (job : Nat),
    let u := s.u
    let i := u.id.recNo
    let key := 65536 * u.id.vf + u.id.job
    let r := s.recOf i
    let others := ∃ v ∈ unitsOf s i, v ≠ s.cur ∧ alive (s.unit v) = true
    let last := fun (s : State) => ∀ x ∈ recSucc s i, x = 0xFFFF
    let dead := fun (t : State) (us : List Nat) => ∀ v ∈ us, alive (t.unit v) = false
    let running := fun (k : Nat) => (s.recOf k).st = .ready ∨ (s.recOf k).st = .active
    let jr := (s.job key).recs
    let ready := u.st = .running ∧ u.halted = true ∧ enginesIdle u = true ∧ copiesDone s s.cur = true ∧
      frameReg u 0 &&& 0x2000 = 0
    let idle := ready ∧ u.m.pub = [] ∧ u.m.remotes = [] ∧ u.m.leases = []
    (CanIssue s [] → Does .halt s (fun t => OnlyUnit s t ∧ t.u.halted = true ∧ t.u.r = u.r ∧ t.u.c = u.c ∧ t.u.m = u.m ∧
      t.u.st = u.st ∧ t.u.ctr = issueCounted u)) ∧
    (∀ s1, ready → drain s s.cur = .ok s1 →
      (earlierDone .tenant s1.u = true → others ∨ last s1 → Does .unitDone s (fun t => t.u.st = .done ∧ t.u.r = u.r)) ∧
      (earlierDone .tenant s1.u = false → exec .unitDone s = .next s1)) ∧
    (idle → others → Does .unitDone s (fun t => t.u.st = .done ∧ t.u.r = u.r ∧ t.mem = s.mem ∧
      (∀ c, u.id.core = some c → (s.core c).occupant = some s.cur → (t.core c).occupant = none) ∧
      (∀ k, k ≠ s.cur → t.unit k = s.unit k) ∧ t.recOf i = { r with ended := r.ended + 1, launchCtr := r.launchCtr + 1 })) ∧
    (Rising s.vfs → idle → s.cur / 128 = i → ¬ others → last s → vfOfRec s i = some u.id.vf → r.job = u.id.job →
      Does .unitDone s (fun t => t.u.st = .done ∧ t.mem = s.mem ∧ t.recOf i = { r with
          ended := r.ended + 1, launchCtr := r.launchCtr + 1, st := .idle, live := 0, runs := r.runs + 1, code := none } ∧
        (t.job key).jobCtr = (s.job key).jobCtr + 1 ∧
        tget (t.vf u.id.vf).graphs (65536 * u.id.job + recGraph s i) 0 =
          tget (s.vf u.id.vf).graphs (65536 * u.id.job + recGraph s i) 0 + 1)) ∧
    (CanIssue s [] →
      (s.cur / 128 = i → others ∨ last s → Does (.cancel .unit) s (fun t => t.u.st = .cancelled ∧
        ∀ v ∈ unitsOf s i, v ≠ s.cur → (t.unit v).st = (s.unit v).st)) ∧
      Does (.cancel .launch) s (fun t => dead t (unitsOf s i)) ∧
      Does (.cancel .graph) s (fun t => ∀ k ∈ jr, recGraph s k = recGraph s i → running k → dead t (unitsOf s k)) ∧
      Does (.cancel .phase) s (fun t => alive t.u = false ∧ ∀ k ∈ jr, running k → dead t ((unitsOf s k).filter fun v =>
        (s.unit v).st == .ready || (s.unit v).id.phaseMark == (s.job key).phaseCtr.toNat)) ∧
      Does (.cancel .job) s (fun t => (t.job key).running = false ∧ ∀ k ∈ jr, running k → dead t (unitsOf s k))) ∧
    (TakesCommand s h vfCmd →
      let key := 65536 * h.vf.toNat + job
      let ended := fun (t : State) => (t.job key).running = false ∧
        ∀ k ∈ (s.job key).recs, running k → dead t (unitsOf s k)
      (podSize s ≤ 1 → Does (.jobCancel h job) s (fun t => ended t ∧ Responds t h 0 0 [(s.job key).overrun] [])) ∧
      (1 < podSize s → Does (.jobCancel h job) s (fun t => ended t ∧ StaysOpen t h ∧
        t.firm.cancels = s.firm.cancels ++ [(h, key)])))

/-- Each traps with SCOPE_DENIED for a scope the policy denies. FENCE waits for requests outstanding, performs the stores
of the publish region, and completes with a refresh; a store that cannot be performed stops the unit there. QFENCE of
queues whose writes are performed does the same when it names the sequencer, else completes with a refresh; until then it
waits. PHASE of a scope above the package needs coursed mode; the first arrival fixes the members, records itself, and
waits while another member is alive; with none the generation completes and the unit departs. A unit whose generation is
over departs; a word that waited for a hold queue issues again. -/
def Obligations.Fences : Prop :=
  ∀ (s : State) (sc : Scope) (m : BitVec 7),
    let u := s.u
    let quiet := u.m.pub = [] ∧ remotesDone u = true
    let sees := fun (u : Machine.Unit) => { u with m := { u.m with snap := s.mem } }
    let owner := if farScope sc then 65536 * u.id.vf + u.id.job else u.id.recNo
    let dom := phaseDomain s u sc
    let p := phaseOf s sc owner dom
    let members := phaseMembers s u sc
    let near := sc ≠ .pod ∧ sc ≠ .system
    let may := near ∨ (u.c.coursed = true ∧ scopeDenied u.c sc = false)
    let departs := fun (t : State) => t.u.r.pc = u.r.pc + 4 ∧ t.u.wait = none ∧ t.u.m.snap = t.mem ∧
      t.u.m.phaseArrived.all (fun e => e.1 != sc) = true ∧ t.mem = s.mem
    let drained := fun (s1 t : State) => t.mem = s1.mem ∧ t.u.r.pc = u.r.pc + 4 ∧ t.u.wait = none ∧ t.u.m.snap = s1.mem
    let drainStops := fun (i : Instr) (s0 : State) => ∀ s1 c a, drain s0 s.cur = .fail s1 c a → wanting c = false →
      Does i s (fun t => t.u.st = .faulted ∧ (frameReg t.u 0).toNat % 256 = causeCode c ∧ frameReg t.u 1 = u.r.pc ∧
        frameReg t.u 2 = a ∧ t.u.r = u.r ∧ t.mem = s1.mem)
    let fences := fun (i : Instr) (s0 : State) =>
      (quiet → Does i s (Changes s · sees)) ∧
      (remotesDone u = false → MayHold s → Does i s (WaitsIn s · (.fence sc))) ∧
      (remotesDone u = true → drainStops i s0) ∧
      (∀ s1, remotesDone u = true → drain s0 s.cur = .ok s1 →
        (near ∨ remotesDone s1.u = true → Does i s (drained s1)) ∧
        (¬ near → remotesDone s1.u = false → MayHold s → Does i s (fun t =>
          t.u.wait = some (.fence sc) ∧ t.u.r = u.r ∧ t.mem = s1.mem)))
    let qfences := fun (i : Instr) (s0 : State) =>
      (m.getLsbD 0 = false ∨ u.m.pub = [] → queuesDone s s.cur m = true → Does i s (Changes s · sees)) ∧
      (m.getLsbD 0 = true → queuesDone s s.cur m = true → drainStops i s0 ∧
        ∀ s1, drain s0 s.cur = .ok s1 → Does i s (drained s1)) ∧
      (queuesDone s s.cur m = false → MayHold s → Does i s (WaitsIn s · (.qfence m)))
    let arrives := fun (i : Instr) =>
      (remotesDone u = false ∨ queuesDone s s.cur 0x7F = false → MayHold s → Does i s (WaitsIn s · (.phaseArrive sc))) ∧
      (quiet → queuesDone s s.cur 0x7F = true → p.arrived = [] → s.cur ∈ members →
        (MayHold s → (∃ k ∈ members, k ≠ s.cur ∧ alive (s.unit k) = true) → Does i s (fun t =>
          WaitsIn s t (.phaseMeet sc) ∧ phaseOf t sc owner dom = { p with members, arrived := [s.cur] } ∧
          t.u.m.phaseArrived = u.m.phaseArrived ++ [(sc, p.gen)])) ∧
        ((∀ k ∈ members, k ≠ s.cur → alive (s.unit k) = false) →
          farCount s sc p ≤ farArrived (s.job owner) dom (sc == .system) → Does i s (fun t => departs t ∧
          phaseOf t sc owner dom = { p with gen := p.gen + 1, members := [], arrived := [] })))
    (CanIssue s [] →
      (scopeDenied u.c sc = true → Does (.fence sc) s (Traps s · .scopeDenied 0 0) ∧ Does (.phase sc) s (Traps s · .scopeDenied 0 0)) ∧
      (scopeDenied u.c sc = false → fences (.fence sc) (unpoll s)) ∧ qfences (.qfence m) (unpoll s) ∧
      (scopeDenied u.c sc = false → ¬ near → u.c.coursed = false → Does (.phase sc) s (Traps s · .phaseForm 0 0)) ∧
      (may → arrivedGen u sc = none → arrives (.phase sc))) ∧
    (issuing u = true →
      (u.wait = some (.fence sc) → fences .fenceComplete s) ∧
      (u.wait = some (.qfence m) → qfences .qfenceComplete s) ∧
      (u.wait = some (.phaseArrive sc) → arrivedGen u sc = none → arrives .phaseDepart) ∧
      (∀ g, u.wait = some (.phaseMeet sc) → arrivedGen u sc = some g → p.gen ≠ g →
        Does .phaseDepart s (fun t => departs t ∧ t.phases = s.phases))) ∧
    (live u = true → u.wait = some (.retry 0) → u.m.remotes = [] → s.late = [] →
      exec .retryResend s = .next (s.setU { u with wait := none }))

/-- PGREQ gives 0 for a page that is here, joins a pending request with 2, posts a new one with 1 and an event to
the host, and waits when 64 are pending; it traps for an address that is not canonical or not translated. PGSTAT changes
only its register. NQPOP takes the oldest notification into the scratch window and gives the number there were, or 0.
MIGRATE_PAGE that passes the checks starts the migration and sets WB, else answers REFUSED; a refusal ends the
requests with REQFAIL. The end of the copy moves the page's bytes and swings the leaf, and a timeout clears WB;
both end the migration and answer. -/
def Obligations.Pages : Prop :=
  ∀ (s : State) (d a : BitVec 6) (h : IsuneHdr) (va : Word) (ipa : BitVec 48) (die : Nat) (m : Migration) (pg : BitVec 38),
    let u := s.u
    let vf := u.id.vf
    let g := gOf s a
    let v := s.vf vf
    let la := g.toNat - Config.win
    let hv := h.vf.toNat
    let tr := xlate s (coreOf u) vf (heapOf u) g
    let others := fun (t : State) => t.mem = s.mem ∧ ∀ k, k ≠ s.cur → t.unit k = s.unit k
    let settled := fun (t : State) (vf : Nat) (page : BitVec 38) =>
      (t.vf vf).requests = (s.vf vf).requests.filter (fun r => r.1 != page) ∧ (t.die die).migration = none
    let posts := fun (i : Instr) (pg : BitVec 38) =>
      (pageAsked s vf pg = false → v.requests.length < 64 → Does i s (fun t => others t ∧
        Advanced s t ∧ WroteG s t d 1 ∧ (t.vf vf).requests = v.requests ++ [(pg, [s.cur])] ∧
        (t.vf vf).reqfail = v.reqfail.filter (· != pg) ∧
        t.hostOut = s.hostOut ++ [eventMsg (if v.world then 1 else 9) 0x0100 [vf, pg.toNat]])) ∧
      (pageAsked s vf pg = true → Does i s (fun t => others t ∧ Advanced s t ∧ WroteG s t d 2 ∧ t.hostOut = s.hostOut)) ∧
      (pageAsked s vf pg = false → 64 ≤ v.requests.length → MayHold s → Does i s (fun t =>
        WaitsIn s t (.pgreq d.toNat pg) ∧ t.vfs = s.vfs))
    (CanIssue s [a] →
      (canonical g = false → Does (.pgreq d a) s (Traps s · .noncanonical g 0) ∧ Does (.pgstat d a) s (Traps s · .noncanonical g 0)) ∧
      (canonical g = true → Config.copyAp ≤ g.toNat → Does (.pgreq d a) s (Traps s · .translation g 0)) ∧
      (canonical g = true → g.toNat < Config.copyAp → (∀ c, tr = .error c → wanting c = false →
        Does (.pgreq d a) s (Traps s · c g 0)) ∧
        (∀ t0, tr = .ok t0 →
          let here := t0.leaf = none ∨ (t0.res = true ∧ t0.kind = 0 ∧ ∀ l, t0.leaf = some l → bitAt l.e 6 = false)
          (here → Does (.pgreq d a) s (fun t => others t ∧ Advanced s t ∧ WroteG s t d 0 ∧ (t.vf vf).requests = v.requests)) ∧
          (¬ here → posts (.pgreq d a) (pageOf g)))) ∧
      (canonical g = true → Config.copyAp ≤ g.toNat ∨ (∀ c, tr = .error c → wanting c = false) →
        Does (.pgstat d a) s (SetsG s · d (pageStat s u g))) ∧
      (g.toNat < Config.win ∨ usable u < la + 16 → Does (.nqpop d a) s (Traps s · .scratchBounds g 0)) ∧
      (Config.win ≤ g.toNat → la + 16 ≤ usable u → g.toNat % 16 ≠ 0 → Does (.nqpop d a) s (Traps s · .dataMisaligned g 0)) ∧
      (Config.win ≤ g.toNat → la + 16 ≤ usable u → g.toNat % 16 = 0 → watched u g 16 true = false →
        (v.nq = [] → Does (.nqpop d a) s (SetsG s · d 0)) ∧
        (∀ n rest, v.nq = n :: rest →
          let bs := toLe 8 (n.kind.toNat + 2 ^ 16 * n.page.toNat) ++ toLe 8 (n.cnt.toNat + 2 ^ 16 * n.lost.toNat + 2 ^ 32 * n.seq.toNat)
          Does (.nqpop d a) s (fun t => Advanced s t ∧ WroteG s t d (BitVec.ofNat 64 (rest.length + 1)) ∧
            (t.vf vf).nq = rest ∧ HoldsBytes t (scrKey u la) bs ∧ SameBytesBut s t (scrKey u la) 16)))) ∧
    (issuing u = true → u.wait = some (.pgreq d.toNat pg) → posts .pgreqPost pg) ∧
    (TakesCommand s h vfCmd →
      (migrationOf s h va ipa.toNat = .ok (die, m) → Does (.migratePage h va ipa) s (fun t => StaysOpen t h ∧
        (t.die die).migration = some m ∧ HoldsBytes t m.leafKey (toLe 8 (leafWb true (memNat s.mem m.leafKey 8))) ∧
        SameBytesBut s t m.leafKey 8)) ∧
      (∀ c, migrationOf s h va ipa.toNat = .error c → Does (.migratePage h va ipa) s (fun t => Responds t h 11 c [] [] ∧
        t.mem = s.mem ∧ (t.vf hv).requests = (s.vf hv).requests.filter (fun r => r.1 != pageOf va))) ∧
      Does (.migratePageRefuse h va) s (fun t => Responds t h 0 0 [] [] ∧ t.mem = s.mem ∧
        (t.vf hv).requests = (s.vf hv).requests.filter (fun r => r.1 != pageOf va) ∧
        ((∃ r ∈ (s.vf hv).requests, r.1 = pageOf va) → pageOf va ∈ (t.vf hv).reqfail))) ∧
    ((s.die die).migration = some m →
      Does (.migrationCopyEnd die) s (fun t => settled t m.vf m.page ∧ Responds t m.hdr 0 0 [] [] ∧
        (m.held = [] → m.leafKey + 8 ≤ m.newKey ∨ m.newKey + 65536 ≤ m.leafKey →
          ∀ k, k < 65536 → byteAt t (m.newKey + k) = byteAt s (m.oldKey + k))) ∧
      (2 ^ 19 ≤ m.cycles → Does (.migrationTimeout die) s (fun t => settled t m.vf m.page ∧ Responds t m.hdr 11 0 [] [] ∧
        (m.held = [] → SameBytesBut s t m.leafKey 8))) ∧
      (m.cycles < 2 ^ 19 → exec (.migrationTimeout die) s = .next s))

/-- A request with hops to make enters the buffer of its next port, or is NACKed where no lane of it is lit. At its target a
request whose key does not grant it is NACKed with the reason and has no other effect but the count of a torn-down VF. A
read replies with the bytes; a write performs its bytes under the mask and replies; an atomic exchanges the datum and
replies with the old one, NACKed at an address it is not aligned to; a reduce is applied once for each tag, one seen is
only answered, one 256 tags old is dropped and counted; a handle action sets FULL or FREE, or answers 1, which is
counted, and does nothing. Every other byte of memory stays. -/
def Obligations.RemoteTargets : Prop :=
  ∀ (s : State) (p : Packet) (uid la hd k : Nat) (va : Word) (tr : Tr) (tgt : KeyTarget),
    let n := pktBytes p
    let u := s.unit uid
    let vf := p.dstVf.toNat
    let here := p.nhop.toNat ≤ p.hop.toNat
    let back := fun (t : State) (data : List Byte) => Answers s t p .reply p.size.toNat data
    let same := fun (t : State) => t.mem = s.mem ∧ t.units = s.units
    let refuses := fun (i : Instr) (r : Nat) => Does i s (fun t => Answers s t p .nack r [] ∧ same t)
    let sk := scrKey u la
    let op := p.aop.toNat
    let rop := fieldAt p.data 8 1
    let swaps := fun (t : State) (k op b c : Nat) =>
      let new := amoResult op n (memNat s.mem k n) (b % 2 ^ (8 * n)) (c % 2 ^ (8 * n))
      HoldsBytes t k (toLe n new) ∧ SameBytesBut s t k n ∧ t.units = s.units
    let atomicAt := fun (op : Nat) => keyTranslate s vf va (.atomic (op != 0) (isAdd64 op && n == 8))
    let b := fieldAt p.data 0 n
    let c := fieldAt p.data n n
    let x := handleOf u hd
    let quiet := tr.wb = false ∧ tr.counted = false
    let at' := tr.place = .mem k ∧ spoiledAt s k n = false
    let tags := tagState s (sourceId p)
    let tag := p.tag.toNat
    let fresh := ∀ hi l, tags = some (hi, l) → tag ∉ l ∧ hi < tag + 256
    let noted := fun (t : State) => ∃ hi l, tagState t (sourceId p) = some (hi, l) ∧ tag ∈ l
    (∀ e ∈ [(Instr.asyncRead p, PacketKind.read), (.asyncWrite p, .write), (.asyncAtomic p, .atomic),
        (.asyncReduce p, .reduce), (.asyncHandle p, .handle)], ¬ here →
      (deadPort s (outPort p) = false → HasRoom s (outPort p) → exec e.1 s = .next (s.setLink (outPort p)
        { s.link (outPort p) with abuf := (s.link (outPort p)).abuf ++ [{ kind := e.2, p := p }] })) ∧
      (deadPort s (outPort p) = true → CanAnswer s p → refuses e.1 7)) ∧
    (here → CanAnswer s p →
      (∀ e ∈ [(Instr.asyncRead p, KeyNeed.read), (.asyncWrite p, .write), (.asyncAtomic p, .amo),
          (.asyncReduce p, .amo), (.asyncHandle p, .handle)], ∀ r, keyTarget s p e.2 = .error r → refuses e.1 r ∧
        ((s.vf vf).st = .teardown → Does e.1 s (fun t => (t.vf vf).drops = (s.vf vf).drops + 1))) ∧
      (keyTarget s p .read = .ok (.scratch uid la) → scrSpoiled s u la n = false →
        Does (.asyncRead p) s (fun t => back t (scrRead s.mem u la n) ∧ same t)) ∧
      (keyTarget s p .read = .ok (.va va) →
        (va.toNat % 64 + n ≤ 64 → keyTranslate s vf va .load = .ok tr → quiet → at' →
          Does (.asyncRead p) s (fun t => back t (memRead s.mem k n) ∧ same t)) ∧
        (∀ bs s1, vfBytes s vf 3 va n = .ok (some (bs, s1)) → Does (.asyncRead p) s (fun t => back t bs ∧ t.mem = s1.mem)) ∧
        (∀ r, vfBytes s vf 3 va n = .error r → refuses (.asyncRead p) r)) ∧
      (p.data.length = n →
        (keyTarget s p .write = .ok (.scratch uid la) → la / 65536 = (la + n - 1) / 65536 →
          Does (.asyncWrite p) s (fun t => back t [] ∧ t.units = s.units ∧ MaskedAt s t sk n p)) ∧
        (keyTarget s p .write = .ok (.va va) → va.toNat % 64 + n ≤ 64 → quiet → k % 64 = va.toNat % 64 →
          (∀ i, i < n → keyTranslate s vf (va + BitVec.ofNat 64 i) .store = .ok { tr with place := .mem (k + i) }) →
          Does (.asyncWrite p) s (fun t => back t [] ∧ t.units = s.units ∧ MaskedAt s t k n p))) ∧
      (keyTarget s p .amo = .ok (.scratch uid la) → spoiledAt s sk n = false →
        Does (.asyncAtomic p) s (fun t => back t (toLe n (memNat s.mem sk n)) ∧ swaps t sk op b c) ∧
        (fresh → Does (.asyncReduce p) s (fun t => back t [] ∧ noted t ∧ swaps t sk rop (fieldAt p.data 0 8) 0))) ∧
      (keyTarget s p .amo = .ok (.va va) →
        (∀ r, atomicAt op = .error r → refuses (.asyncAtomic p) r) ∧
        (atomicAt op = .ok tr → tr.place = .mem k → va.toNat % n ≠ 0 → refuses (.asyncAtomic p) 6) ∧
        (atomicAt op = .ok tr → quiet → at' → va.toNat % n = 0 →
          Does (.asyncAtomic p) s (fun t => back t (toLe n (memNat s.mem k n)) ∧ swaps t k op b c)) ∧
        (atomicAt rop = .ok tr → fresh → quiet → at' → va.toNat % n = 0 →
          Does (.asyncReduce p) s (fun t => back t [] ∧ noted t ∧ swaps t k rop (fieldAt p.data 0 8) 0))) ∧
      (keyTarget s p .amo = .ok tgt → ∀ hi l, tags = some (hi, l) →
        (tag ∈ l → heldHere s p = false → Does (.asyncReduce p) s (fun t => back t [] ∧ same t)) ∧
        (tag ∉ l → tag + 256 ≤ hi → Does (.asyncReduce p) s (fun t => same t ∧ t.links = s.links ∧
          (t.vf vf).lateReduces = (s.vf vf).lateReduces + 1))) ∧
      (keyTarget s p .handle = .ok (.handle uid hd) →
        (fieldAt p.data 0 1 = 2 → Does (.asyncHandle p) s (fun t => back t [0] ∧ handleOf (t.unit uid) hd = .free ∧ t.mem = s.mem)) ∧
        (fieldAt p.data 0 1 ≠ 2 → x = .free ∨ x = .filling → Does (.asyncHandle p) s (fun t => back t [0] ∧
          handleOf (t.unit uid) hd = .full ∧ (t.unit uid).c.uipend.getLsbD 2 = true ∧ t.mem = s.mem)) ∧
        (fieldAt p.data 0 1 ≠ 2 → x ≠ .free → x ≠ .filling → Does (.asyncHandle p) s (fun t => back t [1] ∧ same t ∧
          (t.vf vf).refused = (s.vf vf).refused + 1))))

/-- A reply, NACK or retry with hops to make goes on. A reply ends its request and gives back its allowance; a word
that awaited it receives the datum and completes; bytes that an agent or a page walk had asked for are there. A NACK, or
2^20 cycles without a reply, stops the unit with REMOTE_NACK (REMOTE_DATA for reason 9) or REMOTE_TIMEOUT. A retry sends
the request again 256 cycles later. A word that waits for its allowance sends once there is one. An asynchronous slot
sends the oldest packets: 32 on a torus port, 2 on each lit lane of a chord port. -/
def Obligations.RemoteReplies : Prop :=
  ∀ (s : State) (p : Packet) (uid tag port k : Nat) (r : Remote),
    let u := s.unit uid
    let here := p.nhop.toNat ≤ p.hop.toNat
    let free := u.dbg.stopped = false
    let plain := r.far = none ∧ r.strm = none ∧ r.copyCh = none
    let own := plain ∧ ∀ l, r.agent ≠ .corbel l
    let mine := answered s p = some (uid, r)
    let ends := fun (t : State) => (t.unit uid).m.remotes = u.m.remotes.filter (fun x => x.tag != r.tag) ∧ t.mem = s.mem ∧
      ∀ k, r.cap = some k → tget (t.unit uid).m.caps k blankCap =
        { tget u.m.caps k blankCap with allow := (tget u.m.caps k blankCap).allow + 1 }
    let datum : Word := BitVec.ofNat 64 (leNat (p.data.take (pktBytes r.pkt)))
    let l := s.link port
    let n := if port < 8 then 32 else 2 * (l.lanes.filter fun x => x.2.lit).length
    (∀ e ∈ [(Instr.asyncReply p, PacketKind.reply), (.asyncNack p, .nack), (.asyncRetry p, .retry)], ¬ here →
      HasRoom s (outPort p) → exec e.1 s = .next (s.setLink (outPort p)
        { s.link (outPort p) with abuf := (s.link (outPort p)).abuf ++ [{ kind := e.2, p := p }] })) ∧
    (here → answered s p = none → exec (.asyncReply p) s = .next s ∧ exec (.asyncNack p) s = .next s ∧
      exec (.asyncRetry p) s = .next s) ∧
    (here → mine → free →
      (plain → r.waits = false → Does (.asyncReply p) s (fun t => ends t ∧ (t.unit uid).r = u.r)) ∧
      (plain → r.waits = true → live u = true →
        Does (.asyncReply p) s (fun t => ends t ∧ (t.unit uid).wait = none ∧ (t.unit uid).r.pc = u.r.pc + 4 ∧
          ∀ d, r.dst = some d → getG (t.unit uid).r d = if d = 0 then 0 else datum)) ∧
      (∀ f, r.far = some f → r.waits = false → Does (.asyncReply p) s (fun t => ends t ∧ (t.unit uid).r = u.r ∧
        (f.walk = none → (t.unit uid).far = u.far ++ [(r.agent, f, p.data.take f.n)]) ∧
        ∀ w, f.walk = some w → (w, BitVec.ofNat 64 (leNat (p.data.take 8))) ∈ t.walks)) ∧
      (own → live u = true → Does (.asyncNack p) s (fun t =>
        Failed s t uid r (if p.size = 9 then .remoteData else .remoteNack) p.size.toNat))) ∧
    (here → mine → Does (.asyncRetry p) s (fun t => t.mem = s.mem ∧ (t.unit uid).r = u.r ∧
      (t.unit uid).m.remotes = u.m.remotes.map (fun x => if x.tag = r.tag then { x with resend := some 256 } else x))) ∧
    (remoteOf s tag = some (uid, r) → own → live u = true → free →
      (2 ^ 20 ≤ r.cycles → Does (.remoteReplyTimeout tag) s (fun t => Failed s t uid r .remoteTimeout 0)) ∧
      (r.cycles < 2 ^ 20 → exec (.remoteReplyTimeout tag) s = .next s)) ∧
    (issuing s.u = true → s.u.wait = some (.allowance r) → r.cap = some k →
      let c := tget s.u.m.caps k blankCap
      (c.allow ≠ 0 → r.waits = false ∨ MayHold s → Does .remoteSend s (fun t =>
        tget t.u.m.caps k blankCap = { c with allow := c.allow - 1 } ∧
        t.u.m.remotes.map (·.tag) = s.u.m.remotes.map (·.tag) ++ [s.nextTag] ∧ t.mem = s.mem ∧
        (r.waits = true → t.u.wait = some (.reply s.nextTag false) ∧ t.u.r = s.u.r) ∧
        (r.waits = false → t.u.wait = none ∧ t.u.r.pc = s.u.r.pc + 4))) ∧
      (c.allow = 0 → MayHold s → Does .remoteSend s (fun t => WaitsIn s t (.allowance r) ∧ t.links = s.links))) ∧
    (asyncSlot (slotOf s.tide) = true → Does (.asyncSlot port) s (fun t =>
      t.pktOut = s.pktOut ++ (l.abuf.take n).map (fun k => (port, { k with p := { k.p with hop := k.p.hop + 1 } })) ∧
      t.link port = { l with abuf := l.abuf.drop n } ∧ (∀ q, q ≠ port → t.link q = s.link q) ∧ t.units = s.units ∧ t.mem = s.mem)) ∧
    (asyncSlot (slotOf s.tide) = false → exec (.asyncSlot port) s = .next s)

/-- On a queue pair that takes operations a write performs its bytes and is completed; a read completes with the bytes; an
atomic adds or compares and swaps 64 bits and completes with the old; an address that may not be used earns an error, and
within one granule changes nothing. A queue pair in the error state drops and counts. A
send to a VF's queue pair is received by the VF. A frame of a device queue pair that is no command is answered
with status 1, 5 or 13. -/
def Obligations.HostAccesses : Prop :=
  ∀ (s : State) (qp n k vf : Nat) (va cmp arg : Word) (cas : Bool) (data : List Byte) (tr : Tr) (h : IsuneHdr),
    let tells := fun (t : State) (status : Nat) (bytes : List Byte) => t.hostOut = s.hostOut ++
      [{ qp, opcode := 0, tag := 0, kind := 3, status, detail := 0, fields := [], bytes }]
    let three := [Instr.hostRdmaWrite qp va data, .hostRdmaRead qp va n, .hostRdmaAtomic qp va cas cmp arg]
    let ok := qpState s qp = some true
    let at' := tr.place = .mem k ∧ tr.wb = false ∧ tr.counted = false
    let dropped := s.setVf vf { s.vf vf with drops := (s.vf vf).drops + 1 }
    let old := memNat s.mem k 8
    let new := if cas then (if old = cmp.toNat then arg.toNat else old) else (old + arg.toNat) % 2 ^ 64
    let mine := deviceQp s h = true ∧ (h.kind ≠ 0 ∨ h.opcode.toNat ∉ opcodes)
    let good := h.version = 1 ∧ h.reserved = false ∧ h.length.toNat ≤ 2 ^ 22
    let f := headerOfBytes qp (padTo data 64 0)
    (qpState s qp = none → ∀ i ∈ three, exec i s = .next s) ∧
    (qpState s qp = some false → vfOfQp s qp = some vf → ∀ i ∈ three, exec i s = .next dropped) ∧
    (ok → ∀ s1, rdmaWriteAll qp (granules va.toNat data.length) s va data = .ok s1 → Does (.hostRdmaWrite qp va data) s
      (fun t => tells t 0 [] ∧ t.mem = s1.mem)) ∧
    (ok → rdmaBlocked s qp va n = false → ∀ bs s1, rdmaReadAll qp (granules va.toNat n) s va n = some (bs, s1) →
      Does (.hostRdmaRead qp va n) s (fun t => tells t 0 bs ∧ t.mem = s1.mem)) ∧
    (ok → data ≠ [] → va.toNat % 64 + data.length ≤ 64 →
      (rdmaPlace s qp va .store = some tr → at' → k % 64 = va.toNat % 64 → Does (.hostRdmaWrite qp va data) s (fun t =>
        tells t 0 [] ∧ HoldsBytes t k data ∧ SameBytesBut s t k data.length ∧ t.units = s.units)) ∧
      (rdmaPlace s qp va .store = none → Does (.hostRdmaWrite qp va data) s (fun t =>
        tells t 1 [] ∧ t.mem = s.mem ∧ t.units = s.units))) ∧
    (ok → 0 < n → va.toNat % 64 + n ≤ 64 → rdmaBlocked s qp va n = false →
      (rdmaPlace s qp va .load = some tr → at' → spoiledAt s k n = false → Does (.hostRdmaRead qp va n) s (fun t =>
        tells t 0 (memRead s.mem k n) ∧ t.mem = s.mem ∧ t.units = s.units)) ∧
      (rdmaPlace s qp va .load = none → Does (.hostRdmaRead qp va n) s (fun t =>
        tells t 1 [] ∧ t.mem = s.mem ∧ t.units = s.units))) ∧
    (ok → rdmaPlace s qp va (.atomic true true) = none ∨
        (rdmaPlace s qp va (.atomic true true) = some tr ∧ va.toNat % 8 ≠ 0) →
      Does (.hostRdmaAtomic qp va cas cmp arg) s (fun t => tells t 1 [] ∧ t.mem = s.mem ∧ t.units = s.units)) ∧
    (ok → rdmaPlace s qp va (.atomic true true) = some tr → at' → va.toNat % 8 = 0 → spoiledAt s k 8 = false →
      Does (.hostRdmaAtomic qp va cas cmp arg) s (fun t =>
        tells t 0 (toLe 8 old) ∧ HoldsBytes t k (toLe 8 new) ∧ SameBytesBut s t k 8 ∧ t.units = s.units)) ∧
    (vfOfQp s qp = some vf →
      ((s.vf vf).qpError = false → exec (.hostSend qp data) s =
        .next (s.setVf vf { s.vf vf with received := (s.vf vf).received ++ [data] })) ∧
      ((s.vf vf).qpError = true → exec (.hostSend qp data) s = .next dropped)) ∧
    (vfOfQp s qp = none → deviceQp s f = false → exec (.hostSend qp data) s = .next s) ∧
    (vfOfQp s qp = none → f = h → mine → good → h.world = (if h.qp.toNat ≤ 8 then 1 else 0) →
      Does (.hostSend qp data) s (fun t => Responds t h 13 0 [] [] ∧ t.units = s.units ∧ t.mem = s.mem)) ∧
    (mine →
      (¬ good → Rejects (.isuneUnknownOpcode h) s h 1 0) ∧
      (good → h.world ≠ (if h.qp.toNat ≤ 8 then 1 else 0) → Rejects (.isuneUnknownOpcode h) s h 5 0) ∧
      (good → h.world = (if h.qp.toNat ≤ 8 then 1 else 0) → Rejects (.isuneUnknownOpcode h) s h 13 0)) ∧
    (¬ mine → exec (.isuneUnknownOpcode h) s = .next s)

/-- An engine that does not run, or whose period has not begun, performs no word. AT waits for its slot; SLACK for
the period's end, and there switches the set; KEY records the position; END stops the engine; SETDT plans a
switch. SEND emits the tile's frame and counts the use, or, where the source was not signalled by the start of the slot or cannot be
read, reports LATE_TILE and emits an abort frame. RECV,
REDW and REDS write what R397 says of a good frame, report a bad one, and count what is absent. FWD passes a
frame on. MARK emits a marker on every lane and holds requests; TUNE darkens a lane. -/
def Obligations.LinkWords : Prop :=
  ∀ (s : State) (slot desc tile mid : BitVec 12) (id : BitVec 8) (set port out : BitVec 4) (lane : BitVec 3) (ch : BitVec 6)
    (bs : List Byte) (f : Frame) (op : Nat) (i : Instr),
    let l := s.link s.port
    let words := [Instr.linkAt slot, .linkSlack, .linkKey id, .linkEnd, .linkSetdt set, .linkSend port desc tile,
      .linkRecv port desc tile, .linkRedw port desc tile, .linkReds port desc tile, .linkFwd port out, .linkMark port mid,
      .linkTune port lane ch]
    let d := descIn l l.set desc.toNat
    let n := tget l.uses desc.toNat 0
    let use := n / max 1 (dTiles d)
    let ln := laneOf s.port d
    let at' := engineSlot l
    let ready := sourceReady s l l.set desc.toNat
    let up := fun (p q : Nat) => (lanesUp s p).contains q = true
    let sent := fun (t : State) (lane : Nat) (P : Frame → Prop) => ∃ f, t.wireOut = s.wireOut ++ [(port.toNat, lane, f)] ∧ P f
    let mine := fun (f : Frame) (typ : BitVec 8) => f.typ = typ ∧ f.srcPkg = BitVec.ofNat 16 s.pod.pkg ∧
      f.slot = BitVec.ofNat 16 at' ∧ f.period = BitVec.ofNat 32 l.period ∧ f.hcrcGood = true ∧ f.crcGood = true
    let us := s.unit (descUid d)
    let m := s.link port.toNat
    let x := tget m.lanes lane.toNat blankLane
    let next := fun (l : Link) => (l.period + 1) * 49152 ≤ s.tide.toNat
    let got := fun (t : State) (g : Bool) => ∃ gs, (t.link s.port).got = gs ++ [(ln, g)]
    let counts := fun (t : State) => tget (t.link s.port).uses desc.toNat 0 = n + 1 ∧ (t.link s.port).widx = l.widx + 1
    let arrives := (l.arrived.find? fun a => a.1 == ln).map (·.2)
    let receives := (op, i) ∈ [(0, Instr.linkRecv port desc tile), (1, .linkRedw port desc tile), (2, .linkReds port desc tile)] ∧
      port.toNat = s.port
    (¬ AtLink s → ∀ i ∈ words, exec i s = .next s) ∧
    (AtLink s →
      (l.period * 49152 + slot.toNat * 12 ≤ s.tide.toNat → Does (.linkAt slot) s (EngineDid s · { l with atSlot := some slot.toNat })) ∧
      (s.tide.toNat < l.period * 49152 + slot.toNat * 12 → exec (.linkAt slot) s = .next s) ∧
      (next l → l.switch = none → Does .linkSlack s (EngineDid s · { l with period := l.period + 1, atSlot := none })) ∧
      (∀ k g, next l → l.switch = some k → tfind l.sets k = some g → Does .linkSlack s (fun t => t.pod.set = k ∧ t.mem = s.mem ∧
        t.units = s.units ∧ t.link s.port = { l with period := l.period + 1, atSlot := none, set := k, lastKey := none, switch := none
                                                     widx := afterKey g.words l.lastKey })) ∧
      (¬ next l → exec .linkSlack s = .next s) ∧
      Does (.linkKey id) s (fun t => t.units = s.units ∧ t.mem = s.mem ∧ t.link s.port = { l with
        widx := l.widx + 1, lastKey := some id
        keys := l.keys ++ [{ id, set := l.set, widx := l.widx + 1, period := l.period, uses := l.uses }] }) ∧
      Does .linkEnd s (EngineDid s · { l with running := false }) ∧
      Does (.linkSetdt set) s (EngineDid s · { l with switch := some set.toNat }) ∧
      (tile ≠ 0 ∨ ready = true → linkTileRead s d tile.toNat = some bs → up port.toNat ln →
        Does (.linkSend port desc tile) s (fun t => counts t ∧ t.mem = s.mem ∧ sent t ln (fun f => mine f 1 ∧
          f.payload = (toWire d tile.toNat use bs).1 ∧ f.scales = (toWire d tile.toNat use bs).2.map (BitVec.ofNat 32) ∧
          f.desc = BitVec.ofNat 16 desc.toNat ∧ f.tile = BitVec.ofNat 16 tile.toNat ∧ f.rpl = false))) ∧
      ((tile = 0 ∧ ready = false) ∨ linkTileRead s d tile.toNat = none → live us = true → up port.toNat ln →
        Does (.linkSend port desc tile) s (fun t => counts t ∧ t.mem = s.mem ∧ sent t ln (mine · 4) ∧
          (t.unit (descUid d)).st = .faulted ∧ bits (frameReg (t.unit (descUid d)) 0).toNat 0 8 = 0x81)) ∧
      (receives → arrives = none → Does i s (fun t => counts t ∧ got t false ∧ t.mem = s.mem)) ∧
      (receives → arrives = some f → f.hcrcGood = true → f.typ = 4 → Does i s (fun t => counts t ∧ got t false ∧ t.mem = s.mem)) ∧
      (receives → arrives = some f → f.hcrcGood = false → Does i s (fun t => counts t ∧ got t false ∧ t.mem = s.mem ∧
        (∃ y, (t.link s.port).missed = l.missed ++ [y] ∧ y.key = frameKey f ∧ y.op = op) ∧
        t.pod.alarms = s.pod.alarms ++ [.badTile f.srcPkg.toNat f.period.toNat f.slot.toNat f.desc.toNat f.tile.toNat])) ∧
      (∀ cur, receives → arrives = some f → frameGood f = true → f.typ = 1 → tilePlaced s d tile.toNat = true →
        (tile = 0 → dsigReady s d = true ∧ (op ≠ 0 → ready = true)) →
        (op ≠ 0 → l.applied.contains (desc.toNat, use, tile.toNat) = false) →
        (if op = 0 then some [] else linkTileRead s d tile.toNat) = some cur →
        Does i s (fun t => counts t ∧ got t true ∧ (t.link s.port).applied = l.applied ++ [(desc.toNat, use, tile.toNat)] ∧
          t.mem = (linkTileWrite s d tile.toNat (received op d tile.toNat use cur f.payload (f.scales.map (·.toNat)))).mem)) ∧
      ((m.arrived.find? fun a => a.1 == 0).map (·.2) = some f → up out.toNat 0 → Does (.linkFwd port out) s (fun t =>
        t.wireOut = s.wireOut ++ [(out.toNat, 0, passFrame f)] ∧ t.mem = s.mem ∧ t.units = s.units)) ∧
      ((m.arrived.find? fun a => a.1 == 0) = none → Does (.linkFwd port out) s (fun t => t.wireOut = s.wireOut ∧
        (∃ gs, (t.link port.toNat).got = gs ++ [(0, false)]) ∧ t.mem = s.mem ∧ t.units = s.units)) ∧
      Does (.linkMark port mid) s (fun t => (m.abuf = [] → t.units = s.units) ∧ t.mem = s.mem ∧
        t.pod.holding = (s.pod.holding || s.pod.plan.isSome) ∧
        ∃ f, mine f 2 ∧ f.markId = mid.setWidth 16 ∧ t.wireOut = s.wireOut ++ (lanesUp s port.toNat).map (fun q => (port.toNat, q, f))) ∧
      Does (.linkTune port lane ch) s (fun t => OnlyLinks s t ∧
        tget (t.link port.toNat).lanes lane.toNat blankLane = { x with lit := false, tuning := some 0, tuned := ch }))

/-- A scheduled slot sends idle frames where nothing went and counts bad slots; three fail the link. A replay slot
sends the reported tile again with RPL. Alarm slots send this package's alarms. The handle of a descriptor sent
in an earlier period is released. A marker is noted. A lane relocks with its new channels, or fails after 25,000
ns. At TSW the plan's routes hold and held requests go on. The tide exchange, once in a slack interval,
slews by at most 2 ns (whole ones: the model's choice, log 77); beyond 16 ns the tide is lost: at a slot boundary the
engines stop, courses fault, and the parent's link counts as failed. A buffer outside its bounds degrades its link. -/
def Obligations.LinkEvents : Prop :=
  ∀ (s : State) (port lane delay n : Nat) (id : BitVec 12) (heard : List Alarm) (p : Plan) (x : LinkTile) (bs : List Byte)
    (childSent parentGot parentSent childGot : Word),
    let l := s.link port
    let now := slotOf s.tide
    let a := portSlot s port
    let pn := a % 4096
    let twice : Int := ((childGot.toNat : Int) - parentSent.toNat) - ((parentGot.toNat : Int) - childSent.toNat)
    let exchange := Instr.tideExchange { childSent, parentGot, parentSent, childGot }
    let due := s.pod.joined = true ∧ s.pod.root ≠ some s.pod.pkg ∧ s.pod.exchanged ≠ some (periodOf s.tide) ∧ 4040 ≤ now ∧ now < 4048
    let d := descIn l x.set x.desc
    let q := tget l.lanes lane blankLane
    let up := (lanesUp s port).contains lane = true
    let fails := fun (t : State) (port lane : Nat) => lane ∈ (t.link port).failed
    let news := fun (t : State) => l.failed.contains lane = false → (s.pod.pkg, port, lane) ∈ t.pod.failed
    let quiet := fun (t : State) => t.mem = s.mem ∧ t.units = s.units
    (schedSlot port pn = true → l.counted ≠ some a → l.dones = [] → Does (.scheduledSlot port) s (fun t => quiet t ∧
      (t.link port).counted = some a ∧ (t.link port).arrived = [] ∧
      (up → slotGood l lane = true → tget (t.link port).bad lane 0 = 0) ∧
      (up → slotGood l lane = false → (∃ c, l.counted = some c ∧ nextSched port c = a) →
        tget (t.link port).bad lane 0 = tget l.bad lane 0 + 1) ∧
      (lanesUp s port = [lane] → l.sent.contains (lane, a) = true → t.wireOut = s.wireOut) ∧
      (lanesUp s port = [lane] → l.sent.contains (lane, a) = false →
        ∃ f, t.wireOut = s.wireOut ++ [(port, lane, f)] ∧ f.typ = 3 ∧ f.slot = BitVec.ofNat 16 pn))) ∧
    (schedSlot port pn = false ∨ l.counted = some a → exec (.scheduledSlot port) s = .next s) ∧
    (3 ≤ tget l.bad lane 0 → up → Does (.linkFailed port lane) s (fun t => fails t port lane ∧ news t)) ∧
    (tget l.bad lane 0 < 3 → exec (.linkFailed port lane) s = .next s) ∧
    (now = 4048 → port < 8 → lanesUp s port = [0] → (l.arrived.filter fun a => a.2.rpl) = [] → l.reports = [x] → x.lane = 0 →
      x.period + 1 = periodOf s.tide → linkTileRead s d x.tile = some bs → l.dones = [] → l.counted ≠ some a →
      Does (.replaySlot port) s (fun t => quiet t ∧ ∃ f, t.wireOut = s.wireOut ++ [(port, 0, f)] ∧ f.typ = 1 ∧ f.rpl = true ∧
        f.payload = (toWire d x.tile x.use bs).1)) ∧
    (now < 4048 ∨ 4080 ≤ now ∨ l.counted = some a → exec (.replaySlot port) s = .next s) ∧
    (4080 ≤ now → Does (.alarmSlot heard) s (fun t => t.pod.alarmsSent = s.pod.alarmsSent ++ s.pod.alarms ∧ t.firm.cancels = [])) ∧
    (now < 4080 → exec (.alarmSlot heard) s = .next s) ∧
    (l.releases = [x] → x.period < periodOf s.tide → l.reports = [] → sigKind (dRsig d) = 1 → (descUnit s d).isSome = true →
      Does (.rsigRelease port) s (fun t => handleOf (t.unit (descUid d)) (sigNum (dRsig d)) = .free ∧
        (t.link port).releases = [] ∧ t.mem = s.mem)) ∧
    ((∀ x ∈ l.releases, periodOf s.tide ≤ x.period) → exec (.rsigRelease port) s = .next s) ∧
    exec (.markerReceive port lane id) s = .next (s.setLink port { l with markers := l.markers ++ [(lane, id)] }) ∧
    (q.tuning = none → exec (.laneRelock port lane delay) s = .next s ∧ exec (.laneRelockTimeout port lane) s = .next s) ∧
    (q.tuning = some n →
      (n ≤ 25000 → portPlan s port = none → exec (.laneRelock port lane delay) s = .next (s.setLink port { l with
        delay := tset l.delay lane delay
        lanes := tset l.lanes lane { q with tx := q.tuned, lit := q.tuned.toNat % l.radix != 0, tuning := none } })) ∧
      (n ≤ 25000 → Does (.laneRelock port lane delay) s (fun t => quiet t ∧ tget (t.link port).delay lane 0 = delay ∧
        (tget (t.link port).lanes lane blankLane).tuning = none ∧ (tget (t.link port).lanes lane blankLane).tx = q.tuned)) ∧
      (25000 < n → exec (.laneRelock port lane delay) s = .next s) ∧
      (25000 ≤ n → Does (.laneRelockTimeout port lane) s (fun t => fails t port lane ∧ news t ∧
        (tget (t.link port).lanes lane blankLane).tuning = none)) ∧
      (n < 25000 → exec (.laneRelockTimeout port lane) s = .next s)) ∧
    (s.pod.plan = none → exec .routeSwap s = .next s) ∧
    (s.pod.plan = some p →
      (s.tide.toNat < p.tsw.toNat → exec .routeSwap s = .next s) ∧
      (p.tsw.toNat ≤ s.tide.toNat → Does .routeSwap s (fun t => t.pod = { s.pod with routes := p.routes, plan := none, holding := false } ∧
        t.mem = s.mem ∧ ∀ uid, (t.unit uid).r = (s.unit uid).r ∧ (t.unit uid).m.remotes = (s.unit uid).m.remotes.map
          (fun r => if r.held then { r with held := false, resend := some 0 } else r)))) ∧
    (due → Does exchange s (fun t =>
      t.pod = { s.pod with slew := max (-2) (min 2 (-(twice.tdiv 2))), exchanged := some (periodOf s.tide)
                           tideBad := s.pod.tideBad || decide (32 < twice.natAbs) } ∧
      t.tide = s.tide ∧ quiet t)) ∧
    (¬ due → exec exchange s = .next s) ∧
    (s.pod.tideBad = true → s.tide.toNat % 12 = 0 → Does .tideLost s (fun t => t.pod.tideBad = false ∧ fails t s.pod.parent 0 ∧
      (∀ k, (tfind s.links k).isSome = true → (t.link k).stopped = true) ∧
      ∀ uid, live (s.unit uid) = true → (s.unit uid).course.active = true → live (t.unit uid) = false)) ∧
    (s.pod.tideBad = false ∨ s.tide.toNat % 12 ≠ 0 → exec .tideLost s = .next s) ∧
    (4032 ≤ now → now < 4040 →
      (4 ≤ l.elastic → l.elastic ≤ 28 → exec (.elasticRecentre port) s = .next (s.setLink port { l with elastic := 16 })) ∧
      (l.elastic < 4 ∨ 28 < l.elastic → Does (.elasticRecentre port) s (fun t => (t.link port).elastic = 16 ∧
        (t.link port).degraded = true ∧ fails t port 0))) ∧
    (now < 4032 ∨ 4040 ≤ now → exec (.elasticRecentre port) s = .next s)

/-- A cycle changes no register and no byte. A stopped unit stands still. Outside a course delays go on. In a course a cycle in
which something is late is a hold cycle, in which no delay of the engines moves and CC stands, and SLIP rises; another
raises CC by 1, or at its limit raises COURSE_TABLE. The return of a load makes its register ready. A machine check stops the unit imprecisely; a scrub error is counted, and an
uncorrectable one marks its granule. A breakpoint stops the unit precisely before its word, a request of the debugger
imprecisely. What is late, and that a cycle may be counted as a hold once it has ended, is the model's reading (log 43). -/
def Obligations.CyclesAndStops : Prop :=
  ∀ (s : State) (d : BitVec 6) (key : Nat),
    let u := s.u
    let stop := fun (t : State) (precise : Bool) (c : Cause) => StoppedBy .sq precise s t c 0 0 u.r.pc
    let brk := u.wait = none ∧ u.halted = false ∧ u.r.pc ∈ u.dbg.breaks
    let causeOf := fun (u : Machine.Unit) => (frameReg u 0).toNat % 256
    Does .coreCycle s (fun t => t.cycle = s.cycle + 1 ∧ t.mem = s.mem ∧ t.tide = s.tide ∧ t.hostOut = s.hostOut ∧
      ∀ uid, let v := s.unit uid; let w := t.unit uid
        let on := v.dbg.stopped = false ∧ live v = true ∧ v.course.active = true
        w.r = v.r ∧ { w.c with frame := v.c.frame } = v.c ∧ w.course.active = v.course.active ∧ (v.dbg.stopped = true → w = v) ∧
        (live v = false → w.st = v.st ∧ w.course = v.course) ∧
        (v.dbg.stopped = false → live v = true → v.course.active = false → w.st = .running ∧ w.course = v.course) ∧
        (on → v.st = .held → w.course.cc = v.course.cc ∧ w.ve.cols = v.ve.cols ∧ w.me = v.me ∧ w.ae = v.ae) ∧
        (on → v.st = .running → (holdAgent v).isSome = true →
          w.course.cc = v.course.cc ∧ w.ve.cols = v.ve.cols ∧ w.me = v.me ∧ w.ae = v.ae ∧
          (v.course.slip.toNat + 2 < 2 ^ 32 → v.course.slip.toNat < w.course.slip.toNat)) ∧
        (on → v.st = .running → holdAgent v = none → v.course.cc ≠ 0xFFFFFFFF → w.course.cc = v.course.cc + 1) ∧
        (on → v.st = .running → holdAgent v = none → v.course.cc = 0xFFFFFFFF →
          w.st = .faulted ∧ causeOf w = causeCode .courseTable ∧ w.course = v.course)) ∧
    (u.pend.contains (pendKey u d.toNat) = true → Does (.loadDataReturn d) s (fun t => OnlyUnit s t ∧
      t.u = { u with pend := u.pend.filter (fun k => k != pendKey u d.toNat) })) ∧
    (u.pend.contains (pendKey u d.toNat) = false → exec (.loadDataReturn d) s = .next s) ∧
    (live u = true → Does .machineCheck s (stop · false .machineCheck)) ∧
    (live u = false → exec .machineCheck s = .next s) ∧
    exec (.scrubError key true) s = .next { s with firm := { s.firm with scrubs := s.firm.scrubs + 1 } } ∧
    Does (.scrubError key false) s (fun t => t.firm = { s.firm with scrubs := s.firm.scrubs + 1 } ∧ t.mem = s.mem ∧
      t.units = s.units ∧ spoiledAt t (granule key) 64 = true) ∧
    (live u = true → brk → Does .debugStop s (Traps s · .debugStop 0 0)) ∧
    (live u = true → ¬ brk → u.dbg.stopRequested = true → Does .debugStop s (fun t => t.u.st = .faulted ∧
      t.u.dbg = { u.dbg with stopRequested := false } ∧ t.u.r = u.r ∧ t.mem = s.mem ∧ t.firm.frames = s.firm.frames ++ [s.cur] ∧
      bits (frameReg t.u 0).toNat 0 13 = 0x007)) ∧
    (live u = false ∨ (¬ brk ∧ u.dbg.stopRequested = false) → exec .debugStop s = .next s)

/-- Frames are taken in order. ROLLBACK_STOP and STAGE2_MISS are reported; a fault in a course declares a pod
failure; DEBUG_STOP stops the unit for the debugger; a machine check, or a fault without a handler, ends the
unit with a report; another fault enters the UTVEC handler. KEYST traps out of its form, waits for its queues
and the keystone before, then writes. The header is written once every unit has. The restore comes in period p +
3 and brings back each unit in its slot, or gives up; units go on in period p + 4. -/
def Obligations.FaultFramesAndKeystones : Prop :=
  ∀ (s : State) (uid key p i : Nat) (rest : List Nat) (id : BitVec 8) (kc : KeystConf) (x : Saved),
    let u := s.unit uid
    let c := bits (frameReg u 0).toNat 0 8
    let key' := 65536 * u.id.vf + u.id.job
    let j := s.job key'
    let report := fun (t : State) => ∃ more, t.hostOut =
      s.hostOut ++ [eventMsg (if (s.vf u.id.vf).world then 1 else 9) 0x0101 ([u.id.vf, u.id.recNo, u.id.idx] ++ more)]
    let plain := u.course.active = false ∧ c ∉ [0x80, 0x81, 0x84, 0xB1]
    let others := fun (t : State) => t.mem = s.mem ∧ ∀ k, k ≠ uid → t.unit k = s.unit k
    let v := s.u
    let k := v.m.kcount + 1
    let jv := s.job (65536 * v.id.vf + v.id.job)
    let still := v.m.pub = [] ∧ queuesDone s s.cur 0x7F = true
    let wrote := fun (t : State) => t.u.r.pc = v.r.pc + 4 ∧ t.u.wait = none ∧ t.u.m.kcount = k ∧ t.u.m.kid = id ∧
      ∃ x ∈ t.saved, x.uid = s.cur ∧ x.k = k ∧ x.unit.m.kcount = k ∧
        some x.slot = (s.recOf v.id.recNo).keyst.map (fun c => if k % 2 = 1 then c.slotA else c.slotB)
    let J := s.job key
    let K := J.kComplete
    let hs := restoredRecs s key K
    let xs := savedOf s hs K
    (s.firm.frames = [] → exec .faultFrameTaken s = .next s) ∧
    (s.firm.frames = uid :: rest → u.st = .faulted →
      (c = 0xB1 → Does .faultFrameTaken s (fun t => report t ∧ t.units = s.units ∧ t.firm.frames = rest)) ∧
      (c ≠ 0xB1 → u.course.active = true ∨ c ∈ [0x80, 0x81, 0x84] → j.failedAt = none → j.kComplete ≠ 0 →
        j.lastRestored ≠ some j.kComplete → Does .faultFrameTaken s (fun t =>
          (t.job key').failedAt = some (periodOf s.tide) ∧ t.units = s.units ∧
          t.pod.alarms = s.pod.alarms ++ [.podFailure key' (periodOf s.tide) none])) ∧
      (plain → c = 0x07 → Does .faultFrameTaken s (fun t => others t ∧ t.unit uid = { u with dbg := { u.dbg with stopped := true } })) ∧
      (plain → c = 0x16 → Does .faultFrameTaken s (fun t => report t ∧ t.units = s.units)) ∧
      (plain → c = 0xB0 → Does .faultFrameTaken s (fun t => report t ∧ (t.unit uid).st = .cancelled)) ∧
      (plain → c ∉ [0x07, 0x16, 0xB0] →
        (u.c.utvec ≠ 0 → bitAt (frameReg u 0).toNat 14 = false → Does .faultFrameTaken s (fun t => others t ∧
          (t.unit uid).st = .running ∧ (t.unit uid).r.pc = u.c.utvec ∧ (t.unit uid).c.uipc = frameReg u 1 ∧
          (t.unit uid).c.inui = true ∧ frameReg (t.unit uid) 0 = frameReg u 0 ||| 0x2000 ∧ (t.unit uid).r.clsCount = 0)) ∧
        (u.c.utvec = 0 ∨ bitAt (frameReg u 0).toNat 14 = true →
          Does .faultFrameTaken s (fun t => report t ∧ (t.unit uid).st = .cancelled)))) ∧
    (CanIssue s [] →
      (v.c.coursed = false ∨ v.course.active = true ∨ (s.recOf v.id.recNo).keyst = none ∨ keystBusy v = true →
        Does (.keyst id) s (Traps s · .keystState 0 0)) ∧
      (keystForm s = true → keystBusy v = false →
        (queuesDone s s.cur 0x7F = false → Does (.keyst id) s (fun t => t.u.wait = some (.keyst id) ∧ t.u.r = v.r ∧ t.mem = s.mem)) ∧
        (still → jv.kComplete < v.m.kcount → Does (.keyst id) s (fun t => t.u.wait = some (.keyst id) ∧ t.u.r = v.r ∧ t.mem = s.mem)) ∧
        (still → v.m.kcount ≤ jv.kComplete → Does (.keyst id) s wrote))) ∧
    (issuing v = true → v.wait = some (.keyst id) → (s.recOf v.id.recNo).keyst = some kc → still → v.m.kcount ≤ jv.kComplete →
      Does .keystoneWrite s wrote) ∧
    ((s.recOf i).keyst = some kc → commonKey s i ≠ 0 → headerOf s i (commonKey s i) = none →
      Does (.keystoneHeaderWrite i) s (fun t => ∃ h, headerOf t i (commonKey s i) = some h ∧ h.tide = s.tide ∧
        h.counters = headerCounters s i)) ∧
    ((s.recOf i).keyst = none ∨ commonKey s i = 0 → exec (.keystoneHeaderWrite i) s = .next s) ∧
    (J.failedAt = none → exec (.rollbackRestore key) s = .next s ∧ exec (.rollbackResume key) s = .next s) ∧
    (J.failedAt = some p →
      (periodOf s.tide < p + 3 → exec (.rollbackRestore key) s = .next s) ∧
      (J.restored = false → p + 3 ≤ periodOf s.tide →
        (selectSet s key = none → Does (.rollbackRestore key) s (fun t => (t.job key).running = false ∧ (t.job key).failedAt = none)) ∧
        (∀ set, selectSet s key = some set → (∀ x ∈ xs, partGood s x = true) → Does (.rollbackRestore key) s (fun t =>
          (t.job key).restored = true ∧ (t.job key).lastRestored = some K ∧ t.pod.set = set ∧
          (xs = [x] → (s.recOf (x.uid / 128)).keyst = some kc → kc.slotA ≠ kc.slotB →
            (t.unit x.uid).st = .faulted ∧ (t.unit x.uid).r = x.unit.r ∧ (t.unit x.uid).c = x.unit.c ∨ x.unit.m.leases ≠ [])))) ∧
      (periodOf s.tide < p + 4 ∨ J.restored = false → exec (.rollbackResume key) s = .next s) ∧
      (J.restored = true → p + 4 ≤ periodOf s.tide → Does (.rollbackResume key) s (fun t => t.mem = s.mem ∧
        (t.job key).failedAt = none ∧ ∀ x ∈ xs, (s.unit x.uid).st = .faulted →
          t.unit x.uid = { s.unit x.uid with st := .running })))

/-- VF_CREATE makes the ABSENT VF of its payload ACTIVE with its resources, a key at the GEN after its last; it answers 8 or 9
for one in quarantine or in use, and refuses resources out of form or another's. PARTITION_ASSIGN gives bays, barriers and channels, a free bay with its corbels
OFF; REGION_MAP zeroes a new region; RANGE_SET, SCOPEPOL_SET and KEY_SLOT_LOAD set what they name. VF_DESTROY
revokes keys and capabilities and is told to the pod; in the slack interval after a package learns of it, requests to the
VF end as by a NACK of reason 1. The teardown zeroes the records, empties the tables, gives up the regions and
enters QUARANTINE; at its end the number is free and the last GENs stay. -/
def Obligations.Tenants : Prop :=
  ∀ (s : State) (h h' : IsuneHdr) (p : VfSpec) (q : PartitionSpec) (rs : List Nat) (w : Bool) (es : List RangeEntry)
    (heap : HeapSpec) (th : BitVec 16) (pol : BitVec 3) (slot vf pkg uid : Nat) (key : List Byte) (r : Remote),
    let n := h.vf.toNat
    let v := s.vf n
    let made := s.vf p.vf.toNat
    let o := s.vf vf
    let ok := fun (t : State) => Responds t h 0 0 [] []
    let sameMem := fun (t : State) => t.mem = s.mem ∧ t.units = s.units
    let heard := 4032 ≤ slotOf s.tide ∧
      ∃ x ∈ s.pod.torn, x.1 = pkg ∧ x.2.1 = vf ∧ x.2.2 ≤ periodOf s.tide * 49152 + 48384
    (TakesCommand s h { anyCmd with create := true } →
      (made.st = .quarantine → Rejects (.vfCreate h p) s h 8 0) ∧
      (made.st = .active ∨ made.st = .teardown → Rejects (.vfCreate h p) s h 9 0) ∧
      (made.st = .absent → p.world = true → 8 < h.qp.toNat → Rejects (.vfCreate h p) s h 5 0) ∧
      (made.st = .absent → p.world = false ∨ h.qp.toNat ≤ 8 →
        (qpsForm p = false → Rejects (.vfCreate h p) s h 1 0) ∧
        (qpsForm p = true → qpsTaken s p = true → Rejects (.vfCreate h p) s h 15 0) ∧
        (qpsForm p = true → qpsTaken s p = false → poolFree s p = false → Rejects (.vfCreate h p) s h 6 0)) ∧
      (made.st = .absent → p.world = false ∨ h.qp.toNat ≤ 8 → qpsForm p = true → qpsTaken s p = false → poolFree s p = true →
        Does (.vfCreate h p) s (fun t => ok t ∧ sameMem t ∧
          let x := t.vf p.vf.toNat
          x.st = .active ∧ x.world = p.world ∧ x.qps = p.qps ∧ x.scoQps = p.scoQps ∧ x.pubKey = p.pubKey ∧ x.root = p.root ∧
          x.poolFirst = p.poolFirst ∧ x.poolCount = p.poolCount ∧ x.policy = none ∧ x.ranges = [] ∧
          ∀ k e g, p.keys = [(k, e)] → k < 1024 → tfind made.lastGen k = some g → tfind x.keys k = some { e with gen := g + 1 }))) ∧
    (TakesCommand s h vfCmd →
      (partForm q = true → q.world = v.world →
        (∀ b, q.bays.find? (fun b => otherWorld s n (s.bay b).vfs) = some b → Rejects (.partitionAssign h q) s h 11 b) ∧
        ((∀ b ∈ q.bays, otherWorld s n (s.bay b).vfs = false) →
          (∀ b ∈ q.barriers, (barrierOf s b.1 b.2).vf = none ∨ (barrierOf s b.1 b.2).vf = some n) →
          Does (.partitionAssign h q) s (fun t => ok t ∧ sameMem t ∧ (∀ b ∈ q.bays, n ∈ (t.bay b).vfs) ∧
            (∀ b ∈ q.barriers, (barrierOf t b.1 b.2).vf = some n) ∧ (∀ c ∈ q.channels, n ∈ (channelOf t c.1 c.2).vfs) ∧
            ∀ b ∈ q.bays, (s.bay b).vfs = [] → (t.bay b).world = q.world ∧ (t.bay b).active = some n ∧
              (q.quantum ≠ 0 → (t.bay b).quantum = q.quantum) ∧
              ∀ c, c < 12 → (corbelAt (t.bay b) c).st = .off ∧ (corbelAt (t.bay b) c).mem = .clear))) ∧
      (partForm q = true → q.world ≠ v.world → Rejects (.partitionAssign h q) s h 5 0) ∧
      ((∀ r ∈ rs, r < 64) → w = v.world → (∀ r ∈ rs, tfind s.regionVf r = none ∨ tfind s.regionVf r = some n) →
        Does (.regionMap h rs w) s (fun t => ok t ∧ (∀ r ∈ rs, tfind t.regionVf r = some n) ∧
          (∀ r ∈ rs, tfind s.regionVf r = none → t.regionWorld.getLsbD r = w ∧ ∀ a, a / 2 ^ 33 = r → byteAt t a = 0) ∧
          ∀ a, a / 2 ^ 33 ∉ rs → byteAt t a = byteAt s a)) ∧
      (∀ r, (∀ x ∈ rs, x < 64) → w = v.world → rs = [r] → (∃ m, tfind s.regionVf r = some m ∧ m ≠ n) →
        Rejects (.regionMap h rs w) s h 15 r) ∧
      ((∀ e ∈ es, rangeForm e = true) → es.length ≤ 32 → rangeOverlap es = none → Does (.rangeSet h es heap th) s (fun t => ok t ∧
        t.mem = s.mem ∧ t.vf n = { v with ranges := es, heap := heap, thresh := th })) ∧
      (∀ k, (∀ e ∈ es, rangeForm e = true) → es.length ≤ 32 → rangeOverlap es = some k → Rejects (.rangeSet h es heap th) s h 11 k) ∧
      ((∀ e ∈ es, rangeForm e = true) → 32 < es.length → Rejects (.rangeSet h es heap th) s h 6 0) ∧
      Does (.scopepolSet h pol) s (fun t => ok t ∧ sameMem t ∧ t.vf n = { v with scopepol := pol }) ∧
      Does (.vfDestroy h) s (fun t => StaysOpen t h ∧ t.mem = s.mem ∧ (t.vf n).st = .teardown ∧ (t.vf n).destroyHdr = some h ∧
        (t.vf n).drops = 0 ∧ (∀ k e, tfind (t.vf n).keys k = some e → e.v = false) ∧
        (∀ uid k c, (s.unit uid).id.vf = n → tfind (t.unit uid).m.caps k = some c → c.v = false) ∧
        (s.pod.pkg, n, s.tide.toNat) ∈ t.pod.torn ∧
        (1 < podSize s → t.pod.alarms = s.pod.alarms ++ [.teardown s.pod.pkg n]))) ∧
    (TakesCommand s h { vfCmd with secure := true } →
      (slot < 16 → key.length = 32 → Does (.keySlotLoad h slot key) s (fun t => ok t ∧ sameMem t ∧
        t.vf n = { v with slots := tset v.slots slot key })) ∧
      (16 ≤ slot ∨ key.length ≠ 32 → Rejects (.keySlotLoad h slot key) s h 1 0)) ∧
    (o.st = .teardown → o.destroyHdr = some h' → (∀ l ∈ s.links, linkNames l.2 vf = false ∨ linkAtBoundary l.2 = true) →
      Does (.vfTeardownComplete vf) s (fun t => Responds t h' 0 0 [] [] ∧ (t.vf vf).st = .quarantine ∧
        (t.vf vf).destroyHdr = none ∧ (t.vf vf).keys = [] ∧ (t.vf vf).ranges = [] ∧ (t.vf vf).slots = [] ∧
        (t.vf vf).slacks = quarantineUntil s.tide.toNat ∧ (∀ k, tfind t.regionVf k ≠ some vf) ∧
        ∀ a, 0x20000000000 + 512 * o.poolFirst ≤ a → a < 0x20000000000 + 512 * (o.poolFirst + o.poolCount) → byteAt t a = 0)) ∧
    (o.st ≠ .teardown → exec (.vfTeardownComplete vf) s = .next s) ∧
    (heard →
      Does (.teardownReconcile pkg vf) s (fun t => ∀ x ∈ t.pod.torn, x.1 ≠ pkg ∨ x.2.1 ≠ vf) ∧
      (s.units = [(uid, s.unit uid)] → (s.unit uid).m.remotes = [r] → capNames (s.unit uid) pkg vf r = true →
        r.far = none → r.strm = none → r.copyCh = none → (∀ l, r.agent ≠ .corbel l) → live (s.unit uid) = true →
        Does (.teardownReconcile pkg vf) s (fun t => Failed s t uid r .remoteNack 1))) ∧
    (¬ heard → exec (.teardownReconcile pkg vf) s = .next s) ∧
    (o.st = .quarantine → o.slacks ≤ s.tide.toNat → Does (.quarantineEnd vf) s (fun t =>
      t.vf vf = { blankVf with lastGen := o.lastGen } ∧ t.mem = s.mem ∧ t.units = s.units.filter (fun e => e.2.id.vf != vf))) ∧
    (o.st ≠ .quarantine ∨ s.tide.toNat < o.slacks → exec (.quarantineEnd vf) s = .next s)

/-- The operator reads a counter exactly, in steps of 2^k, as the sum of finished runs or of the job's, as present or not, or
not at all, as the tenant's policy says; without an entry it is withheld. TRACE_READ gives the records of the classes shown. A session is opened in
its form with a resident ring, closed, exported as a sealed blob, and imported with the counts of its units. A
VF that is ABSENT answers 4, a bad form 1, a bad ring 11. -/
def Obligations.Sessions : Prop :=
  ∀ (s : State) (h : IsuneHdr) (x : CounterSel) (p : SessionSpec) (b : SessionBlob) (offset k : Nat) (e : PolicyEntry)
    (ws : List Word) (c : Word),
    let n := h.vf.toNat
    let v := s.vf n
    let w := s.vf x.vf
    let u := s.unit (uidOf x.recNo x.unit)
    let raw := (tget u.ctr.val x.counter 0).toNat
    let entry := policyEntry w (counterEvent u.ctr x.counter / 256) 0
    let ok := fun (t : State) (fields : List Nat) (bytes : List Byte) => Responds t h 0 0 fields bytes ∧ t.mem = s.mem
    let reads := fun (val withheld : Nat) => Does (.counterRead h x) s (fun t => ok t [val, withheld] [] ∧ t.units = s.units)
    let opened := fun (t : State) (p : SessionSpec) => ∃ y, (t.vf n).session = some y ∧ y.spec = p
    let shown := fun (r : TraceRec) => policyGran v (fieldAt r.bytes 0 2 / 256) 1 = 1
    (TakesCommand s h anyCmd →
      (w.st = .absent → Rejects (.counterRead h x) s h 4 0) ∧
      (w.st ≠ .absent → w.world = true → 8 < h.qp.toNat → Rejects (.counterRead h x) s h 5 0) ∧
      (w.st ≠ .absent → w.world = false ∨ h.qp.toNat ≤ 8 → x.counter < 32 → x.unit < 128 → inRange w x.recNo = true →
        (entry = none → reads 0 1) ∧
        (entry = some e →
          (e.gran = 0 → reads 0 1) ∧ (e.gran = 1 → reads raw 0) ∧
          (e.gran = 2 → reads (raw / 2 ^ e.k.toNat * 2 ^ e.k.toNat) 0) ∧
          (∀ r ∈ [(3, x.recNo), (4, 65536 + (s.recOf x.recNo).job)], e.gran.toNat = r.1 →
            (finishedSum w r.2 x.counter = none → reads 0 1) ∧ ∀ q, finishedSum w r.2 x.counter = some q → reads q 0) ∧
          (e.gran = 5 → reads (if raw = 0 then 0 else 1) 0)))) ∧
    (TakesCommand s h vfCmd →
      ((∀ r ∈ v.trace, shown r) → Does (.traceRead h offset) s (fun t => t.units = s.units ∧
        ∃ f, ok t [f] (((v.trace.flatMap (·.bytes)).drop offset).take (2 ^ 22)))) ∧
      ((∀ r ∈ v.trace, ¬ shown r) → Does (.traceRead h offset) s (fun t => t.units = s.units ∧ ∃ f, ok t [f] [])) ∧
      (∀ i ∈ [Instr.counterSessionOpen h p, .traceSessionOpen h p],
        (sessionForm p = false → Rejects i s h 1 0) ∧
        (sessionForm p = true → ringGood s n p = false → Rejects i s h 11 0) ∧
        (sessionForm p = true → ringGood s n p = true → Does i s (fun t => ok t [] [] ∧ t.units = s.units ∧ opened t p))) ∧
      (∀ i ∈ [Instr.counterSessionClose h, .traceSessionClose h], Does i s (fun t => ok t [] [] ∧ t.units = s.units ∧
        t.vf n = { v with session := none })) ∧
      (∀ i ∈ [Instr.counterSessionExport h, .traceSessionExport h],
        (v.session = none → Rejects i s h 11 0) ∧
        (∀ y, v.session = some y → Does i s (fun t => t.units = s.units ∧ ∃ blob, ok t [] blob))) ∧
      (∀ i' ∈ [Instr.counterSessionImport h b, .traceSessionImport h b],
        (sessionForm b.spec = false → Rejects i' s h 1 0) ∧
        (sessionForm b.spec = true → ringGood s n b.spec = true → Does i' s (fun t => ok t [] [] ∧ opened t b.spec)) ∧
        (sessionForm b.spec = true → ringGood s n b.spec = true → b.fixed = [(x.recNo, x.unit, ws)] → b.selected = [] →
          (tfind s.units (uidOf x.recNo x.unit)).isSome = true → u.id.vf = n → k < 16 → ws[k]? = some c →
          Does i' s (fun t => tget (t.unit (uidOf x.recNo x.unit)).ctr.val k 0 = c))))

/-- DEVICE_INFO and MEASURE_READ answer also before bring-up ends. ATTEST waits for it, then signs a report and uses
a leaf; without a leaf it answers 10. POLICY_INSTALL answers 1 to 4, or installs and measures. The bring-up goes
step by step, zeroes every region, and ends READY with a new tree. RESET, a loss of power and a thermal trip
lose what is volatile, keep the leaf counter and host memory. A power cap above 2,900 is stored as 2,900; TRIP
clears where 1 is written. -/
def Obligations.Firmware : Prop :=
  ∀ (s : State) (h : IsuneHdr) (nonce blob : List Byte) (vf : BitVec 8) (temp pv : BitVec 16) (reg : BitVec 8),
    let n := h.vf.toNat
    let v := s.vf n
    let f := s.firm
    let ok := fun (t : State) (fields : List Nat) (bytes : List Byte) => Responds t h 0 0 fields bytes
    let same := fun (t : State) => t.mem = s.mem ∧ t.units = s.units ∧ t.vfs = s.vfs
    let lost := fun (t : State) => t.units = State.reset.units ∧ t.vfs = [] ∧ t.links = [] ∧ t.pod = State.reset.pod ∧ t.tide = 0 ∧
      t.firm.topLeaf = f.topLeaf ∧ t.fuse = s.fuse ∧ (∀ a, a < 2 ^ 68 → byteAt t a = 0) ∧ ∀ a, 2 ^ 68 ≤ a → byteAt t a = byteAt s a
    let steps := [(Instr.powerOn, [0, 6]), (.hbmTrained, [2]), (.hostLinkUp, [3]), (.bringUpReady, [4])]
    (TakesCommand s h earlyCmd →
      Does (.deviceInfo h) s (fun t => ok t [] (deviceInfo s) ∧ same t ∧ t.firm = f) ∧
      Does (.measureRead h) s (fun t => ok t (f.measLost :: f.measLog.flatMap measFields) ((List.range 8).flatMap (measOf s)) ∧
        same t ∧ t.firm = f) ∧
      (nonce.length ≠ 32 → Rejects (.attest h nonce vf) s h 1 0) ∧
      (nonce.length = 32 →
        (vf ≠ 0xFF → (s.vf vf.toNat).st ≠ .active → Rejects (.attest h nonce vf) s h 4 0) ∧
        (vf = 0xFF ∨ ((s.vf vf.toNat).st = .active ∧ ((s.vf vf.toNat).world = false ∨ h.qp.toNat ≤ 8)) →
          (f.bring ≠ 5 → Does (.attest h nonce vf) s (fun t => StaysOpen t h ∧ same t ∧ t.firm.attests = f.attests ++ [(h, nonce, vf)])) ∧
          (f.bring = 5 → 32768 ≤ f.topLeaf → Rejects (.attest h nonce vf) s h 10 0) ∧
          (f.bring = 5 → f.topLeaf < 32768 → Does (.attest h nonce vf) s (fun t => same t ∧
            (∃ sig, ok t [] (reportBytes s nonce vf ++ sig) ∧ sig.length = 3124) ∧
            (f.bootLeaf + 1 < 1024 → t.firm = { f with bootLeaf := f.bootLeaf + 1 }) ∧
            (1024 ≤ f.bootLeaf + 1 → t.firm = { f with bootTop := f.topLeaf, topLeaf := f.topLeaf + 1, bootLeaf := 0 })))))) ∧
    (TakesCommand s h vfCmd →
      (policyForm blob = false → Rejects (.policyInstall h blob) s h 1 0) ∧
      (policyForm blob = true →
        (fieldAt blob 6 1 ≠ n → Rejects (.policyInstall h blob) s h 4 0) ∧
        (fieldAt blob 6 1 = n → policySigned v.pubKey blob = false → Rejects (.policyInstall h blob) s h 2 0) ∧
        (fieldAt blob 6 1 = n → policySigned v.pubKey blob = true →
          (∀ q, v.policy = some q → fieldAt blob 8 8 ≤ q.serial.toNat → Rejects (.policyInstall h blob) s h 3 0) ∧
          ((∀ q, v.policy = some q → q.serial.toNat < fieldAt blob 8 8) → Does (.policyInstall h blob) s (fun t => ok t [] [] ∧
            t.mem = s.mem ∧ t.units = s.units ∧ t.vf n = { v with policy := some (policyOf blob) } ∧
            measOf t 6 = padTo (sha256 (measOf s 6 ++ [h.vf] ++ sha256 blob)) 32 0))))) ∧
    (∀ e ∈ steps, f.bring ∉ e.2 → exec e.1 s = .next s) ∧
    (f.bring = 0 ∨ f.bring = 6 → Does .powerOn s (fun t => same t ∧ t.firm.bring = 2 ∧
      t.firm.measLog.getLast?.map (·.reg) = some 3)) ∧
    (f.bring = 2 → Does .hbmTrained s (fun t => t.firm = { f with bring := 3 } ∧ t.regionWorld = 0 ∧
      (∀ a, a < 2 ^ 39 → byteAt t a = 0) ∧ ∀ a, 2 ^ 39 ≤ a → byteAt t a = byteAt s a)) ∧
    (f.bring = 3 → exec .hostLinkUp s = .next { s with firm := { f with bring := 4 } }) ∧
    (f.bring = 4 → Does .bringUpReady s (fun t => t.firm.bring = 5 ∧ t.firm.attests = [])) ∧
    (f.bring = 4 → f.attests = [] →
      (f.resetHdr = none → f.topLeaf < 32768 → exec .bringUpReady s = .next { s with firm := { f with
        bring := 5, bootTop := f.topLeaf, topLeaf := f.topLeaf + 1, bootLeaf := 0 } }) ∧
      (f.resetHdr = some h → Does .bringUpReady s (fun t => ok t [] [] ∧ t.firm.bring = 5 ∧ t.firm.resetHdr = none))) ∧
    (TakesCommand s h secureCmd → Does (.reset h) s (fun t => StaysOpen t h ∧ lost t ∧ t.firm.bring = 0)) ∧
    Does .powerLoss s (fun t => lost t ∧ t.firm.bring = 6) ∧
    (220 ≤ temp.toNat → f.bring ≠ 6 → Does (.thermalTrip temp) s (fun t => lost t ∧ t.firm.bring = 0 ∧ t.smb.trip = true)) ∧
    (temp.toNat < 220 ∨ f.bring = 6 → exec (.thermalTrip temp) s = .next s) ∧
    (∀ i ∈ [Instr.smbusPcapWrite pv, .smbusRegisterWrite 0x21 pv],
      exec i s = .next { s with smb := { s.smb with pcap := if 2900 < pv.toNat then 2900 else pv } }) ∧
    (pv.getLsbD 5 = true → exec (.smbusRegisterWrite 0x30 pv) s = .next { s with smb := { s.smb with trip := false } }) ∧
    (pv.getLsbD 5 = false → exec (.smbusRegisterWrite 0x30 pv) s = .next s) ∧
    (reg ≠ 0x21 → reg ≠ 0x30 → exec (.smbusRegisterWrite reg pv) s = .next s)

/-- POD_JOIN numbers the package from its coordinates and steps tide time forward once; TIDE_ROOT names the root.
CHORD_PLAN_LOAD holds one plan for a future period start. SCHEDULE_LOAD that passes the checks loads set 0 into
its engines and starts them in the start period; DETOUR_LOAD loads a set from 1 to 15 with the tree of set 0 and
leaves the engines as they are; a check that fails is answered with its number. KEYSTONE_CONF sets a COURSED
record's slots. -/
def Obligations.PodCommands : Prop :=
  ∀ (s : State) (h : IsuneHdr) (dims coords : List Nat) (parent root start set i vf : Nat) (ptp : Option Nat) (tide tsw : Word)
    (routes : List RouteSpec) (ports : List ChordSpec) (progs : List LinkProg) (tree : List Byte)
    (avoid : List (Nat × Nat × Nat)) (slotA slotB segmask : Word) (tiles : Bool),
    let ok := fun (t : State) => Responds t h 0 0 [] [] ∧ t.mem = s.mem ∧ t.units = s.units
    let join := Instr.podJoin h dims coords parent tide routes
    let chord := Instr.chordPlanLoad h ports routes tsw
    let sched := Instr.scheduleLoad h progs start tree
    let detour := Instr.detourLoad h set progs avoid tree
    let conf := Instr.keystoneConf h i slotA slotB segmask tiles
    let w := decide (h.qp.toNat ≤ 8)
    let pass := fun (set : Nat) => progsForm progs = true ∧ vfBreak s progs = false ∧ worldBreak s set w progs = false ∧
      ∀ g ∈ progs, (s.link g.port).world = w ∨ (s.link g.port).running = false
    let loaded := fun (t : State) (set : Nat) => ∀ g ∈ progs,
      tfind (t.link g.port).sets set = some { words := g.words, descs := g.descs } ∧ (t.link g.port).world = w
    let fits := fun (va : Word) => slotForm s vf i va = true
    (TakesCommand s h secureCmd →
      (joinForm dims coords parent = false ∨ routesForm routes = false → Rejects join s h 1 0) ∧
      (joinForm dims coords parent = true → routesForm routes = true → Does join s (fun t => ok t ∧
        t.pod = { s.pod with joined := true, dims := dims, pkg := t.pod.pkg, parent := parent, routes := routes } ∧
        (∀ x0 x1 x2 x3 d0 d1 d2 d3, coords = [x0, x1, x2, x3] → dims = [d0, d1, d2, d3] →
          t.pod.pkg = x0 + d0 * x1 + d0 * d1 * x2 + d0 * d1 * d2 * x3) ∧
        t.tide = if s.pod.joined = false ∧ s.tide.toNat < tide.toNat then tide else s.tide)) ∧
      (root < podSize s → Does (.tideRoot h root ptp) s (fun t => ok t ∧ t.pod = { s.pod with root := some root, ptp := ptp })) ∧
      (podSize s ≤ root → Rejects (.tideRoot h root ptp) s h 1 0) ∧
      ((∀ c ∈ ports, chordForm c = true) → routesForm routes = true →
        (s.pod.plan.isSome = true → Rejects chord s h 7 0) ∧
        (s.pod.plan = none →
          (∀ k, ports.findIdx? (fun c => !chordGood c) = some k → Rejects chord s h 11 k) ∧
          ((∀ c ∈ ports, chordGood c = true) → tsw.toNat % 49152 = 0 → s.tide.toNat ≤ tsw.toNat → Does chord s (fun t => ok t ∧
            t.pod = { s.pod with plan := some { ports := ports, routes := routes, tsw := tsw, marked := false } })) ∧
          ((∀ c ∈ ports, chordGood c = true) → tsw.toNat % 49152 ≠ 0 ∨ tsw.toNat < s.tide.toNat →
            Rejects chord s h 11 ports.length)))) ∧
    (TakesCommand s h anyCmd →
      (progsForm progs = false → Rejects sched s h 1 0) ∧
      (pass 0 → ∀ k, loadFails s 0 progs = some k → Rejects sched s h 11 k) ∧
      (pass 0 → loadFails s 0 progs = none → Does sched s (fun t => ok t ∧ loaded t 0 ∧ t.pod.tree = tree ∧ t.pod.set = 0 ∧
        ∀ g ∈ progs, (t.link g.port).running = true ∧ (t.link g.port).stopped = false ∧ (t.link g.port).set = 0 ∧
          (t.link g.port).widx = 0 ∧ (t.link g.port).period = start ∧ (t.link g.port).uses = [])) ∧
      (set = 0 ∨ 15 < set → Rejects detour s h 1 0) ∧
      (1 ≤ set → set ≤ 15 →
        (tree ≠ s.pod.tree → Rejects detour s h 11 11) ∧
        (tree = s.pod.tree → pass set → ∀ k, loadFails s set progs = some k → Rejects detour s h 11 k) ∧
        (tree = s.pod.tree → pass set → loadFails s set progs = none → Does detour s (fun t => ok t ∧ loaded t set ∧
          t.pod.set = s.pod.set ∧ tget t.pod.avoid set [] = avoid ∧
          (1 < podSize s → t.pod.alarms = s.pod.alarms ++ [.setLoaded s.pod.pkg set]) ∧
          ∀ g ∈ progs, (t.link g.port).running = (s.link g.port).running ∧ (t.link g.port).set = (s.link g.port).set ∧
            (t.link g.port).widx = (s.link g.port).widx ∧ (t.link g.port).period = (s.link g.port).period))) ∧
      (vfOfRec s i = some vf → h.vf = 0xFF ∨ h.vf.toNat = vf → (s.vf vf).world = false ∨ h.world ≠ 0 →
        (recCoursed s i = false → Rejects conf s h 11 1) ∧
        (recCoursed s i = true →
          (¬ fits slotA → Rejects conf s h 11 2) ∧
          (fits slotA → ¬ fits slotB → Rejects conf s h 11 3) ∧
          (fits slotA → fits slotB → Does conf s (fun t => ok t ∧
            t.recOf i = { s.recOf i with keyst := some { slotA := slotA, slotB := slotB, segmask := segmask, tiles := tiles } })))))

/-- 0x02084180 is ADD G1, G2, G3; 0x0420BFFF is ADDI G4, G5, -1; 0x30391001 is LDU.w G7, [G8+4]; 0x50500000 is HALT;
0x00091800 is VADD S1, S2, S3; 0xC0000F80 is SHAPE.N with imm16 31; 0x0C380003 is MMA on tile 2; 0x2E000000 is
MZERO of tile 3; 0x0C000005 is AT 5; 0x11002003 is SEND port 1, descriptor 2, tile 3. The zero word is ILL as a
scalar word and reserved as another, and a word of op 0x0F is reserved. -/
def Obligations.WrittenWordsDecode : Prop :=
  decode .scalar 0x02084180 = .ok (.add 1 2 3) ∧
  decode .scalar 0x0420BFFF = .ok (.addi 4 5 (-1)) ∧
  decode .scalar 0x30391001 = .ok (.ldu 7 8 2 1) ∧
  decode .scalar 0x50500000 = .ok .halt ∧
  decode .vector 0x00091800 =
    .ok (.vadd 0 { d := 1, a := 2, b := 3, m := 0, dly := 0, sat := false, negb := false, f2 := false }) ∧
  decode .vector 0xC0000F80 = .ok (.shapeN 31 0) ∧
  decode .matrix 0x0C380003 = .ok (.mma {
    tile := 2, aG := false, a := 3, latch := 1, sgnA := false, sgnB := false, acc := 0, scl := 0, scaled := false, dly := 0
    fmt := 3 }) ∧
  decode .matrix 0x2E000000 = .ok (.mzero 3 0) ∧
  decode .link 0x0C000005 = .ok (.linkAt 5) ∧
  decode .link 0x11002003 = .ok (.linkSend 1 2 3) ∧
  decode .scalar 0 = .ok .ill ∧ decode .vector 0 = .error .zeroWord ∧ decode .matrix 0 = .error .zeroWord ∧
  decode .scalar 0x1E000000 = .error .opcode

/-- For every instruction of a code kind that has a word and whose fields take no reserved value, decoding the word
gives the instruction back: no bit of an encoding is dropped (R32, R36, R40 to R59). -/
def Obligations.EncodedWordsDecode : Prop :=
  ∀ i : Instr, Sys2Proof.Laws.RoundTrip.Statement i

/-- At the turn of a unit's sequencer that runs, has no interrupt to take, no wait and no stop, the step is exec of
the word at its PC; a reserved word is met as such, a word changed under its launch is any word, and a failing fetch
raises its cause precisely. At the turn of a column, the router, the matrix engine or a link engine the step is exec of
the word there. An event of the agenda is performed. The first turn of the agenda acts unless one of its cycle goes
before it; with none the acting unit's sequencer goes on, or time passes. -/
def Obligations.StepRunsDecoded : Prop :=
  ∀ (s : State) (ts : List Turn) (x y : Turn) (uid k col port v : Nat) (i : Instr) (w : Code) (c : Cause) (r : VeRun) (m : MeRun)
    (e : Wait),
    let s0 := { s with agenda := [] }
    let s1 := { s with agenda := ts, cur := uid }
    let s2 := { s with agenda := ts, port }
    let u := s.unit uid
    let atSq := nextTurn s = some (.sq uid, ts) ∨
      (s.agenda = [] ∧ ts = [] ∧ s.cur = uid ∧ (∀ n, n < 64 → n ≠ 0 → u.pend.contains (pendKey u n) = false))
    let brk := u.r.pc ∈ u.dbg.breaks ∨ u.dbg.stopRequested = true
    (atSq → issuing u = true → u.sup = false →
      (uiTakeable u = true → step s = exec .userInterruptEntry s1) ∧
      (uiTakeable u = false → u.wait = some e → step s = exec (waitEvent e) s1) ∧
      (uiTakeable u = false → u.wait = none → u.halted = true → step s = exec .unitDone s1) ∧
      (uiTakeable u = false → u.wait = none → u.halted = false → brk → step s = exec .debugStop s1) ∧
      (uiTakeable u = false → u.wait = none → u.halted = false → ¬ brk →
        (fetchKey s1 uid = some k → w = BitVec.ofNat 32 (memNat s.mem k 4) →
          (codeChanged s1 u.id.recNo k = false →
            (decode .scalar w = .ok i → step s = exec i s1) ∧
            (∀ e, decode .scalar w = .error e → step s = exec (.reservedWord .scalar w) s1)) ∧
          (codeChanged s1 u.id.recNo k = true → ∃ w, step s = exec (instrOf .scalar w) { s1 with free := s.free + 1 })) ∧
        (fetchPlace s1 uid = .error c → step s = .next (sqFault c u.r.pc 0 s1)) ∧
        (fetchPlace s1 uid = .ok (.mem k) → spoiledAt s1 k 4 = true → step s = .next (sqFault .uncorrectable u.r.pc 0 s1)) ∧
        (∀ p v key o bs, fetchPlace s1 uid = .ok (.pod p v key o) → farBytes s1 u p v key 3 o 4 = .ok bs →
          step s = exec (instrOf .scalar (BitVec.ofNat 32 (leNat bs))) s1))) ∧
    (nextTurn s = some (.column uid col, ts) → (tget u.ve.cols col []).head?.map (·.code) = some w →
      (decode .vector w = .ok i → step s = exec i s1) ∧
      (∀ e, decode .vector w = .error e → step s = exec (.reservedWord .vector w) s1)) ∧
    (nextTurn s = some (.router uid, ts) → u.ve.run = some r → r.words[r.widx]? = some w →
      (bits w.toNat 29 3 < 6 → step s = exec .routerDispatch s1) ∧
      (6 ≤ bits w.toNat 29 3 → (decode .vector w = .ok i → step s = exec i s1) ∧
        (∀ e, decode .vector w = .error e → step s = exec (.reservedWord .vector w) s1))) ∧
    (nextTurn s = some (.me uid, ts) → u.me.run = some m → m.words[m.widx]? = some w →
      (decode .matrix w = .ok i → step s = exec i s1) ∧
      (∀ e, decode .matrix w = .error e → step s = exec (.reservedWord .matrix w) s1)) ∧
    (nextTurn s = some (.link port, ts) → (s.link port).running = true → (linkWords (s.link port))[(s.link port).widx]? = some w →
      (decode .link w = .ok i → step s = exec i s2) ∧
      (∀ e, decode .link w = .error e → step s = exec (.reservedWord .link w) s2)) ∧
    (nextTurn s = some (.event uid i, ts) → step s = exec i s1) ∧
    (s.agenda = [x] → nextTurn s = some (x, [])) ∧
    (s.agenda = .event v .coreCycle :: ts → nextTurn s = some (.event v .coreCycle, ts)) ∧
    (s.agenda = x :: .event v .coreCycle :: ts → nextTurn s = some (x, .event v .coreCycle :: ts)) ∧
    (s.agenda = x :: ts → endsCycle x = false → turnClaims s0 x = [] → turnAgent s0 x = none → nextTurn s = some (x, ts)) ∧
    (s.agenda = [x, y] → x ≠ y → endsCycle x = false → endsCycle y = false →
      goesBefore (turnClaims s0 y) (turnClaims s0 x) = true → (∀ v r, turnAgent s0 y = some (v, r) → stops s0 v y = false) →
      nextTurn s = some (y, [x])) ∧
    (s.agenda = [] → issuing s.u = false ∨ s.u.sup = true → step s = exec .coreCycle s)

/-- For every state, the step answers a next state: an exception is taken, a wait is kept, a command is answered,
and no instruction or event stops the model. -/
def Obligations.EveryStepGoesOn : Prop :=
  ∀ s : State, SafeStep s

/-- At reset no unit of a launch, VF, job or engine exists, only the four management cores at level S; the bring-up is at its
start, the package has joined no pod, tide
time and the cycle count are 0, regions are of no VF and Non-secure, the power cap is 2,900, and the storage has
its canonical form with every byte 0. What R490 leaves open (zero storage before training, the fuse map of all
enabled positions) is the model's choice, log entries 3 and 5. -/
def Obligations.ResetState : Prop :=
  State.reset.units.length = 4 ∧ (∀ e ∈ State.reset.units, e.2.sup = true ∧ 2 ^ 20 ≤ e.1) ∧ State.reset.vfs = [] ∧ State.reset.jobs = [] ∧ State.reset.links = [] ∧
  State.reset.pod.joined = false ∧ State.reset.firm.bring = 0 ∧ State.reset.firm.topLeaf = 0 ∧
  State.reset.tide = 0 ∧ State.reset.cycle = 0 ∧ State.reset.regionVf = [] ∧ State.reset.regionWorld = 0 ∧
  State.reset.smb.pcap = 2900 ∧ State.reset.smb.trip = false ∧ memWf State.reset.mem = true ∧
  (∀ k, byteAt State.reset k = 0) ∧ (positions State.reset).length = 128
end

