-- ==== Sys2Proof/Laws/Memory.lean ====
section
/-! SUPPORT. The byte storage: a read after a write, and its canonical form (keys strictly rising, no zero byte
listed) under each of the operations that change it. -/

namespace Sys2Proof.Machine

/-! ### The canonical form as a proposition -/

/-- The canonical form: keys strictly rising and no zero byte listed. -/
theorem memWf_iff (m : Mem) :
    memWf m = true ↔ m.Pairwise (fun a b => a.1 < b.1) ∧ ∀ e ∈ m, e.2 ≠ 0 := by
  induction m with
  | nil => simp [memWf]
  | cons e m ih =>
    obtain ⟨j, b⟩ := e
    cases m with
    | nil => simp [memWf]
    | cons f m =>
      obtain ⟨k, c⟩ := f
      simp only [memWf, Bool.and_eq_true, ih, decide_eq_true_eq, bne_iff_ne, List.pairwise_cons, List.mem_cons,
        forall_eq_or_imp]
      constructor
      · rintro ⟨⟨hb, hjk⟩, ⟨hk, hp⟩, hc, hn⟩
        exact ⟨⟨⟨hjk, fun a ha => Nat.lt_trans hjk (hk a ha)⟩, hk, hp⟩, hb, hc, hn⟩
      · rintro ⟨⟨⟨hjk, -⟩, hk, hp⟩, hb, hc, hn⟩
        exact ⟨⟨hb, hjk⟩, ⟨hk, hp⟩, hc, hn⟩

theorem memWf_filter {m : Mem} (h : memWf m = true) (p : Nat × Byte → Bool) : memWf (m.filter p) = true := by
  rw [memWf_iff] at *
  exact ⟨h.1.filter p, fun e he => h.2 e ((List.mem_filter.1 he).1)⟩

theorem memWf_append {a b : Mem} (ha : memWf a = true) (hb : memWf b = true)
    (h : ∀ x ∈ a, ∀ y ∈ b, x.1 < y.1) : memWf (a ++ b) = true := by
  rw [memWf_iff] at *
  refine ⟨List.pairwise_append.2 ⟨ha.1, hb.1, h⟩, fun e he => ?_⟩
  rcases List.mem_append.1 he with he | he
  · exact ha.2 e he
  · exact hb.2 e he

/-! ### A run of bytes -/

/-- The cells of a run lie within the run and hold no zero. -/
theorem mem_memRun {k : Nat} {bs : List Byte} {e : Nat × Byte} (h : e ∈ memRun k bs) :
    k ≤ e.1 ∧ e.1 < k + bs.length ∧ e.2 ≠ 0 := by
  induction bs generalizing k with
  | nil => simp [memRun] at h
  | cons b bs ih =>
    simp only [memRun] at h
    split at h
    · obtain ⟨h1, h2, h3⟩ := ih h
      simp only [List.length_cons]
      exact ⟨by omega, by omega, h3⟩
    · rcases List.mem_cons.1 h with rfl | h
      · simp_all
      · obtain ⟨h1, h2, h3⟩ := ih h
        simp only [List.length_cons]
        exact ⟨by omega, by omega, h3⟩

theorem memWf_memRun (k : Nat) (bs : List Byte) : memWf (memRun k bs) = true := by
  induction bs generalizing k with
  | nil => rfl
  | cons b bs ih =>
    simp only [memRun]
    split
    · exact ih _
    · rename_i hb
      refine memWf_append (a := [(k, b)]) (by simpa [memWf] using hb) (ih _) ?_
      intro x hx y hy
      obtain ⟨h1, -, -⟩ := mem_memRun hy
      simp only [List.mem_singleton] at hx
      subst hx
      exact h1

/-! ### The operations keep the form -/

theorem memWf_memPut {m : Mem} (h : memWf m = true) (k : Nat) (bs : List Byte) : memWf (memPut m k bs) = true := by
  refine memWf_append (memWf_append (memWf_filter h _) (memWf_memRun k bs) ?_) (memWf_filter h _) ?_
  · intro x hx y hy
    have := (List.mem_filter.1 hx).2
    have := (mem_memRun hy).1
    simp_all; omega
  · intro x hx y hy
    have hy := (List.mem_filter.1 hy).2
    rcases List.mem_append.1 hx with hx | hx
    · have := (List.mem_filter.1 hx).2
      simp_all; omega
    · have := (mem_memRun hx).2.1
      simp_all; omega

theorem memWf_memZero {m : Mem} (h : memWf m = true) (k n : Nat) : memWf (memZero m k n) = true := memWf_filter h _

theorem memWf_memBlit {a b : Mem} (ha : memWf a = true) (hb : memWf b = true) (dst src n : Nat) :
    memWf (memBlit a b dst src n) = true := by
  have hm : ∀ e ∈ (b.filter fun e => decide (src ≤ e.1) && decide (e.1 < src + n)).map
      (fun e => (e.1 - src + dst, e.2)), dst ≤ e.1 ∧ e.1 < dst + n := by
    intro e he
    obtain ⟨f, hf, rfl⟩ := List.mem_map.1 he
    have := (List.mem_filter.1 hf).2
    simp at this ⊢
    omega
  refine memWf_append (memWf_append (memWf_filter ha _) ?_ ?_) (memWf_filter ha _) ?_
  · rw [memWf_iff] at hb ⊢
    refine ⟨?_, ?_⟩
    · rw [List.pairwise_map]
      refine (hb.1.filter _).imp_of_mem ?_
      intro x y hx hy hxy
      have hx := (List.mem_filter.1 hx).2
      have hy := (List.mem_filter.1 hy).2
      simp at hx hy ⊢
      omega
    · intro e he
      obtain ⟨f, hf, rfl⟩ := List.mem_map.1 he
      exact hb.2 f ((List.mem_filter.1 hf).1)
  · intro x hx y hy
    have := (List.mem_filter.1 hx).2
    have := (hm y hy).1
    simp_all; omega
  · intro x hx y hy
    have hy := (List.mem_filter.1 hy).2
    rcases List.mem_append.1 hx with hx | hx
    · have := (List.mem_filter.1 hx).2
      simp_all; omega
    · have := (hm x hx).2
      simp_all; omega

theorem memWf_putPairs {m : Mem} (h : memWf m = true) (k : Nat) (ps : List (Nat × Byte)) :
    memWf (putPairs m k ps) = true := by
  induction ps generalizing m with
  | nil => exact h
  | cons p ps ih => exact ih (memWf_memPut h _ _)

theorem memWf_scrPut {m : Mem} (h : memWf m = true) (u : Unit) (la : Nat) (bs : List Byte) :
    memWf (scrPut m u la bs) = true := by
  unfold scrPut
  generalize 66 = n
  induction n generalizing m la bs with
  | zero => exact h
  | succ n ih =>
    simp only [scrPutFrom]
    split
    · exact h
    · exact ih (memWf_memPut h _ _) _ _

theorem memWf_amoAt {m : Mem} (h : memWf m = true) (key aop n b c : Nat) :
    memWf (amoAt m key aop n b c).2 = true := by
  simp only [amoAt]
  split
  · exact memWf_memPut h _ _
  · exact h

/-- The storage after reset has the form: nothing is listed. -/
theorem memWf_reset : memWf State.reset.mem = true := rfl

/-! ### A read after a write -/

theorem memGet_append (a b : Mem) (j : Nat) :
    memGet (a ++ b) j = if a.any (fun e => e.1 == j) then memGet a j else memGet b j := by
  induction a with
  | nil => simp
  | cons e a ih =>
    obtain ⟨i, v⟩ := e
    by_cases h : i = j <;> simp [memGet, h, ih]

theorem memGet_absent {m : Mem} {j : Nat} (h : ∀ e ∈ m, e.1 ≠ j) : memGet m j = 0 := by
  induction m with
  | nil => rfl
  | cons e m ih =>
    obtain ⟨i, v⟩ := e
    simp only [List.mem_cons, forall_eq_or_imp] at h
    simp [memGet, h.1, ih h.2]

theorem any_key_false {m : Mem} {j : Nat} (h : ∀ e ∈ m, e.1 ≠ j) : m.any (fun e => e.1 == j) = false := by
  simpa using h

theorem memGet_of_any {m : Mem} {j : Nat} (h : ¬ m.any (fun e => e.1 == j) = true) : memGet m j = 0 :=
  memGet_absent fun e he hej => h (List.any_eq_true.2 ⟨e, he, by simp [hej]⟩)

theorem memGet_filter {m : Mem} {j : Nat} {p : Nat × Byte → Bool} (h : ∀ b, p (j, b) = true) :
    memGet (m.filter p) j = memGet m j := by
  induction m with
  | nil => rfl
  | cons e m ih =>
    obtain ⟨i, v⟩ := e
    simp only [List.filter_cons]
    by_cases hi : i = j
    · subst hi; simp [h v, memGet]
    · split <;> simp [memGet, hi, ih]

theorem memGet_memRun (k : Nat) (bs : List Byte) (j : Nat) :
    memGet (memRun k bs) j = if k ≤ j then bs.getD (j - k) 0 else 0 := by
  induction bs generalizing k with
  | nil => simp [memRun, memGet]
  | cons b bs ih =>
    have hs : ∀ i, k < i → (b :: bs).getD (i - k) 0 = bs.getD (i - (k + 1)) 0 := by
      intro i hi
      obtain ⟨d, rfl⟩ : ∃ d, i = k + 1 + d := ⟨i - (k + 1), by omega⟩
      simp [show k + 1 + d - k = d + 1 by omega, show k + 1 + d - (k + 1) = d by omega]
    simp only [memRun]
    rcases Nat.lt_trichotomy k j with h | h | h
    · split
      · rw [ih, if_pos (show k + 1 ≤ j from h), if_pos (Nat.le_of_lt h), hs j h]
      · rw [memGet, if_neg (show ¬ k = j by omega), ih, if_pos (show k + 1 ≤ j from h), if_pos (Nat.le_of_lt h), hs j h]
    · subst h
      split
      · rename_i hb
        rw [ih, if_neg (by omega)]; simp [hb]
      · simp [memGet]
    · have hj : ¬ k ≤ j := by omega
      split
      · rw [ih, if_neg (show ¬ k + 1 ≤ j by omega)]
      · rw [memGet, if_neg (show ¬ k = j by omega), ih, if_neg (show ¬ k + 1 ≤ j by omega)]

/-- A byte of the storage after a run of bytes is written: the run's own within it, the old byte elsewhere. -/
theorem memGet_memPut (m : Mem) (k : Nat) (bs : List Byte) (j : Nat) :
    memGet (memPut m k bs) j = if k ≤ j ∧ j < k + bs.length then bs.getD (j - k) 0 else memGet m j := by
  unfold memPut
  have hlow : ¬ j < k → ∀ e ∈ m.filter (fun e => decide (e.1 < k)), e.1 ≠ j := by
    intro hj e he
    have := (List.mem_filter.1 he).2
    simp at this; omega
  have hrun : ¬ (k ≤ j ∧ j < k + bs.length) → ∀ e ∈ memRun k bs, e.1 ≠ j := by
    intro hj e he
    have := mem_memRun he
    omega
  have hhigh : j < k + bs.length → ∀ e ∈ m.filter (fun e => decide (k + bs.length ≤ e.1)), e.1 ≠ j := by
    intro hj e he
    have := (List.mem_filter.1 he).2
    simp at this; omega
  rw [List.append_assoc, memGet_append, memGet_append]
  by_cases h1 : j < k
  · have hc : ¬ (k ≤ j ∧ j < k + bs.length) := by omega
    simp only [if_neg hc, any_key_false (hrun hc), memGet_absent (hhigh (by omega)), Bool.false_eq_true, if_false]
    have hf : memGet (m.filter fun e => decide (e.1 < k)) j = memGet m j := memGet_filter (by simpa using h1)
    split
    · exact hf
    · rename_i h
      rw [← hf]
      exact (memGet_of_any h).symm
  · by_cases h2 : j < k + bs.length
    · have hc : k ≤ j ∧ j < k + bs.length := ⟨by omega, h2⟩
      simp only [if_pos hc, any_key_false (hlow h1), memGet_absent (hhigh h2), Bool.false_eq_true, if_false]
      have hr := memGet_memRun k bs j
      rw [if_pos hc.1] at hr
      split
      · exact hr
      · rename_i h
        rw [← hr]
        exact (memGet_of_any h).symm
    · have hc : ¬ (k ≤ j ∧ j < k + bs.length) := by omega
      simp only [if_neg hc, any_key_false (hlow h1), any_key_false (hrun hc), Bool.false_eq_true, if_false]
      exact memGet_filter (by simp; omega)

/-- What is written is read back. -/
theorem memRead_memPut_same (m : Mem) (k : Nat) (bs : List Byte) : memRead (memPut m k bs) k bs.length = bs := by
  have h : ∀ (n i : Nat), i + n = bs.length → memRead (memPut m k bs) (k + i) n = bs.drop i := by
    intro n
    induction n with
    | zero => intro i hi; rw [memRead, List.drop_of_length_le (by omega)]
    | succ n ih =>
      intro i hi
      have hl : i < bs.length := by omega
      rw [memRead, Nat.add_assoc, ih (i + 1) (by omega), memGet_memPut,
        if_pos (show k ≤ k + i ∧ k + i < k + bs.length by omega),
        List.drop_eq_getElem_cons hl, Nat.add_sub_cancel_left]
      simp [hl]
  simpa using h bs.length 0 (by simp)

/-- A run of bytes apart from the written one reads as before. -/
theorem memRead_memPut_apart (m : Mem) (k : Nat) (bs : List Byte) (j n : Nat)
    (h : j + n ≤ k ∨ k + bs.length ≤ j) : memRead (memPut m k bs) j n = memRead m j n := by
  induction n generalizing j with
  | zero => rfl
  | succ n ih =>
    rw [memRead, memRead, memGet_memPut, if_neg (show ¬ (k ≤ j ∧ j < k + bs.length) by omega), ih _ (by omega)]

end Sys2Proof.Machine
end

