-- ==== Sys2Proof/Laws/State.lean ====
section
/-! SUPPORT. The small lemmas of the state: reading a table after an update, and each part of the state after an
update of another. -/

namespace Sys2Proof.Machine

/-! ### Tables -/

@[simp] theorem tget_nil {α : Type} (k : Nat) (d : α) : tget [] k d = d := rfl

theorem tget_tset {α : Type} (t : Tab α) (k j : Nat) (v d : α) :
    tget (tset t k v) j d = if j = k then v else tget t j d := by
  induction t with
  | nil => by_cases h : k = j <;> simp [tset, tget, h, eq_comm]
  | cons e t ih =>
    obtain ⟨i, w⟩ := e
    simp only [tset]
    split
    · by_cases h : j = k
      · simp [tget, h]
      · simp [tget, h, Ne.symm h]
    · split
      · rename_i hk
        subst hk
        by_cases h : j = k
        · simp [tget, h]
        · simp [tget, h, Ne.symm h]
      · rename_i hk
        by_cases hi : i = j
        · subst hi
          simp [tget, Ne.symm hk]
        · simp [tget, hi, ih]

@[simp] theorem tget_tset_same {α : Type} (t : Tab α) (k : Nat) (v d : α) : tget (tset t k v) k d = v := by
  simp [tget_tset]

theorem tget_tset_other {α : Type} (t : Tab α) {k j : Nat} (v d : α) (h : j ≠ k) :
    tget (tset t k v) j d = tget t j d := by
  simp [tget_tset, h]

theorem tset_tset_same {α : Type} (t : Tab α) (k : Nat) (v w : α) : tset (tset t k v) k w = tset t k w := by
  induction t with
  | nil => simp [tset]
  | cons e t ih =>
    obtain ⟨i, x⟩ := e
    by_cases h1 : k < i
    · simp [tset, h1]
    · by_cases h2 : k = i
      · simp [tset, h2]
      · simp [tset, h1, h2, ih]

/-! ### The parts of the state -/

@[simp] theorem State.unit_putUnit (s : State) (k j : Nat) (u : Unit) :
    (s.putUnit k u).unit j = if j = k then u else s.unit j := tget_tset _ _ _ _ _

@[simp] theorem State.u_putUnit_cur (s : State) (u : Unit) : (s.putUnit s.cur u).u = u := tget_tset_same _ _ _ _

@[simp] theorem State.onU_eq (s : State) (f : Unit → Unit) : s.onU f = s.putUnit s.cur (f s.u) := rfl
@[simp] theorem State.onUnit_eq (s : State) (k : Nat) (f : Unit → Unit) : s.onUnit k f = s.putUnit k (f (s.unit k)) := rfl
@[simp] theorem State.setU_eq (s : State) (u : Unit) : s.setU u = s.putUnit s.cur u := rfl

@[simp] theorem State.putUnit_putUnit (s : State) (k : Nat) (u v : Unit) :
    (s.putUnit k u).putUnit k v = s.putUnit k v := by
  simp only [State.putUnit, tset_tset_same]

@[simp] theorem State.putUnit_mem (s : State) (k : Nat) (u : Unit) : (s.putUnit k u).mem = s.mem := rfl
@[simp] theorem State.putUnit_cores (s : State) (k : Nat) (u : Unit) : (s.putUnit k u).cores = s.cores := rfl
@[simp] theorem State.putUnit_bays (s : State) (k : Nat) (u : Unit) : (s.putUnit k u).bays = s.bays := rfl
@[simp] theorem State.putUnit_dies (s : State) (k : Nat) (u : Unit) : (s.putUnit k u).dies = s.dies := rfl
@[simp] theorem State.putUnit_recs (s : State) (k : Nat) (u : Unit) : (s.putUnit k u).recs = s.recs := rfl
@[simp] theorem State.putUnit_vfs (s : State) (k : Nat) (u : Unit) : (s.putUnit k u).vfs = s.vfs := rfl
@[simp] theorem State.putUnit_jobs (s : State) (k : Nat) (u : Unit) : (s.putUnit k u).jobs = s.jobs := rfl
@[simp] theorem State.putUnit_phases (s : State) (k : Nat) (u : Unit) : (s.putUnit k u).phases = s.phases := rfl
@[simp] theorem State.putUnit_saved (s : State) (k : Nat) (u : Unit) : (s.putUnit k u).saved = s.saved := rfl
@[simp] theorem State.putUnit_headers (s : State) (k : Nat) (u : Unit) : (s.putUnit k u).headers = s.headers := rfl
@[simp] theorem State.putUnit_links (s : State) (k : Nat) (u : Unit) : (s.putUnit k u).links = s.links := rfl
@[simp] theorem State.putUnit_pod (s : State) (k : Nat) (u : Unit) : (s.putUnit k u).pod = s.pod := rfl
@[simp] theorem State.putUnit_firm (s : State) (k : Nat) (u : Unit) : (s.putUnit k u).firm = s.firm := rfl
@[simp] theorem State.putUnit_tide (s : State) (k : Nat) (u : Unit) : (s.putUnit k u).tide = s.tide := rfl
@[simp] theorem State.putUnit_regionVf (s : State) (k : Nat) (u : Unit) : (s.putUnit k u).regionVf = s.regionVf := rfl
@[simp] theorem State.putUnit_spoiled (s : State) (k : Nat) (u : Unit) : (s.putUnit k u).spoiled = s.spoiled := rfl
@[simp] theorem State.putUnit_pktOut (s : State) (k : Nat) (u : Unit) : (s.putUnit k u).pktOut = s.pktOut := rfl
@[simp] theorem State.putUnit_hostOut (s : State) (k : Nat) (u : Unit) : (s.putUnit k u).hostOut = s.hostOut := rfl
@[simp] theorem State.putUnit_cur (s : State) (k : Nat) (u : Unit) : (s.putUnit k u).cur = s.cur := rfl
@[simp] theorem State.putUnit_port (s : State) (k : Nat) (u : Unit) : (s.putUnit k u).port = s.port := rfl
@[simp] theorem State.putUnit_agenda (s : State) (k : Nat) (u : Unit) : (s.putUnit k u).agenda = s.agenda := rfl
@[simp] theorem State.putUnit_free (s : State) (k : Nat) (u : Unit) : (s.putUnit k u).free = s.free := rfl
@[simp] theorem State.putUnit_nextTag (s : State) (k : Nat) (u : Unit) : (s.putUnit k u).nextTag = s.nextTag := rfl

@[simp] theorem State.bay_setBay (s : State) (k j : Nat) (b : Bay) :
    (s.setBay k b).bay j = if j = k then b else s.bay j := tget_tset _ _ _ _ _
@[simp] theorem State.die_setDie (s : State) (k j : Nat) (d : Die) :
    (s.setDie k d).die j = if j = k then d else s.die j := tget_tset _ _ _ _ _
@[simp] theorem State.core_setCore (s : State) (k j : Nat) (c : Core) :
    (s.setCore k c).core j = if j = k then c else s.core j := tget_tset _ _ _ _ _
@[simp] theorem State.recOf_putRec (s : State) (k j : Nat) (r : Rec) :
    (s.putRec k r).recOf j = if j = k then r else s.recOf j := tget_tset _ _ _ _ _
@[simp] theorem State.vf_setVf (s : State) (k j : Nat) (v : Vf) :
    (s.setVf k v).vf j = if j = k then v else s.vf j := tget_tset _ _ _ _ _
@[simp] theorem State.job_setJob (s : State) (k j : Nat) (v : Job) :
    (s.setJob k v).job j = if j = k then v else s.job j := tget_tset _ _ _ _ _
@[simp] theorem State.link_setLink (s : State) (k j : Nat) (l : Link) :
    (s.setLink k l).link j = if j = k then l else s.link j := tget_tset _ _ _ _ _

@[simp] theorem State.setDie_units (s : State) (k : Nat) (d : Die) : (s.setDie k d).units = s.units := rfl
@[simp] theorem State.setDie_mem (s : State) (k : Nat) (d : Die) : (s.setDie k d).mem = s.mem := rfl
@[simp] theorem State.setDie_cur (s : State) (k : Nat) (d : Die) : (s.setDie k d).cur = s.cur := rfl
@[simp] theorem State.setVf_units (s : State) (k : Nat) (v : Vf) : (s.setVf k v).units = s.units := rfl
@[simp] theorem State.setVf_mem (s : State) (k : Nat) (v : Vf) : (s.setVf k v).mem = s.mem := rfl
@[simp] theorem State.setVf_cur (s : State) (k : Nat) (v : Vf) : (s.setVf k v).cur = s.cur := rfl
@[simp] theorem State.setBay_units (s : State) (k : Nat) (b : Bay) : (s.setBay k b).units = s.units := rfl
@[simp] theorem State.setBay_mem (s : State) (k : Nat) (b : Bay) : (s.setBay k b).mem = s.mem := rfl
@[simp] theorem State.setBay_cur (s : State) (k : Nat) (b : Bay) : (s.setBay k b).cur = s.cur := rfl
@[simp] theorem State.setLink_units (s : State) (k : Nat) (l : Link) : (s.setLink k l).units = s.units := rfl
@[simp] theorem State.setLink_mem (s : State) (k : Nat) (l : Link) : (s.setLink k l).mem = s.mem := rfl
@[simp] theorem State.setLink_cur (s : State) (k : Nat) (l : Link) : (s.setLink k l).cur = s.cur := rfl

/-! ### Registers -/

@[simp] theorem getG_zero (r : Regs) : getG r 0 = 0 := rfl

/-- The ring maps the names G0 to G63 one to one (R103). -/
theorem physG_inj (r : Regs) {a b : Nat} (ha : a < 64) (hb : b < 64) (h : physG r a = physG r b) : a = b := by
  have hg := r.goff.isLt
  unfold physG at h
  split at h <;> split at h <;> omega

theorem getG_setG (r : Regs) {d n : Nat} (hd : d < 64) (hn : n < 64) (v : Word) :
    getG (setG r d v) n = if n = d ∧ n ≠ 0 then v else getG r n := by
  by_cases h0 : d = 0
  · subst h0
    by_cases hn0 : n = 0 <;> simp [setG, hn0]
  · by_cases hn0 : n = 0
    · subst hn0; simp
    · have hp : ∀ k, physG (setG r d v) k = physG r k := fun k => by simp [setG, h0, physG]
      rw [getG, if_neg hn0, hp]
      simp only [setG, if_neg h0, tget_tset]
      by_cases hd' : n = d
      · subst hd'; simp [hn0]
      · rw [if_neg (fun h => hd' (physG_inj r hn hd h)), if_neg (fun h => hd' h.1), getG, if_neg hn0]

end Sys2Proof.Machine
end

