-- ==== Sys2Proof/Laws/Sequencer.lean ====
section
/-! SUPPORT. What the shared operations of the sequencer can do: counting, completion of a word, transfer of control,
and the three ways in which a scalar word meets the state. -/

namespace Sys2Proof.Machine

/-! ### Counting -/

theorem count_eq (s : State) (k ev n : Nat) :
    count s k ev n = if n = 0 then s else s.putUnit k
      (if counting (s.unit k) then { s.unit k with ctr := addEvent (s.unit k).ctr ev n } else s.unit k) := rfl

theorem issuing_running {u : Unit} (h : issuing u = true) : u.st = .running := by
  simp [issuing] at h; exact h.2

theorem sqIdle_false {u : Unit} (h : sqIdle u = false) :
    issuing u = true ∧ u.wait = none ∧ u.halted = false := by
  simp [sqIdle] at h
  exact ⟨h.1.1, h.1.2, h.2⟩

/-- A running unit's counters after an issue. -/
theorem counted_running {u : Unit} (h : u.st = .running) :
    (if counting u then { u with ctr := addEvent u.ctr 0x0102 1 } else u) = { u with ctr := issueCounted u } := by
  have hc : counting u = !u.dbg.stopped := by simp [counting, h]
  rw [hc, issueCounted]
  cases u.dbg.stopped <;> rfl

/-! ### The three ways of a scalar word (R110, R114) -/

/-- No word issues while the sequencer is idle. -/
theorem sqWord_idle {s : State} (h : sqIdle s.u = true) (rs : List (BitVec 6)) (body : State → SqRes) :
    sqWord rs body s = .next s := by rw [sqWord, if_pos h]

/-- A word that the clause holds back only completes. -/
theorem sqWord_heldBack {s : State} (h : ClauseHolds s) (rs : List (BitVec 6)) (body : State → SqRes) :
    sqWord rs body s = .next (retire s) := by
  obtain ⟨h1, h2, h3⟩ := h
  rw [sqWord, if_neg (by simp [h1]), if_pos (by simpa [h3] using h2)]

/-- A word that issues acts as its body says. -/
theorem sqWord_issue {s : State} {rs : List (BitVec 6)} (h : CanIssue s rs) (body : State → SqRes) :
    sqWord rs body s = .next (finish (unpoll s) (body (unpoll s))) := by
  obtain ⟨h1, h2, h3⟩ := h
  rw [sqWord, if_neg (by simp [h1]), if_neg (by rcases h2 with h | h <;> simp [h]), if_neg (by simp [h3])]

/-! ### Completion -/

@[simp] theorem unpoll_cur (s : State) : (unpoll s).cur = s.cur := rfl

theorem unpoll_u (s : State) : (unpoll s).u = { s.u with poll := false } := by simp [unpoll]

theorem unpoll_eq (s : State) : unpoll s = s.putUnit s.cur { s.u with poll := false } := by simp [unpoll]

theorem onlyUnit_putUnit (s : State) (u : Unit) : OnlyUnit s (s.putUnit s.cur u) :=
  ⟨rfl, fun k hk => by simp [hk]⟩

theorem putUnit_cur_putUnit (s : State) (u v : Unit) : ((s.putUnit s.cur u).putUnit s.cur v).u = v := by
  rw [State.putUnit_putUnit]
  exact State.u_putUnit_cur _ _

/-- The acting unit u after the word that it has just issued completes, gov saying whether a clause governs it. -/
def completed (gov : Bool) (u : Unit) : Unit :=
  { dropFar .sq u with wait := none, ctr := issueCounted u, r := { clsDown gov u.r with pc := u.r.pc + 4 } }

/-- The acting unit after the word that it has just issued transfers control. -/
def transferred (pc : Word) (u : Unit) : Unit :=
  { dropFar .sq u with wait := none, ctr := issueCounted u, r := { u.r with pc := pc, clsCount := 0 } }

/-- A word's completion, as one change of the acting unit. -/
theorem retireAs_eq {s : State} (h : s.u.st = .running) (gov : Bool) :
    retireAs gov s = s.putUnit s.cur (completed gov s.u) := by
  simp only [retireAs, count_eq, State.onU_eq, State.unit_putUnit, if_true, State.putUnit_putUnit,
    if_neg (show ¬ (1 = 0) by decide)]
  congr 1
  exact counted_running
    (u := { dropFar .sq s.u with wait := none, r := { clsDown gov s.u.r with pc := s.u.r.pc + 4 } }) h

/-- A transfer of control, as one change of the acting unit. -/
theorem retireTo_eq {s : State} (h : s.u.st = .running) (pc : Word) :
    retireTo pc s = s.putUnit s.cur (transferred pc s.u) := by
  simp only [retireTo, count_eq, State.onU_eq, State.unit_putUnit, if_true, State.putUnit_putUnit,
    if_neg (show ¬ (1 = 0) by decide)]
  congr 1
  exact counted_running (u := { dropFar .sq s.u with wait := none, r := { s.u.r with pc := pc, clsCount := 0 } }) h

/-- A word whose body only changes the acting unit completes so. -/
theorem finish_done {s : State} {u : Unit} (h : u.st = .running) :
    finish (unpoll s) (.done ((unpoll s).putUnit s.cur u)) =
      s.putUnit s.cur (completed (s.u.r.clsCount != 0) u) := by
  have hu : ((unpoll s).putUnit s.cur u).u = u := by rw [unpoll_eq]; exact putUnit_cur_putUnit _ _ _
  rw [finish, retireAs_eq (by rw [hu]; exact h), hu]
  simp only [unpoll_eq, State.putUnit_cur, State.putUnit_putUnit, governed, State.u_putUnit_cur]

/-- A word whose body only changes the acting unit transfers control so. -/
theorem finish_jump {s : State} {u : Unit} (h : u.st = .running) (pc : Word) :
    finish (unpoll s) (.jump ((unpoll s).putUnit s.cur u) pc) = s.putUnit s.cur (transferred pc u) := by
  have hu : ((unpoll s).putUnit s.cur u).u = u := by rw [unpoll_eq]; exact putUnit_cur_putUnit _ _ _
  rw [finish, retireTo_eq (by rw [hu]; exact h), hu]
  simp only [unpoll_eq, State.putUnit_cur, State.putUnit_putUnit]

/-! ### Register words -/

theorem gOf_unpoll (s : State) (n : BitVec 6) : gOf (unpoll s) n = gOf s n := by rw [gOf, unpoll_u]; rfl

theorem pOf_unpoll (s : State) (n : BitVec 4) : pOf (unpoll s) n = pOf s n := by rw [pOf, unpoll_u]; rfl

theorem getG_completed (gov : Bool) (r : Regs) (pc : Word) (n : Nat) :
    getG { clsDown gov r with pc := pc } n = getG r n := by cases gov <;> rfl

/-- A completed word whose only effect is one general register. -/
theorem setsG_completed {s : State} {d : BitVec 6} {v : Word} {pend : List Nat} :
    SetsG s (s.putUnit s.cur (completed (s.u.r.clsCount != 0)
      { s.u with poll := false, r := setG s.u.r d.toNat v, pend := pend })) d v := by
  have hd := d.isLt
  refine ⟨⟨onlyUnit_putUnit s _, ?_⟩, ?_, ?_, ?_⟩
  · rw [State.u_putUnit_cur]; rfl
  · rw [Advanced, State.u_putUnit_cur]
    refine ⟨?_, ?_, ?_, rfl, rfl⟩
    · simp only [completed, setG]; split <;> rfl
    · simp only [completed, clsDown, clsAfter, setG]; split <;> split <;> simp_all
    · simp only [completed, clsDown, setG]; split <;> split <;> rfl
  · intro n
    have hn := n.isLt
    have h : gOf (s.putUnit s.cur (completed (s.u.r.clsCount != 0)
        { s.u with poll := false, r := setG s.u.r d.toNat v, pend := pend })) n = getG (setG s.u.r d.toNat v) n.toNat := by
      rw [gOf, State.u_putUnit_cur]
      exact getG_completed _ _ _ _
    rw [h, getG_setG _ hd hn, gOf]
    simp only [ne_eq]
    congr 1
    simp [BitVec.toNat_eq]
  · rw [State.u_putUnit_cur]
    simp only [completed, clsDown, setG]
    split <;> split <;> rfl

/-- A word that computes one general register from the state completes so. -/
theorem sqWord_setsG {s : State} {rs : List (BitVec 6)} {d : BitVec 6} {f : State → Word} (h : CanIssue s rs) {v : Word}
    (hv : f (unpoll s) = v) :
    ∃ t, sqWord rs (fun s => .done (writeG s d (f s))) s = .next t ∧ SetsG s t d v := by
  have hrun := issuing_running (sqIdle_false h.1).1
  refine ⟨_, sqWord_issue h _, ?_⟩
  have hw : writeG (unpoll s) d (f (unpoll s)) = (unpoll s).putUnit s.cur { s.u with
      poll := false, r := setG s.u.r d.toNat v, pend := s.u.pend.filter (· != pendKey s.u d.toNat) } := by
    rw [hv, writeG, State.onU_eq, unpoll_u, unpoll_cur]; rfl
  rw [hw, finish_done (by exact hrun)]
  exact setsG_completed

end Sys2Proof.Machine
end

