-- ==== Sys2Proof/Tests/States.lean ====
section
/-! SUPPORT. Small states, made by helpers, for the tests and the witnesses. -/

set_option linter.unusedVariables false

namespace Sys2Proof.Tests
open Sys2Proof Sys2Proof.Machine

set_option maxRecDepth 100000
set_option Elab.async false

/-- Storage with little-endian numbers (key, bytes, value) written one after the other. -/
def memOf (l : List (Nat × Nat × Nat)) : Mem := l.foldl (fun m e => memPut m e.1 (toLe e.2.1 e.2.2)) []

/-- A VF whose first region is its memory: heap of 4,096 pages from address 0, page tables at 0x100000. -/
def tVf : Vf :=
  { blankVf with
    st := .active, qps := [20], poolFirst := 0, poolCount := 16, root := 0x100000
    ranges := [{ base := 0, limit := 0x200000000, offset := 0, world := 0, kind := 0, path := 0, pkg := 0, vfn := 0, key := 0 }]
    heap := { base := 0, limit := 0x1000, off := 0 }, scopepol := 7 }

/-- Page tables of the pages 0x4000 (here), 0x4001 (not here), 0x4002 (counted), 0x4003 (read-only), records 0 and 1, and
code sections at 0x300000. -/
def tMem : Mem := memOf
  [(0x100000, 8, 0x110001), (0x110010, 8, 0x120001),
   (0x120000, 8, 0x20000F), (0x120008, 8, 0x21000B), (0x120010, 8, 0x22006F), (0x120018, 8, 0x230007),
   (0x20000000000, 8, 0x300000), (0x20000000008, 4, 0x100), (0x20000000010, 8, 0x301000), (0x20000000018, 4, 64),
   (0x20000000020, 8, 0x302000), (0x20000000028, 4, 64), (0x20000000030, 8, 0x300000), (0x20000000040, 8, 0x303000),
   (0x20000000050, 8, 0x304000), (0x20000000060, 8, 0x1000000),
   (0x20000000070, 2, 2), (0x20000000072, 1, 4), (0x20000000073, 1, 1), (0x20000000080, 8, 0xFFFFFFFFFFFFFFFF),
   (0x20000000088, 8, 0xFFFFFFFFFFFFFFFF),
   (0x20000000230, 8, 0x300000), (0x20000000270, 2, 2), (0x20000000272, 1, 4), (0x20000000276, 2, 3)]

/-- A running unit of record 0 on core 0, with three usable segments and one for publishing. -/
def tUnit : Machine.Unit :=
  { blankUnit with
    st := .running, restored := true
    id := { blankUnit.id with count := 2, core := some 0, segs := 4, pubseg := 1, segMap := [0, 1, 2, 3] }
    r := { blankRegs with
      pc := 0x300000, p := 0xA0, ns := 3, sv := 5, goff := 5
      g := [(1, 5), (2, 0xFFFFFFFFFFFFFFF0), (3, 0xFFFFFFFFFFC00008), (4, 0x8000000000000000), (5, 0x40000000),
            (6, 0x40010008), (7, 0xFFFFFFFFFFC30000), (8, 0x0123456789ABCDEF), (40, 0x123)] }
    c := { blankCsrs with scopepol := 7, heapl := 0x1000 } }

/-- The same with more entries in its registers. -/
def tSet (l : List (Nat × Word)) (u : Machine.Unit) : Machine.Unit :=
  { u with r := { u.r with g := l.foldl (fun g e => tset g e.1 e.2) u.r.g } }

/-- Two units of record 0 run on cores 0 and 1. -/
def tState : State :=
  { State.reset with
    mem := tMem, vfs := [(0, tVf)], regionVf := [(0, 0)], tide := 0x123456789A
    units := [(0, tUnit), (1, { tUnit with id := { tUnit.id with idx := 1, core := some 1 } })]
    cores := [(0, { blankCore with occupant := some 0 }), (1, { blankCore with occupant := some 1 })]
    recs := [(0, { blankRec with st := .active })]
    jobs := [(0, { blankJob with recs := [0], running := true })] }

/-- The state with a change to unit 0, which acts. -/
def tWith (f : Machine.Unit → Machine.Unit) : State := tState.onUnit 0 f

/-- An activation of n elements at scratch address 0x40, of a direction and format. -/
def tAct (dir fmt n : Nat) : Act :=
  { id := 1, f := [(0, BitVec.ofNat 64 (dir + 16 * fmt)), (1, 0x40), (2, BitVec.ofNat 64 n), (8, 1)], total := n
    started := true, granted := true, closed := false, finished := false, issued := 0, taken := 0, given := 0, wrote := 0, half := false
    performed := 0, flushTo := 0, cov := 0, exited := false, inflight := [], queue := [], outq := [] }

/-- A loaded element without scale, and an activation that holds elements. -/
def tEl (v : Nat) : Elem := { bits := BitVec.ofNat 64 v, scale := none }
def tLoad (fmt n : Nat) (vs : List Nat) : Act := { tAct 0 fmt n with issued := vs.length, queue := vs.map tEl }

/-- The state with activations on streams of unit 0. -/
def tStreams (l : List (Nat × Act)) (s : State) : State :=
  s.onUnit 0 fun u => { u with ae := { u.ae with s := tableFrom 0 ((List.range 16).map fun n =>
    ({ f := [], acts := (l.filter (·.1 == n)).map (·.2) } : Stream)) } }

/-- A vector entry, the run of a block of words, and a word at work in a column. -/
def tVeEntry : VeEntry :=
  { off := 0, n := 1, ftz := false, det := false, n1 := 63, m1 := 0, k := [(0, 0x40400000), (1, 3)], gns := [], due := none, ord := 0 }
def tVeRun : VeRun :=
  { e := tVeEntry, words := [0], levels := [], widx := 0, ctr := [0, 0, 0, 0, 0, 0], shN := 4, shM := 2, wait := 0
    atEnd := false, exited := false, masks := [(1, 0x5)], wrote := [], met := [], moved := false }
def tWord (wt ord : Nat) : VWord :=
  { code := 0, widx := 0, ctr := [0, 0, 0, 0, 0, 0], shN := 4, shM := 2, seq := 0, first := false, wait := 0, due := none, issued := true
    wt := wt, ord := ord, taken := 0, lanes := [], lidx := [], kept := [] }

/-- The state with a word at the head of a column. -/
def tColumn (col : Nat) (v : VWord) (s : State) : State :=
  s.onUnit 0 fun u => { u with ve := { u.ve with run := some tVeRun, cols := [(col, [v])] } }

/-- Operand fields of a vector word: destination 1, sources 2 and 3. -/
def tOps : VeOps := { d := 1, a := 2, b := 3, m := 0, dly := 0, sat := false, negb := false, f2 := false }

def tGov : State := tWith fun u => { u with r := { u.r with clsCount := 2, clsPred := true } }
def tUi (f : Csrs → Csrs) : State := tWith fun u =>
  { u with
    c := f { u.c with uihandler := 0x300020, uimask := 1, uipend := 1, uipc := 0x300044 }
    r := { u.r with shadow := [(24, 9), (31, 4)] } }
def tSup : State :=
  { (tWith fun u => { u with sup := true }) with firm := { State.reset.firm with frames := [1] } }.onUnit 1 fun u =>
    { u with st := .faulted, c := { u.c with frame := [(1, 0x300013), (3, 0x13)] } }

def tPtrs : State := tState.onUnit 0 (tSet [(9, 0xFFFFFFFFFFC0FFFC), (10, 0xFFFFFFFFFFC2FFF8), (11, 0xFFFFFFFFFFC30000),
  (12, 0x40000001), (13, 0x3FFFFFC0), (14, BitVec.ofNat 64 Config.copyAp)])
def tCsr (f : Csrs → Csrs) (s : State) : State := s.onUnit 0 fun u => { u with c := f u.c }
def tTr (s : State) (va : Word) (a : Acc) : Tr :=
  match translate s 0 va a with
  | .ok t => t
  | .error _ =>
    { place := .mem 0, res := false, wr := false, wb := false, counted := false, leafPath := 0, rangePath := 0, kind := 0
      leaf := none, heap := false }
def tCap : CapEntry :=
  { v := true, r := true, w := true, amo := true, handle := true, pkg := 5, vfn := 0, allow := 3, rkey := 0x11 }
def tRemote : State :=
  { tState with pod := { tState.pod with routes := [{ dst := 5, routes := [[0]] }], pkg := 1, dims := [2, 2, 2, 1] } }.onUnit 0
    fun u => tSet [(9, 0x0100000000001238), (10, 0x0200000000001238), (11, 0x0300000000001238), (12, 0x0400000000001238)]
      { u with
        m := { u.m with
          caps := [(1, tCap), (2, { tCap with v := false }), (3, { tCap with r := false, w := false, amo := false }),
                   (4, { tCap with pkg := 7 })] } }
def tAeEntry (c : Bool) : AeEntry :=
  { close := c, stream := 2, f := (tAct 0 0 4).f, id := 7, cov := 0, ftz := false, det := false, due := none, ord := 0 }
def tQueued (q : List AeEntry) (as : List (Nat × Act)) : State :=
  (tStreams as tState).onUnit 0 fun u => { u with ae := { u.ae with queue := q } }
def tFields : Tab Word := [(0, 0), (1, 0x40), (2, 4), (3, 2), (8, 1), (9, 4)]
def tIdle : State :=
  tState.onUnit 0 fun u => { u with ae := { u.ae with s := [(2, { f := tFields, acts := [] })] } }
def tGated (d : Nat) : Act := let a := tAct d 0 4; { a with granted := false, f := a.f ++ [(17, 0x103)] }
def tTaken : Act := { tAct 0 0 4 with issued := 4, taken := 4 }
def tOut : Act := { tAct 1 0 1 with given := 1, outq := [tEl 0x11223344] }
def tIn : Act := { tAct 0 0 4 with issued := 2, inflight := [tEl 5, tEl 6] }

def tCourses (f : Machine.Unit → Machine.Unit) : State :=
  { tState with mem := memPut (memPut tState.mem 0x303000 (toLe 4 2)) 0x303010 (toLe 8 100 ++ toLe 4 1 ++ toLe 4 7 ++ toLe 4 80) }.onUnit 0
    fun u => f { tSet [(9, 0), (10, 1), (13, 0x123456789B)] u with c := { u.c with coursed := true } }
def tIn1 (k n : Nat) (u : Machine.Unit) : Machine.Unit :=
  { u with course := { u.course with active := true, taken := k, nent := n, slip := 3, slipmax := 5, cc := 9 } }
def tBusy (u : Machine.Unit) : Machine.Unit := { u with ae := { u.ae with queue := [tAeEntry true] } }
def tWaits (w : Wait) (u : Machine.Unit) : Machine.Unit := { u with wait := some w }
def tGens : State := tState.onUnit 0 fun u =>
  { tSet [(9, 0x40000000), (10, 15), (11, 16)] u with
    gns := [(0, { f := [(0, 0x400), (4, 0x3F800000), (8, 8), (2, 5)], freq := [] }),
            (1, { f := [(0, 0x3), (8, 7)], freq := [] }), (3, { f := [(0, 0xFFF), (8, 7)], freq := [] })] }
def tCols (col : Nat) (v : VWord) (aa ab ad : Act) : State := tColumn col v (tStreams [(2, aa), (3, ab), (1, ad)] tState)
def tHead (a : Act) : Elem := a.queue.headD (tEl 0)
def tKept (fmt v : Nat) : Act := { tAct 2 fmt 8 with issued := 1, queue := [tEl v] }
def tScaled (l : Nat) (a : Act) : Act :=
  { a with f := a.f ++ [(14, BitVec.ofNat 64 l)], queue := a.queue.map fun e => { e with scale := some 0x40000000 } }
def tLanes (n : Nat) : VWord := { tWord 0 0 with taken := n, lanes := List.replicate 64 (.f32 0x3F800000), lidx := List.replicate 64 1 }

def tRouter (w : Code) (q tok : Nat) : State := tState.onUnit 0 fun u =>
  { u with
    ve := { u.ve with
      run := some { tVeRun with words := [w, 0xC0000F80] }, cols := [(0, List.replicate q (tWord 0 0))]
      toks := [(7, BitVec.ofNat 16 tok)] } }
def tEntries (w : Code) (f : Ve → Ve) : State :=
  { tState with mem := memPut tState.mem 0x301000 (toLe 4 w.toNat) }.onUnit 0 fun u =>
    { tSet [(9, 0), (10, 15), (11, 16)] u with ve := f { u.ve with toks := [(7, 3), (9, 65535)] } }
def tAdd (tok : Nat) : TokAdd := { tok := tok, seq := 0, streams := [], given := some [] }
def tMeEntry : MeEntry := { off := 0, n := 1, nt := 0, ftz := false, det := false, gns := [], due := none, ord := 0 }
def tMeRun (ord : Nat) : MeRun :=
  { e := tMeEntry, words := [0x0C380003], levels := [], widx := 0, ctr := [0, 0, 0, 0, 0, 0], first := false, ahead := 0, issued := true
    atEnd := false, exited := false, ord := ord, kept := [], wrote := [] }
def tLatch (f : BitVec 3) : Latch :=
  { b := tableFrom 0 ((List.range 8).map fun i => BitVec.ofNat 16 (i * 7 + 3)), fmt := f, wscale := 0x3F800000, wcodes := [], full := true }
def tTile (int : Bool) : Tile :=
  { w := [(0, 0x40490FDB), (1, 0x80000000), (127, 0x7FFFFFFF), (128, 500), (16383, 77)], int := int, live := true, rs := [(0, 5)]
    cs := [(0, 0x7FFFFFFF)], satf := true, sumwrap := false }
def tMe (r : Option MeRun) (l : List (Nat × Act)) (f : Me → Me) : State := (tStreams l tState).onUnit 0 fun u =>
  { tSet [(9, 0), (10, 15), (11, 16)] u with
    me := f { u.me with run := r, st := { u.me.st with tiles := [(1, tTile true), (2, tTile false)] }, live := [(7, 3)] }
    ve := { u.ve with toks := [(7, 3), (9, 65535)] } }
theorem eq_ok {ε α : Type} {x : Except ε α} {v : α} : (x = .ok v) ↔ x.toOption = some v := by cases x <;> simp [Except.toOption]
theorem eq_error {ε α : Type} {x : Except ε α} {e : ε} : (x = .error e) ↔ (match x with | .error y => some y | .ok _ => none) = some e := by
  cases x <;> simp
/-- The state that a successful operation hands on. -/
def outOf {ε α : Type} : Except ε (α × State) → State
  | .ok p => p.2
  | .error _ => State.reset
theorem ok_pair {ε α : Type} {x : Except ε (α × State)} {a : α} (h : x.toOption.map (·.1) = some a) : x = .ok (a, outOf x) := by
  cases x <;> simp_all [Except.toOption, outOf]
  rw [← h]
/-- Unit 0 runs a course of two entries, of which the first, of an engine, is due at 13. -/
def tInCourse (eng : Nat) (s : State) : State :=
  { s with mem := memPut s.mem 0x303050 (toLe 4 13 ++ toLe 4 eng) }.onUnit 0 fun u => { u with
    course := { active := true, num := 0, cc := 9, slip := 3, slipmax := 5, nent := 2, entoff := 80, taken := 0, lastDue := [] } }
/-- The same with every entry taken. -/
def tTakenCourse (s : State) : State := (tInCourse 0 s).onUnit 0 fun u => { u with course := { u.course with taken := 2 } }
/-- Code section o of record 0 lies in a page that is not mapped. -/
def tNoCode (o : Nat) (s : State) : State := { s with mem := memPut s.mem (0x20000000000 + o) (toLe 8 0x40050000) }
def tProduct (f : BitVec 3) (r : MeRun) : State :=
  tMe (some r) [(3, tLoad 6 40000 ((List.range 256).map fun i => (i * 5 + 1) % 256))] fun m =>
    { m with st := { m.st with tiles := [(2, tTile true)], latches := [(0, tLatch f), (1, tLatch f)] } }
def tMma : MmaOps :=
  { tile := 2, aG := false, a := 3, latch := 1, sgnA := true, sgnB := false, acc := 1, scl := 0, scaled := false, dly := 0, fmt := 2 }
def tLo (bG : Bool) : LatchOps := { bG := bG, b := 3, latch := 1, fmt := 2, dly := 0 }
def tDrain (r : MeRun) (ad aq : Act) (t : Tile) : State :=
  tMe (some r) [(3, ad), (4, aq)] fun m => { m with st := { m.st with tiles := [(2, t)], drain := 0x1234567 } }
def tBlock (w : Code) (s : State) : State := { s with mem := memPut s.mem 0x302000 (toLe 4 w.toNat) }

def tCorbel (k : BitVec 3) (st : CState) : Corbel := { blankCorbel with kind := k, st := st }
def tBay (q : List LeaseReq) (f : Corbel → Corbel) : Bay :=
  { blankBay with
    vfs := [0], active := some 0, queue := q
    corbels := tableFrom 0 ((List.range 12).map fun n => f (tCorbel (BitVec.ofNat 3 (n / 2)) .off)) }
def tReq (p : BitVec 2) (age : Nat) : LeaseReq := { uid := 1, l := 0, kind := 1, prio := p, cur := p, ev := false, age := age, ord := 0 }
def tLease (n : Nat) (run : Bool) : Lease :=
  { blankLease with
    st := .awake, kind := 1, prio := 2, leasePrio := 2, ev := true, corbel := some 2
    cmds := (List.range n).map fun k => { blk := [], ord := k }, running := run, lastSt := 1, done := 3, result := 9 }
def tLeased (b : Bay) (L : Lease) (w : Option Wait) : State := { tState with bays := [(0, b)] }.onUnit 0 fun u =>
  { tSet [(9, 0xFFFFFFFFFFC00040), (10, 0xFFFFFFFFFFC00041)] u with m := { u.m with leases := [(2, L)] }, wait := w }
def tHeld (c : Corbel) : Corbel := { c with st := .awake, holder := some (1, 0) }
def tBlk (l : List (Nat × Nat × Nat)) : List Byte := (List.range 64).map fun i =>
  l.foldl (fun (acc : Byte) e => if e.1 ≤ i ∧ i < e.1 + e.2.1 then BitVec.ofNat 8 (e.2.2 / 256 ^ (i - e.1)) else acc) 0
def tAt (n : Nat) : Nat := 0xFFFFFFFFFFC00000 + n
def tKey : List Byte := (List.range 32).map fun i => BitVec.ofNat 8 (i * 7 + 1)
def tRun (k : BitVec 3) (m : CorbelMem) (cmd : CorbelCmd) : State :=
  let s := { tState with
    mem := memPut tMem 0x10000000000 ((List.range 64).map fun i => BitVec.ofNat 8 (i * i * 37 + i * 11 + 201))
    bays := [(0, { blankBay with
      vfs := [0], active := some 0, corbels := [(3, { blankCorbel with kind := k, st := .awake, holder := some (0, 2), mem := m })] })] }.onUnit 0
    fun u => { u with m := { u.m with leases := [(2, { blankLease with st := .awake, kind := k, corbel := some 3, cmds := [cmd] })] } }
  s.setVf 0 { s.vf 0 with slots := [(3, tKey)] }
def tCmd (l : List (Nat × Nat × Nat)) : CorbelCmd := { blk := tBlk l, ord := 5 }
def tMsg (e : Option Bool) (areas : List (Word × Nat)) : SealMsg :=
  { iv := tKey.take 12, aadLen := 5, hash := 0x123456789ABCDEF, len := 16, decs := areas.length, areas := areas, enc := e, last := false }
def tXp : List Byte := tBlk [(8, 1, 0), (9, 1, 2), (10, 1, 1), (11, 1, 1), (12, 2, 3), (14, 2, 4), (16, 4, 32), (20, 4, 64)]
def tRl : List (Nat × Nat × Nat) :=
  [(8, 8, tAt 2048), (16, 4, 4), (20, 4, 4096), (24, 1, 0), (25, 1, 2), (26, 1, 0), (27, 1, 1), (28, 2, 2), (30, 2, 4), (32, 1, 1)]
def tPages (s : State) : State :=
  { s with mem := memPut s.mem 0x10000000800 (toLe 8 (tAt 0x8000) ++ toLe 8 (tAt 0x9000) ++ toLe 8 (tAt 0xA000) ++ toLe 8 (tAt 0xB000)) }
def tBarrier : Barrier := { blankBarrier with exp := 3, gen := 5 }
def tRemoteOut : Machine.Remote :=
  { tag := 1, kind := .write, cap := none, off := 0, pkg := 1, dst := none, waits := false, agent := .sq, far := none, copyCh := none, strm := none
    cycles := 0, resend := none, held := false
    pkt := { size := 0, aop := 0, hop := 0, srcPkg := 0, srcVf := 0, srcCh := 0, srcId := 0, dstPkg := 1, dstVf := 0, nhop := 1, route := 0
             rkey := 0, tag := 1, offset := 0, bmask := 0, data := [] } }
def tBars (b : Barrier) (arr : List (Nat × BitVec 16)) (rem : List Machine.Remote) (w : Option Wait) : State :=
  { tState with dies := [(0, { blankDie with barriers := [(7, b)] })] }.onUnit 0 fun u =>
    { tSet [(9, 1), (10, 65536), (11, 0)] u with m := { u.m with arrivals := arr, remotes := rem, handles := [(5, .full)] }, wait := w }
def tRec (st : RecSt) (l : Nat) : State :=
  { tState with recs := [(0, { blankRec with st := .active, runs := 3 }), (1, { blankRec with st := st, live := l })] }.onUnit 0
    (tSet [(9, 1), (10, 16), (11, 0xFFFFFFFFFFC00040), (12, 0xFFFFFFFFFFC00041)])

def tCopy (n : Nat) : Copy :=
  { uid := 0, tmpl := 1, arg := List.replicate 64 0, ftz := false, det := false, fxsel := 0, fxscale := 0, n := n }
/-- The pool record 1, well formed, of one unit. -/
def tGoodRec (st : RecSt) (l : Nat) : State :=
  let s := tRec st l
  { s with
    bays := [(0, { blankBay with vfs := [0], active := some 0 })]
    mem := [(0x20000000200, 8, 0x300000), (0x20000000208, 4, 0x100), (0x20000000230, 8, 0x300000), (0x20000000260, 8, 0x1000000),
      (0x20000000270, 2, 1), (0x20000000272, 1, 4), (0x20000000273, 1, 1), (0x20000000275, 1, 1), (0x20000000276, 2, 1),
      (0x20000000278, 2, 1)].foldl (fun m e => memPut m e.1 (toLe e.2.1 e.2.2)) s.mem }
def tPad (n : Nat) (b : List Byte) : List Byte := b ++ List.replicate (n - b.length) 0
/-- A template of six words, the first, the destination and the fifth given, that moves three INT32 elements. -/
def tTemplateOf (first dst fifth : Nat) : List Byte :=
  tPad 256 (toLe 4 first ++ toLe 4 0x12800006 ++ toLe 4 dst ++ toLe 4 0x3000000E ++ toLe 4 fifth ++ toLe 4 1 ++ tPad 16 (toLe 8 0x40) ++
    tPad 16 (toLe 8 0x80) ++ tPad 16 (toLe 4 3 ++ toLe 6 1 ++ toLe 6 2) ++ toLe 4 0x98000000 ++ (List.range 45).flatMap fun _ => toLe 4 1)
def tTemplate (extra : Nat) : List Byte := tTemplateOf extra 0x2280000A 1
def tPlanOf (t : List Byte) : CopyPlan := match planOf t (tCopy 0) with | .ok p => p | .error _ => barePlan [] false
def tPlan (x : Nat) : CopyPlan := tPlanOf (tTemplate x)
def tCopiesOf (t : List Byte) (f : Channel → Channel) : State :=
  { tState with dies := [(0, { blankDie with channels := [(3, f blankChannel)] })], mem := memPut tMem 0x304100 t }
def tCopies (x : Nat) (f : Channel → Channel) : State := tCopiesOf (tTemplate x) f
/-- A copy that reduces INT32 elements at the endpoint of package 5 is queued. -/
def tFarCopy : State :=
  (tCopiesOf (tTemplateOf 0x71400000 0x2A80000A 1) fun c => { c with queue := [tCopy 0] }).onUnit 0 fun u =>
    { u with m := { u.m with caps := [(0, tCap)] } }
def tCopyRunOf (t : List Byte) (pos cl : Nat) : CopyRun :=
  { startRun (tState.unit 0) (tCopy 0) (tPlanOf t) with pos := pos, claims := cl }
def tCopyRun (x pos cl : Nat) : CopyRun := tCopyRunOf (tTemplate x) pos cl
theorem pair_eq {α β : Type} {x : α × β} {a : α} (h : x.1 = a) : x = (a, x.2) := by rw [← h]
theorem triple_eq {α β γ : Type} {x : α × Option β × γ} {b : β} (h : x.2.1 = some b) : x = (x.1, some b, x.2.2) := by rw [← h]
/-- The state after a write that goes through. -/
def wroteTo : CopyWr → State
  | .ok s => s
  | _ => State.reset
def isWritten : CopyWr → Bool
  | .ok _ => true
  | _ => false
theorem written {x : CopyWr} (h : isWritten x = true) : x = .ok (wroteTo x) := by cases x <;> simp_all [isWritten, wroteTo]
def tHdr (qp op ver kind world : Nat) (r : Bool) : IsuneHdr :=
  { qp := BitVec.ofNat 16 qp, version := BitVec.ofNat 16 ver, opcode := BitVec.ofNat 16 op, tag := 7, length := 0, vf := 0
    world := BitVec.ofNat 8 world, kind := BitVec.ofNat 8 kind, reserved := r }
def tReady (s : State) : State := { s with firm := { s.firm with bring := 5 }, bays := [(0, { blankBay with vfs := [0, 1], active := some 0 })] }
def tRecords (st : RecSt) : State := tReady { tState with recs := [(0, { blankRec with st := .active }), (1, { blankRec with st := st })] }
def tEntry : ReadyEntry := ⟨1, some 0, 1, 3, 4⟩
def tGangEntry : ReadyEntry := ⟨1, none, 1, 3, 4⟩
def tPlace (e : List ReadyEntry) (gang : Bool) : State :=
  let s := { tRecords .ready with
    units := tState.units ++ [128, 129].map fun k =>
      (k, { tUnit with
        st := .ready, id := { tUnit.id with recNo := 1, idx := k - 128, core := none, gang := gang }, r := { tUnit.r with pc := 0x300040 } })
    vfs := [(0, { tVf with ready := e }), (1, { tVf with poolFirst := 16 })] }
  { s with
    mem := memPut (memPut (memPut s.mem 0x20000000300 (toLe 2 (if gang then 0x0302 else 0xFFFF))) 0x20000000230 (toLe 8 0x300010))
      0x20000000268 (toLe 8 0) }
/-- The value of a successful operation. -/
def gotOk {ε α : Type} (d : α) : Except ε α → α
  | .ok a => a
  | .error _ => d
theorem got_ok {ε α : Type} {x : Except ε α} (d : α) (h : x.toOption.isSome = true) : x = .ok (gotOk d x) := by
  cases x <;> simp_all [Except.toOption, gotOk]
def tRestore : State := (tState.setCore 0 { segs := (List.range 4).map fun k => (k, ⟨4, 0, k, some 0⟩), occupant := some 0, l1 := [] }).onUnit 0
  fun u => { u with restored := false, id := { u.id with suspendedAt := 5, segMap := [] } }
theorem tRestore_segments : (restoreAll tRestore tRestore.cur).toOption.isSome = true := by decide +kernel
theorem tRestore_context :
    (contextKept (gotOk tState (restoreAll tRestore tRestore.cur)) tRestore.cur).toOption.isSome = true := by decide +kernel
/-- Nothing is written where an address does not translate. -/
theorem saveBytes_unwritable {s : State} {uid : Nat} {va : Word} {bs : List Byte} (c : Cause)
    (h : translate s uid va .store = .error c) (e : wanting c = false) : saveBytes uid (s, true) va bs = (s, true) := by
  have w : ∀ f, engWriteAll uid .sq f s va bs = (s, none) ∨ engWriteAll uid .sq f s va bs = (s, some (some (c, va))) := by
    intro f
    cases f with
    | zero => exact .inl rfl
    | succ f =>
      by_cases b : bs.isEmpty
      · exact .inl (by simp [engWriteAll, b])
      · exact .inr (by simp [engWriteAll, b, engWrite, h])
  unfold saveBytes
  rcases w (granules va.toNat bs.length) with w | w
  · simp [w]
  · cases c <;> first | (simp [w]; done) | simp [wanting] at e
theorem saveOne (uid o : Nat) (b : List Byte) (va : Nat → Word) (s : State) :
    (let image := [(o, b)].map fun p => (va p.1, p.2)
     let q := image.foldl (fun q p => saveBytes uid q p.1 p.2) (s, true)
     (q.1.onUnit uid (fun u => { u with image := image }), q.2)).2 = (saveBytes uid (s, true) (va o) b).2 := rfl
theorem saveContext_unwritable {s : State} {uid : Nat} (c : Cause) (t : (s.unit uid).me.st.tiles = [])
    (h : translate s uid (contextAt s uid 0x442000) .store = .error c) (e : wanting c = false) : (saveContext s uid).2 = true := by
  have w : ∀ n b, (saveBytes uid ({ s with free := n }, true) (contextAt s uid 0x442000) b).2 = true := fun n b => by
    rw [saveBytes_unwritable c (show translate { s with free := n } uid _ .store = _ from h) e]
  have p : contextPieces s (s.unit uid) = [(0x442000, freeBytes s.free 0x3E000)] := by
    simp only [contextPieces, t, List.filter_nil, List.flatMap_nil, List.nil_append]
  unfold saveContext
  rw [p]
  exact (saveOne uid _ _ (contextAt s uid) _).trans (w _ _)
def tLeaving : State := (tPlace [] false).onUnit 0 fun u => { u with preempt := true, c := { u.c with heapl := 0 } }
def tEnds (f : Machine.Unit → Machine.Unit) (one : Bool) (st1 : UState) : State :=
  tReady { tState with
    units := [(0, f tUnit)] ++
      (if one then [] else [(1, { tUnit with st := st1, id := { tUnit.id with idx := 1, core := some 1 } })]) ++
      [(128, { tUnit with st := .running, id := { tUnit.id with idx := 0, recNo := 1, core := some 4 } })]
    recs := [(0, { blankRec with st := .active, live := 2 }), (1, { blankRec with st := .active, live := 2 })]
    jobs := [(0, { blankJob with recs := [0, 1], running := true })]
    mem := memPut tState.mem 0x20000000080 (toLe 8 0xFFFFFFFFFFFFFFFF) }
def tPub : List PubEntry := [{ gva := 0x40000000, bmask := 3, data := [(0, 1), (1, 9)] }]
def tFences (f : Machine.Unit → Machine.Unit) (st1 : UState) : State :=
  { tState with units := [(0, f tUnit), (1, { tUnit with st := st1, id := { tUnit.id with idx := 1, core := some 1 } })] }
def tOuts (pub : List PubEntry) (rem : List Machine.Remote) (u : Machine.Unit) : Machine.Unit := { u with m := { u.m with pub := pub, remotes := rem } }
/-- Entries of the publish region: of a read-only page; of page 0x4000, which a range leads to package 5. -/
def tBadPub : List PubEntry := [{ gva := 0x40030000, bmask := 3, data := [(0, 1), (1, 9)] }]
def tPodRange : RangeEntry :=
  { base := 0x200000, limit := 0x10000, offset := 0, world := 0, kind := 2, path := 1, pkg := 5, vfn := 0, key := 0x11 }
def tFar (s : State) : State :=
  { s with vfs := [(0, { tVf with ranges := tPodRange :: tVf.ranges })], pod := tRemote.pod }
/-- What a drain comes to: its state, cause and address. -/
def drained : DrainRes → State × Cause × Word
  | .ok s => (s, .translation, 0)
  | .fail s c a => (s, c, a)
  | .wait s => (s, .translation, 0)
def isDrained : DrainRes → Bool
  | .ok _ => true
  | _ => false
def isFailed : DrainRes → Bool
  | .fail _ _ _ => true
  | _ => false
theorem drain_ok {x : DrainRes} (h : isDrained x = true) : x = .ok (drained x).1 := by cases x <;> simp_all [isDrained, drained]
theorem drain_fails {x : DrainRes} (h : isFailed x = true) : x = .fail (drained x).1 (drained x).2.1 (drained x).2.2 := by
  cases x <;> simp_all [isFailed, drained]
def rdmaWrote : RdmaW → State
  | .ok s => s
  | .error s => s
  | .wait => State.reset
def isRdmaOk : RdmaW → Bool
  | .ok _ => true
  | _ => false
theorem rdma_ok {x : RdmaW} (h : isRdmaOk x = true) : x = .ok (rdmaWrote x) := by cases x <;> simp_all [isRdmaOk, rdmaWrote]
theorem some_pair {α β : Type} {x : Option (α × β)} (d : α × β) (h : x.isSome = true) : x = some ((x.getD d).1, (x.getD d).2) := by
  cases x <;> simp_all
def tVfs (v : Vf → Vf) (w : Option Wait) : State :=
  (tReady { tState with vfs := [(0, v tVf)] }).onUnit 0 fun u =>
    { tSet [(9, 0xFFFFFFFFFFC00010), (10, 0xFFFFFFFFFFC00008), (11, 0x40010008), (12, 0x40000000), (13, 0x8000000000000000), (14, 0x8000)] u with wait := w }
def tAsks (v : Vf) : Vf := { v with requests := (List.range 64).map fun i => (BitVec.ofNat 38 (0x5000 + i), [1]) }
def tMig (c : Nat) : Migration :=
  { vf := 0, page := 0x4000, leafKey := 0x120000, newIpa := 0x1, oldKey := 0x200000, newKey := 0x400000, newHost := false, newPath := 0
    cycles := c, held := [], hdr := tHdr 9 0x20 1 0 0 false }
def tMigrates (c : Nat) : State := let s := tVfs id none; { s with dies := [(0, { blankDie with migration := some (tMig c) })] }
def tPacket (size aop hop key tag off : Nat) (data : List Byte) : Packet :=
  { size := BitVec.ofNat 8 size, aop := BitVec.ofNat 8 aop, hop := BitVec.ofNat 8 hop, srcPkg := 1, srcVf := 0, srcCh := 0, srcId := 3
    dstPkg := 0, dstVf := 0, nhop := 1, route := 2, rkey := BitVec.ofNat 32 (key + 5 * 1024), tag := BitVec.ofNat 32 tag
    offset := BitVec.ofNat 56 off, bmask := 0, data := data }
def tKeyEntry (kind : Nat) (b : Word) (f : Bool) : KeyEntry :=
  { v := true, r := f, w := f, amo := f, handle := f, kind := BitVec.ofNat 8 kind, gen := 5, base := b, limit := 0x1000, recNo := 0, unit := 0 }
def tTarget (h : HState) (tg : List (Nat × Nat × Nat × List Nat)) : State :=
  { tState with
    vfs := [(0, { tVf with keys := [(1, tKeyEntry 1 64 true), (2, tKeyEntry 0 0x40000000 true), (3, tKeyEntry 0 0x40000000 false)] })]
    dies := [(0, { blankDie with redTags := tg })] }.onUnit 0 fun u => { u with m := { u.m with handles := [(9, h)] } }
def tKeyTr (s : State) (va : Word) (a : Acc) : Tr := match keyTranslate s 0 va a with | .ok t => t | .error _ => tTr tState 0x40000000 .load
def tWaiting (tag : Nat) (w : Bool) (cyc : Nat) : Machine.Remote :=
  { tRemoteOut with tag := tag, kind := .read, waits := w, cycles := cyc, dst := some 9, cap := some 4, pkt := tPacket 2 0 0 0 tag 8 [] }
def tReplies (rs : List Machine.Remote) (w : Option Wait) (allow : Nat) (tide : Nat) : State :=
  { tState with
    dies := [(0, blankDie)], tide := BitVec.ofNat 64 tide
    links := [(3, { blankLink with abuf := (List.range 70).map fun i => { kind := .read, p := tPacket 2 0 0 0 i 8 [] } })] }.onUnit 0 fun u =>
    { u with m := { u.m with remotes := rs, caps := [(4, { blankCap with v := true, pkg := 1, allow := allow })] }, wait := w }
def tHost (qe : Bool) : State := { tState with firm := { tState.firm with bring := 5 }, vfs := [(0, { tVf with qpError := qe })] }
def tFrameBytes (h : IsuneHdr) : List Byte :=
  toLe 2 h.version.toNat ++ toLe 2 h.opcode.toNat ++ toLe 4 h.tag.toNat ++ toLe 4 h.length.toNat ++ [h.vf, h.world, h.kind, if h.reserved then 1 else 0]
def tDesc (kind wf lf lane rsig dsig addr nt : Nat) : List Byte :=
  toLe 1 kind ++ toLe 1 wf ++ toLe 1 lf ++ toLe 1 0 ++ toLe 1 lane ++ toLe 1 0 ++ toLe 2 0 ++ toLe 2 0 ++ toLe 2 nt ++ toLe 2 rsig ++
    toLe 2 dsig ++ toLe 8 addr ++ toLe 4 16384 ++ toLe 4 0
def tProg : Program :=
  { words := [0x0C000005, 0x10000000, 0x7C000004, 0x8C000000, 0x9C000000]
    descs := [tDesc 0 0 0 0 0 0 0 2, tDesc 0 2 1 0 0 0 0 2, tDesc 0 2 2 0 0 0 0 2, tDesc 0 0 0 0 0x4003 0x4004 0 2] }
def tLinks (port tide : Nat) (f : Link → Link) : State :=
  { tState with
    pod := { tState.pod with joined := true, dims := [2, 2, 1, 1] }, port := port, tide := BitVec.ofNat 64 tide
    links := [(port, f { blankLink with
      running := true, sets := [(0, tProg), (1, tProg)], lanes := [(0, { blankLane with lit := true }), (2, { blankLane with lit := true })]
      period := 2, atSlot := some 5 })] }
/-- The source of descriptor 0 was ready when the slot began. -/
def tStarted : State := { tLinks 1 98364 (fun l => { l with startReady := [(l.set, 0)] }) with mem := [] }
def tFrame (typ : Nat) (h : Bool) : Frame :=
  { typ := BitVec.ofNat 8 typ, wfmt := 0, srcPkg := 1, slot := 5, set := 0, rpl := false, period := 2, desc := 0, tile := 0, markId := 0
    payload := List.replicate 4096 7, scales := List.replicate 32 0x3F800000, hcrcGood := h, flitsGood := true, crcGood := true, aborted := false }
def tGot (f : Frame) (l : Link) : Link := { l with arrived := [(0, f)] }

def tTile1 (desc period : Nat) : LinkTile := { lane := 0, period := period, slot := 5, set := 0, desc := desc, tile := 1, use := 0 }
def tPlanAt (tsw : Nat) : Plan := { ports := [], routes := [], tsw := BitVec.ofNat 64 tsw, marked := false }
def tSlot (port n : Nat) (f : Link → Link) : State := tLinks port (98304 + 12 * n) f
def tPod (f : Pod → Pod) (s : State) : State := { s with pod := f s.pod }
def tFaulted (c : Nat) (f : Machine.Unit → Machine.Unit) (j : Job → Job) : State :=
  let s := tState.onUnit 0 fun u => f { u with st := .faulted, c := { u.c with frame := [(0, BitVec.ofNat 64 c), (1, 0x300044)] } }
  { s with firm := { s.firm with frames := [0, 1] }, jobs := [(0, j { blankJob with recs := [0], running := true })] }
def tConf : KeystConf := { slotA := 0x40000000, slotB := 0x40008000, segmask := 0, tiles := false }
def tKeyst (f : Machine.Unit → Machine.Unit) (j : Job → Job) (k : Option KeystConf) : State :=
  { tState with
    mem := memPut tMem 0x20000000074 [1], recs := [(0, { blankRec with st := .active, keyst := k })]
    jobs := [(0, j { blankJob with recs := [0], running := true })], units := tState.units.take 1 }.onUnit 0 fun u =>
    f { u with c := { u.c with coursed := true } }
def tWrote : State :=
  { tKeyst (fun u => { u with m := { u.m with kcount := 1 } }) (fun j => j) (some tConf) with saved := [⟨0, 1, 0x40000000, tUnit, []⟩] }
def tRolled (p now : Nat) (r : Bool) : State :=
  { tWrote with
    headers := [{ recNo := 0, k := 1, id := 3, tide := 0, counters := [], gens := [], recs := [], complete := true }]
    tide := BitVec.ofNat 64 (now * 49152 + 5)
    jobs := [(0, { blankJob with recs := [0], running := true, kComplete := 1, failedAt := if p = 0 then none else some p, restored := r })] }
def tTen (st : VfSt) : State :=
  { tState with
    firm := { tState.firm with bring := 5 }
    vfs := [(0, tVf), (1, { tVf with st := st, qps := [30], poolFirst := 16, slacks := 196608, destroyHdr := some (tHdr 3 0x20 1 0 1 false) }),
            (2, { tVf with poolFirst := 32, qps := [40], world := true })]
    bays := [(0, { blankBay with vfs := [0], active := some 0 }), (1, { blankBay with vfs := [2], active := some 2 })]
    dies := [(0, { blankDie with barriers := [(7, { blankBarrier with vf := some 0 })] })], regionVf := [(0, 0), (1, 1)] }
def tVfHdr (qp vf : Nat) : IsuneHdr := { tHdr qp 0x20 1 0 (if qp ≤ 8 then 1 else 0) false with vf := BitVec.ofNat 8 vf }
def tSpec : VfSpec :=
  { world := false, qps := [50], scoQps := [3], pubKey := [1], poolFirst := 48, poolCount := 16, root := 0x100000, keys := [], vf := 1 }
def tPart : PartitionSpec := { bays := [0], world := false, corbels := [], quantum := 5, barriers := [], channels := [(0, 3)] }
def tRange (b l : Nat) : RangeEntry :=
  { base := BitVec.ofNat 48 b, limit := BitVec.ofNat 48 l, offset := 0, world := 0, kind := 0, path := 0, pkg := 0, vfn := 0, key := 0 }
def tLast : State := { tState with tide := 48384, units := tState.units.take 1 }.onUnit 0 fun u =>
  { u with m := { u.m with remotes := [{ tRemoteOut with cap := some 4, pkg := 3 }], caps := [(4, { blankCap with v := true, pkg := 3, vfn := 7, allow := 2 })] } }
def tPol (g : Nat) : PolicyEntry := { cls := 1, kind := 0, gran := BitVec.ofNat 8 g, k := 4, minper := 0 }
def tSess (w : Bool) (es : List PolicyEntry) (st : VfSt) (ses : Option Session) : State :=
  { tState with
    firm := { tState.firm with bring := 5 }
    vfs := [(0, { tVf with
      st := st, world := w, policy := some { fdl := 0, serial := 0, entries := es, blob := [] }, session := ses
      trace := [{ vf := 0, uid := 0, bytes := (List.range 20).map fun i => BitVec.ofNat 8 (if i < 2 then 1 else i) }] })] }.onUnit 0 fun u =>
    { u with ctr := { u.ctr with val := [(2, 1000), (17, 77)], event := [(17, 0x0105)] } }
def tSp : SessionSpec := { events := [0x0102], qentry := false, banksnap := false, ringVa := 0x40000000, ringSize := 0x10000 }
def tBlob (p : SessionSpec) : SessionBlob := { spec := p, fixed := [(0, 0, [5, 6, 7])], selected := [] }
def tFirm (br top : Nat) (st : VfSt) : State :=
  { tState with firm := { tState.firm with bring := br, topLeaf := top, bootLeaf := 0 }, vfs := [(0, { tVf with st := st })] }
def tCmds : State :=
  { tState with
    firm := { tState.firm with bring := 5 }, pod := { tState.pod with joined := true, dims := [2, 2, 1, 1], tree := [7] }
    links := [(1, blankLink)], mem := memPut tMem 0x20000000070 [0, 0, 4, 1, 1] }
def tChord (p : Nat) (good : Bool) : ChordSpec :=
  { port := p, plane := 1, index := 1, radix := 8, peers := []
    lanes := (List.range 8).map fun i => { tx := BitVec.ofNat 6 (8 * i + if good then 0 else 1), rx := BitVec.ofNat 6 (8 * i) } }
def tLinkProg : LinkProg :=
  { port := 1, words := [0x0C000005, 0x11000000, 0x7C000004, 0x8C000000, 0x9C000000], descs := [tDesc 0 0 0 0 0 0 0 1] }

def tBlock3 (w : Code) : State := { tState with mem := memPut tMem 0x300000 (toLe 4 w.toNat) }

def tPolicy (serial : Nat) : List Byte := tPad 32 ([0x44, 0x50, 0x4F, 1] ++ toLe 2 1 ++ [0, 0] ++ toLe 8 serial)

/-- The signed policy: the policy, then an HSS signature of one level by LM-OTS type 4 and LMS type 5, leaf 3. -/
def tSigned : List Byte :=
  tPolicy 7 ++ (beBytes 4 0 ++ (beBytes 4 3 ++ beBytes 4 4 ++ List.replicate 1120 5 ++ beBytes 4 5 ++ List.replicate 160 9))
def tSigId : List Byte := List.replicate 16 7
/-- The root that the signature leads to. -/
def tRoot : List Byte :=
  match otsCandidate 4 tSigId 3 (beBytes 4 4 ++ List.replicate 1120 5) (tPolicy 7) with
  | some kc => lmsRoot tSigId 35 (sha256 (tSigId ++ beBytes 4 35 ++ [0x82, 0x82] ++ kc)) (List.replicate 5 (List.replicate 32 9))
  | none => []
/-- The public key with that root. -/
def tPubKey : List Byte := (beBytes 4 1 ++ beBytes 4 5 ++ beBytes 4 4 ++ tSigId) ++ tRoot
def tFirmKey (p : Option Policy) : State :=
  { tFirm 5 5 .active with vfs := [(0, { tVf with st := .active, pubKey := tPubKey, policy := p })] }

theorem shaRound_length (h : List (BitVec 32)) (k : BitVec 32) (e : h.length = 8) : (shaRound h k).length = 8 := by
  match h, e with
  | [_, _, _, _, _, _, _, _], _ => rfl
theorem shaRounds_length (l : List (BitVec 32 × BitVec 32)) (h : List (BitVec 32)) (e : h.length = 8) :
    (l.foldl (fun h kw => shaRound h (kw.1 + kw.2)) h).length = 8 := by
  induction l generalizing h with
  | nil => exact e
  | cons a l ih => exact ih _ (shaRound_length _ _ e)
theorem shaBlocks_length (n : Nat) (h : List (BitVec 32)) (b : List Byte) (e : h.length = 8) : (shaBlocks n h b).length = 8 := by
  induction n generalizing h b with
  | zero => exact e
  | succ n ih => exact ih _ _ (by simp [shaBlock, e, shaRounds_length])
theorem sha256_length (m : List Byte) : (sha256 m).length = 32 := by
  have e : ∀ l : List (BitVec 32), (l.flatMap fun w => (toLe 4 w.toNat).reverse).length = 4 * l.length := by
    intro l
    induction l with
    | nil => rfl
    | cons a l ih => rw [List.flatMap_cons, List.length_append, ih]; simp [toLe]; omega
  unfold sha256
  rw [e, shaBlocks_length _ _ _ rfl]
theorem lmsRoot_length (id : List Byte) (n : Nat) (x : List Byte) (ys : List (List Byte)) (e : x.length = 32) :
    (lmsRoot id n x ys).length = 32 := by
  induction ys generalizing n x with
  | nil => exact e
  | cons y ys ih => exact ih _ _ (sha256_length _)
theorem slice_head {α : Type} (p r : List α) (o n : Nat) (e : o + n ≤ p.length) : slice (p ++ r) o n = slice p o n := by
  unfold slice
  rw [List.drop_append_of_le_length (by omega), List.take_append_of_le_length (by simp; omega)]
theorem tCandidate : ∃ kc, otsCandidate 4 tSigId 3 (beBytes 4 4 ++ List.replicate 1120 5) (tPolicy 7) = some kc := by
  have e : (beAt (beBytes 4 4 ++ List.replicate 1120 (5 : Byte)) 0 4 != 4 ||
      (beBytes 4 4 ++ List.replicate 1120 (5 : Byte)).length != 36 + 32 * 34) = false := by decide +kernel
  simp only [otsCandidate, otsParams, e]
  exact ⟨_, rfl⟩
theorem tPolicy_signed : policySigned tPubKey tSigned = true := by
  obtain ⟨kc, hk⟩ := tCandidate
  obtain ⟨r, hr⟩ : ∃ r, r = tRoot := ⟨_, rfl⟩
  have hl : r.length = 32 := by rw [hr]; simp only [tRoot, hk]; exact lmsRoot_length _ _ _ _ (sha256_length _)
  have h1 : tSigned.drop (32 + 8 * policyCount tSigned) = beBytes 4 0 ++ (beBytes 4 3 ++ beBytes 4 4 ++ List.replicate 1120 5 ++ beBytes 4 5 ++ List.replicate 160 9) := by
    decide +kernel
  have h2 : tSigned.take (32 + 8 * policyCount tSigned) = tPolicy 7 := by decide +kernel
  have k0 : ∀ p : List Byte, p.length = 28 → slice (p ++ r) 4 56 = p.drop 4 ++ r := by
    intro p hp
    unfold slice
    rw [List.drop_append_of_le_length (by omega), List.take_of_length_le (by simp; omega)]
  have k1 : slice tPubKey 4 56 = (beBytes 4 5 ++ beBytes 4 4 ++ tSigId) ++ r := by
    unfold tPubKey; rw [← hr, k0 _ (by decide)]; rfl
  have k2 : beAt tPubKey 0 4 = 1 := by
    unfold tPubKey beAt; rw [slice_head _ _ _ _ (by decide)]; decide
  have k3 : tPubKey.length = 60 := by unfold tPubKey; rw [← hr, List.length_append, hl]; decide
  have q : ∀ o n, o + n ≤ 24 → slice ((beBytes 4 5 ++ beBytes 4 4 ++ tSigId) ++ r) o n = slice (beBytes 4 5 ++ beBytes 4 4 ++ tSigId) o n :=
    fun o n e => slice_head _ _ _ _ e
  have a1 : beAt ((beBytes 4 5 ++ beBytes 4 4 ++ tSigId) ++ r) 4 4 = 4 := by unfold beAt; rw [q _ _ (by decide)]; decide
  have a0 : beAt ((beBytes 4 5 ++ beBytes 4 4 ++ tSigId) ++ r) 0 4 = 5 := by unfold beAt; rw [q _ _ (by decide)]; decide
  have a2 : slice ((beBytes 4 5 ++ beBytes 4 4 ++ tSigId) ++ r) 8 16 = tSigId := by rw [q _ _ (by decide)]; decide
  have a3 : slice ((beBytes 4 5 ++ beBytes 4 4 ++ tSigId) ++ r) 24 32 = r := by
    unfold slice
    rw [List.drop_append_of_le_length (by decide), List.take_of_length_le (by simp [hl]; decide)]
    rfl
  have a4 : ((beBytes 4 5 ++ beBytes 4 4 ++ tSigId) ++ r).length = 56 := by rw [List.length_append, hl]; decide
  generalize hsig : beBytes 4 3 ++ beBytes 4 4 ++ List.replicate 1120 (5 : Byte) ++ beBytes 4 5 ++ List.replicate 160 9 = sg at *
  have g0 : beAt (beBytes 4 0 ++ sg) 0 4 = 0 := by rw [← hsig]; decide +kernel
  have g1 : (beBytes 4 0 ++ sg).drop 4 = sg := rfl
  have g2 : sg.length = 1292 := by rw [← hsig]; decide +kernel
  have g6 : beAt sg 1128 4 = 5 := by rw [← hsig]; decide +kernel
  have g3 : slice sg 4 1124 = beBytes 4 4 ++ List.replicate 1120 5 := by rw [← hsig]; decide +kernel
  have g4 : beAt sg 0 4 = 3 := by rw [← hsig]; decide +kernel
  have g5 : ((List.range 5).map fun i => slice sg (8 + 1124 + 32 * i) 32) = List.replicate 5 (List.replicate 32 9) := by
    rw [← hsig]; decide +kernel
  have ob : otsBytes 4 = 1124 := rfl
  have lh : lmsHeight 5 = some 5 := rfl
  have key : lmsVerify ((beBytes 4 5 ++ beBytes 4 4 ++ tSigId) ++ r) sg (tPolicy 7) = true := by
    simp only [lmsVerify, a0, a1, a2, a3, a4, ob, lh, bne_self_eq_false, Bool.false_or, g2, g3, g4, g5, g6, hk]
    rw [hr, tRoot, hk]
    simp
  unfold policySigned
  simp [-List.append_assoc, h1, h2, hssVerify, k1, k2, k3, g0, g1, key]

end Sys2Proof.Tests
end

