-- ==== Sys2Proof/Tests/Slice0.lean ====
section
/-! SUPPORT. Tests: words written out from the encodings of spec/ and what they decode to, an ill-formed term for each
check, single steps, and for each statement values that meet its hypotheses, clause by clause. -/

set_option linter.unusedVariables false

namespace Sys2Proof.Tests
open Sys2Proof Sys2Proof.Machine

set_option maxRecDepth 100000
set_option Elab.async false

/-! ### Words -/

/-- Every word of the list decodes to the instruction beside it. -/
def reads (k : CodeKind) (l : List (Nat × Instr)) : Bool :=
  l.all fun x => (decode k (BitVec.ofNat 32 x.1)).toOption == some x.2

/-- Every word of the list is reserved. -/
def refuses (k : CodeKind) (l : List Nat) : Bool := l.all fun x => (decode k (BitVec.ofNat 32 x)).toOption == none

/-- Operand fields of a VE word, in the order of its fields. -/
def vo (d a b : BitVec 4) (m : BitVec 3) (dly : BitVec 5) (sat negb f2 : Bool) : VeOps :=
  { d := d, a := a, b := b, m := m, dly := dly, sat := sat, negb := negb, f2 := f2 }

theorem test_decode_alu : reads .scalar [
    (0x00000000, .ill), (0x02314380, .add 6 10 7), (0x02314381, .sub 6 10 7), (0x02314382, .mul 6 10 7),
    (0x02314383, .mulhs 6 10 7), (0x02314384, .mulhu 6 10 7), (0x02314385, .divs 6 10 7), (0x02314386, .divu 6 10 7),
    (0x02314387, .rems 6 10 7), (0x02314388, .remu 6 10 7), (0x02314389, .and 6 10 7), (0x0231438A, .or 6 10 7),
    (0x0231438B, .xor 6 10 7), (0x0231438C, .andn 6 10 7), (0x0231438D, .shl 6 10 7), (0x0231438E, .shr 6 10 7),
    (0x0231438F, .sar 6 10 7), (0x02314390, .rol 6 10 7), (0x02314391, .mins 6 10 7), (0x02314392, .minu 6 10 7),
    (0x02314393, .maxs 6 10 7), (0x02314394, .maxu 6 10 7), (0x02314015, .clz 6 10), (0x02314016, .ctz 6 10),
    (0x02314017, .popc 6 10), (0x02314018, .bswap 6 10), (0x02314019, .sextb 6 10), (0x0231401A, .sexth 6 10),
    (0x0231401B, .sextw 6 10), (0x04396129, .addi 7 11 297), (0x062920DF, .andi 5 9 223), (0x08314104, .ori 6 10 260),
    (0x0A396129, .xori 7 11 297), (0x0C292021, .shli 5 9 33), (0x0E314022, .shri 6 10 34),
    (0x10396023, .sari 7 11 35), (0x122920DF, .muli 5 9 223), (0x14300173, .movi 6 371), (0x163E0129, .movk 7 3 297)] = true := by decide +kernel

theorem test_decode_predicate : reads .scalar [
    (0x19648C6E, .cmp 11 9 6 .ge 7), (0x1B650E90, .cmpi 11 10 7 .ltu 8), (0x1CF70000, .pand 7 11 8),
    (0x1CF70400, .por 7 11 8), (0x1CF70800, .pxor 7 11 8), (0x1CF70C00, .pandn 7 11 8), (0x1CF61000, .pmov 7 11),
    (0x1CF61400, .pnot 7 11), (0x1CE01800, .pset 7)] = true := by decide +kernel

theorem test_decode_branch : reads .scalar [
    (0x21700104, .br 11 true 260), (0x23700129, .call 11 true 297), (0x2400A000, .jr 5), (0x2400A001, .callr 5),
    (0x2403E002, .ret), (0x260000DF, .brstg 223), (0x29700129, .brcl 11 true 297), (0x2ABC0000, .pcl 5 true 6)] = true := by decide +kernel

theorem test_decode_memory : reads .scalar [
    (0x30293070, .ldu 5 9 2 112), (0x32314895, .lds 6 10 1 149), (0x343968BA, .st 7 11 1 186),
    (0x36293070, .ldm 5 9 2 112), (0x38315895, .stm 6 10 3 149)] = true := by decide +kernel

theorem test_decode_atomic : reads .scalar [
    (0x46590003, .amoLd .ar 11 8 .chip), (0x4601640C, .amoSt .ar 11 8 .tenant),
    (0x46590291, .amoSwap .ar 11 8 5 .bay), (0x4659029A, .amoCas .ar 11 8 5 .die),
    (0x465902A3, .amoAdd .ar 11 8 5 .chip), (0x465902AC, .amoAnd .ar 11 8 5 .tenant),
    (0x465902B5, .amoOr .ar 11 8 5 .pod), (0x465902BE, .amoXor .ar 11 8 5 .system),
    (0x465902C0, .amoMins .ar 11 8 5 .core), (0x465902C9, .amoMinu .ar 11 8 5 .bay),
    (0x465902D2, .amoMaxs .ar 11 8 5 .die), (0x465902DB, .amoMaxu .ar 11 8 5 .chip),
    (0x465902E4, .amoFadd .ar 11 8 5 .tenant)] = true := by decide +kernel

theorem test_decode_remote : reads .scalar [
    (0x48293070, .rld 5 9 2 112), (0x4A315895, .rst 6 10 3 149), (0x4C396005, .ramoLd 7 11 .pod),
    (0x4C00E58E, .ramoSt 7 11 .system), (0x4C396413, .ramoSwap 7 11 8 .chip), (0x4C39641C, .ramoCas 7 11 8 .tenant),
    (0x4C396425, .ramoAdd 7 11 8 .pod), (0x4C39642E, .ramoAnd 7 11 8 .system), (0x4C396430, .ramoOr 7 11 8 .core),
    (0x4C396439, .ramoXor 7 11 8 .bay), (0x4C396442, .ramoMins 7 11 8 .die), (0x4C39644B, .ramoMinu 7 11 8 .chip),
    (0x4C396454, .ramoMaxs 7 11 8 .tenant), (0x4C39645D, .ramoMaxu 7 11 8 .pod),
    (0x4C396466, .ramoFadd 7 11 8 .system)] = true := by decide +kernel

theorem test_decode_system : reads .scalar [
    (0x50000000, .nop), (0x50100006, .trap 6), (0x50200000, .eret), (0x50300000, .uiret), (0x50400000, .waiti),
    (0x50500000, .halt), (0x50600006, .fence .system), (0x50700055, .qfence 85), (0x50800000, .phase .core),
    (0x5091C000, .tide 7), (0x50A00007, .keyst 7), (0x50B00000, .uipoll), (0x50C00003, .cancel .phase),
    (0x52380104, .csrr 7 260), (0x5400AC05, .csrw 3077 5), (0x56314020, .csrs 6 32 10), (0x58396803, .csrc 7 2051 11)] = true := by decide +kernel

theorem test_decode_engine : reads .scalar [
    (0x60014009, .vrun 5 9), (0x60114106, .mrun 5 1 6), (0x60200005, .sopen 5), (0x60300005, .sclose 5),
    (0x60400005, .swait 5), (0x60514906, .crun 5 9 6), (0x60600005, .mtokw 5), (0x60700005, .vtokw 5),
    (0x62D11C00, .sset 6 17 7), (0x64F22000, .sget 7 18 8), (0x66A48000, .vkset 5 9), (0x68C71C00, .gnset 6 7 7),
    (0x68C92800, .gnsetFaddr 6 10), (0x6AE92000, .gnget 7 9 8), (0x6C292330, .gnpeek 5 9 6 3),
    (0x6FA41000, .ntset 1 5 4 4)] = true := by decide +kernel

theorem test_decode_resource : reads .scalar [
    (0x7000F980, .binit 7 408), (0x70800BA0, .barr 186), (0x71000DF0, .bwait 223), (0x71D81980, .btest 11 408),
    (0x72005800, .cwaitc 5 .job), (0x731C0800, .cread 7 .job), (0x74003140, .lrpatch 6 10), (0x74803800, .lrarm 7),
    (0x750A4800, .lrstat 5 9), (0x763D5600, .lease 7 10 5 1 true), (0x76A80000, .lrel 5), (0x77300050, .lstat 10 6),
    (0x77B80000, .lwait 7), (0x7802A000, .hwait 5 1), (0x78834000, .hset 6 2), (0x7903F200, .htest 9 7 3),
    (0x7A0C5000, .pgreq 6 10), (0x7A8E5800, .pgstat 7 11), (0x7B0A4800, .nqpop 5 9), (0x7C00E000, .mclr 7),
    (0x7C40E000, .mset 7), (0x7C850400, .mpop 5 1), (0x7CC50400, .mfirst 5 1), (0x7D00CB80, .mand 6 2 7),
    (0x7E0A0000, .cstart 5), (0x7E800000, .cend), (0x7F0E0000, .cwait 7)] = true := by decide +kernel

theorem test_decode_vectorAlu : reads .vector [
    (0x204B1F53, .vadd 1 (vo 9 6 3 7 10 true true false)), (0x20D3A15B, .vsub 1 (vo 10 7 4 1 11 true true false)),
    (0x215C2963, .vmul 1 (vo 11 8 5 1 12 true true false)), (0x21CB1F53, .vfma 1 (vo 9 6 3 7 10 true true false)),
    (0x2253A15B, .vmin 1 (vo 10 7 4 1 11 true true false)), (0x22DC2963, .vmax 1 (vo 11 8 5 1 12 true true false)),
    (0x234B0339, .vabs 1 (vo 9 6 0 3 7 true false false)), (0x23D38441, .vneg 1 (vo 10 7 0 4 8 true false false)),
    (0x245C2960, .vand 1 (vo 11 8 5 1 12 false false false)), (0x24CB1F50, .vor 1 (vo 9 6 3 7 10 false false false)),
    (0x2553A158, .vxor 1 (vo 10 7 4 1 11 false false false)),
    (0x25DC2960, .vshl 1 (vo 11 8 5 1 12 false false false)), (0x264B1F50, .vshr 1 (vo 9 6 3 7 10 false false false)),
    (0x26D3A158, .vsar 1 (vo 10 7 4 1 11 false false false)), (0x27CB1F51, .vsel 1 (vo 9 6 3 7 10 true false false)),
    (0x293A4368, .vcmp 1 .lt (vo 7 4 8 3 13 false false false)),
    (0x2C4B1F53, .vaddk 1 (vo 9 6 3 7 10 true true false)), (0x2CD3A15B, .vmulk 1 (vo 10 7 4 1 11 true true false)),
    (0x2D5C2963, .vfmak 1 (vo 11 8 5 1 12 true true false)), (0x2DCB1F53, .vmink 1 (vo 9 6 3 7 10 true true false)),
    (0x2E53A15B, .vmaxk 1 (vo 10 7 4 1 11 true true false)), (0x2ED8454B, .vfill 1 (vo 11 0 8 5 9 true true false))] = true := by decide +kernel

theorem test_decode_vectorSpecial : reads .vector [
    (0x403D8129, .vsfuExp (vo 7 11 0 1 5 true false false)), (0x40AC8619, .vsfuExp2 (vo 5 9 0 6 3 true false false)),
    (0x41350721, .vsfuLog (vo 6 10 0 7 4 true false false)), (0x41BD8129, .vsfuLog2 (vo 7 11 0 1 5 true false false)),
    (0x422C8619, .vsfuRcp (vo 5 9 0 6 3 true false false)), (0x42B50721, .vsfuRsqrt (vo 6 10 0 7 4 true false false)),
    (0x433D8129, .vsfuSqrt (vo 7 11 0 1 5 true false false)), (0x43AC8619, .vsfuTanh (vo 5 9 0 6 3 true false false)),
    (0x44350721, .vsfuSigm (vo 6 10 0 7 4 true false false)), (0x44BD8129, .vsfuSin (vo 7 11 0 1 5 true false false)),
    (0x452C8619, .vsfuCos (vo 5 9 0 6 3 true false false)), (0x45B50721, .vsfuErf (vo 6 10 0 7 4 true false false))] = true := by decide +kernel

theorem test_decode_vectorConvert : reads .vector [
    (0x602C9339, .vcvt (vo 5 9 2 3 7 true false false)), (0x60B50C41, .vqnt (vo 6 10 1 4 8 true false false)),
    (0x613D8129, .vdqnt (vo 7 11 0 1 5 true false false)), (0x61ACAB39, .vsrnd (vo 5 9 5 3 7 true false false))] = true := by decide +kernel

theorem test_decode_vectorReduce : reads .vector [
    (0x80350721, .vrsum (vo 6 10 0 7 4 true false false)), (0x80BD8129, .vrmax (vo 7 11 0 1 5 true false false)),
    (0x812C8619, .vrmin (vo 5 9 0 6 3 true false false)), (0x81B50721, .vramax (vo 6 10 0 7 4 true false false)),
    (0x823D8129, .vrssq (vo 7 11 0 1 5 true false false)), (0x82AC8619, .vargmx (vo 5 9 0 6 3 true false false)),
    (0x83350725, .vscan (vo 6 10 0 7 4 true false true))] = true := by decide +kernel

theorem test_decode_vectorMove : reads .vector [
    (0xA03D8129, .vmov (vo 7 11 0 1 5 true false false)), (0xA0A84E19, .viota (vo 5 0 9 6 3 true false false)),
    (0xA1353C41, .vgath (vo 6 10 7 4 8 true false false)), (0xA1BDC548, .vscat (vo 7 11 8 5 9 false false false)),
    (0xA22C8619, .vbcast (vo 5 9 0 6 3 true false false)), (0xA2B50721, .vrev (vo 6 10 0 7 4 true false false)),
    (0xA33DC549, .vilv (vo 7 11 8 5 9 true false false)), (0xA3ACB339, .vdilv (vo 5 9 6 3 7 true false false)),
    (0xA4350721, .vcomb (vo 6 10 0 7 4 true false false)), (0xA4B81929, .vgen (vo 7 0 3 1 5 true false false))] = true := by decide +kernel

theorem test_decode_vectorControl : reads .vector [
    (0xC0005D24, .shapeN 186 9), (0xC0806FA8, .shapeM 223 10), (0xC1386014, .nest 3 33 8 5), (0xC18002A4, .vtok 5 9),
    (0xC2000328, .vwtok 6 10), (0xC280001C, .vnop 7)] = true := by decide +kernel

theorem test_decode_matrix : reads .matrix [
    (0x000000A0, .mnop 5), (0x0C684D41, .mma ⟨2, false, 6, 1, false, false, 0, 9, true, 10, 1⟩),
    (0x115E0120, .mlatch ⟨true, 5, 1, 6, 9⟩), (0x1A8000C0, .mswap 1 1 6), (0x206A6080, .mgath 6 10 3 4),
    (0x2E000160, .mzero 3 11), (0x33374140, .mdrain 1 9 11 2 true 10), (0x3D4F0100, .mdrainrq 2 10 7 true 8),
    (0x47600100, .mrsum 3 11 8), (0x4B2000C0, .mcsum 1 9 6), (0x50D000E0, .mwscl 6 1 7), (0x580E0160, .mtok 7 11),
    (0x600A0120, .mwtok 5 9), (0x695D0100, .mxlatch ⟨true, 5, 1, 5, 8⟩)] = true := by decide +kernel

theorem test_decode_link : reads .link [
    (0x0C0000BA, .linkAt 186), (0x1B198129, .linkSend 11 408 297), (0x2B173104, .linkRecv 11 371 260),
    (0x3B00000A, .linkFwd 11 10), (0x4B198129, .linkRedw 11 408 297), (0x5B173104, .linkReds 11 371 260),
    (0x6B00014E, .linkMark 11 334), (0x7C000007, .linkKey 7), (0x8C000000, .linkSlack), (0x9C000000, .linkEnd),
    (0xAC000007, .linkSetdt 7), (0xB9000050, .linkTune 9 0 10)] = true := by decide +kernel

/-- R36 to R59: an operation code, a function code, a fixed zero or a value that a format reserves. -/
theorem test_reserved_scalar : refuses .scalar
    [0x1E000000, 0xFE000000, 0x0200001C, 0x02314395, 0x0C000040, 0x0E001FFF, 0x32001800, 0x46000207] = true := by
  decide +kernel
theorem test_reserved_vector : refuses .vector [0x00000000, 0x07000000, 0x1F800000] = true := by decide +kernel
theorem test_reserved_matrix : refuses .matrix [0x00000000, 0x01000000, 0x70000000] = true := by decide +kernel
theorem test_reserved_link : refuses .link [0xF0000000, 0x1C000000, 0x80000000] = true := by decide +kernel

/-! ### Well-formedness: a term for each check, which the check refuses, beside one it accepts -/

def tIll (bad good : List Instr) : Bool := bad.all (fun i => !i.wf) && good.all (·.wf)

/-- R44: a shift immediate above 63; a signed load of 8 bytes; a group of registers past G63. -/
theorem test_wf_scalar : tIll
    [.shli 1 2 64, .shri 1 2 100, .sari 1 2 0x1FFF, .lds 1 2 3 0, .ldm 63 2 1 0, .stm 61 2 3 0, .qfence 0,
     .csrr 1 0xFFF, .csrw 0x98 1, .csrs 1 0x13 2, .csrc 1 0x81 2]
    [.shli 1 2 63, .shri 1 2 63, .sari 1 2 0, .lds 1 2 2 0, .ldm 63 2 0 0, .stm 60 2 3 0, .qfence 1,
     .csrr 1 0x900, .csrw 0x97 1, .csrs 1 0x12 2, .csrc 1 0x80 2] = true := by decide +kernel

/-- R48, R50, R51, R52: field numbers that the owning chapters do not assign, a corbel kind above 5, M0 as a destination. -/
theorem test_wf_fields : tIll
    [.sset 1 20 2, .sget 1 31 2, .gnset 1 9 2, .gnget 1 10 2, .ntset 0 6 0 1, .ntset 0 0 6 1, .lease 1 2 6 0 false,
     .mclr 0, .mset 0, .mand 0 1 2]
    [.sset 1 19 2, .sget 1 19 2, .gnset 1 8 2, .gnget 1 9 2, .ntset 0 5 5 1, .lease 1 2 5 0 false, .mclr 1, .mset 7,
     .mand 1 0 2] = true := by decide +kernel

/-- R53, R54, R201: a VE word's fields that its operation does not use, and the all-zero word. -/
theorem test_wf_vector : tIll
    [.vadd 0 (vo 0 0 0 0 0 false false false), .vadd 0 (vo 1 2 3 0 0 false false true), .vsub 0 (vo 1 2 3 0 0 false false true),
     .vabs 0 (vo 1 2 3 0 0 false false false), .vand 0 (vo 1 2 3 0 0 true false false), .vsel 0 (vo 1 2 3 0 0 false true false),
     .vcmp 0 .lt (vo 0 2 3 0 0 false false false), .vcmp 0 .lt (vo 8 2 3 0 0 false false false),
     .vfill 0 (vo 1 2 3 0 0 false false false), .vsfuExp (vo 1 2 3 0 0 false false false), .vmov (vo 1 2 3 0 0 false false false),
     .vcvt (vo 1 2 3 0 0 false false false), .vqnt (vo 1 2 3 0 0 false false false), .vsrnd (vo 1 2 0 0 0 false false false),
     .vsrnd (vo 1 2 6 0 0 false false false), .vscan (vo 1 2 0 0 0 false true false), .viota (vo 1 2 0 0 0 false false false),
     .vgen (vo 1 0 8 0 0 false false false), .vgath (vo 1 2 3 0 0 false true false), .vscat (vo 1 2 3 0 0 true false false),
     .nest 6 1 0 0, .nest 0 0 0 0]
    [.vadd 0 (vo 1 2 3 0 0 true true false), .vabs 0 (vo 1 2 0 0 0 true false false), .vand 0 (vo 1 2 3 0 0 false false false),
     .vcmp 0 .lt (vo 7 2 3 0 0 false false false), .vcvt (vo 1 2 2 0 0 true false false), .vsrnd (vo 1 2 5 0 0 true false false),
     .vscan (vo 1 2 0 0 0 true false true), .viota (vo 1 0 3 0 0 true false false), .vgen (vo 1 0 7 0 0 true false false),
     .nest 5 1 0 0] = true := by decide +kernel

/-- R56, R57, R239: the reserved forms of the ME words. -/
theorem test_wf_matrix : tIll
    [.mnop 0, .mma { tMma with fmt := 7 }, .mma { tMma with acc := 3 }, .mma { tMma with acc := 0 },
     .mma { tMma with fmt := 0, acc := 0 }, .mma { tMma with aG := true, a := 9 }, .mma { tMma with scaled := true },
     .mma { tMma with scl := 1 }, .mlatch { tLo false with fmt := 7 }, .mxlatch { tLo true with b := 8 }, .mgath 1 2 7 0,
     .mdrain 0 1 12 0 false 0, .mdrain 0 1 0 3 false 0]
    [.mnop 1, .mma tMma, .mma { tMma with aG := true, a := 8 }, .mlatch (tLo false), .mxlatch { tLo true with b := 7 },
     .mgath 1 2 6 0, .mdrain 0 1 11 2 false 0] = true := by decide +kernel

/-- R59: twelve ports, and TUNE of the chord ports alone. -/
theorem test_wf_link : tIll
    [.linkSend 12 0 1, .linkRecv 15 0 1, .linkRedw 12 0 1, .linkReds 12 0 1, .linkMark 12 1, .linkFwd 12 0, .linkFwd 0 12,
     .linkTune 7 0 0, .linkTune 12 0 0]
    [.linkSend 11 0 1, .linkRecv 0 0 1, .linkMark 11 1, .linkFwd 11 11, .linkTune 8 0 0, .linkTune 11 7 63] = true := by
  decide +kernel

/-! ### Single steps -/

/-- What a next state shows of itself. -/
def tNext {α : Type} (f : State → α) (o : Host.Outcome State Fault Refusal) : Option α :=
  match o with
  | .next t => some (f t)
  | _ => none

/-- Gn, and the code of the first fault frame, after a word in a state. -/
def tG (n : Nat) (i : Instr) (s : State) : Option Nat := tNext (fun t => (gOf t (BitVec.ofNat 6 n)).toNat) (exec i s)

/-- R117 by hand, G2 being −16 and G1 5: a sum that wraps; a quotient toward zero; division by zero. -/
theorem test_add_wraps : tG 9 (.add 9 2 2) tState = some 0xFFFFFFFFFFFFFFE0 := by decide +kernel
theorem test_divs_toward_zero : tG 9 (.divs 9 2 1) tState = some 0xFFFFFFFFFFFFFFFD := by decide +kernel
theorem test_rems_sign : tG 9 (.rems 9 2 1) tState = some 0xFFFFFFFFFFFFFFFF := by decide +kernel
theorem test_divu_by_zero : tG 9 (.divu 9 1 0) tState = some 0xFFFFFFFFFFFFFFFF := by decide +kernel
theorem test_mulhs : tG 9 (.mulhs 9 4 4) tState = some 0x4000000000000000 := by decide +kernel
theorem test_bswap : tG 9 (.bswap 9 8) tState = some 0xEFCDAB8967452301 := by decide +kernel
/-- R117: a source that is also the destination. -/
theorem test_sub_self : tG 8 (.sub 8 8 8) tState = some 0 := by decide +kernel
/-- R101: a write to G0 is discarded. -/
theorem test_g0 : tG 0 (.add 0 1 1) tState = some 0 := by decide +kernel
/-- R119: MOVK replaces one halfword. -/
theorem test_movk : tG 8 (.movk 8 2 0xFFFF) tState = some 0x0123FFFF89ABCDEF := by decide +kernel
/-- R122: the branch offset counts words from the branch. -/
theorem test_br_back : tNext (fun t => t.u.r.pc.toNat) (exec (.br 0 false 0xFFFFF) tState) = some 0x2FFFFC := by decide +kernel
theorem test_call_links : tG 31 (.call 0 false 4) tState = some 0x300004 := by decide +kernel
/-- R5, R42: a store to the scratchpad: the offset counts doublewords, and the lowest byte of a number lies first. -/
theorem test_store_order : tNext (fun t => memNat t.mem 0x10000000010 2) (exec (.st 8 3 3 1) tState) = some 0xCDEF := by
  decide +kernel
/-- R110: a load leaves its register waiting for its data. -/
theorem test_load_waits : tNext (fun t => t.u.pend) (exec (.ldu 9 5 3 1) tState) = some [9] := by decide +kernel
/-- R36: the all-zero word and a reserved word of the SQ raise ILLEGAL. -/
theorem test_ill_stops : tNext (fun t => t.u.st) (exec .ill tState) = some .faulted := by decide +kernel
/-- R17, R446, R460, R490: only the management cores run after reset, and the fuse map disables nothing. -/
theorem test_reset : (State.reset.units.all fun e => e.2.sup) = true ∧ State.reset.firm.bring = 0 ∧ State.reset.fuse = BitVec.allOnes 128 ∧
    State.reset.smb.pcap = 2900 := by decide +kernel
/-- The step after a word is placed runs that word (DESIGN CHOICE, log 6): MOVI G5 = 0x12345. -/
theorem test_placed_word : tNext (fun t => (gOf t 5).toNat) (step (State.reset.withFetchWord 32 0x14292345)) = some 0x12345 := by
  decide +kernel

/-! ### Witnesses: values that meet the hypotheses of each clause of each statement -/

theorem witness_AluFunctions :
    (∃ (s : State) (a b : BitVec 6),
      CanIssue s [a, b]) ∧
    (∃ (s : State) (a : BitVec 6),
      CanIssue s [a]) := ⟨
    ⟨tState, 1, 1, by unfold CanIssue; decide +kernel⟩,
    ⟨tState, 1, by unfold CanIssue; decide +kernel⟩⟩

theorem witness_ImmediateOperations :
    (∃ (s : State) (a : BitVec 6),
      CanIssue s [a]) :=
    ⟨tState, 1, by unfold CanIssue; decide +kernel⟩

theorem witness_MoveImmediates :
    (∃ (s : State),
      CanIssue s []) ∧
    (∃ (s : State) (d : BitVec 6),
      CanIssue s [d]) := ⟨
    ⟨tState, by unfold CanIssue; decide +kernel⟩,
    ⟨tState, 1, by unfold CanIssue; decide +kernel⟩⟩

theorem witness_PredicateWords :
    (∃ (s : State) (a : BitVec 6) (b : BitVec 6),
      CanIssue s [a, b]) ∧
    (∃ (s : State) (a : BitVec 6),
      CanIssue s [a]) ∧
    (∃ (s : State),
      CanIssue s []) := ⟨
    ⟨tState, 1, 1, by unfold CanIssue; decide +kernel⟩,
    ⟨tState, 1, by unfold CanIssue; decide +kernel⟩,
    ⟨tState, by unfold CanIssue; decide +kernel⟩⟩

theorem witness_BranchesAndCalls :
    (∃ (s : State),
      CanIssue s []) ∧
    (∃ (s : State) (a : BitVec 6),
      CanIssue s [a]) ∧
    (∃ (s : State),
      CanIssue s [31]) := ⟨
    ⟨tState, by unfold CanIssue; decide +kernel⟩,
    ⟨tState, 1, by unfold CanIssue; decide +kernel⟩,
    ⟨tState, by unfold CanIssue; decide +kernel⟩⟩

theorem witness_CountedLoops :
    (∃ (s : State),
      CanIssue s []) ∧
    (∃ (s : State),
      let r := s.u.r
      CanIssue s [] ∧ r.clsCount = 0) ∧
    (∃ (s : State),
      let r := s.u.r
      CanIssue s [] ∧ r.clsCount ≠ 0) := ⟨
    ⟨tState, by unfold CanIssue; decide +kernel⟩,
    ⟨tState, by unfold CanIssue; decide +kernel⟩,
    ⟨tGov, by unfold CanIssue; decide +kernel⟩⟩

theorem witness_ControlRegisterReads :
    (∃ (s : State),
      CanIssue s [] ∧ s.u.sup = false) ∧
    (∃ (s : State) (k : _),
      CanIssue s [] ∧ s.u.sup = false ∧ k < 8) ∧
    (∃ (s : State) (k : _),
      CanIssue s [] ∧ s.u.sup = false ∧ k < 32) ∧
    (∃ (s : State) (k : _),
      CanIssue s [] ∧ s.u.sup = false ∧ k < 256) ∧
    (∃ (s : State) (k : _),
      CanIssue s [] ∧ s.u.sup = false ∧ k < 128) := ⟨
    ⟨tState, by unfold CanIssue; decide +kernel⟩,
    ⟨tState, 0, by unfold CanIssue; decide +kernel⟩,
    ⟨tState, 0, by unfold CanIssue; decide +kernel⟩,
    ⟨tState, 0, by unfold CanIssue; decide +kernel⟩,
    ⟨tState, 0, by unfold CanIssue; decide +kernel⟩⟩

theorem witness_ControlRegisterWrites :
    (∃ (s : State) (a : BitVec 6),
      CanIssue s [a]) ∧
    (∃ (s : State) (a : BitVec 6) (k : Nat),
      CanIssue s [a] ∧ k < 8) ∧
    (∃ (s : State) (a : BitVec 6) (k : Nat),
      CanIssue s [a] ∧ k < 32) ∧
    (∃ (s : State) (a : BitVec 6) (k : Nat),
      CanIssue s [a] ∧ k < 256) ∧
    (∃ (s : State) (a : BitVec 6) (n : BitVec 12),
      CanIssue s [a] ∧ s.u.sup = false ∧ (n = 0x10 ∨ n = 0x11 ∨ n = 0x12 ∨ n = 0x33 ∨ n = 0x51 ∨ n = 0xA0 ∨ n = 0xA1 ∨
        n = 0x900 ∨ (0xC00 ≤ n.toNat ∧ n.toNat ≤ 0xC7F))) ∧
    (∃ (s : State) (a : BitVec 6) (k : Nat) (rest : List Nat),
      CanIssue s [a] ∧ s.u.sup = true ∧ s.firm.frames = k :: rest ∧ k ≠ s.cur) ∧
    (∃ (s : State) (a : BitVec 6) (k : Nat) (rest : List Nat) (m : Nat),
      CanIssue s [a] ∧ s.u.sup = true ∧ s.firm.frames = k :: rest ∧ k ≠ s.cur ∧ m < 128) := ⟨
    ⟨tState, 1, by unfold CanIssue; decide +kernel⟩,
    ⟨tState, 1, 7, by unfold CanIssue; decide +kernel⟩,
    ⟨tState, 1, 31, by unfold CanIssue; decide +kernel⟩,
    ⟨tState, 1, 255, by unfold CanIssue; decide +kernel⟩,
    ⟨tState, 1, 0x10, by unfold CanIssue; decide +kernel⟩,
    ⟨tSup, 1, 1, [], by unfold CanIssue; decide +kernel⟩,
    ⟨tSup, 1, 1, [], 127, by unfold CanIssue; decide +kernel⟩⟩

theorem witness_LatchedReads :
    (∃ (s : State),
      CanIssue s []) :=
    ⟨tState, by unfold CanIssue; decide +kernel⟩

theorem witness_ReservedWordsTrap :
    (∃ (s : State),
      sqIdle s.u = false) ∧
    (∃ (s : State),
      live s.u = true) := ⟨
    ⟨tState, by decide +kernel⟩,
    ⟨tState, by decide +kernel⟩⟩

theorem witness_ControlWordsAndInterrupts :
    (∃ (s : State),
      CanIssue s []) ∧
    (∃ (s : State),
      CanIssue s [] ∧ s.u.sup = false) ∧
    (∃ (s : State) (k rest : _),
      CanIssue s [] ∧ s.u.sup = true ∧ s.firm.frames = k :: rest ∧ k ≠ s.cur ∧ (s.unit k).st = .faulted) ∧
    (∃ (s : State),
      CanIssue s [] ∧ s.u.c.inui = false) ∧
    (∃ (s : State),
      CanIssue s [] ∧ s.u.c.uipend &&& s.u.c.uimask ≠ 0) ∧
    (∃ (s : State),
      CanIssue s [] ∧ ¬ (s.u.c.uipend &&& s.u.c.uimask ≠ 0)) ∧
    (∃ (s : State),
      let u := s.u
      live u = true ∧ u.halted = false ∧ u.c.uipend &&& u.c.uimask ≠ 0 ∧ u.c.inui = false ∧ u.r.clsCount = 0 ∧
        u.c.uihandler ≠ 0 ∧ (u.c.coursed = false ∨ u.poll = true) ∧ (∀ w, u.wait = some w → interruptible w = true)) ∧
    (∃ (s : State),
      let u := s.u
      CanIssue s [] ∧ u.c.inui = true ∧ tget u.c.frame 0 0 &&& 0x2000 = 0) ∧
    (∃ (s : State),
      let u := s.u
      CanIssue s [] ∧ u.c.inui = true ∧ tget u.c.frame 0 0 &&& 0x2000 ≠ 0) ∧
    (∃ (s : State),
      let u := s.u
      issuing u = true ∧ u.wait = some Wait.waiti ∧ u.c.uipend &&& u.c.uimask ≠ 0) := ⟨
    ⟨tState, by unfold CanIssue; decide +kernel⟩,
    ⟨tState, by unfold CanIssue; decide +kernel⟩,
    ⟨tSup, 1, [], by unfold CanIssue; decide +kernel⟩,
    ⟨tState, by unfold CanIssue; decide +kernel⟩,
    ⟨tUi id, by unfold CanIssue; decide +kernel⟩,
    ⟨tState, by unfold CanIssue; decide +kernel⟩,
    ⟨tUi id, by decide +kernel⟩,
    ⟨tUi fun c => { c with inui := true }, by unfold CanIssue; decide +kernel⟩,
    ⟨tUi fun c => { c with inui := true, frame := [(0, 0x2000)] }, by unfold CanIssue; decide +kernel⟩,
    ⟨(tUi id).onUnit 0 fun u => { u with wait := some .waiti }, by decide +kernel⟩⟩

theorem witness_WindowAccesses :
    (∃ (s : State) (a : BitVec 6) (sz : BitVec 2) (imm : BitVec 11),
      let n := 2 ^ sz.toNat
      let va := gOf s a + BitVec.signExtend 64 imm * BitVec.ofNat 64 n
      let la := BitVec.toNat va - Config.win
      CanIssue s [a] ∧ s.u.dbg.watches = [] ∧ usable s.u ≤ 2 ^ 22 ∧ BitVec.toNat va % n = 0 ∧ Config.win ≤
      BitVec.toNat va ∧ la + n ≤ usable s.u ∧ spoiledAt s (scrKey s.u la) n = false) ∧
    (∃ (s : State) (a : BitVec 6) (n1 : BitVec 2) (imm : BitVec 11),
      let va := gOf s a + BitVec.signExtend 64 imm * 8
      let la := BitVec.toNat va - Config.win
      CanIssue s [a] ∧ s.u.dbg.watches = [] ∧ usable s.u ≤ 2 ^ 22 ∧ BitVec.toNat va % 8 = 0 ∧ Config.win ≤
      BitVec.toNat va ∧ la + 8 * (n1.toNat + 1) ≤ usable s.u ∧ s.spoiled = []) ∧
    (∃ (s : State) (t : BitVec 6) (a : BitVec 6) (sz : BitVec 2) (imm : BitVec 11),
      let n := 2 ^ sz.toNat
      let va := gOf s a + BitVec.signExtend 64 imm * BitVec.ofNat 64 n
      let la := BitVec.toNat va - Config.win
      s.u.dbg.watches = [] ∧ usable s.u ≤ 2 ^ 22 ∧ s.u.id.segs ≤ s.u.id.segMap.length ∧ s.u.id.segMap.Nodup ∧ CanIssue
      s [t, a] ∧ BitVec.toNat va % n = 0 ∧ Config.win ≤ BitVec.toNat va ∧ la + n ≤ usable s.u) ∧
    (∃ (s : State) (t : BitVec 6) (a : BitVec 6) (n1 : BitVec 2) (imm : BitVec 11),
      let va := gOf s a + BitVec.signExtend 64 imm * 8
      let la := BitVec.toNat va - Config.win
      s.u.dbg.watches = [] ∧ usable s.u ≤ 2 ^ 22 ∧ s.u.id.segs ≤ s.u.id.segMap.length ∧ s.u.id.segMap.Nodup ∧ CanIssue
      s (a :: List.map (fun (k : Nat) => t + BitVec.ofNat 6 k) (List.range (n1.toNat + 1))) ∧ BitVec.toNat va % 8 = 0
      ∧ Config.win ≤ BitVec.toNat va ∧ la + 8 * (n1.toNat + 1) ≤ usable s.u) := ⟨
    ⟨tState, 3, 3, 0, by unfold CanIssue; decide +kernel⟩,
    ⟨tState, 3, 1, 0, by unfold CanIssue; decide +kernel⟩,
    ⟨tState, 8, 3, 3, 0, by unfold CanIssue; decide +kernel⟩,
    ⟨tState, 8, 3, 1, 0, by unfold CanIssue; decide +kernel⟩⟩

theorem witness_AccessTrapsAndAtomics :
    (∃ (s : State) (t : BitVec 6) (a : BitVec 6) (sz : BitVec 2) (imm : BitVec 11),
      let n := 2 ^ sz.toNat
      let va := gOf s a + BitVec.signExtend 64 imm * BitVec.ofNat 64 n
      CanIssue s [t, a] ∧ CanIssue s [a] ∧ s.u.dbg.watches = [] ∧ inAperture va = false ∧ BitVec.toNat va % n ≠ 0) ∧
    (∃ (s : State) (t : BitVec 6) (a : BitVec 6) (sz : BitVec 2) (imm : BitVec 11),
      let n := 2 ^ sz.toNat
      let va := gOf s a + BitVec.signExtend 64 imm * BitVec.ofNat 64 n
      CanIssue s [t, a] ∧ CanIssue s [a] ∧ s.u.dbg.watches = [] ∧ inAperture va = true) ∧
    (∃ (s : State) (t : BitVec 6) (a : BitVec 6) (sz : BitVec 2) (imm : BitVec 11),
      let n := 2 ^ sz.toNat
      let va := gOf s a + BitVec.signExtend 64 imm * BitVec.ofNat 64 n
      CanIssue s [t, a] ∧ CanIssue s [a] ∧ s.u.dbg.watches = [] ∧ inAperture va = true ∧ (n ≠ 8 ∨ (BitVec.toNat va -
        Config.copyAp) % 64 ≠ 8)) ∧
    (∃ (s : State) (t : BitVec 6) (a : BitVec 6) (sz : BitVec 2) (imm : BitVec 11),
      let n := 2 ^ sz.toNat
      let va := gOf s a + BitVec.signExtend 64 imm * BitVec.ofNat 64 n
      CanIssue s [t, a] ∧ CanIssue s [a] ∧ s.u.dbg.watches = [] ∧ inAperture va = true ∧ (n ≠ 8 ∨ (BitVec.toNat va -
        Config.copyAp) % 64 ≠ 0)) ∧
    (∃ (s : State) (t a : BitVec 6) (sz : BitVec 2) (imm : BitVec 11),
      let n := 2 ^ sz.toNat
      let va := gOf s a + imm.signExtend 64 * BitVec.ofNat 64 n
      CanIssue s [t, a] ∧ CanIssue s [a] ∧ s.u.dbg.watches = [] ∧ va.toNat % n = 0 ∧ ¬ (va.toNat < 2 ^ 53 ∨ 2 ^ 64 - 2
        ^ 53 ≤ va.toNat)) ∧
    (∃ (s : State) (t a : BitVec 6) (sz : BitVec 2) (imm : BitVec 11),
      let n := 2 ^ sz.toNat
      let va := gOf s a + imm.signExtend 64 * BitVec.ofNat 64 n
      CanIssue s [t, a] ∧ CanIssue s [a] ∧ s.u.dbg.watches = [] ∧ va.toNat % n = 0 ∧ Config.win ≤ va.toNat ∧ usable
        s.u < va.toNat - Config.win + n) ∧
    (∃ (s : State) (o : Ord) (d : BitVec 6) (a : BitVec 6) (b : BitVec 6) (sc : Scope),
      let va := gOf s a
      CanIssue s [a, b, d] ∧ CanIssue s [a, b] ∧ CanIssue s [a, 0] ∧ s.u.dbg.watches = [] ∧ s.spoiled = [] ∧
        scopeDenied s.u.c sc = false ∧ (o = Ord.rel ∨ o = Ord.ar → s.u.m.pub = [] ∧ s.u.m.remotes = []) ∧ Config.win ≤
        BitVec.toNat va ∧ usable s.u ≤ 2 ^ 22 ∧ BitVec.toNat va % 8 = 0 ∧ BitVec.toNat va - Config.win + 8 ≤ usable s.u) ∧
    (∃ (s : State) (o : Ord) (d a b : BitVec 6) (sc : Scope),
      let va := gOf s a
      CanIssue s [a, b, d] ∧ CanIssue s [a, b] ∧ CanIssue s [a, 0] ∧ s.u.dbg.watches = [] ∧ s.spoiled = [] ∧
        scopeDenied s.u.c sc = false ∧ (o = .rel ∨ o = .ar → s.u.m.pub = [] ∧ s.u.m.remotes = []) ∧ Config.win ≤
        va.toNat ∧ usable s.u ≤ 2 ^ 22 ∧ va.toNat % 4 = 0 ∧ va.toNat - Config.win + 4 ≤ usable s.u ∧ s.u.c.det = false) ∧
    (∃ (s : State) (o : Ord) (d a b : BitVec 6) (sc : Scope),
      let va := gOf s a
      CanIssue s [a, b, d] ∧ CanIssue s [a, b] ∧ CanIssue s [a, 0] ∧ s.u.dbg.watches = [] ∧ s.spoiled = [] ∧
        scopeDenied s.u.c sc = false ∧ (o = .rel ∨ o = .ar → s.u.m.pub = [] ∧ s.u.m.remotes = []) ∧ Config.win ≤
        va.toNat ∧ usable s.u ≤ 2 ^ 22 ∧ va.toNat % 8 = 0 ∧ va.toNat - Config.win + 8 ≤ usable s.u ∧ s.u.c.det = true) ∧
    (∃ (s : State) (a b : BitVec 6) (sc : Scope),
      let va := gOf s a
      CanIssue s [a, b] ∧ s.u.dbg.watches = [] ∧ va.toNat % 8 = 0 ∧ Config.win ≤ va.toNat ∧ va.toNat - Config.win + 8
        ≤ usable s.u ∧ (sc = .pod ∧ s.u.c.scopepol.getLsbD 0 = false ∨ sc = .system ∧ (s.u.c.scopepol.getLsbD 0 =
        false ∨ s.u.c.scopepol.getLsbD 1 = false))) := ⟨
    ⟨tPtrs, 8, 12, 3, 0, by unfold CanIssue; decide +kernel⟩,
    ⟨tPtrs, 8, 14, 3, 1, by unfold CanIssue; decide +kernel⟩,
    ⟨tPtrs, 8, 14, 3, 0, by unfold CanIssue; decide +kernel⟩,
    ⟨tPtrs, 8, 14, 3, 1, by unfold CanIssue; decide +kernel⟩,
    ⟨tPtrs, 8, 4, 3, 0, by unfold CanIssue; decide +kernel⟩,
    ⟨tPtrs, 8, 10, 3, 1, by unfold CanIssue; decide +kernel⟩,
    ⟨tPtrs, .relaxed, 1, 3, 8, .core, by unfold CanIssue; decide +kernel⟩,
    ⟨tPtrs, .relaxed, 1, 3, 8, .core, by unfold CanIssue; decide +kernel⟩,
    ⟨tCsr (fun c => { c with det := true }) tPtrs, .relaxed, 1, 3, 8, .core, by unfold CanIssue; decide +kernel⟩,
    ⟨tCsr (fun c => { c with scopepol := 0 }) tPtrs, 3, 8, .pod, by unfold CanIssue; decide +kernel⟩⟩

theorem witness_GlobalAccesses :
    (∃ (s : State) (t : BitVec 6) (a : BitVec 6) (imm : BitVec 11) (tr : Tr),
      let va := gOf s a + BitVec.signExtend 64 imm * 8
      CanIssue s [t, a] ∧ s.u.dbg.watches = [] ∧ BitVec.toNat va % 8 = 0 ∧ BitVec.toNat va < Config.copyAp ∧ translate
      s s.cur va Acc.store = Except.ok tr ∧ tr.counted = false ∧ s.u.m.pub.length < pubCapacity s.u) ∧
    (∃ (s : State) (t : BitVec 6) (a : BitVec 6) (imm : BitVec 11) (tr : Tr),
      let va := gOf s a + BitVec.signExtend 64 imm * 8
      let gva := BitVec.ofNat 64 (BitVec.toNat va / 64 * 64)
      CanIssue s [t, a] ∧ s.u.dbg.watches = [] ∧ BitVec.toNat va % 8 = 0 ∧ BitVec.toNat va < Config.copyAp ∧ translate
      s s.cur va Acc.store = Except.ok tr ∧ tr.counted = false ∧ pubCapacity s.u = s.u.m.pub.length ∧ ∀ (e :
      PubEntry), e ∈ s.u.m.pub → e.gva ≠ gva) ∧
    (∃ (s : State) (a : BitVec 6) (imm : BitVec 11) (tr : Tr),
      let va := gOf s a + BitVec.signExtend 64 imm * 8
      CanIssue s [a] ∧ s.u.dbg.watches = [] ∧ BitVec.toNat va % 8 = 0 ∧ BitVec.toNat va < Config.copyAp ∧ translate s
      s.cur va Acc.load = Except.ok tr ∧ tr.res = false) := ⟨
    ⟨tState, 8, 5, 0, tTr tState (gOf tState (5 : BitVec 6) + (0 : BitVec 11).signExtend 64 * 8) .store,
      by unfold CanIssue; simp -zeta only [eq_ok]; decide +kernel⟩,
    ⟨tPtrs.onUnit 0 fun u => { u with id := { u.id with pubseg := 0 } }, 8, 5, 0,
      tTr (tPtrs.onUnit 0 fun u => { u with id := { u.id with pubseg := 0 } }) (gOf (tPtrs.onUnit 0 fun u => { u with id := { u.id with pubseg := 0 } }) (5 : BitVec 6) + (0 : BitVec 11).signExtend 64 * 8) .store,
      by unfold CanIssue; simp -zeta only [eq_ok]; decide +kernel⟩,
    ⟨tState, 6, 0, tTr tState (gOf tState (6 : BitVec 6) + (0 : BitVec 11).signExtend 64 * 8) .load,
      by unfold CanIssue; simp -zeta only [eq_ok]; decide +kernel⟩⟩

theorem witness_RemoteAccesses :
    (∃ (s : State) (t : BitVec 6) (a : BitVec 6) (b : BitVec 6) (sz : BitVec 2) (imm : BitVec 11),
      let p := gOf s a
      let ci := BitVec.toNat p / 2 ^ 56
      let cap := tget s.u.m.caps ci blankCap
      let n := 2 ^ sz.toNat
      let off := BitVec.setWidth 56 (p + BitVec.signExtend 64 imm * BitVec.ofNat 64 n)
      CanIssue s [a] ∧ CanIssue s [t, a] ∧ CanIssue s [a, b] ∧ CanIssue s [a, b, t] ∧ CanIssue s [a, 0] ∧ s.pod.plan =
        none ∧ MayHold s ∧ cap.v = true ∧ cap.allow ≠ 0 ∧ cap.pkg.toNat < podSize s ∧ off.toNat % n = 0 ∧ (routeFor s
        cap.pkg.toNat off).isSome = true ∧ cap.r = true) ∧
    (∃ (s : State) (t : BitVec 6) (a : BitVec 6) (b : BitVec 6) (sz : BitVec 2) (imm : BitVec 11),
      let p := gOf s a
      let ci := BitVec.toNat p / 2 ^ 56
      let cap := tget s.u.m.caps ci blankCap
      let n := 2 ^ sz.toNat
      let off := BitVec.setWidth 56 (p + BitVec.signExtend 64 imm * BitVec.ofNat 64 n)
      CanIssue s [a] ∧ CanIssue s [t, a] ∧ CanIssue s [a, b] ∧ CanIssue s [a, b, t] ∧ CanIssue s [a, 0] ∧ s.pod.plan =
        none ∧ MayHold s ∧ cap.v = true ∧ cap.allow ≠ 0 ∧ cap.pkg.toNat < podSize s ∧ off.toNat % n = 0 ∧ (routeFor s
        cap.pkg.toNat off).isSome = true ∧ cap.w = true) ∧
    (∃ (s : State) (t : BitVec 6) (a : BitVec 6) (b : BitVec 6) (sc : Scope),
      let p := gOf s a
      let ci := BitVec.toNat p / 2 ^ 56
      let cap := tget s.u.m.caps ci blankCap
      let off := BitVec.setWidth 56 p
      CanIssue s [a] ∧ CanIssue s [t, a] ∧ CanIssue s [a, b] ∧ CanIssue s [a, b, t] ∧ CanIssue s [a, 0] ∧ s.pod.plan =
        none ∧ MayHold s ∧ cap.v = true ∧ cap.allow ≠ 0 ∧ cap.pkg.toNat < podSize s ∧ cap.amo = true ∧ scopeDenied s.u.c
        (if sc = Scope.system then Scope.system else Scope.pod) = false ∧ off.toNat % 8 = 0 ∧ (routeFor s cap.pkg.toNat
        off).isSome = true) ∧
    (∃ (s : State) (t : BitVec 6) (a : BitVec 6) (b : BitVec 6) (sc : Scope),
      let p := gOf s a
      let ci := BitVec.toNat p / 2 ^ 56
      let cap := tget s.u.m.caps ci blankCap
      let off := BitVec.setWidth 56 p
      CanIssue s [a] ∧ CanIssue s [t, a] ∧ CanIssue s [a, b] ∧ CanIssue s [a, b, t] ∧ CanIssue s [a, 0] ∧ s.pod.plan =
        none ∧ MayHold s ∧ cap.v = true ∧ cap.allow ≠ 0 ∧ cap.pkg.toNat < podSize s ∧ cap.amo = true ∧ scopeDenied s.u.c
        (if sc = Scope.system then Scope.system else Scope.pod) = false ∧ off.toNat % 8 = 0 ∧ (routeFor s cap.pkg.toNat
        off).isSome = true ∧ s.u.c.det = true) ∧
    (∃ (s : State) (t : BitVec 6) (a : BitVec 6) (b : BitVec 6) (sc : Scope),
      let p := gOf s a
      let ci := BitVec.toNat p / 2 ^ 56
      let cap := tget s.u.m.caps ci blankCap
      let off := BitVec.setWidth 56 p
      CanIssue s [a] ∧ CanIssue s [t, a] ∧ CanIssue s [a, b] ∧ CanIssue s [a, b, t] ∧ CanIssue s [a, 0] ∧ s.pod.plan =
        none ∧ MayHold s ∧ cap.v = true ∧ cap.allow ≠ 0 ∧ cap.pkg.toNat < podSize s ∧ cap.amo = true ∧ scopeDenied s.u.c
        (if sc = Scope.system then Scope.system else Scope.pod) = false ∧ off.toNat % 4 = 0 ∧ (routeFor s cap.pkg.toNat
        off).isSome = true ∧ s.u.c.det = false) ∧
    (∃ (s : State) (t a : BitVec 6),
      let p := gOf s a
      let ci := p.toNat / 2 ^ 56
      let cap := tget s.u.m.caps ci blankCap
      CanIssue s [a] ∧ CanIssue s [t, a] ∧ cap.v = false) ∧
    (∃ (s : State) (t a : BitVec 6),
      let p := gOf s a
      let ci := p.toNat / 2 ^ 56
      let cap := tget s.u.m.caps ci blankCap
      CanIssue s [a] ∧ CanIssue s [t, a] ∧ cap.v = true ∧ cap.r = false) ∧
    (∃ (s : State) (t a : BitVec 6),
      let p := gOf s a
      let ci := p.toNat / 2 ^ 56
      let cap := tget s.u.m.caps ci blankCap
      CanIssue s [a] ∧ CanIssue s [t, a] ∧ cap.v = true ∧ cap.w = false) ∧
    (∃ (s : State) (t a : BitVec 6) (sz : BitVec 2) (imm : BitVec 11),
      let p := gOf s a
      let ci := p.toNat / 2 ^ 56
      let cap := tget s.u.m.caps ci blankCap
      let off : BitVec 56 := (p + imm.signExtend 64 * BitVec.ofNat 64 (2 ^ sz.toNat)).setWidth 56
      CanIssue s [a] ∧ CanIssue s [t, a] ∧ cap.v = true ∧ cap.r = true ∧ routeFor s cap.pkg.toNat off = none) := ⟨
    ⟨tRemote, 1, 9, 8, 3, 0, by unfold CanIssue MayHold; decide +kernel⟩,
    ⟨tRemote, 1, 9, 8, 3, 0, by unfold CanIssue MayHold; decide +kernel⟩,
    ⟨tRemote, 1, 9, 8, .pod, by unfold CanIssue MayHold; decide +kernel⟩,
    ⟨tCsr (fun c => { c with det := true }) tRemote, 1, 9, 8, .pod, by unfold CanIssue MayHold; decide +kernel⟩,
    ⟨tRemote, 1, 9, 8, .pod, by unfold CanIssue MayHold; decide +kernel⟩,
    ⟨tRemote, 1, 10, by unfold CanIssue; decide +kernel⟩,
    ⟨tRemote, 1, 11, by unfold CanIssue; decide +kernel⟩,
    ⟨tRemote, 1, 11, by unfold CanIssue; decide +kernel⟩,
    ⟨tRemote, 1, 12, 3, 0, by unfold CanIssue; decide +kernel⟩⟩

theorem witness_StreamRegistersAndDispatch :
    (∃ (s : State) (f : BitVec 5) (g : BitVec 6),
      CanIssue s [g] ∧ f.toNat < 18) ∧
    (∃ (s : State) (g : BitVec 6),
      CanIssue s [g]) ∧
    (∃ (s : State) (g : BitVec 6),
      CanIssue s [g] ∧ s.u.sup = false) ∧
    (∃ (s : State) (g : BitVec 6),
      CanIssue s [g] ∧ s.u.sup = true) ∧
    (∃ (s : State) (f : BitVec 5),
      CanIssue s [] ∧ f.toNat < 18) ∧
    (∃ (s : State),
      CanIssue s []) ∧
    (∃ (s : State) (n : BitVec 4),
      let st := streamOf s.u n.toNat
      let room := s.u.ae.queue.length < Config.queueCap
      CanIssue s [] ∧ openCause st.f = none ∧ room ∧ s.u.course.active = false) ∧
    (∃ (s : State) (n : BitVec 4),
      let st := streamOf s.u n.toNat
      let room := s.u.ae.queue.length < Config.queueCap
      let numbered := fun (close : Bool) => (aeEntry close n.toNat (unpoll s)).snd
      ∃ (due : Option Nat) (s' : State), CanIssue s [] ∧ openCause st.f = none ∧ room ∧ s.u.course.active = true ∧
        courseTake (numbered false) 0 = Except.ok (due, s')) ∧
    (∃ (s : State) (n : BitVec 4),
      let st := streamOf s.u n.toNat
      let room := s.u.ae.queue.length < Config.queueCap
      let numbered := fun (close : Bool) => (aeEntry close n.toNat (unpoll s)).snd
      CanIssue s [] ∧ openCause st.f = none ∧ room ∧ s.u.course.active = true ∧ courseTake (numbered false) 0 =
        Except.error (Cause.courseTable, 0)) ∧
    (∃ (s : State) (n : BitVec 4),
      let st := streamOf s.u n.toNat
      let room := s.u.ae.queue.length < Config.queueCap
      CanIssue s [] ∧ openCause st.f = none ∧ ¬room ∧ MayHold s) ∧
    (∃ (s : State),
      let room := s.u.ae.queue.length < Config.queueCap
      CanIssue s [] ∧ room ∧ s.u.course.active = false) ∧
    (∃ (s : State) (n : BitVec 4),
      let room := s.u.ae.queue.length < Config.queueCap
      let numbered := fun (close : Bool) => (aeEntry close n.toNat (unpoll s)).snd
      ∃ (due : Option Nat) (s' : State), CanIssue s [] ∧ room ∧ s.u.course.active = true ∧ courseTake (numbered true)
        0 = Except.ok (due, s')) ∧
    (∃ (s : State) (n : BitVec 4),
      let room := s.u.ae.queue.length < Config.queueCap
      let numbered := fun (close : Bool) => (aeEntry close n.toNat (unpoll s)).snd
      CanIssue s [] ∧ room ∧ s.u.course.active = true ∧ courseTake (numbered true) 0 = Except.error
        (Cause.courseTable, 0)) ∧
    (∃ (s : State),
      let room := s.u.ae.queue.length < Config.queueCap
      CanIssue s [] ∧ ¬room ∧ MayHold s) ∧
    (∃ (s : State) (n : BitVec 4),
      let st := streamOf s.u n.toNat
      ∃ (c : Cause), CanIssue s [] ∧ openCause st.f = some c) ∧
    (∃ (s : State) (n : BitVec 4),
      CanIssue s [] ∧ streamIdle s.u n.toNat = true) ∧
    (∃ (s : State) (n : BitVec 4),
      CanIssue s [] ∧ streamIdle s.u n.toNat = false ∧ MayHold s) ∧
    (∃ (s : State) (n : BitVec 4),
      issuing s.u = true ∧ s.u.wait = some (Wait.stream n.toNat) ∧ streamIdle s.u n.toNat = true) := ⟨
    ⟨tIdle, 1, 2, by unfold CanIssue; decide +kernel⟩,
    ⟨tIdle, 2, by unfold CanIssue; decide +kernel⟩,
    ⟨tIdle, 2, by unfold CanIssue; decide +kernel⟩,
    ⟨tIdle.onUnit 0 fun u => { u with sup := true }, 2, by unfold CanIssue; decide +kernel⟩,
    ⟨tIdle, 1, by unfold CanIssue; decide +kernel⟩,
    ⟨tIdle, by unfold CanIssue; decide +kernel⟩,
    ⟨tIdle, 2, by unfold CanIssue; decide +kernel⟩,
    ⟨tInCourse 0 tIdle, 2, some 13, _, by unfold CanIssue; decide +kernel, by decide +kernel, by decide +kernel, by decide +kernel, ok_pair (by decide +kernel)⟩,
    ⟨tTakenCourse tIdle, 2, by unfold CanIssue; decide +kernel, by decide +kernel, by decide +kernel, by decide +kernel, eq_error.2 (by decide +kernel)⟩,
    ⟨(tQueued (List.replicate 16 (tAeEntry false)) [(2, tTaken)]).onUnit 0 fun u => { u with ae := { u.ae with s := [(2, { f := tFields, acts := [tTaken] })] } }, 2, by unfold CanIssue MayHold; decide +kernel⟩,
    ⟨tIdle, by unfold CanIssue; decide +kernel⟩,
    ⟨tInCourse 0 tIdle, 2, some 13, _, by unfold CanIssue; decide +kernel, by decide +kernel, by decide +kernel, ok_pair (by decide +kernel)⟩,
    ⟨tTakenCourse tIdle, 2, by unfold CanIssue; decide +kernel, by decide +kernel, by decide +kernel, eq_error.2 (by decide +kernel)⟩,
    ⟨tQueued (List.replicate 16 (tAeEntry false)) [(2, tTaken)], by unfold CanIssue MayHold; decide +kernel⟩,
    ⟨tState.onUnit 0 fun u => { u with ae := { u.ae with s := [(2, { f := tset tFields 1 0x41, acts := [] })] } }, 2,
      .streamMisaligned, by unfold CanIssue; decide +kernel⟩,
    ⟨tIdle, 2, by unfold CanIssue; decide +kernel⟩,
    ⟨tQueued (List.replicate 16 (tAeEntry false)) [(2, tTaken)], 2, by unfold CanIssue MayHold; decide +kernel⟩,
    ⟨tIdle.onUnit 0 fun u => { u with wait := some (.stream 2) }, 2, by decide +kernel⟩⟩

theorem witness_Activations :
    (∃ (s : State) (n : BitVec 4) (e : AeEntry) (q : List AeEntry),
      let st := streamOf s.u n.toNat
      let due := e.due = none ∨ s.u.course.active = false ∨ ∃ (d : Nat), e.due = some d ∧ d ≤ s.u.course.cc.toNat
      issuing s.u = true ∧ s.u.stopMask.getLsbD 1 = false ∧ s.u.ae.queue = e :: q ∧ e.close = false ∧ e.stream =
        n.toNat ∧ due ∧ st.acts.length < 2) ∧
    (∃ (s : State) (n : BitVec 4) (a : Act) (pre : List Act) (post : List Act),
      let st := streamOf s.u n.toNat
      let here := st.acts = pre ++ a :: post ∧ ∀ (y : Act), y ∈ pre ++ post → y.id ≠ a.id
      let issuedAll := fun (y : Act) => y.half = false ∧ (if actDir y = 0 then y.issued else y.wrote) = y.total
      issuing s.u = true ∧ s.u.stopMask.getLsbD 1 = false ∧ here ∧ (∀ (y : Act), y ∈ pre → y.started = true ∧
        issuedAll y) ∧ a.started = false) ∧
    (∃ (s : State) (n : BitVec 4) (a : Act) (pre : List Act) (post : List Act),
      let st := streamOf s.u n.toNat
      let here := st.acts = pre ++ a :: post ∧ ∀ (y : Act), y ∈ pre ++ post → y.id ≠ a.id
      issuing s.u = true ∧ s.u.stopMask.getLsbD 1 = false ∧ here ∧ (∀ (y : Act), y ∈ pre → y.started = false ∨ gated
        y.f = false ∨ y.granted = true) ∧ a.started = true ∧ a.granted = false ∧ gated a.f = true ∧ handleOf s.u (gateOf
        a.f) = if actDir a = 0 then HState.full else HState.free) ∧
    (∃ (s : State) (n : BitVec 4) (a : Act) (pre : List Act) (post : List Act),
      let st := streamOf s.u n.toNat
      let here := st.acts = pre ++ a :: post ∧ ∀ (y : Act), y ∈ pre ++ post → y.id ≠ a.id
      let isOver := fun (y : Act) => if actDir y = 0 then y.started = true ∧ y.half = false ∧ y.issued = y.total ∧
        y.inflight = [] else y.performed = y.total
      issuing s.u = true ∧ s.u.stopMask.getLsbD 1 = false ∧ here ∧ (∀ (y : Act), y ∈ pre → ¬isOver y) ∧ isOver a ∧
        a.finished = false) ∧
    (∃ (s : State) (n : BitVec 4) (a : Act) (pre : List Act) (post : List Act),
      let st := streamOf s.u n.toNat
      let here := st.acts = pre ++ a :: post ∧ ∀ (y : Act), y ∈ pre ++ post → y.id ≠ a.id
      let isOver := fun (y : Act) => if actDir y = 0 then y.started = true ∧ y.half = false ∧ y.issued = y.total ∧
        y.inflight = [] else y.performed = y.total
      issuing s.u = true ∧ s.u.stopMask.getLsbD 1 = false ∧ here ∧ (∀ (y : Act), y ∈ pre → ¬isOver y) ∧ isOver a ∧
        a.finished = true ∧ a.queue = []) ∧
    (∃ (s : State) (n : BitVec 4) (e : AeEntry) (q : List AeEntry),
      let due := e.due = none ∨ s.u.course.active = false ∨ ∃ (d : Nat), e.due = some d ∧ d ≤ s.u.course.cc.toNat
      issuing s.u = true ∧ s.u.stopMask.getLsbD 1 = false ∧ s.u.ae.queue = e :: q ∧ e.close = true ∧ e.stream =
        n.toNat ∧ due) := ⟨
    ⟨tQueued [(tAeEntry false)] [], 2, tAeEntry false, [], by decide +kernel, by decide +kernel, by decide +kernel, by decide +kernel, by decide +kernel, Or.inl rfl, by decide +kernel⟩,
    ⟨tStreams [(2, ({ tAct 0 0 4 with started := false }))] tState, 2, { tAct 0 0 4 with started := false }, [], [],
      by decide +kernel⟩,
    ⟨tStreams [(2, (tGated 1))] tState, 2, tGated 1, [], [], by decide +kernel⟩,
    ⟨tStreams [(2, tTaken)] tState, 2, tTaken, [], [], by decide +kernel⟩,
    ⟨tStreams [(2, ({ tTaken with finished := true }))] tState, 2, { tTaken with finished := true }, [], [], by decide +kernel⟩,
    ⟨tQueued [(tAeEntry true)] [], 2, tAeEntry true, [], by decide +kernel, by decide +kernel, by decide +kernel, by decide +kernel, by decide +kernel, Or.inl rfl⟩⟩

theorem witness_MaskWords :
    (∃ (s : State),
      CanIssue s []) :=
    ⟨tState, by unfold CanIssue; decide +kernel⟩

theorem witness_Courses :
    (∃ (s : State) (s' : State) (a : BitVec 6) (tstart : Nat) (nent : Nat) (slipmax : Nat) (entoff : Nat),
      let x := gOf s a
      let start := (s.recOf s.u.id.recNo).tstart + tstart
      CanIssue s [a] ∧ s.u.c.coursed = true ∧ s.u.course.active = false ∧ BitVec.toNat x < 4096 ∧ courseRecord (unpoll
        s) (BitVec.toNat x) = Except.ok ((tstart, nent, slipmax, entoff), s') ∧ start ≤ BitVec.toNat s.tide ∧
        enginesIdle s.u = true) ∧
    (∃ (s : State) (s' : State) (a : BitVec 6) (tstart : Nat) (nent : Nat) (slipmax : Nat) (entoff : Nat),
      let x := gOf s a
      let start := (s.recOf s.u.id.recNo).tstart + tstart
      CanIssue s [a] ∧ s.u.c.coursed = true ∧ s.u.course.active = false ∧ BitVec.toNat x < 4096 ∧ courseRecord (unpoll
        s) (BitVec.toNat x) = Except.ok ((tstart, nent, slipmax, entoff), s') ∧ start ≤ BitVec.toNat s.tide ∧
        enginesIdle s.u = false) ∧
    (∃ (s : State) (s' : State) (a : BitVec 6) (tstart : Nat) (nent : Nat) (slipmax : Nat) (entoff : Nat),
      let x := gOf s a
      let start := (s.recOf s.u.id.recNo).tstart + tstart
      CanIssue s [a] ∧ s.u.c.coursed = true ∧ s.u.course.active = false ∧ BitVec.toNat x < 4096 ∧ courseRecord (unpoll
        s) (BitVec.toNat x) = Except.ok ((tstart, nent, slipmax, entoff), s') ∧ BitVec.toNat s.tide < start) ∧
    (∃ (s : State) (a : BitVec 6),
      CanIssue s [a] ∧ (s.u.c.coursed = false ∨ s.u.course.active = true)) ∧
    (∃ (s : State) (a : BitVec 6),
      let x := gOf s a
      CanIssue s [a] ∧ s.u.c.coursed = true ∧ s.u.course.active = false ∧ (4096 ≤ BitVec.toNat x ∨ courseRecord
        (unpoll s) (BitVec.toNat x) = Except.error (Cause.courseTable, 0))) ∧
    (∃ (s : State) (a : BitVec 6) (tstart : Nat) (nent : Nat) (slipmax : Nat) (entoff : Nat),
      let x := gOf s a
      let start := (s.recOf s.u.id.recNo).tstart + tstart
      let num := BitVec.ofNat 12 (BitVec.toNat x)
      issuing s.u = true ∧ s.u.wait = some (Wait.courseStart num start slipmax nent entoff) ∧ start ≤ BitVec.toNat
        s.tide ∧ enginesIdle s.u = true) ∧
    (∃ (s : State),
      CanIssue s [] ∧ s.u.course.active = false) ∧
    (∃ (s : State),
      CanIssue s [] ∧ s.u.course.active = true ∧ s.u.course.nent ≤ s.u.course.taken ∧ enginesIdle s.u = true) ∧
    (∃ (s : State),
      CanIssue s [] ∧ s.u.course.active = true ∧ s.u.course.nent ≤ s.u.course.taken ∧ enginesIdle s.u = false) ∧
    (∃ (s : State),
      CanIssue s [] ∧ s.u.course.active = true ∧ s.u.course.taken < s.u.course.nent) ∧
    (∃ (s : State),
      issuing s.u = true ∧ s.u.wait = some Wait.courseEnd ∧ enginesIdle s.u = true) ∧
    (∃ (s : State) (a : BitVec 6),
      CanIssue s [a] ∧ s.u.course.active = true) ∧
    (∃ (s : State) (a : BitVec 6),
      let x := gOf s a
      CanIssue s [a] ∧ s.u.course.active = false ∧ x.toNat ≤ s.tide.toNat) ∧
    (∃ (s : State) (a : BitVec 6),
      let x := gOf s a
      CanIssue s [a] ∧ s.u.course.active = false ∧ s.tide.toNat < x.toNat) ∧
    (∃ (s : State) (a : BitVec 6),
      let x := gOf s a
      issuing s.u = true ∧ s.u.wait = some (Wait.tideAt x) ∧ BitVec.toNat x ≤ BitVec.toNat s.tide) ∧
    (∃ (s : State),
      let c := s.u.course
      s.u.restored = true ∧ s.u.course.active = true ∧ s.u.st = UState.running ∧ (holdAgent s.u).isSome = true ∧
        c.slip.toNat < c.slipmax.toNat) ∧
    (∃ (s : State),
      let c := s.u.course
      let up : Course := { c with slip := if c.slip = BitVec.allOnes 32 then c.slip else c.slip + 1 }
      ∃ (a : Agent), s.u.restored = true ∧ s.u.course.active = true ∧ s.u.st = UState.running ∧ holdAgent s.u = some a
        ∧ c.slipmax.toNat < up.slip.toNat) ∧
    (∃ (s : State),
      let c := s.u.course
      s.u.restored = true ∧ s.u.course.active = true ∧ s.u.st = UState.held ∧ c.slipmax.toNat < c.slip.toNat) ∧
    (∃ (s : State),
      let c := s.u.course
      s.u.restored = true ∧ s.u.course.active = true ∧ s.u.st = UState.running ∧ holdAgent s.u = none ∧ c.cc =
        BitVec.allOnes 32) ∧
    (∃ (s : State),
      let c := s.u.course
      ∃ (n : BitVec 4), s.u.restored = true ∧ s.u.course.active = true ∧ CanIssue s [] ∧ streamIdle s.u n.toNat =
        false ∧ c.slip.toNat < c.slipmax.toNat) := ⟨
    ⟨tCourses id, outOf (courseRecord (unpoll (tCourses id)) 0), 9, 100, 1, 7, 80, by unfold CanIssue; decide +kernel, by decide +kernel, by decide +kernel, by decide +kernel, ok_pair (by decide +kernel), by decide +kernel, by decide +kernel⟩,
    ⟨tCourses tBusy, outOf (courseRecord (unpoll (tCourses tBusy)) 0), 9, 100, 1, 7, 80, by unfold CanIssue; decide +kernel, by decide +kernel, by decide +kernel, by decide +kernel, ok_pair (by decide +kernel), by decide +kernel, by decide +kernel⟩,
    ⟨{ tCourses id with tide := 50 }, outOf (courseRecord (unpoll ({ tCourses id with tide := 50 })) 0), 9, 100, 1, 7, 80, by unfold CanIssue; decide +kernel, by decide +kernel, by decide +kernel, by decide +kernel, ok_pair (by decide +kernel), by decide +kernel⟩,
    ⟨tCourses (tIn1 1 1), 9, by unfold CanIssue; decide +kernel⟩,
    ⟨tCourses id, 8, by unfold CanIssue; decide +kernel, by decide +kernel, by decide +kernel, Or.inl (by decide +kernel)⟩,
    ⟨tCourses (tWaits (.courseStart 0 100 7 1 80)), 9, 100, 1, 7, 80, by decide +kernel⟩,
    ⟨tCourses id, by unfold CanIssue; decide +kernel⟩,
    ⟨tCourses (tIn1 1 1), by unfold CanIssue; decide +kernel⟩,
    ⟨tCourses (tBusy ∘ tIn1 1 1), by unfold CanIssue; decide +kernel⟩,
    ⟨tCourses (tIn1 0 1), by unfold CanIssue; decide +kernel⟩,
    ⟨tCourses (tWaits .courseEnd ∘ tIn1 1 1), by decide +kernel⟩,
    ⟨tCourses (tIn1 1 1), 9, by unfold CanIssue; decide +kernel⟩,
    ⟨tCourses id, 9, by unfold CanIssue; decide +kernel⟩,
    ⟨tCourses id, 13, by unfold CanIssue; decide +kernel⟩,
    ⟨tCourses (tWaits (.tideAt 0)), 9, by decide +kernel⟩,
    ⟨tCourses (tWaits (.stream 5) ∘ tIn1 1 1), by decide +kernel⟩,
    ⟨tCourses fun u => { tWaits (.stream 5) (tIn1 1 1 u) with course := { (tIn1 1 1 u).course with slip := 5 } }, .sq, by decide +kernel⟩,
    ⟨tCourses fun u => { u with st := .held, course := { (tIn1 1 1 u).course with slip := 6 } }, by decide +kernel⟩,
    ⟨tCourses fun u => { u with course := { (tIn1 1 1 u).course with cc := BitVec.allOnes 32 } }, by decide +kernel⟩,
    ⟨tStreams [(2, tAct 0 0 4)] (tCourses (tIn1 1 1)), 2, by unfold CanIssue; decide +kernel⟩⟩

theorem witness_GeneratorWords :
    (∃ (s : State) (d : BitVec 6),
      CanIssue s [d]) ∧
    (∃ (s : State),
      CanIssue s []) ∧
    (∃ (s : State) (n : BitVec 3) (a b : BitVec 6),
      let r := genOf s.u n.toNat
      CanIssue s [a, b] ∧ genBad r = false) ∧
    (∃ (s : State) (n : BitVec 3) (a b : BitVec 6),
      let r := genOf s.u n.toNat
      CanIssue s [a, b] ∧ genBad r = true) ∧
    (∃ (s : State) (n : BitVec 3) (a : BitVec 6),
      let r := genOf s.u n.toNat
      let dim := (tget r.f 8 0).toNat
      CanIssue s [a] ∧ dimGood dim = false) ∧
    (∃ (s : State) (n : BitVec 3) (a : BitVec 6),
      let r := genOf s.u n.toNat
      let va := gOf s a
      let dim := BitVec.toNat (tget r.f 8 0)
      CanIssue s [a] ∧ dimGood dim = true ∧ BitVec.toNat va % 4 = 0 ∧ BitVec.toNat va + 4 * (dim / 2) ≤ 2 ^ 53 ∧ (∀ (k
        : Nat), k < dim / 2 → freqCause (unpoll s) (va + BitVec.ofNat 64 (4 * k)) = none ∧ freqBusy (unpoll s) (va +
        BitVec.ofNat 64 (4 * k)) = false) ∧ MayHold s) ∧
    (∃ (s : State) (n : BitVec 3) (a : BitVec 6),
      let r := genOf s.u n.toNat
      let va := gOf s a
      let dim := BitVec.toNat (tget r.f 8 0)
      CanIssue s [a] ∧ dimGood dim = true ∧ BitVec.toNat va % 4 = 0 ∧ Config.win ≤ BitVec.toNat va ∧ BitVec.toNat va -
        Config.win + 4 * (dim / 2) ≤ usable s.u ∧ usable s.u ≤ 2 ^ 22 ∧ s.spoiled = [] ∧ MayHold s) ∧
    (∃ (s : State) (n : BitVec 3),
      issuing s.u = true ∧ s.u.wait = some (Wait.freq n.toNat)) := ⟨
    ⟨tGens, 1, by unfold CanIssue; decide +kernel⟩,
    ⟨tGens, by unfold CanIssue; decide +kernel⟩,
    ⟨tGens, 0, 9, 10, by unfold CanIssue; decide +kernel⟩,
    ⟨tGens, 1, 9, 10, by unfold CanIssue; decide +kernel⟩,
    ⟨tGens, 1, 9, by unfold CanIssue; decide +kernel⟩,
    ⟨tGens, 0, 9, by unfold CanIssue MayHold; decide +kernel⟩,
    ⟨tGens, 0, 3, by unfold CanIssue MayHold; decide +kernel⟩,
    ⟨tGens.onUnit 0 (tWaits (.freq 0)), 0, by decide +kernel⟩⟩

theorem witness_VectorArithmetic :
    (∃ (s : State) (col : BitVec 1) (w : VeOps) (v : VWord) (rest : List VWord) (aa : Act) (ad : Act) (xa : Elem) (r
  : VeRun) (bit : Bool),
      let fa := streamFmt aa.f
      AtColumn s col.toNat v rest ∧ s.u.ve.run = some r ∧ maskBit s.u r v.seq w.m.toNat v.ord = some bit ∧ v.wt = 0 ∧
        Supplies s w.a aa xa ∧ isFloat fa = true ∧ Accepts s w.d ad) ∧
    (∃ (s : State) (col : BitVec 1) (w : VeOps) (v : VWord) (rest : List VWord) (aa ab ad : Act) (xa xb : Elem) (r : VeRun) (bit : Bool),
      let fa := streamFmt aa.f
      let fb := streamFmt ab.f
      AtColumn s col.toNat v rest ∧ s.u.ve.run = some r ∧ maskBit s.u r v.seq w.m.toNat v.ord = some bit ∧ v.wt = 0 ∧
        Supplies s w.a aa xa ∧ Supplies s w.b ab xb ∧ isFloat fa = true ∧ isFloat fb = true ∧ Accepts s w.d ad) ∧
    (∃ (s : State) (col : BitVec 1) (w : VeOps) (v : VWord) (rest : List VWord) (ad : Act) (r : VeRun) (bit : Bool),
      let fd := streamFmt ad.f
      AtColumn s col.toNat v rest ∧ s.u.ve.run = some r ∧ maskBit s.u r v.seq w.m.toNat v.ord = some bit ∧ v.wt = 0 ∧
        isFloat fd = true ∧ Accepts s w.d ad) ∧
    (∃ (s : State) (col : BitVec 1) (w : VeOps) (v : VWord) (rest : List VWord) (aa : Act) (ad : Act) (xa : Elem) (xd
  : Elem) (r : VeRun) (bit : Bool),
      let fa := streamFmt aa.f
      AtColumn s col.toNat v rest ∧ s.u.ve.run = some r ∧ maskBit s.u r v.seq w.m.toNat v.ord = some bit ∧ v.wt = 0 ∧
        Supplies s w.a aa xa ∧ isFloat fa = true ∧ Updates s w.d ad xd) ∧
    (∃ (s : State) (col : BitVec 1) (w : VeOps) (v : VWord) (rest : List VWord) (aa ab ad : Act) (xa xb xd : Elem) (r : VeRun) (bit : Bool),
      let fa := streamFmt aa.f
      let fb := streamFmt ab.f
      AtColumn s col.toNat v rest ∧ s.u.ve.run = some r ∧ maskBit s.u r v.seq w.m.toNat v.ord = some bit ∧ v.wt = 0 ∧
        Supplies s w.a aa xa ∧ Supplies s w.b ab xb ∧ isFloat fa = true ∧ isFloat fb = true ∧ Updates s w.d ad xd) := ⟨
    ⟨tCols 0 (tWord 0 0) (tLoad 0 8 [0x40400000, 3]) (tLoad 0 8 [0x3F800000]) (tAct 1 0 8), 0, tOps, tWord 0 0, [],
      (tLoad 0 8 [0x40400000, 3]), tAct 1 0 8, tHead (tLoad 0 8 [0x40400000, 3]), tVeRun, true,
      by unfold AtColumn Supplies Accepts; decide +kernel⟩,
    ⟨tCols 0 (tWord 0 0) (tLoad 0 8 [0x40400000, 3]) (tLoad 0 8 [0x3F800000]) (tAct 1 0 8), 0, tOps, tWord 0 0, [],
      tLoad 0 8 [0x40400000, 3], tLoad 0 8 [0x3F800000], tAct 1 0 8, tHead (tLoad 0 8 [0x40400000, 3]),
      tHead (tLoad 0 8 [0x3F800000]), tVeRun, true, by unfold AtColumn Supplies Accepts; decide +kernel⟩,
    ⟨tCols 0 (tWord 0 0) (tLoad 0 8 [0x40400000, 3]) (tLoad 0 8 [0x3F800000]) (tAct 1 0 8), 0, tOps, tWord 0 0, [],
      tAct 1 0 8, tVeRun, true, by unfold AtColumn Accepts; decide +kernel⟩,
    ⟨tCols 0 (tWord 0 0) (tLoad 0 8 [0x40400000, 3]) (tLoad 0 8 [0x3F800000]) (tKept 0 0x40000000), 0, tOps, tWord 0 0, [],
      (tLoad 0 8 [0x40400000, 3]), (tKept 0 0x40000000), tHead (tLoad 0 8 [0x40400000, 3]), tHead (tKept 0 0x40000000), tVeRun, true,
      by unfold AtColumn Supplies Updates; decide +kernel⟩,
    ⟨tCols 0 (tWord 0 0) (tLoad 0 8 [0x40400000, 3]) (tLoad 0 8 [0x3F800000]) (tKept 0 0x40000000), 0, tOps,
      tWord 0 0, [], tLoad 0 8 [0x40400000, 3], tLoad 0 8 [0x3F800000], tKept 0 0x40000000,
      tHead (tLoad 0 8 [0x40400000, 3]), tHead (tLoad 0 8 [0x3F800000]), tHead (tKept 0 0x40000000), tVeRun, true,
      by unfold AtColumn Supplies Updates; decide +kernel⟩⟩

theorem witness_VectorIntegersAndCompares :
    (∃ (s : State) (col : BitVec 1) (w : VeOps) (v : VWord) (rest : List VWord) (ad : Act) (r : VeRun) (bit : Bool),
      let fd := streamFmt ad.f
      AtColumn s col.toNat v rest ∧ s.u.ve.run = some r ∧ maskBit s.u r v.seq w.m.toNat v.ord = some bit ∧ v.wt = 1 ∧
        isFloat fd = false ∧ Accepts s w.d ad) ∧
    (∃ (s : State) (col : BitVec 1) (w : VeOps) (v : VWord) (rest : List VWord) (aa : Act) (ad : Act) (xa : Elem) (r
  : VeRun) (bit : Bool),
      let fa := streamFmt aa.f
      let own := v.wt = if fa = Fmt.int64 then 2 else 1
      AtColumn s col.toNat v rest ∧ s.u.ve.run = some r ∧ maskBit s.u r v.seq w.m.toNat v.ord = some bit ∧ Supplies s
        w.a aa xa ∧ isFloat fa = false ∧ own ∧ Accepts s w.d ad) ∧
    (∃ (s : State) (col : BitVec 1) (w : VeOps) (v : VWord) (rest : List VWord) (aa : Act) (ad : Act) (xa : Elem) (xd
  : Elem) (r : VeRun) (bit : Bool),
      let fa := streamFmt aa.f
      let fd := streamFmt ad.f
      let own := v.wt = if fa = Fmt.int64 then 2 else 1
      AtColumn s col.toNat v rest ∧ s.u.ve.run = some r ∧ maskBit s.u r v.seq w.m.toNat v.ord = some bit ∧ Supplies s
        w.a aa xa ∧ isFloat fa = false ∧ own ∧ isFloat fd = false ∧ Updates s w.d ad xd) ∧
    (∃ (s : State) (col : BitVec 1) (w : VeOps) (v : VWord) (rest : List VWord) (aa : Act) (ab : Act) (ad : Act) (xa
  : Elem) (xb : Elem) (xd : Elem) (r : VeRun) (bit : Bool),
      let fa := streamFmt aa.f
      let fb := streamFmt ab.f
      let fd := streamFmt ad.f
      let both := v.wt = if fa = Fmt.int64 ∨ fb = Fmt.int64 then 2 else 1
      AtColumn s col.toNat v rest ∧ s.u.ve.run = some r ∧ maskBit s.u r v.seq w.m.toNat v.ord = some bit ∧ Supplies s
        w.a aa xa ∧ isFloat fa = false ∧ both ∧ Supplies s w.b ab xb ∧ isFloat fb = false ∧ isFloat fd = false ∧ Updates
        s w.d ad xd) ∧
    (∃ (s : State) (col : BitVec 1) (w : VeOps) (v : VWord) (rest : List VWord) (aa : Act) (ab : Act) (ad : Act) (xa
  : Elem) (xb : Elem) (r : VeRun) (bit : Bool),
      let fa := streamFmt aa.f
      let fb := streamFmt ab.f
      let both := v.wt = if fa = Fmt.int64 ∨ fb = Fmt.int64 then 2 else 1
      AtColumn s col.toNat v rest ∧ s.u.ve.run = some r ∧ maskBit s.u r v.seq w.m.toNat v.ord = some bit ∧ Supplies s
        w.a aa xa ∧ isFloat fa = false ∧ both ∧ Supplies s w.b ab xb ∧ isFloat fb = false ∧ Accepts s w.d ad) ∧
    (∃ (s : State) (col : BitVec 1) (w : VeOps) (v : VWord) (rest : List VWord) (aa : Act) (ab : Act) (ad : Act) (xa
  : Elem) (xb : Elem) (r : VeRun) (bit : Bool),
      let fa := streamFmt aa.f
      let fb := streamFmt ab.f
      let own := v.wt = if fa = Fmt.int64 then 2 else 1
      AtColumn s col.toNat v rest ∧ s.u.ve.run = some r ∧ maskBit s.u r v.seq w.m.toNat v.ord = some bit ∧ Supplies s
        w.a aa xa ∧ isFloat fa = false ∧ own ∧ Supplies s w.b ab xb ∧ isFloat fb = true ∧ Accepts s w.d ad) ∧
    (∃ (s : State) (col : BitVec 1) (w : VeOps) (v : VWord) (rest : List VWord) (aa ab ad : Act) (xa xb : Elem) (r : VeRun) (bit : Bool),
      let fa := streamFmt aa.f
      let fb := streamFmt ab.f
      AtColumn s col.toNat v rest ∧ s.u.ve.run = some r ∧ maskBit s.u r v.seq w.m.toNat v.ord = some bit ∧ Supplies s
        w.a aa xa ∧ Supplies s w.b ab xb ∧ Accepts s w.d ad ∧ isFloat fa = false ∧ isFloat fb = false ∧ v.wt = (if fa
        = .int64 ∨ fb = .int64 then 2 else 1)) ∧
    (∃ (s : State) (col : BitVec 1) (cc : Cond) (w : VeOps) (v : VWord) (rest : List VWord) (aa ab : Act) (xa xb : Elem) (r : VeRun) (bit : Bool),
      let fa := streamFmt aa.f
      let fb := streamFmt ab.f
      AtColumn s col.toNat v rest ∧ s.u.ve.run = some r ∧ maskBit s.u r v.seq w.m.toNat v.ord = some bit ∧ w.d ≠ 0 ∧
        v.ord < 65536 ∧ Supplies s w.a aa xa ∧ Supplies s w.b ab xb ∧ (v.wt = 0 ∧ isFloat fa = true ∧ isFloat fb =
        true ∧ cc ≠ .bits ∧ cc ≠ .nbits ∨ v.wt = (if fa = .int64 ∨ fb = .int64 then 2 else 1) ∧ isFloat fa = false ∧
        isFloat fb = false) ∧ maskFree s.u v.seq w.d.toNat v.ord = true) ∧
    (∃ (s : State) (col : BitVec 1) (cc : Cond) (w : VeOps) (v : VWord) (rest : List VWord) (aa ab : Act) (xa xb : Elem) (r : VeRun) (bit : Bool),
      let fa := streamFmt aa.f
      let fb := streamFmt ab.f
      AtColumn s col.toNat v rest ∧ s.u.ve.run = some r ∧ maskBit s.u r v.seq w.m.toNat v.ord = some bit ∧ w.d ≠ 0 ∧
        v.ord < 65536 ∧ Supplies s w.a aa xa ∧ Supplies s w.b ab xb ∧ (v.wt = 0 ∧ isFloat fa = true ∧ isFloat fb =
        true ∧ cc ≠ .bits ∧ cc ≠ .nbits ∨ v.wt = (if fa = .int64 ∨ fb = .int64 then 2 else 1) ∧ isFloat fa = false ∧
        isFloat fb = false) ∧ maskFree s.u v.seq w.d.toNat v.ord = false) := ⟨
    ⟨tCols 0 (tWord 1 0) (tLoad 10 8 [5]) (tLoad 10 8 [7]) (tAct 1 10 8), 0, tOps, tWord 1 0, [],
      (tAct 1 10 8), tVeRun, true,
      by unfold AtColumn Accepts; decide +kernel⟩,
    ⟨tCols 0 (tWord 1 0) (tLoad 10 8 [5]) (tLoad 10 8 [7]) (tAct 1 10 8), 0, tOps, tWord 1 0, [],
      (tLoad 10 8 [5]), (tAct 1 10 8), tHead (tLoad 10 8 [5]), tVeRun, true,
      by unfold AtColumn Supplies Accepts; decide +kernel⟩,
    ⟨tCols 0 (tWord 1 0) (tLoad 10 8 [5]) (tLoad 10 8 [7]) (tKept 10 9), 0, tOps, tWord 1 0, [],
      (tLoad 10 8 [5]), (tKept 10 9), tHead (tLoad 10 8 [5]), tHead (tKept 10 9), tVeRun, true,
      by unfold AtColumn Supplies Updates; decide +kernel⟩,
    ⟨tCols 0 (tWord 1 0) (tLoad 10 8 [5]) (tLoad 10 8 [7]) (tKept 10 9), 0, tOps, tWord 1 0, [],
      (tLoad 10 8 [5]), (tLoad 10 8 [7]), (tKept 10 9), tHead (tLoad 10 8 [5]), tHead (tLoad 10 8 [7]), tHead (tKept 10 9), tVeRun, true,
      by unfold AtColumn Supplies Updates; decide +kernel⟩,
    ⟨tCols 0 (tWord 1 0) (tLoad 10 8 [5]) (tLoad 10 8 [7]) (tAct 1 10 8), 0, tOps, tWord 1 0, [],
      (tLoad 10 8 [5]), (tLoad 10 8 [7]), (tAct 1 10 8), tHead (tLoad 10 8 [5]), tHead (tLoad 10 8 [7]), tVeRun, true,
      by unfold AtColumn Supplies Accepts; decide +kernel⟩,
    ⟨tCols 0 (tWord 1 0) (tLoad 10 8 [5]) (tLoad 0 8 [0x3F800000]) (tAct 1 10 8), 0, tOps, tWord 1 0, [],
      (tLoad 10 8 [5]), (tLoad 0 8 [0x3F800000]), (tAct 1 10 8), tHead (tLoad 10 8 [5]), tHead (tLoad 0 8 [0x3F800000]), tVeRun, true,
      by unfold AtColumn Supplies Accepts; decide +kernel⟩,
    ⟨tCols 0 (tWord 1 0) (tLoad 10 8 [5]) (tLoad 10 8 [7]) (tAct 1 10 8), 0, tOps, tWord 1 0, [], tLoad 10 8 [5],
      tLoad 10 8 [7], tAct 1 10 8, tHead (tLoad 10 8 [5]), tHead (tLoad 10 8 [7]), tVeRun, true,
      by unfold AtColumn Supplies Accepts; decide +kernel⟩,
    ⟨tCols 0 (tWord 1 0) (tLoad 10 8 [5]) (tLoad 10 8 [7]) (tAct 1 10 8), 0, .lt, tOps, tWord 1 0, [], tLoad 10 8 [5],
      tLoad 10 8 [7], tHead (tLoad 10 8 [5]), tHead (tLoad 10 8 [7]), tVeRun, true,
      by unfold AtColumn Supplies; decide +kernel⟩,
    ⟨(tCols 0 ({ tWord 1 0 with seq := 1 }) (tLoad 10 8 [5]) (tLoad 10 8 [7]) (tAct 1 10 8)).onUnit 0 fun u => { u with ve := { u.ve with cols := tset u.ve.cols 1 [{ tWord 1 0 with code := 0x100 }] } },
      0, .lt, tOps, { tWord 1 0 with seq := 1 }, [], tLoad 10 8 [5], tLoad 10 8 [7], tHead (tLoad 10 8 [5]),
      tHead (tLoad 10 8 [7]), tVeRun, true, by unfold AtColumn Supplies; decide +kernel⟩⟩

theorem witness_SpecialFunctions :
    (∃ (s : State) (w : VeOps) (v : VWord) (rest : List VWord) (aa ad : Act) (xa : Elem) (r : VeRun) (bit : Bool),
      let fa := streamFmt aa.f
      AtColumn s 2 v rest ∧ s.u.ve.run = some r ∧ maskBit s.u r v.seq w.m.toNat v.ord = some bit ∧ v.wt = 0 ∧ Supplies
        s w.a aa xa ∧ isFloat fa = true ∧ Accepts s w.d ad) :=
    ⟨tCols 2 (tWord 0 0) (tLoad 0 8 [0x40400000, 3]) (tLoad 0 8 [0x3F800000]) (tAct 1 0 8), tOps, tWord 0 0, [],
      tLoad 0 8 [0x40400000, 3], tAct 1 0 8, tHead (tLoad 0 8 [0x40400000, 3]), tVeRun, true,
      by unfold AtColumn Supplies Accepts; decide +kernel⟩

theorem witness_ConversionsAndReductions :
    (∃ (s : State) (w : VeOps) (v : VWord) (rest : List VWord) (aa : Act) (ad : Act) (xa : Elem) (r : VeRun) (bit :
  Bool),
      let fa := streamFmt aa.f
      AtColumn s 3 v rest ∧ s.u.ve.run = some r ∧ maskBit s.u r v.seq w.m.toNat v.ord = some bit ∧ Supplies s w.a aa
        xa ∧ Accepts s w.d ad ∧ v.wt = wtOf [fa]) ∧
    (∃ (s : State) (w : VeOps) (v : VWord) (rest : List VWord) (aa : Act) (ad : Act) (xa : Elem) (r : VeRun) (bit :
  Bool),
      let fa := streamFmt aa.f
      AtColumn s 3 v rest ∧ s.u.ve.run = some r ∧ maskBit s.u r v.seq w.m.toNat v.ord = some bit ∧ Supplies s w.a aa
        xa ∧ Accepts s w.d ad ∧ v.wt = wtOf [fa] ∧ isFloat fa = true) ∧
    (∃ (s : State) (w : VeOps) (v : VWord) (rest : List VWord) (aa : Act) (ad : Act) (xa : Elem) (r : VeRun) (bit :
  Bool),
      let fa := streamFmt aa.f
      AtColumn s 3 v rest ∧ s.u.ve.run = some r ∧ maskBit s.u r v.seq w.m.toNat v.ord = some bit ∧ Supplies s w.a aa
        xa ∧ Accepts s w.d ad ∧ v.wt = wtOf [fa] ∧ blkLen aa.f ≠ 0) ∧
    (∃ (s : State) (w : VeOps) (v : VWord) (rest : List VWord) (aa : Act) (ad : Act) (xa : Elem) (r : VeRun) (bit :
  Bool),
      let fa := streamFmt aa.f
      ∃ (b : Elem) (q : List Elem), AtColumn s 3 v rest ∧ s.u.ve.run = some r ∧ maskBit s.u r v.seq w.m.toNat v.ord =
        some bit ∧ Supplies s w.a aa xa ∧ Accepts s w.d ad ∧ v.wt = wtOf [fa] ∧ qntBad s.u w v = false ∧ v.kept = b :: q
        ∧ v.taken ≤ aa.queue.length ∧ aa.taken + v.taken ≤ aa.total) ∧
    (∃ (s : State) (w : VeOps) (v : VWord) (rest : List VWord) (aa : Act) (ad : Act) (xa : Elem) (r : VeRun) (bit :
  Bool),
      let n := v.shN * v.shM
      let fa := streamFmt aa.f
      let k := min (blkLen ad.f) (min (n - v.ord) (ad.total - ad.given))
      ∃ (bs : List Bool), AtColumn s 3 v rest ∧ s.u.ve.run = some r ∧ maskBit s.u r v.seq w.m.toNat v.ord = some bit ∧
        Supplies s w.a aa xa ∧ Accepts s w.d ad ∧ v.wt = wtOf [fa] ∧ maskRun s.u r v.seq w.m.toNat v.ord k = some bs ∧
        qntBad s.u w v = false ∧ v.kept = [] ∧ k ≤ aa.queue.length) ∧
    (∃ (s : State) (w : VeOps) (v : VWord) (rest : List VWord) (aa : Act) (ad : Act) (xa : Elem) (r : VeRun) (bit :
  Bool),
      let fa := streamFmt aa.f
      let wt := v.wt
      AtColumn s 4 v rest ∧ s.u.ve.run = some r ∧ maskBit s.u r v.seq w.m.toNat v.taken = some bit ∧ wt = wtOf [fa] ∧
        Supplies s w.a aa xa ∧ Accepts s w.d ad ∧ v.taken < (v.ord + 1) * v.shN) ∧
    (∃ (s : State) (w : VeOps) (v : VWord) (rest : List VWord) (aa : Act) (ad : Act) (xa : Elem) (r : VeRun) (bit :
  Bool),
      let fa := streamFmt aa.f
      let wt := v.wt
      AtColumn s 4 v rest ∧ s.u.ve.run = some r ∧ maskBit s.u r v.seq w.m.toNat v.taken = some bit ∧ wt = wtOf [fa] ∧
        Supplies s w.a aa xa ∧ Accepts s w.d ad ∧ (v.ord + 1) * v.shN ≤ v.taken) ∧
    (∃ (s : State) (w : VeOps) (v : VWord) (rest : List VWord) (aa : Act) (ad : Act) (xa : Elem) (r : VeRun) (bit :
  Bool),
      let fa := streamFmt aa.f
      let fd := streamFmt ad.f
      let wt := v.wt
      AtColumn s 4 v rest ∧ s.u.ve.run = some r ∧ maskBit s.u r v.seq w.m.toNat v.taken = some bit ∧ wt = wtOf [fa] ∧
        Supplies s w.a aa xa ∧ Accepts s w.d ad ∧ v.taken < (v.ord + 1) * v.shN ∧ isFloat fd = false) ∧
    (∃ (s : State) (w : VeOps) (v : VWord) (rest : List VWord) (aa : Act) (ad : Act) (xa : Elem) (r : VeRun) (bit :
  Bool),
      let fa := streamFmt aa.f
      let fd := streamFmt ad.f
      let wt := v.wt
      AtColumn s 4 v rest ∧ s.u.ve.run = some r ∧ maskBit s.u r v.seq w.m.toNat v.taken = some bit ∧ wt = wtOf [fa] ∧
        Supplies s w.a aa xa ∧ Accepts s w.d ad ∧ (v.ord + 1) * v.shN ≤ v.taken ∧ isFloat fd = false) ∧
    (∃ (s : State) (w : VeOps) (v : VWord) (rest : List VWord) (aa : Act) (ad : Act) (xa : Elem) (r : VeRun) (bit :
  Bool),
      let fa := streamFmt aa.f
      let wt := v.wt
      AtColumn s 4 v rest ∧ s.u.ve.run = some r ∧ maskBit s.u r v.seq w.m.toNat v.taken = some bit ∧ wt = wtOf [fa] ∧
        Supplies s w.a aa xa ∧ Accepts s w.d ad) := ⟨
    ⟨tCols 3 (tWord 0 0) (tScaled 4 (tLoad 0 8 [0x40400000, 3, 0, 5])) (tLoad 0 8 [0x3F800000]) (tAct 1 0 8), { tOps with b := 0 }, tWord 0 0, [], tScaled 4 (tLoad 0 8 [0x40400000, 3, 0, 5]), tAct 1 0 8, tHead (tScaled 4 (tLoad 0 8 [0x40400000, 3, 0, 5])), tVeRun, true, by unfold AtColumn Supplies Accepts; decide +kernel⟩,
    ⟨tCols 3 (tWord 0 0) (tScaled 4 (tLoad 0 8 [0x40400000, 3, 0, 5])) (tLoad 0 8 [0x3F800000]) (tAct 1 0 8), { tOps with b := 0 }, tWord 0 0, [], tScaled 4 (tLoad 0 8 [0x40400000, 3, 0, 5]), tAct 1 0 8, tHead (tScaled 4 (tLoad 0 8 [0x40400000, 3, 0, 5])), tVeRun, true, by unfold AtColumn Supplies Accepts; decide +kernel⟩,
    ⟨tCols 3 (tWord 0 0) (tScaled 4 (tLoad 0 8 [0x40400000, 3, 0, 5])) (tLoad 0 8 [0x3F800000]) (tAct 1 0 8), { tOps with b := 0 }, tWord 0 0, [], tScaled 4 (tLoad 0 8 [0x40400000, 3, 0, 5]), tAct 1 0 8, tHead (tScaled 4 (tLoad 0 8 [0x40400000, 3, 0, 5])), tVeRun, true, by unfold AtColumn Supplies Accepts; decide +kernel⟩,
    ⟨tCols 3 ({ tWord 0 0 with kept := [tEl 5] }) (tLoad 0 8 [0x40400000, 3, 0, 5]) (tLoad 0 8 [0x3F800000]) (tScaled 4 (tAct 1 6 8)),
      { tOps with b := 0 }, { tWord 0 0 with kept := [tEl 5] }, [], tLoad 0 8 [0x40400000, 3, 0, 5],
      tScaled 4 (tAct 1 6 8), tHead (tLoad 0 8 [0x40400000, 3, 0, 5]), tVeRun, true, tEl 5, [],
      by unfold AtColumn Supplies Accepts; decide +kernel⟩,
    ⟨tCols 3 (tWord 0 0) (tLoad 0 8 [0x40400000, 3, 0, 5]) (tLoad 0 8 [0x3F800000]) (tScaled 4 (tAct 1 6 8)), { tOps with b := 0 }, tWord 0 0, [], tLoad 0 8 [0x40400000, 3, 0, 5], tScaled 4 (tAct 1 6 8), tHead (tLoad 0 8 [0x40400000, 3, 0, 5]), tVeRun, true, [true, true, true, true], by unfold AtColumn Supplies Accepts; decide +kernel⟩,
    ⟨tCols 4 (tWord 0 0) (tLoad 0 8 [0x40400000, 3, 0, 5]) (tLoad 0 8 [0x3F800000]) (tAct 1 10 8), { tOps with b := 0 }, tWord 0 0, [], tLoad 0 8 [0x40400000, 3, 0, 5], tAct 1 10 8, tHead (tLoad 0 8 [0x40400000, 3, 0, 5]), tVeRun, true, by unfold AtColumn Supplies Accepts; decide +kernel⟩,
    ⟨tCols 4 (tLanes 4) (tLoad 0 8 [0x40400000, 3, 0, 5]) (tLoad 0 8 [0x3F800000]) (tAct 1 10 8), { tOps with b := 0 }, tLanes 4, [], tLoad 0 8 [0x40400000, 3, 0, 5], tAct 1 10 8, tHead (tLoad 0 8 [0x40400000, 3, 0, 5]), tVeRun, true, by unfold AtColumn Supplies Accepts; decide +kernel⟩,
    ⟨tCols 4 (tWord 0 0) (tLoad 0 8 [0x40400000, 3, 0, 5]) (tLoad 0 8 [0x3F800000]) (tAct 1 10 8),
      { tOps with b := 0 }, tWord 0 0, [], tLoad 0 8 [0x40400000, 3, 0, 5], tAct 1 10 8,
      tHead (tLoad 0 8 [0x40400000, 3, 0, 5]), tVeRun, true, by unfold AtColumn Supplies Accepts; decide +kernel⟩,
    ⟨tCols 4 (tLanes 4) (tLoad 0 8 [0x40400000, 3, 0, 5]) (tLoad 0 8 [0x3F800000]) (tAct 1 10 8),
      { tOps with b := 0 }, tLanes 4, [], tLoad 0 8 [0x40400000, 3, 0, 5], tAct 1 10 8,
      tHead (tLoad 0 8 [0x40400000, 3, 0, 5]), tVeRun, true, by unfold AtColumn Supplies Accepts; decide +kernel⟩,
    ⟨tCols 4 (tWord 0 0) (tLoad 0 8 [0x40400000, 3, 0, 5]) (tLoad 0 8 [0x3F800000]) (tAct 1 10 8),
      { tOps with b := 0 }, tWord 0 0, [], tLoad 0 8 [0x40400000, 3, 0, 5], tAct 1 10 8,
      tHead (tLoad 0 8 [0x40400000, 3, 0, 5]), tVeRun, true, by unfold AtColumn Supplies Accepts; decide +kernel⟩⟩

theorem witness_Moves :
    (∃ (s : State) (w : VeOps) (v : VWord) (rest : List VWord) (aa : Act) (ad : Act) (xa : Elem) (r : VeRun) (bit :
  Bool),
      let fa := streamFmt aa.f
      let wt1 := wtOf [fa]
      AtColumn s 5 v rest ∧ s.u.ve.run = some r ∧ maskBit s.u r v.seq w.m.toNat v.ord = some bit ∧ v.wt = wt1 ∧
        Supplies s w.a aa xa ∧ Accepts s w.d ad ∧ 0 < v.shN) ∧
    (∃ (s : State) (w : VeOps) (v : VWord) (rest : List VWord) (aa ad : Act) (xa : Elem) (r : VeRun) (bit : Bool) (y : _),
      let fa := streamFmt aa.f
      let wt1 := wtOf [fa]
      AtColumn s 5 v rest ∧ s.u.ve.run = some r ∧ maskBit s.u r v.seq w.m.toNat v.ord = some bit ∧ v.wt = wt1 ∧
        Supplies s w.a aa xa ∧ Accepts s w.d ad ∧ 0 < v.shN ∧ v.shN ≤ aa.queue.length ∧ aa.queue[v.shN - 1 - v.ord %
        v.shN]? = some y ∧ rowBytes fa v.shN ≤ 1024 ∧ (v.ord + 1) % v.shN ≠ 0) ∧
    (∃ (s : State) (w : VeOps) (v : VWord) (rest : List VWord) (aa : Act) (ad : Act) (xa : Elem) (r : VeRun) (bit :
  Bool),
      let fa := streamFmt aa.f
      let wt1 := wtOf [fa]
      ∃ (y : Elem), AtColumn s 5 v rest ∧ s.u.ve.run = some r ∧ maskBit s.u r v.seq w.m.toNat v.ord = some bit ∧ v.wt
        = wt1 ∧ Supplies s w.a aa xa ∧ Accepts s w.d ad ∧ 0 < v.shN ∧ v.shN ≤ aa.queue.length ∧ aa.queue[0]? = some y ∧
        rowBytes fa v.shN ≤ 1024 ∧ aa.taken + v.shN ≤ aa.total ∧ (v.ord + 1) % v.shN = 0) ∧
    (∃ (s : State) (w : VeOps) (v : VWord) (rest : List VWord) (aa : Act) (ab : Act) (ad : Act) (xa : Elem) (r :
  VeRun) (bit : Bool),
      let fa := streamFmt aa.f
      let wt1 := wtOf [fa]
      ∃ (e : Elem) (more : List Elem), AtColumn s 5 v rest ∧ s.u.ve.run = some r ∧ maskBit s.u r v.seq w.m.toNat v.ord
        = some bit ∧ v.wt = wt1 ∧ Supplies s w.a aa xa ∧ Accepts s w.d ad ∧ 0 < v.shN ∧ Accepts s w.b ab ∧ w.b ≠ w.d ∧
        aa.queue = xa :: e :: more ∧ aa.taken + 2 ≤ aa.total) ∧
    (∃ (s : State) (w : VeOps) (v : VWord) (rest : List VWord) (aa : Act) (ad : Act) (xa : Elem) (r : VeRun) (bit :
  Bool),
      let n := v.shN * v.shM
      let fa := streamFmt aa.f
      let wt1 := wtOf [fa]
      AtColumn s 5 v rest ∧ s.u.ve.run = some r ∧ maskBit s.u r v.seq w.m.toNat v.ord = some bit ∧ v.wt = wt1 ∧
        Supplies s w.a aa xa ∧ Accepts s w.d ad ∧ 0 < v.shN ∧ v.taken < n ∧ v.shN ≤ 64) ∧
    (∃ (s : State) (w : VeOps) (v : VWord) (rest : List VWord) (ad : Act) (r : VeRun) (bit : Bool),
      let n := v.shN * v.shM
      AtColumn s 5 v rest ∧ s.u.ve.run = some r ∧ maskBit s.u r v.seq w.m.toNat v.ord = some bit ∧ n ≤ v.taken ∧ v.shN
        ≤ 64 ∧ Accepts s w.d ad) ∧
    (∃ (s : State) (w : VeOps) (v : VWord) (rest : List VWord) (aa ab ad : Act) (xa xb : Elem) (r : VeRun) (bit : Bool),
      let fa := streamFmt aa.f
      let fb := streamFmt ab.f
      AtColumn s 5 v rest ∧ s.u.ve.run = some r ∧ maskBit s.u r v.seq w.m.toNat v.ord = some bit ∧ Supplies s w.a aa
        xa ∧ Supplies s w.b ab xb ∧ Accepts s w.d ad ∧ isFloat fa = isFloat fb ∧ v.wt = wtOf [fa, fb]) ∧
    (∃ (s : State) (w : VeOps) (v : VWord) (rest : List VWord) (ad : Act) (r : VeRun) (bit : Bool),
      AtColumn s 5 v rest ∧ s.u.ve.run = some r ∧ maskBit s.u r v.seq w.m.toNat v.ord = some bit ∧ v.wt = 1 ∧ Accepts
        s w.d ad) ∧
    (∃ (s : State) (w : VeOps) (v : VWord) (rest : List VWord) (ad : Act) (r : VeRun) (bit : Bool),
      let g := entryGen s.u w.b.toNat
      AtColumn s 5 v rest ∧ s.u.ve.run = some r ∧ maskBit s.u r v.seq w.m.toNat v.ord = some bit ∧ v.wt = wtOf [genFmt
        g] ∧ Accepts s w.d ad) ∧
    (∃ (s : State) (w : VeOps) (v : VWord) (rest : List VWord) (aa : Act) (ad : Act) (xa : Elem) (r : VeRun) (bit :
  Bool),
      let fa := streamFmt aa.f
      let reach := fun (k : BitVec 4) (i : Int) (sz : Nat) => (entryK s.u k).toNat + sz * i.toNat
      let inside := fun (k : BitVec 4) (i : Int) (sz : Nat) => 0 ≤ i ∧ reach k i sz + sz ≤ usable s.u ∧ (entryK s.u
        k).toNat % sz = 0 ∧ spoiledAt s (scrKey s.u (reach k i sz)) sz = false ∧ 0 < sz
      let ia := fmtInt fa (BitVec.toNat xa.bits)
      AtColumn s 5 v rest ∧ s.u.ve.run = some r ∧ maskBit s.u r v.seq w.m.toNat v.ord = some bit ∧ v.wt = 1 ∧ Supplies
        s w.a aa xa ∧ Accepts s w.d ad ∧ isFloat fa = false ∧ elemBytes ad.f ≠ 0 ∧ (bit = true → inside w.b ia
        (elemBytes ad.f))) ∧
    (∃ (s : State) (w : VeOps) (v : VWord) (rest : List VWord) (aa : Act) (ab : Act) (xa : Elem) (xb : Elem) (r :
  VeRun) (bit : Bool),
      let fb := streamFmt ab.f
      let reach := fun (k : BitVec 4) (i : Int) (sz : Nat) => (entryK s.u k).toNat + sz * i.toNat
      let inside := fun (k : BitVec 4) (i : Int) (sz : Nat) => 0 ≤ i ∧ reach k i sz + sz ≤ usable s.u ∧ (entryK s.u
        k).toNat % sz = 0 ∧ spoiledAt s (scrKey s.u (reach k i sz)) sz = false ∧ 0 < sz
      let ib := fmtInt fb (BitVec.toNat xb.bits)
      AtColumn s 5 v rest ∧ s.u.ve.run = some r ∧ maskBit s.u r v.seq w.m.toNat v.ord = some bit ∧ v.wt = 1 ∧ Supplies
        s w.a aa xa ∧ Supplies s w.b ab xb ∧ isFloat fb = false ∧ elemBytes aa.f ≠ 0 ∧ (bit = true → inside w.d ib
        (elemBytes aa.f))) := ⟨
    ⟨tCols 5 (tWord 0 0) (tLoad 0 8 [5, 6, 7, 8]) (tLoad 0 8 [7]) (tAct 1 0 8), tOps, tWord 0 0, [],
      tLoad 0 8 [5, 6, 7, 8], tAct 1 0 8, tHead (tLoad 0 8 [5, 6, 7, 8]), tVeRun, true,
      by unfold AtColumn Supplies Accepts; decide +kernel⟩,
    ⟨tCols 5 (tWord 0 0) (tLoad 0 8 [5, 6, 7, 8]) (tLoad 0 8 [7]) (tAct 1 0 8), tOps, tWord 0 0, [],
      tLoad 0 8 [5, 6, 7, 8], tAct 1 0 8, tHead (tLoad 0 8 [5, 6, 7, 8]), tVeRun, true, tEl 8,
      by unfold AtColumn Supplies Accepts; decide +kernel⟩,
    ⟨tCols 5 ({ tWord 0 0 with shN := 1, shM := 8 }) (tLoad 0 8 [5, 6, 7, 8]) (tLoad 0 8 [7]) (tAct 1 0 8), tOps, { tWord 0 0 with shN := 1, shM := 8 }, [], tLoad 0 8 [5, 6, 7, 8], tAct 1 0 8, tHead (tLoad 0 8 [5, 6, 7, 8]), tVeRun, true, tHead (tLoad 0 8 [5, 6, 7, 8]), by unfold AtColumn Supplies Accepts; decide +kernel⟩,
    ⟨tCols 5 (tWord 0 0) (tLoad 0 8 [5, 6]) (tAct 1 0 8) (tAct 1 0 8), tOps, tWord 0 0, [], tLoad 0 8 [5, 6], tAct 1 0 8, tAct 1 0 8, tHead (tLoad 0 8 [5, 6]), tVeRun, true, tEl 6, [], by unfold AtColumn Supplies Accepts; decide +kernel⟩,
    ⟨tCols 5 (tWord 0 0) (tLoad 0 8 [5, 6, 7, 8]) (tLoad 0 8 [7]) (tAct 1 0 8), tOps, tWord 0 0, [],
      tLoad 0 8 [5, 6, 7, 8], tAct 1 0 8, tHead (tLoad 0 8 [5, 6, 7, 8]), tVeRun, true,
      by unfold AtColumn Supplies Accepts; decide +kernel⟩,
    ⟨tCols 5 ({ tWord 0 0 with taken := 8 }) (tLoad 0 8 [5, 6, 7, 8]) (tLoad 0 8 [7]) (tAct 1 0 8), tOps,
      { tWord 0 0 with taken := 8 }, [], tAct 1 0 8, tVeRun, true, by unfold AtColumn Accepts; decide +kernel⟩,
    ⟨tCols 5 (tWord 0 0) (tLoad 0 8 [5, 6, 7, 8]) (tLoad 0 8 [7]) (tAct 1 0 8), tOps, tWord 0 0, [],
      tLoad 0 8 [5, 6, 7, 8], tLoad 0 8 [7], tAct 1 0 8, tHead (tLoad 0 8 [5, 6, 7, 8]), tHead (tLoad 0 8 [7]),
      tVeRun, true, by unfold AtColumn Supplies Accepts; decide +kernel⟩,
    ⟨tCols 5 (tWord 1 0) (tLoad 10 8 [16]) (tLoad 0 8 [7]) (tAct 1 6 8), tOps, tWord 1 0, [], tAct 1 6 8, tVeRun, true, by unfold AtColumn Accepts; decide +kernel⟩,
    ⟨(tCols 5 (tWord 0 0) (tLoad 0 8 [5, 6, 7, 8]) (tLoad 0 8 [7]) (tAct 1 0 8)).onUnit 0 fun u => { u with ve := { u.ve with run := some { tVeRun with e := tVeEntry } } },
      tOps, tWord 0 0, [], tAct 1 0 8, tVeRun, true, by unfold AtColumn Accepts; decide +kernel⟩,
    ⟨tCols 5 (tWord 1 0) (tLoad 10 8 [16]) (tLoad 0 8 [7]) (tAct 1 6 8), tOps, tWord 1 0, [], tLoad 10 8 [16],
      tAct 1 6 8, tHead (tLoad 10 8 [16]), tVeRun, true, by unfold AtColumn Supplies Accepts; decide +kernel⟩,
    ⟨tCols 5 (tWord 1 0) (tLoad 10 8 [7]) (tLoad 10 8 [16]) (tAct 1 0 8), { tOps with d := 4 }, tWord 1 0, [],
      tLoad 10 8 [7], tLoad 10 8 [16], tHead (tLoad 10 8 [7]), tHead (tLoad 10 8 [16]), tVeRun, true,
      by unfold AtColumn Supplies; decide +kernel⟩⟩

theorem witness_RouterWords :
    (∃ (s : State) (r : VeRun) (wd : Code),
      let u := s.u
      let c := wd.toNat / 2 ^ 29
      let q := tget u.ve.cols c []
      AtRouter s r wd ∧ c < 6 ∧ q.length < 8) ∧
    (∃ (s : State) (r : VeRun) (wd : Code),
      let u := s.u
      let c := wd.toNat / 2 ^ 29
      let q := tget u.ve.cols c []
      AtRouter s r wd ∧ c < 6 ∧ 8 ≤ q.length) ∧
    (∃ (s : State) (r : VeRun) (wd : Code),
      AtRouter s r wd) ∧
    (∃ (s : State) (r : VeRun) (wd : Code) (t : BitVec 8),
      let u := s.u
      AtRouter s r wd ∧ tokOf u t.toNat ≠ 0) ∧
    (∃ (s : State) (r : VeRun) (wd : Code) (t : BitVec 8),
      let u := s.u
      AtRouter s r wd ∧ tokOf u t.toNat = 0) ∧
    (∃ (s : State) (r : VeRun) (wd : Code) (t : BitVec 8),
      let u := s.u
      let c := wd.toNat / 2 ^ 29
      AtRouter s r wd ∧ c = 6 ∧ bits wd.toNat 23 6 = 4 ∧ bits wd.toNat 7 8 = t.toNat ∧ tokOf u t.toNat ≠ 0) := ⟨
    ⟨tRouter (0x00091800 : Code) 0 0, { tVeRun with words := [(0x00091800 : Code), 0xC0000F80] }, 0x00091800,
      by unfold AtRouter; decide +kernel⟩,
    ⟨tRouter (0x00091800 : Code) 8 0, { tVeRun with words := [(0x00091800 : Code), 0xC0000F80] }, 0x00091800,
      by unfold AtRouter; decide +kernel⟩,
    ⟨tRouter (0x00091800 : Code) 0 0, { tVeRun with words := [(0x00091800 : Code), 0xC0000F80] }, 0x00091800,
      by unfold AtRouter; decide +kernel⟩,
    ⟨tRouter (0xC2000380 : Code) 0 3, { tVeRun with words := [(0xC2000380 : Code), 0xC0000F80] }, 0xC2000380, 7,
      by unfold AtRouter; decide +kernel⟩,
    ⟨tRouter (0x00091800 : Code) 0 0, { tVeRun with words := [(0x00091800 : Code), 0xC0000F80] }, 0x00091800, 7,
      by unfold AtRouter; decide +kernel⟩,
    ⟨tRouter (0xC2000380 : Code) 0 3, { tVeRun with words := [(0xC2000380 : Code), 0xC0000F80] }, 0xC2000380, 7,
      by unfold AtRouter; decide +kernel⟩⟩

theorem witness_VectorEntries :
    (∃ (s : State) (a : BitVec 6),
      CanIssue s [a]) ∧
    (∃ (s : State) (a : BitVec 6) (n1 : BitVec 8),
      let u := s.u
      let len := n1.toNat + 1
      let off := gOf s a
      let sec := sectionOf s u 16
      let inside := BitVec.toNat off + len ≤ sec.snd / 4
      let pages := codeCause (unpoll s) (sec.fst + 4 * BitVec.toNat off) (4 * len)
      let room := u.ve.queue.length < Config.queueCap
      CanIssue s [a] ∧ inside ∧ pages = none ∧ room ∧ u.course.active = false) ∧
    (∃ (s : State) (a : BitVec 6) (n1 : BitVec 8),
      let u := s.u
      let len := n1.toNat + 1
      let off := gOf s a
      let sec := sectionOf s u 16
      let inside := BitVec.toNat off + len ≤ sec.snd / 4
      let pages := codeCause (unpoll s) (sec.fst + 4 * BitVec.toNat off) (4 * len)
      let room := u.ve.queue.length < Config.queueCap
      ∃ (due : Option Nat) (s' : State), CanIssue s [a] ∧ inside ∧ pages = none ∧ room ∧ u.course.active = true ∧
        courseTake (unpoll s) 1 = Except.ok (due, s')) ∧
    (∃ (s : State) (a : BitVec 6) (n1 : BitVec 8),
      let u := s.u
      let len := n1.toNat + 1
      let off := gOf s a
      let sec := sectionOf s u 16
      let inside := BitVec.toNat off + len ≤ sec.snd / 4
      let pages := codeCause (unpoll s) (sec.fst + 4 * BitVec.toNat off) (4 * len)
      let room := u.ve.queue.length < Config.queueCap
      CanIssue s [a] ∧ inside ∧ pages = none ∧ room ∧ u.course.active = true ∧ courseTake (unpoll s) 1 = Except.error
        (Cause.courseTable, 0)) ∧
    (∃ (s : State) (a : BitVec 6) (n1 : BitVec 8),
      let u := s.u
      let len := n1.toNat + 1
      let off := gOf s a
      let sec := sectionOf s u 16
      let inside := BitVec.toNat off + len ≤ sec.snd / 4
      let pages := codeCause (unpoll s) (sec.fst + 4 * BitVec.toNat off) (4 * len)
      let room := u.ve.queue.length < Config.queueCap
      CanIssue s [a] ∧ inside ∧ pages = none ∧ ¬room ∧ MayHold s) ∧
    (∃ (s : State) (a : BitVec 6) (n1 : BitVec 8),
      let u := s.u
      let len := n1.toNat + 1
      let off := gOf s a
      let sec := sectionOf s u 16
      let inside := BitVec.toNat off + len ≤ sec.snd / 4
      let pages := codeCause (unpoll s) (sec.fst + 4 * BitVec.toNat off) (4 * len)
      ∃ (c : Cause) (va : Word), CanIssue s [a] ∧ inside ∧ pages = some (c, va) ∧ ∀ (p : FarPlace), c ≠
        Cause.elsewhere p) ∧
    (∃ (s : State) (a : BitVec 6) (n1 : BitVec 8),
      let u := s.u
      let len := n1.toNat + 1
      let off := gOf s a
      let sec := sectionOf s u 16
      let inside := BitVec.toNat off + len ≤ sec.snd / 4
      CanIssue s [a] ∧ ¬inside) ∧
    (∃ (s : State),
      let u := s.u
      let room := u.ve.queue.length < Config.queueCap
      ∃ (e : VeEntry), issuing u = true ∧ u.wait = some (Wait.veSpace e) ∧ room ∧ u.course.active = false) ∧
    (∃ (s : State),
      let u := s.u
      let room := u.ve.queue.length < Config.queueCap
      ∃ (e : VeEntry) (due : Option Nat) (s' : State), issuing u = true ∧ u.wait = some (Wait.veSpace e) ∧ room ∧
        u.course.active = true ∧ courseTake s 1 = Except.ok (due, s')) ∧
    (∃ (s : State),
      let u := s.u
      ∃ (e : AeEntry), issuing u = true ∧ u.wait = some (Wait.aeSpace e) ∧ u.ae.queue.length < Config.queueCap ∧
        u.course.active = false) ∧
    (∃ (s : State),
      let u := s.u
      ∃ (e : AeEntry) (due : Option Nat) (s' : State), issuing u = true ∧ u.wait = some (Wait.aeSpace e) ∧
        u.ae.queue.length < Config.queueCap ∧ u.course.active = true ∧ courseTake s 0 = Except.ok (due, s')) ∧
    (∃ (s : State),
      let u := s.u
      ∃ (e : VeEntry) (q : List VeEntry) (cs : List (Option Code)) (ws : List Code), u.ve.queue = e :: q ∧ u.ve.run =
        none ∧ routerLive u = true ∧ (e.due = none ∨ u.course.active = false ∨ ∃ (d : Nat), e.due = some d ∧ d ≤
        u.course.cc.toNat) ∧ blockWords s 16 e.off e.n = Except.ok cs ∧ cs = List.map some ws ∧ nestBad (headersOf e.k
        ws) ws.length = false) ∧
    (∃ (s : State),
      let u := s.u
      ∃ (e : VeEntry) (q : List VeEntry) (cs : List (Option Code)) (ws : List Code), u.ve.queue = e :: q ∧ u.ve.run =
        none ∧ routerLive u = true ∧ (e.due = none ∨ u.course.active = false ∨ ∃ (d : Nat), e.due = some d ∧ d ≤
        u.course.cc.toNat) ∧ blockWords s 16 e.off e.n = Except.ok cs ∧ cs = List.map some ws ∧ nestBad (headersOf e.k
        ws) ws.length = true) ∧
    (∃ (s : State),
      let u := s.u
      ∃ (e : VeEntry) (q : List VeEntry) (cs : List (Option Code)), u.ve.queue = e :: q ∧ u.ve.run = none ∧ routerLive
        u = true ∧ (e.due = none ∨ u.course.active = false ∨ ∃ (d : Nat), e.due = some d ∧ d ≤ u.course.cc.toNat) ∧
        blockWords s 16 e.off e.n = Except.ok cs) ∧
    (∃ (s : State),
      let u := s.u
      ∃ (e : VeEntry) (q : List VeEntry) (c : Cause) (va : Word), u.ve.queue = e :: q ∧ u.ve.run = none ∧ routerLive u
        = true ∧ (e.due = none ∨ u.course.active = false ∨ ∃ (d : Nat), e.due = some d ∧ d ≤ u.course.cc.toNat) ∧
        blockWords s 16 e.off e.n = Except.error (c, va) ∧ ∀ (p : FarPlace), c ≠ Cause.elsewhere p) ∧
    (∃ (s : State),
      let u := s.u
      ∃ (x : TokAdd) (rest : List TokAdd), live u = true ∧ u.ve.adds = x :: rest ∧ (∀ (v : VWord), v ∈ colWords u →
        x.seq ≤ v.seq) ∧ x.given = none) ∧
    (∃ (s : State),
      let u := s.u
      ∃ (x : TokAdd) (rest : List TokAdd) (g : List (Nat × Nat × Nat)), live u = true ∧ u.ve.adds = x :: rest ∧ (∀ (v
        : VWord), v ∈ colWords u → x.seq ≤ v.seq) ∧ x.given = some g ∧ g.all (performedTo u) = true ∧ tokOf u x.tok ≠
        65535) ∧
    (∃ (s : State),
      let u := s.u
      ∃ (x : TokAdd) (rest : List TokAdd) (g : List (Nat × Nat × Nat)), live u = true ∧ u.ve.adds = x :: rest ∧ (∀ (v
        : VWord), v ∈ colWords u → x.seq ≤ v.seq) ∧ x.given = some g ∧ g.all (performedTo u) = true ∧ tokOf u x.tok =
        65535) ∧
    (∃ (s : State),
      let u := s.u
      ∃ (r : VeRun), u.ve.run = some r ∧ r.atEnd = true ∧ colWords u = [] ∧ routerLive u = true) ∧
    (∃ (s : State) (t : BitVec 8),
      let u := s.u
      CanIssue s [] ∧ tokOf u t.toNat ≠ 0) ∧
    (∃ (s : State) (t : BitVec 8),
      let u := s.u
      CanIssue s [] ∧ tokOf u t.toNat = 0 ∧ MayHold s) ∧
    (∃ (s : State) (t : BitVec 8),
      let u := s.u
      issuing u = true ∧ u.wait = some (Wait.vtok t.toNat) ∧ tokOf u t.toNat ≠ 0) := ⟨
    ⟨tEntries 0x00091800 id, 9, by unfold CanIssue; decide +kernel⟩,
    ⟨tEntries 0x00091800 id, 9, 0, by unfold CanIssue; decide +kernel⟩,
    ⟨tInCourse 1 (tEntries 0x00091800 id), 9, 0, some 13, _, by unfold CanIssue; decide +kernel, by decide +kernel, by decide +kernel, by decide +kernel, by decide +kernel, ok_pair (by decide +kernel)⟩,
    ⟨tTakenCourse (tEntries 0x00091800 id), 9, 0, by unfold CanIssue; decide +kernel, by decide +kernel, by decide +kernel, by decide +kernel, by decide +kernel, eq_error.2 (by decide +kernel)⟩,
    ⟨tEntries 0x00091800 fun v => { v with queue := List.replicate 16 tVeEntry }, 9, 0, by unfold CanIssue MayHold; decide +kernel⟩,
    ⟨tNoCode 16 (tEntries 0x00091800 id), 9, 0, .translation, 0x40050000, by unfold CanIssue; decide +kernel, by decide +kernel, by decide +kernel, fun _ => nofun⟩,
    ⟨tEntries 0x00091800 id, 11, 0, by unfold CanIssue; decide +kernel⟩,
    ⟨(tEntries 0 id).onUnit 0 (tWaits (.veSpace tVeEntry)), tVeEntry, by decide +kernel⟩,
    ⟨tInCourse 1 ((tEntries 0 id).onUnit 0 (tWaits (.veSpace tVeEntry))), tVeEntry, some 13, _, by decide +kernel, by decide +kernel, by decide +kernel, by decide +kernel, ok_pair (by decide +kernel)⟩,
    ⟨(tEntries 0 id).onUnit 0 (tWaits (.aeSpace (tAeEntry true))), tAeEntry true, by decide +kernel⟩,
    ⟨tInCourse 0 ((tEntries 0 id).onUnit 0 (tWaits (.aeSpace (tAeEntry true)))), tAeEntry true, some 13, _, by decide +kernel, by decide +kernel, by decide +kernel, by decide +kernel, ok_pair (by decide +kernel)⟩,
    ⟨(tEntries 0x00091800 fun v => { v with queue := [tVeEntry] }), tVeEntry, [], [some 0x00091800], [0x00091800], by decide +kernel, by decide +kernel, by decide +kernel, Or.inl rfl, eq_ok.2 (by decide +kernel), rfl, by decide +kernel⟩,
    ⟨(tEntries 0xC1008000 fun v => { v with queue := [tVeEntry] }), tVeEntry, [], [some 0xC1008000], [0xC1008000], by decide +kernel, by decide +kernel, by decide +kernel, Or.inl rfl, eq_ok.2 (by decide +kernel), rfl, by decide +kernel⟩,
    ⟨(tEntries 0x00091800 fun v => { v with queue := [tVeEntry] }), tVeEntry, [], [some 0x00091800], by decide +kernel, by decide +kernel, by decide +kernel, Or.inl rfl, eq_ok.2 (by decide +kernel)⟩,
    ⟨tNoCode 16 (tEntries 0x00091800 fun v => { v with queue := [tVeEntry] }), tVeEntry, [], .translation, 0x40050000, by decide +kernel, by decide +kernel, by decide +kernel, Or.inl rfl, eq_error.2 (by decide +kernel), fun _ => nofun⟩,
    ⟨tEntries 0 fun v => { v with adds := [{ tAdd 7 with given := none }] }, { tAdd 7 with given := none }, [], by decide +kernel⟩,
    ⟨tEntries 0 fun v => { v with adds := [tAdd 7] }, tAdd 7, [], [], by decide +kernel⟩,
    ⟨tEntries 0 fun v => { v with adds := [tAdd 9] }, tAdd 9, [], [], by decide +kernel⟩,
    ⟨tEntries 0 fun v => { v with run := some { tVeRun with atEnd := true } }, { tVeRun with atEnd := true },
      by decide +kernel⟩,
    ⟨tEntries 0x00091800 id, 7, by unfold CanIssue; decide +kernel⟩,
    ⟨tEntries 0x00091800 id, 8, by unfold CanIssue MayHold; decide +kernel⟩,
    ⟨(tEntries 0 id).onUnit 0 (tWaits (.vtok 7)), 7, by decide +kernel⟩⟩

theorem witness_MatrixProducts :
    (∃ (s : State) (w : MmaOps) (r : MeRun),
      let p := mmaPlan w s.u r
      let k := mmaK w.fmt
      let queued := fun (n : BitVec 4) => (Option.map (fun (x : Act) => x.queue) (headAct (streamOf s.u
        n.toNat))).getD []
      let nA := if w.aG = true then 0 else k
      let as := if nA ≤ r.kept.length then r.kept else r.kept ++ List.take (nA - r.kept.length) (queued w.a)
      AtMe s r ∧ p.bad = false ∧ w.aG = false ∧ r.kept.length < nA ∧ as.length < nA ∧ queued w.a ≠ []) ∧
    (∃ (s : State) (w : MmaOps) (r : MeRun),
      let p := mmaPlan w s.u r
      let t := tileEff s.u.me.st r w.tile
      let x := tileOf s.u t
      let k := mmaK w.fmt
      let i := r.ord
      let queued := fun (n : BitVec 4) => (Option.map (fun (x : Act) => x.queue) (headAct (streamOf s.u
        n.toNat))).getD []
      let nA := if w.aG = true then 0 else k
      let n := if w.aG = true ∨ w.scaled = false then nA else nA + if w.fmt = 5 ∨ w.fmt = 6 then 8 else 1
      let as := if nA ≤ r.kept.length then r.kept else r.kept ++ List.take (nA - r.kept.length) (queued w.a)
      let all := if n ≤ as.length then as else as ++ List.take (n - as.length) (queued w.scl)
      let here := AtMe s r ∧ i < 128 ∧ r.kept.length ≤ n ∧ nA ≤ as.length ∧ n ≤ all.length ∧ p.bad = false ∧ (w.scaled
        = true → w.aG = false → w.a ≠ w.scl)
      here ∧ Rising x.w ∧ mmaIntForm w = false) ∧
    (∃ (s : State) (w : MmaOps) (r : MeRun),
      let p := mmaPlan w s.u r
      let t := tileEff s.u.me.st r w.tile
      let x := tileOf s.u t
      let l := latchOf s.u (latchEff s.u.me.st r w.latch)
      let k := mmaK w.fmt
      let i := r.ord
      let queued := fun (n : BitVec 4) => (Option.map (fun (x : Act) => x.queue) (headAct (streamOf s.u
        n.toNat))).getD []
      let nA := if w.aG = true then 0 else k
      let n := if w.aG = true ∨ w.scaled = false then nA else nA + if w.fmt = 5 ∨ w.fmt = 6 then 8 else 1
      let as := if nA ≤ r.kept.length then r.kept else r.kept ++ List.take (nA - r.kept.length) (queued w.a)
      let all := if n ≤ as.length then as else as ++ List.take (n - as.length) (queued w.scl)
      let here := AtMe s r ∧ i < 128 ∧ r.kept.length ≤ n ∧ nA ≤ as.length ∧ n ≤ all.length ∧ p.bad = false ∧ (w.scaled
        = true → w.aG = false → w.a ≠ w.scl)
      here ∧ Rising x.w ∧ Rising x.cs ∧ Rising l.b ∧ mmaIntForm w = true) := ⟨
    ⟨(tProduct 2 (tMeRun 0)).onUnit 0 fun u => { u with ae := { u.ae with s := tset u.ae.s 3 { f := [], acts := [tLoad 6 40000 [1, 2]] } } }, tMma, tMeRun 0, by unfold AtMe; decide +kernel⟩,
    ⟨(tProduct 3 (tMeRun 0)).onUnit 0 fun u => { u with ae := { u.ae with s := tset u.ae.s 3 { f := [], acts := [tLoad 2 40000 ((List.range 256).map fun i => (i * 5 + 1) % 256)] } } }, { tMma with fmt := 3, acc := 0, sgnA := false }, tMeRun 0, by unfold AtMe Rising; decide +kernel⟩,
    ⟨tProduct 2 (tMeRun 0), tMma, tMeRun 0, by unfold AtMe Rising; decide +kernel⟩⟩

theorem witness_MatrixLatches :
    (∃ (s : State) (w : LatchOps) (r : MeRun) (a : Act) (y : Elem),
      AtMe s r ∧ w.bG = false ∧ Supplies s w.b a y ∧ streamFmt a.f ∈ mmaFmts w.fmt) ∧
    (∃ (s : State) (w : LatchOps) (r : MeRun),
      AtMe s r ∧ w.bG = true) ∧
    (∃ (s : State) (r : MeRun) (a : Act) (y : Elem) (n : BitVec 4),
      let v := fmtInt (streamFmt a.f) y.bits.toNat
      let key := scrKey s.u (128 * v.toNat)
      AtMe s r ∧ Supplies s n a y ∧ isFloat (streamFmt a.f) = false ∧ 0 ≤ v ∧ 128 * (v + 1) ≤ usable s.u ∧ spoiledAt s
        key 128 = false) ∧
    (∃ (s : State) (r : MeRun) (a : Act) (y : Elem) (n : BitVec 4),
      let v := fmtInt (streamFmt a.f) y.bits.toNat
      AtMe s r ∧ Supplies s n a y ∧ isFloat (streamFmt a.f) = false ∧ (v < 0 ∨ (usable s.u : Int) < 128 * (v + 1))) ∧
    (∃ (s : State) (r : MeRun) (a : Act) (y : Elem) (n : BitVec 4),
      let e := r.ord
      let fp := rawElem 1
      AtMe s r ∧ Supplies s n a y ∧ streamFmt a.f = .fp32 ∧ (e = 0 ∨ r.kept = [fp])) ∧
    (∃ (s : State) (r : MeRun) (a : Act) (y : Elem) (n : BitVec 4),
      let e := r.ord
      let code := rawElem 0
      AtMe s r ∧ Supplies s n a y ∧ streamFmt a.f = .uint8 ∧ (e = 0 ∨ r.kept = [code])) := ⟨
    ⟨tMe (some (tMeRun 0)) [(3, (tLoad 6 40000 [0x83]))] id, tLo false, tMeRun 0, tLoad 6 40000 [0x83],
      tHead (tLoad 6 40000 [0x83]), by unfold Supplies AtMe; decide +kernel⟩,
    ⟨tMe (some (tMeRun 0)) [(3, (tLoad 6 40000 [0x83]))] id, tLo true, tMeRun 0, by unfold AtMe; decide +kernel⟩,
    ⟨tMe (some (tMeRun 0)) [(3, (tLoad 10 40000 [2]))] id, tMeRun 0, tLoad 10 40000 [2], tHead (tLoad 10 40000 [2]),
      3, by unfold Supplies AtMe; decide +kernel⟩,
    ⟨tMe (some (tMeRun 0)) [(3, (tLoad 6 40000 [0x83]))] id, tMeRun 0, tLoad 6 40000 [0x83],
      tHead (tLoad 6 40000 [0x83]), 3, by unfold Supplies AtMe; decide +kernel⟩,
    ⟨tMe (some (tMeRun 0)) [(3, (tLoad 0 40000 [0x83]))] id, tMeRun 0, tLoad 0 40000 [0x83],
      tHead (tLoad 0 40000 [0x83]), 3, by unfold Supplies AtMe; decide +kernel⟩,
    ⟨tMe (some (tMeRun 0)) [(3, (tLoad 7 40000 [0x83]))] id, tMeRun 0, tLoad 7 40000 [0x83],
      tHead (tLoad 7 40000 [0x83]), 3, by unfold Supplies AtMe; decide +kernel⟩⟩

theorem witness_MatrixDrains :
    (∃ (s : State) (r : MeRun) (d f : BitVec 4) (ad : Act),
      let fd := streamFmt ad.f
      AtMe s r ∧ Accepts s d ad ∧ fmtOf f.toNat = some fd) ∧
    (∃ (s : State) (r : MeRun) (t : BitVec 2) (d q : BitVec 4) (sgn : Bool) (aq ad : Act) (y : Elem),
      let st := s.u.me.st
      let x := tileOf s.u (tileEff st r t)
      let fd := streamFmt ad.f
      AtMe s r ∧ Accepts s d ad ∧ Supplies s q aq y ∧ streamFmt aq.f = .int32 ∧ fd = (if sgn then .int8 else .uint8) ∧
        x.int = true ∧ d ≠ q ∧ r.kept.length < 512) ∧
    (∃ (s : State) (r : MeRun) (d : BitVec 4) (sgn : Bool) (ad : Act),
      let fd := streamFmt ad.f
      AtMe s r ∧ Accepts s d ad ∧ fd = (if sgn then .int8 else .uint8) ∧ 512 ≤ r.kept.length) ∧
    (∃ (s : State) (r : MeRun) (d : BitVec 4) (ad : Act),
      let fd := streamFmt ad.f
      AtMe s r ∧ Accepts s d ad ∧ fd = .int32) := ⟨
    ⟨tDrain (tMeRun 0) (tAct 1 0 40000) (tLoad 10 1000 [0x12345]) (tTile true), tMeRun 0, 3, 0, tAct 1 0 40000,
      by unfold Accepts AtMe; decide +kernel⟩,
    ⟨tDrain (tMeRun 0) (tAct 1 6 40000) (tLoad 10 1000 [0x12345]) (tTile true), tMeRun 0, 2, 3, 4, true,
      tLoad 10 1000 [0x12345], tAct 1 6 40000, tEl 0x12345, by unfold Supplies Accepts AtMe; decide +kernel⟩,
    ⟨tDrain ({ tMeRun 0 with kept := (List.range 512).map fun i => tEl (i * 3) }) (tAct 1 6 40000) (tLoad 10 1000 [0x12345]) (tTile true),
      { tMeRun 0 with kept := (List.range 512).map fun i => tEl (i * 3) }, 3, true, tAct 1 6 40000,
      by unfold Accepts AtMe; decide +kernel⟩,
    ⟨tDrain (tMeRun 0) (tAct 1 10 40000) (tLoad 10 1000 [0x12345]) (tTile true), tMeRun 0, 3, tAct 1 10 40000,
      by unfold Accepts AtMe; decide +kernel⟩⟩

theorem witness_MatrixControlAndEntries :
    (∃ (s : State) (r : MeRun),
      AtMe s r) ∧
    (∃ (s : State) (r : MeRun) (t : BitVec 8),
      let u := s.u
      AtMe s r ∧ tokOf u t.toNat ≠ 0) ∧
    (∃ (s : State) (r : MeRun) (t : BitVec 8),
      let u := s.u
      AtMe s r ∧ tokOf u t.toNat = 0 ∧ meLate u r = false) ∧
    (∃ (s : State) (r : MeRun) (t : BitVec 8),
      let u := s.u
      AtMe s r ∧ tokOf u t.toNat = 0 ∧ meLate u r = true ∧ MayHold s) ∧
    (∃ (s : State) (r : MeRun) (t : BitVec 8) (w : _),
      let u := s.u
      AtMe s r ∧ r.words[r.widx]? = some w ∧ w.toNat / 2 ^ 27 = 0x0C ∧ bits w.toNat 17 8 = t.toNat ∧ tokOf u t.toNat ≠
        0) ∧
    (∃ (s : State) (x rest : _),
      let u := s.u
      let me := u.me
      live u = true ∧ me.adds = x :: rest ∧ (x.given.getD []).all (performedTo u) = true ∧ tokOf u x.tok ≠ 0xFFFF) ∧
    (∃ (s : State) (x rest : _),
      let u := s.u
      let me := u.me
      live u = true ∧ me.adds = x :: rest ∧ (x.given.getD []).all (performedTo u) = true ∧ tokOf u x.tok = 0xFFFF) ∧
    (∃ (s : State) (a : BitVec 6) (n1 : BitVec 8),
      let u := s.u
      let me := u.me
      let len := n1.toNat + 1
      let off := gOf s a
      let sec := sectionOf s u 32
      let inside := BitVec.toNat off + len ≤ sec.snd / 4
      let pages := codeCause (unpoll s) (sec.fst + 4 * BitVec.toNat off) (4 * len)
      let room := me.queue.length < Config.queueCap
      CanIssue s [a] ∧ inside ∧ pages = none ∧ room ∧ u.course.active = false) ∧
    (∃ (s : State) (a : BitVec 6) (n1 : BitVec 8),
      let u := s.u
      let me := u.me
      let len := n1.toNat + 1
      let off := gOf s a
      let sec := sectionOf s u 32
      let inside := BitVec.toNat off + len ≤ sec.snd / 4
      let pages := codeCause (unpoll s) (sec.fst + 4 * BitVec.toNat off) (4 * len)
      let room := me.queue.length < Config.queueCap
      ∃ (due : Option Nat) (s' : State), CanIssue s [a] ∧ inside ∧ pages = none ∧ room ∧ u.course.active = true ∧
        courseTake (unpoll s) 2 = Except.ok (due, s')) ∧
    (∃ (s : State) (a : BitVec 6) (n1 : BitVec 8),
      let u := s.u
      let me := u.me
      let len := n1.toNat + 1
      let off := gOf s a
      let sec := sectionOf s u 32
      let inside := BitVec.toNat off + len ≤ sec.snd / 4
      let pages := codeCause (unpoll s) (sec.fst + 4 * BitVec.toNat off) (4 * len)
      let room := me.queue.length < Config.queueCap
      CanIssue s [a] ∧ inside ∧ pages = none ∧ room ∧ u.course.active = true ∧ courseTake (unpoll s) 2 = Except.error
        (Cause.courseTable, 0)) ∧
    (∃ (s : State) (a : BitVec 6) (n1 : BitVec 8),
      let u := s.u
      let me := u.me
      let len := n1.toNat + 1
      let off := gOf s a
      let sec := sectionOf s u 32
      let inside := BitVec.toNat off + len ≤ sec.snd / 4
      let pages := codeCause (unpoll s) (sec.fst + 4 * BitVec.toNat off) (4 * len)
      let room := me.queue.length < Config.queueCap
      CanIssue s [a] ∧ inside ∧ pages = none ∧ ¬room ∧ MayHold s) ∧
    (∃ (s : State) (a : BitVec 6) (n1 : BitVec 8),
      let u := s.u
      let len := n1.toNat + 1
      let off := gOf s a
      let sec := sectionOf s u 32
      let inside := BitVec.toNat off + len ≤ sec.snd / 4
      let pages := codeCause (unpoll s) (sec.fst + 4 * BitVec.toNat off) (4 * len)
      ∃ (c : Cause) (va : Word), CanIssue s [a] ∧ inside ∧ pages = some (c, va) ∧ ∀ (p : FarPlace), c ≠
        Cause.elsewhere p) ∧
    (∃ (s : State) (a : BitVec 6) (n1 : BitVec 8),
      let u := s.u
      let len := n1.toNat + 1
      let off := gOf s a
      let sec := sectionOf s u 32
      let inside := BitVec.toNat off + len ≤ sec.snd / 4
      CanIssue s [a] ∧ ¬inside) ∧
    (∃ (s : State),
      let u := s.u
      let me := u.me
      let room := me.queue.length < Config.queueCap
      ∃ (e : MeEntry), issuing u = true ∧ u.wait = some (Wait.meSpace e) ∧ room ∧ u.course.active = false) ∧
    (∃ (s : State),
      let u := s.u
      let me := u.me
      let room := me.queue.length < Config.queueCap
      ∃ (e : MeEntry) (due : Option Nat) (s' : State), issuing u = true ∧ u.wait = some (Wait.meSpace e) ∧ room ∧
        u.course.active = true ∧ courseTake s 2 = Except.ok (due, s')) ∧
    (∃ (s : State) (a : BitVec 6) (nt : BitVec 1),
      let u := s.u
      let me := u.me
      let free := (∀ (e : MeEntry), e ∈ me.queue → e.nt ≠ nt.toNat) ∧ ∀ (r : MeRun), me.run = some r → r.e.nt ≠
        nt.toNat
      CanIssue s [a] ∧ free) ∧
    (∃ (s : State) (a : BitVec 6) (nt : BitVec 1),
      let u := s.u
      let me := u.me
      let free := (∀ (e : MeEntry), e ∈ me.queue → e.nt ≠ nt.toNat) ∧ ∀ (r : MeRun), me.run = some r → r.e.nt ≠
        nt.toNat
      CanIssue s [a] ∧ ¬free ∧ MayHold s) ∧
    (∃ (s : State) (nt : BitVec 1) (lv : BitVec 3) (f : BitVec 5),
      let u := s.u
      let me := u.me
      let free := (∀ (e : MeEntry), e ∈ me.queue → e.nt ≠ nt.toNat) ∧ ∀ (r : MeRun), me.run = some r → r.e.nt ≠
        nt.toNat
      ∃ (v : Word), issuing u = true ∧ u.wait = some (Wait.ntset nt.toNat lv.toNat f.toNat v) ∧ free) ∧
    (∃ (s : State),
      let u := s.u
      let me := u.me
      ∃ (e : MeEntry) (q : List MeEntry),
      let ls := ntLevels me.st e.nt
      ∃ (cs : List (Option Code)) (ws : List Code), me.queue = e :: q ∧ me.run = none ∧ meLive u = true ∧ (e.due =
        none ∨ u.course.active = false ∨ ∃ (d : Nat), e.due = some d ∧ d ≤ u.course.cc.toNat) ∧ blockWords s 32 e.off
        e.n = Except.ok cs ∧ cs = List.map some ws ∧ ntBad ls ws.length = false) ∧
    (∃ (s : State),
      let u := s.u
      let me := u.me
      ∃ (e : MeEntry) (q : List MeEntry),
      let ls := ntLevels me.st e.nt
      ∃ (cs : List (Option Code)) (ws : List Code), me.queue = e :: q ∧ me.run = none ∧ meLive u = true ∧ (e.due =
        none ∨ u.course.active = false ∨ ∃ (d : Nat), e.due = some d ∧ d ≤ u.course.cc.toNat) ∧ blockWords s 32 e.off
        e.n = Except.ok cs ∧ cs = List.map some ws ∧ ntBad ls ws.length = true) ∧
    (∃ (s : State),
      let u := s.u
      let me := u.me
      ∃ (e : MeEntry) (q : List MeEntry) (cs : List (Option Code)), me.queue = e :: q ∧ me.run = none ∧ meLive u =
        true ∧ (e.due = none ∨ u.course.active = false ∨ ∃ (d : Nat), e.due = some d ∧ d ≤ u.course.cc.toNat) ∧
        blockWords s 32 e.off e.n = Except.ok cs) ∧
    (∃ (s : State),
      let u := s.u
      let me := u.me
      ∃ (e : MeEntry) (q : List MeEntry) (c : Cause) (va : Word), me.queue = e :: q ∧ me.run = none ∧ meLive u = true
        ∧ (e.due = none ∨ u.course.active = false ∨ ∃ (d : Nat), e.due = some d ∧ d ≤ u.course.cc.toNat) ∧ blockWords s
        32 e.off e.n = Except.error (c, va) ∧ ∀ (p : FarPlace), c ≠ Cause.elsewhere p) ∧
    (∃ (s : State),
      let u := s.u
      let me := u.me
      ∃ (r : MeRun), me.run = some r ∧ r.atEnd = true ∧ meLive u = true) ∧
    (∃ (s : State) (t : BitVec 8),
      let u := s.u
      CanIssue s [] ∧ tokOf u t.toNat ≠ 0) ∧
    (∃ (s : State) (t : BitVec 8),
      let u := s.u
      CanIssue s [] ∧ tokOf u t.toNat = 0 ∧ MayHold s) ∧
    (∃ (s : State) (t : BitVec 8),
      let u := s.u
      issuing u = true ∧ u.wait = some (Wait.mtok t.toNat) ∧ tokOf u t.toNat ≠ 0) ∧
    (∃ (s : State),
      let u := s.u
      ∃ (ae : Bool) (ve : Bool) (m : Bool), live u = true ∧ (ae || ve || m) = true ∧ (ae = true → aeExits u = true) ∧
        (ve = true → veExits u = true) ∧ (m = true → meExits u = true)) := ⟨
    ⟨tMe (some (tMeRun 0)) [] id, tMeRun 0, by unfold AtMe; decide +kernel⟩,
    ⟨tMe (some (tMeRun 0)) [] id, tMeRun 0, 7, by unfold AtMe; decide +kernel⟩,
    ⟨tMe (some (tMeRun 0)) [] id, tMeRun 0, 8, by unfold AtMe; decide +kernel⟩,
    ⟨tInCourse 2 (tMe (some (tMeRun 0)) [] id), tMeRun 0, 8, by unfold AtMe MayHold; decide +kernel⟩,
    ⟨tMe (some ({ tMeRun 0 with words := [0x600E0000] })) [] id, { tMeRun 0 with words := [0x600E0000] }, 7,
      0x600E0000, by unfold AtMe; decide +kernel⟩,
    ⟨tMe none [] fun m => { m with adds := [tAdd 7] }, tAdd 7, [], by decide +kernel⟩,
    ⟨tMe none [] fun m => { m with adds := [tAdd 9] }, tAdd 9, [], by decide +kernel⟩,
    ⟨tMe none [] id, 9, 0, by unfold CanIssue; decide +kernel⟩,
    ⟨tInCourse 2 (tMe none [] id), 9, 0, some 13, _, by unfold CanIssue; decide +kernel, by decide +kernel, by decide +kernel, by decide +kernel, by decide +kernel, ok_pair (by decide +kernel)⟩,
    ⟨tTakenCourse (tMe none [] id), 9, 0, by unfold CanIssue; decide +kernel, by decide +kernel, by decide +kernel, by decide +kernel, by decide +kernel, eq_error.2 (by decide +kernel)⟩,
    ⟨tMe none [] fun m => { m with queue := List.replicate 16 tMeEntry }, 9, 0, by unfold CanIssue MayHold; decide +kernel⟩,
    ⟨tNoCode 32 (tMe none [] id), 9, 0, .translation, 0x40050000, by unfold CanIssue; decide +kernel, by decide +kernel, by decide +kernel, fun _ => nofun⟩,
    ⟨tMe none [] id, 11, 0, by unfold CanIssue; decide +kernel⟩,
    ⟨(tMe none [] id).onUnit 0 (tWaits (.meSpace tMeEntry)), tMeEntry, by decide +kernel⟩,
    ⟨tInCourse 2 ((tMe none [] id).onUnit 0 (tWaits (.meSpace tMeEntry))), tMeEntry, some 13, _, by decide +kernel, by decide +kernel, by decide +kernel, by decide +kernel, ok_pair (by decide +kernel)⟩,
    ⟨tMe none [] id, 9, 0, by unfold CanIssue; decide +kernel⟩,
    ⟨tMe none [] fun m => { m with queue := [tMeEntry] }, 9, 0, by unfold CanIssue MayHold; decide +kernel⟩,
    ⟨(tMe none [] id).onUnit 0 (tWaits (.ntset 0 2 1 0x12345)), 0, 2, 1, 0x12345, by decide +kernel⟩,
    ⟨(tBlock 0x2E000000 (tMe none [] fun m => { m with queue := [tMeEntry] })), tMeEntry, [], [some 0x2E000000], [0x2E000000], by decide +kernel, by decide +kernel, by decide +kernel, Or.inl rfl, eq_ok.2 (by decide +kernel), rfl, by decide +kernel⟩,
    ⟨(tBlock 0x2E000000 (tMe none [] fun m => { m with queue := [tMeEntry], st := { m.st with nt := [(0, 2), (1, 9)] } })), tMeEntry, [], [some 0x2E000000], [0x2E000000], by decide +kernel, by decide +kernel, by decide +kernel, Or.inl rfl, eq_ok.2 (by decide +kernel), rfl, by decide +kernel⟩,
    ⟨(tBlock 0x2E000000 (tMe none [] fun m => { m with queue := [tMeEntry] })), tMeEntry, [], [some 0x2E000000], by decide +kernel, by decide +kernel, by decide +kernel, Or.inl rfl, eq_ok.2 (by decide +kernel)⟩,
    ⟨tNoCode 32 (tMe none [] fun m => { m with queue := [tMeEntry] }), tMeEntry, [], .translation, 0x40050000, by decide +kernel, by decide +kernel, by decide +kernel, Or.inl rfl, eq_error.2 (by decide +kernel), fun _ => nofun⟩,
    ⟨tMe (some ({ tMeRun 0 with atEnd := true })) [] id, { tMeRun 0 with atEnd := true }, by decide +kernel⟩,
    ⟨tMe none [] id, 7, by unfold CanIssue; decide +kernel⟩,
    ⟨tMe none [] id, 8, by unfold CanIssue MayHold; decide +kernel⟩,
    ⟨(tMe none [] id).onUnit 0 (tWaits (.mtok 7)), 7, by decide +kernel⟩,
    ⟨tMe (some ({ tMeRun 0 with levels := [{ level := 0, first := 0, len := 1, count := 2 }], widx := 1 })) [] id, false, false, true, by decide +kernel⟩⟩

theorem witness_Leases :
    (∃ (s : State) (prio : BitVec 2),
      let u := s.u
      CanIssue s [] ∧ prio = 0 ∧ u.c.coursed = false) ∧
    (∃ (s : State) (l : BitVec 4) (prio : BitVec 2),
      let u := s.u
      let L := leaseOf u l.toNat
      CanIssue s [] ∧ (prio ≠ 0 ∨ u.c.coursed = true) ∧ ¬ (L.st = .free ∨ L.st = .evicted)) ∧
    (∃ (s : State) (l : BitVec 4) (kind : BitVec 3) (prio : BitVec 2),
      let u := s.u
      let L := leaseOf u l.toNat
      let bayN := bayOf (coreOf u)
      let b := s.bay bayN
      let w := worldOf s s.cur
      CanIssue s [] ∧ (prio ≠ 0 ∨ u.c.coursed = true) ∧ (L.st = .free ∨ L.st = .evicted) ∧ (∀ c, c < 12 → suits b w
        kind c = false)) ∧
    (∃ (s : State) (l : BitVec 4) (kind : BitVec 3) (prio : BitVec 2) (c : _),
      let u := s.u
      let L := leaseOf u l.toNat
      let bayN := bayOf (coreOf u)
      let b := s.bay bayN
      let w := worldOf s s.cur
      CanIssue s [] ∧ (prio ≠ 0 ∨ u.c.coursed = true) ∧ (L.st = .free ∨ L.st = .evicted) ∧ ¬ (∃ q ∈ b.queue,
        q.cur.toNat ≤ prio.toNat) ∧ findCorbel b w kind = some c) ∧
    (∃ (s : State) (l : BitVec 4) (prio : BitVec 2),
      let u := s.u
      let L := leaseOf u l.toNat
      let free := L.st = LState.free ∨ L.st = LState.evicted
      CanIssue s [] ∧ (prio ≠ 0 ∨ u.c.coursed = true) ∧ free) ∧
    (∃ (s : State) (l : BitVec 4) (kind : BitVec 3) (prio : BitVec 2),
      let u := s.u
      let L := leaseOf u l.toNat
      let bayN := bayOf (coreOf u)
      let b := s.bay bayN
      let w := worldOf s s.cur
      let free := L.st = LState.free ∨ L.st = LState.evicted
      let earlier := ∃ (q : LeaseReq), q ∈ b.queue ∧ q.cur.toNat ≤ prio.toNat
      CanIssue s [] ∧ (prio ≠ 0 ∨ u.c.coursed = true) ∧ free ∧ (earlier ∨ b.power = true) ∧ (∃ (c : Nat), c < 12 ∧
        suits b w kind c = true) ∧ b.queue.length < 16) ∧
    (∃ (s : State) (l : BitVec 4) (kind : BitVec 3) (prio : BitVec 2),
      let u := s.u
      let L := leaseOf u l.toNat
      let bayN := bayOf (coreOf u)
      let b := s.bay bayN
      let w := worldOf s s.cur
      let free := L.st = LState.free ∨ L.st = LState.evicted
      let earlier := ∃ (q : LeaseReq), q ∈ b.queue ∧ q.cur.toNat ≤ prio.toNat
      CanIssue s [] ∧ (prio ≠ 0 ∨ u.c.coursed = true) ∧ free ∧ (earlier ∨ b.power = true) ∧ (∃ (c : Nat), c < 12 ∧
        suits b w kind c = true) ∧ 16 ≤ b.queue.length) ∧
    (∃ (s : State) (l : BitVec 4) (prio : BitVec 2) (uid m : _),
      let u := s.u
      let bayN := bayOf (coreOf u)
      let b := s.bay bayN
      CanIssue s [] ∧ (prio ≠ 0 ∨ u.c.coursed = true) ∧ (leaseOf (s.unit uid) m).st = .awake ∧ (uid ≠ s.cur ∨ m ≠
        l.toNat) ∧ (∀ q ∈ b.queue, q.uid ≠ uid ∨ q.l ≠ m)) ∧
    (∃ (s : State) (l : BitVec 4),
      let u := s.u
      let L := leaseOf u l.toNat
      CanIssue s [] ∧ L.st = .free) ∧
    (∃ (s : State) (l : BitVec 4),
      let u := s.u
      let L := leaseOf u l.toNat
      CanIssue s [] ∧ L.st = .evicted) ∧
    (∃ (s : State) (l : BitVec 4),
      let u := s.u
      let L := leaseOf u l.toNat
      CanIssue s [] ∧ L.st = .queued) ∧
    (∃ (s : State) (l : BitVec 4),
      let u := s.u
      let L := leaseOf u l.toNat
      let unasked := fun (g : Nat) => ∀ (q : LeaseReq), q ∈ (s.bay (g / 12)).queue → q.uid ≠ s.cur ∨ q.l ≠ l.toNat
      ∃ (g : Nat), CanIssue s [] ∧ (L.st = LState.waking ∨ L.st = LState.awake) ∧ L.running = false ∧ writesOut u
        l.toNat = false ∧ L.corbel = some g ∧ unasked g) ∧
    (∃ (s : State) (l : BitVec 4),
      let u := s.u
      let L := leaseOf u l.toNat
      CanIssue s [] ∧ (L.st = LState.waking ∨ L.st = LState.awake) ∧ (L.running = true ∨ writesOut u l.toNat = true) ∧
        MayHold s) ∧
    (∃ (s : State) (l : BitVec 4),
      let u := s.u
      let L := leaseOf u l.toNat
      let unasked := fun (g : Nat) => ∀ (q : LeaseReq), q ∈ (s.bay (g / 12)).queue → q.uid ≠ s.cur ∨ q.l ≠ l.toNat
      ∃ (g : Nat), issuing u = true ∧ u.wait = some (Wait.lrel l.toNat) ∧ L.running = false ∧ writesOut u l.toNat =
        false ∧ L.st ≠ LState.evicted ∧ L.corbel = some g ∧ unasked g) ∧
    (∃ (s : State) (l : BitVec 4),
      let u := s.u
      let L := leaseOf u l.toNat
      issuing u = true ∧ u.wait = some (Wait.lrel l.toNat) ∧ L.running = false ∧ writesOut u l.toNat = false ∧ L.st =
        LState.evicted) ∧
    (∃ (s : State),
      CanIssue s []) ∧
    (∃ (s : State) (l : BitVec 4),
      let u := s.u
      let L := leaseOf u l.toNat
      CanIssue s [] ∧ (L.st = .free ∨ L.st = .evicted ∨ L.st = .awake ∧ L.cmds = [])) ∧
    (∃ (s : State) (l : BitVec 4),
      let u := s.u
      let L := leaseOf u l.toNat
      let done := L.st = LState.free ∨ L.st = LState.evicted ∨ L.st = LState.awake ∧ L.cmds = []
      CanIssue s [] ∧ ¬done ∧ MayHold s) ∧
    (∃ (s : State) (l : BitVec 4),
      let u := s.u
      let L := leaseOf u l.toNat
      let done := L.st = LState.free ∨ L.st = LState.evicted ∨ L.st = LState.awake ∧ L.cmds = []
      issuing u = true ∧ u.wait = some (Wait.lease l.toNat) ∧ done) ∧
    (∃ (s : State) (l : BitVec 4) (a : BitVec 6),
      let u := s.u
      let L := leaseOf u l.toNat
      CanIssue s [a] ∧ L.st = .free) ∧
    (∃ (s : State) (l : BitVec 4) (a : BitVec 6),
      let u := s.u
      let L := leaseOf u l.toNat
      CanIssue s [a] ∧ L.st = .evicted) ∧
    (∃ (s : State) (l : BitVec 4) (a : BitVec 6),
      let u := s.u
      let L := leaseOf u l.toNat
      let va := gOf s a
      let la := va.toNat - Config.win
      CanIssue s [a] ∧ L.st ≠ .free ∧ L.st ≠ .evicted ∧ ¬ (Config.win ≤ va.toNat ∧ va.toNat % 64 = 0 ∧ la + 64 ≤
        usable u)) ∧
    (∃ (s : State) (l : BitVec 4) (a : BitVec 6),
      let u := s.u
      let L := leaseOf u l.toNat
      let va := gOf s a
      let la := va.toNat - Config.win
      CanIssue s [a] ∧ L.st ≠ .free ∧ L.st ≠ .evicted ∧ Config.win ≤ va.toNat ∧ va.toNat % 64 = 0 ∧ la + 64 ≤ usable u
        ∧ L.cmds.length < 8 ∧ scrSpoiled s u la 64 = true) ∧
    (∃ (s : State) (l : BitVec 4) (a : BitVec 6),
      let u := s.u
      let L := leaseOf u l.toNat
      let va := gOf s a
      let la := va.toNat - Config.win
      CanIssue s [a] ∧ L.st ≠ .free ∧ L.st ≠ .evicted ∧ Config.win ≤ va.toNat ∧ va.toNat % 64 = 0 ∧ la + 64 ≤ usable u
        ∧ L.cmds.length < 8 ∧ scrSpoiled s u la 64 = false) ∧
    (∃ (s : State) (l : BitVec 4) (a : BitVec 6),
      let u := s.u
      let L := leaseOf u l.toNat
      let va := gOf s a
      let la := BitVec.toNat va - Config.win
      let okBlock := Config.win ≤ BitVec.toNat va ∧ BitVec.toNat va % 64 = 0 ∧ la + 64 ≤ usable u
      CanIssue s [a] ∧ L.st ≠ LState.free ∧ L.st ≠ LState.evicted ∧ okBlock ∧ 8 ≤ L.cmds.length ∧ MayHold s) ∧
    (∃ (s : State) (l : BitVec 4) (pd : BitVec 4) (a : BitVec 6),
      let u := s.u
      let L := leaseOf u l.toNat
      let va := gOf s a
      let la := BitVec.toNat va - Config.win
      let okBlock := Config.win ≤ BitVec.toNat va ∧ BitVec.toNat va % 64 = 0 ∧ la + 64 ≤ usable u
      issuing u = true ∧ u.wait = some (Wait.crun l.toNat pd.toNat va) ∧ L.st ≠ LState.free ∧ L.st ≠ LState.evicted ∧
        okBlock ∧ L.cmds.length < 8 ∧ scrSpoiled s u la 64 = false) := ⟨
    ⟨tLeased (tBay [] id) blankLease none, 0, by unfold CanIssue; decide +kernel⟩,
    ⟨tLeased (tBay [] id) (tLease 0 false) none, 2, 2, by unfold CanIssue; decide +kernel⟩,
    ⟨tLeased (tBay [] fun x => { x with kind := 0 }) blankLease none, 2, 1, 2, by unfold CanIssue; decide +kernel⟩,
    ⟨tLeased (tBay [] id) blankLease none, 2, 1, 2, 2, by unfold CanIssue; decide +kernel⟩,
    ⟨tLeased (tBay [] id) blankLease none, 2, 2, by unfold CanIssue; decide +kernel⟩,
    ⟨tLeased (tBay [tReq 1 0] id) blankLease none, 2, 1, 2, by unfold CanIssue; decide +kernel⟩,
    ⟨tLeased (tBay (List.replicate 16 (tReq 1 0)) id) blankLease none, 2, 1, 2, by unfold CanIssue; decide +kernel⟩,
    ⟨(tLeased (tBay [] id) blankLease none).onUnit 1 fun u => { u with m := { u.m with leases := [(0, tLease 0 false)] } },
      2, 2, 1, 0, by unfold CanIssue; decide +kernel⟩,
    ⟨tLeased (tBay [] id) blankLease none, 2, by unfold CanIssue; decide +kernel⟩,
    ⟨tLeased (tBay [] id) { blankLease with st := .evicted } none, 2, by unfold CanIssue; decide +kernel⟩,
    ⟨tLeased (tBay [] id) { blankLease with st := .queued } none, 2, by unfold CanIssue; decide +kernel⟩,
    ⟨tLeased (tBay [] id) (tLease 0 false) none, 2, 2, by unfold CanIssue; decide +kernel⟩,
    ⟨tLeased (tBay [] id) (tLease 3 true) none, 2, by unfold CanIssue MayHold; decide +kernel⟩,
    ⟨tLeased (tBay [] id) (tLease 0 false) (some (.lrel 2)), 2, 2, by decide +kernel⟩,
    ⟨tLeased (tBay [] id) { tLease 0 false with st := .evicted, corbel := none } (some (.lrel 2)), 2, by decide +kernel⟩,
    ⟨tState, by unfold CanIssue; decide +kernel⟩,
    ⟨tLeased (tBay [] id) blankLease none, 2, by unfold CanIssue; decide +kernel⟩,
    ⟨tLeased (tBay [] id) (tLease 3 true) none, 2, by unfold CanIssue MayHold; decide +kernel⟩,
    ⟨tLeased (tBay [] id) (tLease 0 false) (some (.lease 2)), 2, by decide +kernel⟩,
    ⟨tLeased (tBay [] id) blankLease none, 2, 9, by unfold CanIssue; decide +kernel⟩,
    ⟨tLeased (tBay [] id) { blankLease with st := .evicted } none, 2, 9, by unfold CanIssue; decide +kernel⟩,
    ⟨tLeased (tBay [] id) (tLease 0 false) none, 2, 10, by unfold CanIssue; decide +kernel⟩,
    ⟨{ tLeased (tBay [] id) (tLease 3 true) none with spoiled := [(0x10000000040, List.replicate 64 0)] }, 2, 9,
      by unfold CanIssue; decide +kernel⟩,
    ⟨tLeased (tBay [] id) (tLease 0 false) none, 2, 9, by unfold CanIssue; decide +kernel⟩,
    ⟨tLeased (tBay [] id) (tLease 8 false) none, 2, 9, by unfold CanIssue MayHold; decide +kernel⟩,
    ⟨tLeased (tBay [] id) (tLease 0 false) (some (.crun 2 3 0xFFFFFFFFFFC00040)), 2, 3, 9, by decide +kernel⟩⟩

theorem witness_BayEvents :
    (∃ (s : State) (n c : Nat) (r : LeaseReq) (q : List LeaseReq),
      let b := s.bay n
      queueOrder s n = r :: q ∧ findCorbel b (worldOf s r.uid) r.kind = some c) ∧
    (∃ (s : State) (n : Nat),
      queueOrder s n = []) ∧
    (∃ (s : State) (n : Nat),
      let b := s.bay n
      ∃ (r : LeaseReq), r ∈ b.queue ∧ 2 ^ 20 ≤ r.age) ∧
    (∃ (s : State) (n : Nat) (r : LeaseReq),
      let b := s.bay n
      (∃ r ∈ b.queue, 2 ^ 20 ≤ r.age) ∧ (∀ k, findCorbel b false k = none ∧ findCorbel b true k = none)) ∧
    (∃ (s : State) (n : Nat) (c : Nat) (uid : Nat) (l : Nat),
      let b := s.bay n
      let g := 12 * n + c
      let x := corbelOf s g
      c < 12 ∧ x.holder = some (uid, l) ∧ x.st = CState.waking ∧ x.timer = 0 ∧ ∀ (q : LeaseReq), q ∈ b.queue → q.uid ≠
        uid ∨ q.l ≠ l) ∧
    (∃ (s : State) (n c : Nat),
      let g := 12 * n + c
      let x := corbelOf s g
      c < 12 ∧ x.st = .warm ∧ x.timer = 0) ∧
    (∃ (n : Nat),
      n < 32) ∧
    (∃ (s : State) (temps : List (BitVec 16)) (power : BitVec 16),
      let limit := min 2900 s.smb.pcap.toNat
      let half := fun (k : Nat) => (temps.getD k 0).toNat
      (∀ k, k < 32 → (s.bay k).power = false ∧ (s.bay k).thermal = false ∧ half k ≤ 200) ∧ power.toNat ≤ limit) := ⟨
    ⟨tLeased (tBay [(tReq 1 0)] id) blankLease none, 0, 2, tReq 1 0, [], by decide +kernel⟩,
    ⟨tLeased (tBay [] id) blankLease none, 0, by decide +kernel⟩,
    ⟨tLeased (tBay [tReq 3 (2 ^ 20)] tHeld) blankLease none, 0, tReq 3 (2 ^ 20), by decide +kernel⟩,
    ⟨tLeased (tBay [tReq 3 (2 ^ 20)] tHeld) blankLease none, 0, tReq 1 0, by decide +kernel⟩,
    ⟨tLeased (tBay [] fun c => { tHeld c with st := .waking }) blankLease none, 0, 2, 1, 0, by decide +kernel⟩,
    ⟨tLeased (tBay [] fun c => { c with st := .warm }) blankLease none, 0, 2, by decide +kernel⟩,
    ⟨0, by decide +kernel⟩,
    ⟨tLeased (tBay [] id) blankLease none, [190, 200], 2000, by decide +kernel⟩⟩

theorem witness_CorbelDataCommands :
    (∃ (s : State) (bay c uid l : Nat) (cmd : CorbelCmd) (i code named : _),
      let blk := cmd.blk
      (i, code, named) ∈ ([ (.tkInit bay c, 0x10, [(8, 11)]), (.tkFeed bay c, 0x11, [(8, 27)]), (.tkEmit bay c, 0x12,
        [(8, 23)]), (.tkSample bay c, 0x13, [(8, 31)]), (.tkReset bay c, 0x14, []), (.xpConf bay c, 0x20, [(8, 23)]),
        (.xpTile bay c, 0x21, [(8, 39)]), (.ifBook bay c, 0x30, [(8, 17)]), (.ifRun bay c, 0x31, [(8, 35)]), (.ifReset
        bay c, 0x32, [])] : List (Instr × Nat × List (Nat × Nat))) ∧ c < 12 ∧ headCmd s (12 * bay + c) = some (uid, l,
        cmd) ∧ fieldAt blk 0 1 = code ∧ (code / 16 ≠ (corbelOf s (12 * bay + c)).kind.toNat + 1 ∨ zeroElse blk named =
        false)) ∧
    (∃ (s : State) (bay : Nat) (c : Nat) (uid : Nat) (l : Nat) (cmd : CorbelCmd) (i : Instr) (code : Nat) (named :
  List (Nat × Nat)) (f : State → Nat → CorbelMem → List Byte → CmdRes),
      (i, code, named, f) ∈ [(Instr.tkInit bay c, 16, [(8, 11)], tkInit), (Instr.tkFeed bay c, 17, [(8, 27)], tkFeed),
        (Instr.tkEmit bay c, 18, [(8, 23)], tkEmit), (Instr.tkSample bay c, 19, [(8, 31)], tkSample), (Instr.tkReset bay
        c, 20, [], tkReset), (Instr.xpConf bay c, 32, [(8, 23)], xpConf), (Instr.xpTile bay c, 33, [(8, 39)], xpTile),
        (Instr.ifBook bay c, 48, [(8, 17)], ifBook), (Instr.ifRun bay c, 49, [(8, 35)], ifRun), (Instr.ifReset bay c,
        50, [], ifReset)] ∧ TakesUp s bay c uid l cmd code named) ∧
    (∃ (s : State) (bay c uid l : Nat) (cmd : CorbelCmd),
      let blk := cmd.blk
      TakesUp s bay c uid l cmd 0x10 [(8, 11)] ∧ 1 ≤ fieldAt blk 8 2 ∧ fieldAt blk 8 2 ≤ 1024 ∧ fieldAt blk 10 1 ≤ 1 ∧
        fieldAt blk 11 1 ∈ [0, 1, 2, 10]) ∧
    (∃ (s : State) (bay c uid l : Nat) (cmd : CorbelCmd),
      let blk := cmd.blk
      TakesUp s bay c uid l cmd 0x10 [(8, 11)] ∧ (fieldAt blk 8 2 = 0 ∨ 1024 < fieldAt blk 8 2 ∨ 1 < fieldAt blk 10 1)) ∧
    (∃ (s : State) (bay c uid l : Nat) (cmd : CorbelCmd) (k order fmt fed cands : _),
      let blk := cmd.blk
      let m := (corbelOf s (12 * bay + c)).mem
      let win := InWindow s uid
      let n24 := fieldAt blk 24 4
      let a8 := fieldW blk 8
      let e := fun (fmt : Nat) => fmtBits (tkFmt fmt) / 8
      TakesUp s bay c uid l cmd 0x11 [(8, 27)] ∧ m = .topk k order fmt fed cands ∧ fmt ∈ [0, 1, 2, 10] ∧ 1 ≤ n24 ∧ n24
        ≤ 2 ^ 20 ∧ win a8 (n24 * e fmt) (e fmt)) ∧
    (∃ (s : State) (bay c uid l : Nat) (cmd : CorbelCmd) (k order fmt fed cands : _),
      let blk := cmd.blk
      let m := (corbelOf s (12 * bay + c)).mem
      let win := InWindow s uid
      let a8 := fieldW blk 8
      let a16 := fieldW blk 16
      let e := fun (fmt : Nat) => fmtBits (tkFmt fmt) / 8
      TakesUp s bay c uid l cmd 0x12 [(8, 23)] ∧ m = .topk k order fmt fed cands ∧ fmt ∈ [0, 1, 2, 10] ∧ win a8
        (cands.length * e fmt) (e fmt) ∧ win a16 (cands.length * 8) 8) ∧
    (∃ (s : State) (bay c uid l : Nat) (cmd : CorbelCmd) (k order fmt fed x cands : _),
      let blk := cmd.blk
      let m := (corbelOf s (12 * bay + c)).mem
      let win := InWindow s uid
      let a8 := fieldW blk 8
      TakesUp s bay c uid l cmd 0x13 [(8, 31)] ∧ m = .topk k order fmt fed (x :: cands) ∧ fmt ∈ [0, 1, 2] ∧ win a8 8 8) ∧
    (∃ (s : State) (bay c uid l : Nat) (cmd : CorbelCmd),
      TakesUp s bay c uid l cmd 0x14 []) ∧
    (∃ (s : State) (bay c uid l : Nat) (cmd : CorbelCmd),
      let blk := cmd.blk
      let m := (corbelOf s (12 * bay + c)).mem
      let n24 := fieldAt blk 24 4
      TakesUp s bay c uid l cmd 0x11 [(8, 27)] ∧ 1 ≤ n24 ∧ n24 ≤ 2 ^ 20 ∧ m = .clear) ∧
    (∃ (s : State) (bay c uid l : Nat) (cmd : CorbelCmd),
      let blk := cmd.blk
      let dim := fun (k : Nat) => 1 ≤ k ∧ k ≤ 256
      let rows := fieldAt blk 12 2
      let cols := fieldAt blk 14 2
      TakesUp s bay c uid l cmd 0x20 [(8, 23)] ∧ fieldAt blk 8 1 ≤ 9 ∧ fieldAt blk 9 1 ≤ 9 ∧ fieldAt blk 10 1 ≤ 1 ∧
        fieldAt blk 11 1 ≤ 1 ∧ dim rows ∧ dim cols ∧ (fieldAt blk 9 1 ∈ [5, 8] → rows % 32 = 0) ∧ (fieldAt blk 8 1 ∈
        [5, 8] → cols % 32 = 0) ∧ rowSize (tkFmt (fieldAt blk 8 1)) cols ≤ fieldAt blk 16 4 ∧ rowSize (tkFmt (fieldAt
        blk 9 1)) rows ≤ fieldAt blk 20 4) ∧
    (∃ (s : State) (bay c uid l : Nat) (cmd : CorbelCmd) (cf : _),
      let blk := cmd.blk
      let m := (corbelOf s (12 * bay + c)).mem
      let win := InWindow s uid
      let a8 := fieldW blk 8
      let a16 := fieldW blk 16
      let fi := tkFmt (fieldAt cf 8 1)
      let fo := tkFmt (fieldAt cf 9 1)
      let rows := fieldAt cf 12 2
      let cols := fieldAt cf 14 2
      let src := fun (r : Nat) => a8 + BitVec.ofNat 64 (r * fieldAt cf 16 4)
      let dst := fun (j : Nat) => a16 + BitVec.ofNat 64 (j * fieldAt cf 20 4)
      let ei := fmtBits fi / 8
      let eo := fmtBits fo / 8
      TakesUp s bay c uid l cmd 0x21 [(8, 39)] ∧ m = .xpose cf ∧ fieldAt cf 8 1 ∈ [0, 1, 2, 6, 7] ∧ fieldAt cf 9 1 ∈
        [0, 1, 2, 4, 6, 7] ∧ 1 ≤ rows ∧ 1 ≤ cols ∧ fieldW blk 24 = 0 ∧ fieldW blk 32 = 0 ∧ (∀ r, r < rows → win (src
        r) (cols * ei) ei) ∧ (∀ j, j < cols → win (dst j) (rows * eo) eo)) ∧
    (∃ (s : State) (bay c uid l : Nat) (cmd : CorbelCmd),
      let blk := cmd.blk
      let rd := winBytes s uid
      let win := InWindow s uid
      let a8 := fieldW blk 8
      let lens := rd a8 (fieldAt blk 16 2)
      let used := lens.filter (· ≠ 0)
      let weight : Nat := (used.map fun b => 2 ^ (15 - b.toNat)).sum
      TakesUp s bay c uid l cmd 0x30 [(8, 17)] ∧ 1 ≤ fieldAt blk 16 2 ∧ fieldAt blk 16 2 ≤ 4096 ∧ win a8 (fieldAt blk
        16 2) 1 ∧ (∀ b ∈ lens, b.toNat ≤ 15) ∧ weight ≤ 2 ^ 15) ∧
    (∃ (s : State) (bay c uid l : Nat) (cmd : CorbelCmd),
      let blk := cmd.blk
      let rd := winBytes s uid
      let win := InWindow s uid
      let a8 := fieldW blk 8
      let lens := rd a8 (fieldAt blk 16 2)
      let used := lens.filter (· ≠ 0)
      let weight : Nat := (used.map fun b => 2 ^ (15 - b.toNat)).sum
      TakesUp s bay c uid l cmd 0x30 [(8, 17)] ∧ 1 ≤ fieldAt blk 16 2 ∧ fieldAt blk 16 2 ≤ 4096 ∧ win a8 (fieldAt blk
        16 2) 1 ∧ ((∃ b ∈ lens, 15 < b.toNat) ∨ 2 ^ 15 < weight)) ∧
    (∃ (s : State) (bay : Nat) (c : Nat) (uid : Nat) (l : Nat) (cmd : CorbelCmd),
      let blk := cmd.blk
      let m := (corbelOf s (12 * bay + c)).mem
      let rd := winBytes s uid
      let win := InWindow s uid
      let a8 := fieldW blk 8
      ∃ (lens : List Byte) (pos : Nat),
      let limit := fieldAt blk 16 8
      let n := fieldAt blk 32 4
      let len := (min limit (pos + 15 * n) + 7) / 8 - pos / 8
      let va := a8 + BitVec.ofNat 64 (pos / 8)
      let bit := fun (p : Nat) => if limit ≤ p then none else Option.map (fun (b : Byte) => BitVec.getLsbD b (p % 8))
        (rd va len)[p / 8 - pos / 8]?
      let d := ifSymbols lens bit n pos
      TakesUp s bay c uid l cmd 49 [(8, 35)] ∧ m = CorbelMem.infl lens pos ∧ 1 ≤ fieldAt blk 32 4 ∧ fieldAt blk 32 4 ≤
        2 ^ 20 ∧ win va len 1 ∧ d.snd.snd = none ∧ win (fieldW blk 24) (2 * n) 2) ∧
    (∃ (s : State) (bay c uid l : Nat) (cmd : CorbelCmd) (lens pos : _),
      let m := (corbelOf s (12 * bay + c)).mem
      TakesUp s bay c uid l cmd 0x32 [] ∧ m = .infl lens pos) := ⟨
    ⟨tRun 0 (.clear) (tCmd [(0, 1, 0x10), (1, 1, 7)]), 0, 3, 0, 2, tCmd [(0, 1, 0x10), (1, 1, 7)],
      .tkInit (0 : Nat) (3 : Nat), 0x10, [(8, 11)], by decide +kernel⟩,
    ⟨tRun 0 (.clear) (tCmd [(0, 1, 0x10), (8, 2, 1024), (10, 1, 1), (11, 1, 10)]), 0, 3, 0, 2, tCmd [(0, 1, 0x10), (8, 2, 1024), (10, 1, 1), (11, 1, 10)], .tkInit (0 : Nat) (3 : Nat), 16, [(8, 11)], tkInit, List.mem_cons_self, by unfold TakesUp; decide +kernel⟩,
    ⟨tRun 0 (.clear) (tCmd [(0, 1, 0x10), (8, 2, 1024), (10, 1, 1), (11, 1, 10)]), 0, 3, 0, 2,
      tCmd [(0, 1, 0x10), (8, 2, 1024), (10, 1, 1), (11, 1, 10)], by unfold TakesUp; decide +kernel⟩,
    ⟨tRun 0 (.clear) (tCmd [(0, 1, 0x10), (8, 2, 1025)]), 0, 3, 0, 2, tCmd [(0, 1, 0x10), (8, 2, 1025)],
      by unfold TakesUp; decide +kernel⟩,
    ⟨tRun 0 (.topk 2 0 0 5 [(0x40400000, 7), (0x3F800000, 9)]) (tCmd [(0, 1, 0x11), (8, 8, tAt 64), (16, 8, 77), (24, 4, 3)]),
      0, 3, 0, 2, tCmd [(0, 1, 0x11), (8, 8, tAt 64), (16, 8, 77), (24, 4, 3)], 2, 0, 0, 5,
      [(0x40400000, 7), (0x3F800000, 9)], by unfold TakesUp InWindow; decide +kernel⟩,
    ⟨tRun 0 (.topk 2 0 0 5 [(0x40400000, 7), (0x3F800000, 9)]) (tCmd [(0, 1, 0x12), (8, 8, tAt 64), (16, 8, tAt 128)]),
      0, 3, 0, 2, tCmd [(0, 1, 0x12), (8, 8, tAt 64), (16, 8, tAt 128)], 2, 0, 0, 5,
      [(0x40400000, 7), (0x3F800000, 9)], by unfold TakesUp InWindow; decide +kernel⟩,
    ⟨tRun 0 (.topk 2 0 0 5 [(0x40400000, 7), (0x3F800000, 9)]) (tCmd [(0, 1, 0x13), (8, 8, tAt 64), (16, 8, 5), (24, 8, 3)]),
      0, 3, 0, 2, tCmd [(0, 1, 0x13), (8, 8, tAt 64), (16, 8, 5), (24, 8, 3)], 2, 0, 0, 5, (0x40400000, 7),
      [(0x3F800000, 9)], by unfold TakesUp InWindow; decide +kernel⟩,
    ⟨tRun 0 (.topk 2 0 0 5 [(0x40400000, 7), (0x3F800000, 9)]) (tCmd [(0, 1, 0x14)]), 0, 3, 0, 2, tCmd [(0, 1, 0x14)],
      by unfold TakesUp; decide +kernel⟩,
    ⟨tRun 0 (.clear) (tCmd [(0, 1, 0x11), (8, 8, tAt 64), (16, 8, 77), (24, 4, 3)]), 0, 3, 0, 2,
      tCmd [(0, 1, 0x11), (8, 8, tAt 64), (16, 8, 77), (24, 4, 3)], by unfold TakesUp; decide +kernel⟩,
    ⟨tRun 1 (.clear) (tCmd [(0, 1, 0x20), (8, 1, 0), (9, 1, 2), (10, 1, 1), (11, 1, 1), (12, 2, 3), (14, 2, 4), (16, 4, 32), (20, 4, 64)]),
      0, 3, 0, 2,
      tCmd [(0, 1, 0x20), (8, 1, 0), (9, 1, 2), (10, 1, 1), (11, 1, 1), (12, 2, 3), (14, 2, 4), (16, 4, 32), (20, 4, 64)],
      by unfold TakesUp; decide +kernel⟩,
    ⟨tRun 1 (.xpose tXp) (tCmd [(0, 1, 0x21), (8, 8, tAt 256), (16, 8, tAt 1024)]), 0, 3, 0, 2,
      tCmd [(0, 1, 0x21), (8, 8, tAt 256), (16, 8, tAt 1024)], tXp, by unfold TakesUp InWindow; decide +kernel⟩,
    ⟨tRun 2 (.clear) (tCmd [(0, 1, 0x30), (8, 8, tAt 8192), (16, 2, 4)]), 0, 3, 0, 2,
      tCmd [(0, 1, 0x30), (8, 8, tAt 8192), (16, 2, 4)], by unfold TakesUp InWindow; decide +kernel⟩,
    ⟨tRun 2 (.clear) (tCmd [(0, 1, 0x30), (8, 8, tAt 0), (16, 2, 4)]), 0, 3, 0, 2,
      tCmd [(0, 1, 0x30), (8, 8, tAt 0), (16, 2, 4)], by unfold TakesUp InWindow; decide +kernel⟩,
    ⟨tRun 2 (.infl [1, 2, 2] 3) (tCmd [(0, 1, 0x31), (8, 8, tAt 0), (16, 8, 200), (24, 8, tAt 256), (32, 4, 6)]), 0,
      3, 0, 2, tCmd [(0, 1, 0x31), (8, 8, tAt 0), (16, 8, 200), (24, 8, tAt 256), (32, 4, 6)], [1, 2, 2], 3,
      by unfold TakesUp InWindow; decide +kernel⟩,
    ⟨tRun 2 (.infl [1, 2, 2] 3) (tCmd [(0, 1, 0x32)]), 0, 3, 0, 2, tCmd [(0, 1, 0x32)], [1, 2, 2], 3,
      by unfold TakesUp; decide +kernel⟩⟩

theorem witness_CorbelStateCommands :
    (∃ (s : State) (bay c uid l : Nat) (cmd : CorbelCmd) (i code named : _),
      let blk := cmd.blk
      (i, code, named) ∈ ([ (.slKey bay c, 0x40, [(8, 8)]), (.slIv bay c, 0x41, [(8, 27)]), (.slEnc bay c, 0x42, [(8,
        27)]), (.slDec bay c, 0x43, [(8, 27)]), (.slFin bay c, 0x44, [(8, 15)]), (.scConf bay c, 0x50, [(8, 10)]),
        (.scRun bay c, 0x51, [(8, 27)]), (.scHist bay c, 0x52, [(8, 32)]), (.scCompact bay c, 0x53, [(8, 35)]),
        (.scCarry bay c, 0x54, [(8, 16)]), (.rlDesc bay c, 0x60, [(8, 32)]), (.rlMove bay c, 0x61, [(8, 27)]),
        (.rlFlush bay c, 0x62, [])] : List (Instr × Nat × List (Nat × Nat))) ∧ c < 12 ∧ headCmd s (12 * bay + c) =
        some (uid, l, cmd) ∧ fieldAt blk 0 1 = code ∧ (code / 16 ≠ (corbelOf s (12 * bay + c)).kind.toNat + 1 ∨
        zeroElse blk named = false)) ∧
    (∃ (s : State) (bay : Nat) (c : Nat) (uid : Nat) (l : Nat) (cmd : CorbelCmd) (i : Instr) (code : Nat) (named :
  List (Nat × Nat)) (f : State → Nat → CorbelMem → List Byte → CmdRes),
      (i, code, named, f) ∈ [(Instr.slKey bay c, 64, [(8, 8)], slKey), (Instr.slIv bay c, 65, [(8, 27)], slIv),
        (Instr.slEnc bay c, 66, [(8, 27)], slData true), (Instr.slDec bay c, 67, [(8, 27)], slData false), (Instr.slFin
        bay c, 68, [(8, 15)], slFin), (Instr.scConf bay c, 80, [(8, 10)], scConf), (Instr.scRun bay c, 81, [(8, 27)],
        scRun), (Instr.scHist bay c, 82, [(8, 32)], scHist), (Instr.scCompact bay c, 83, [(8, 35)], scCompact),
        (Instr.scCarry bay c, 84, [(8, 16)], scCarry), (Instr.rlDesc bay c, 96, [(8, 32)], rlDesc), (Instr.rlMove bay c,
        97, [(8, 27)], rlMove), (Instr.rlFlush bay c, 98, [], rlFlush)] ∧ TakesUp s bay c uid l cmd code named) ∧
    (∃ (s : State) (bay c uid l : Nat) (cmd : CorbelCmd) (key : _),
      let blk := cmd.blk
      TakesUp s bay c uid l cmd 0x40 [(8, 8)] ∧ fieldAt blk 8 1 < 16 ∧ tfind (s.vf (s.unit uid).id.vf).slots (fieldAt
        blk 8 1) = some key) ∧
    (∃ (s : State) (bay c uid l : Nat) (cmd : CorbelCmd),
      let blk := cmd.blk
      TakesUp s bay c uid l cmd 0x40 [(8, 8)] ∧ fieldAt blk 8 1 < 16 ∧ tfind (s.vf (s.unit uid).id.vf).slots (fieldAt
        blk 8 1) = none) ∧
    (∃ (s : State) (bay c uid l : Nat) (cmd : CorbelCmd) (key msg : _),
      let blk := cmd.blk
      let m := (corbelOf s (12 * bay + c)).mem
      let win := InWindow s uid
      let n24 := fieldAt blk 24 4
      let a8 := fieldW blk 8
      let a16 := fieldW blk 16
      TakesUp s bay c uid l cmd 0x41 [(8, 27)] ∧ m = .sealed key msg ∧ n24 ≤ 2 ^ 20 ∧ win a8 12 1 ∧ win a16 n24 1) ∧
    (∃ (s : State) (bay c uid l : Nat) (cmd : CorbelCmd) (key msg : _),
      let blk := cmd.blk
      let m := (corbelOf s (12 * bay + c)).mem
      let win := InWindow s uid
      let n24 := fieldAt blk 24 4
      let a8 := fieldW blk 8
      let a16 := fieldW blk 16
      m = .sealed key (some msg) ∧ 1 ≤ n24 ∧ n24 ≤ 2 ^ 20 ∧ (a8 = a16 ∨ a8.toNat + n24 ≤ a16.toNat ∨ a16.toNat + n24 ≤
        a8.toNat) ∧ win a8 n24 1 ∧ win a16 n24 1 ∧ msg.last = false ∧ TakesUp s bay c uid l cmd 0x42 [(8, 27)] ∧
        msg.enc ≠ some false) ∧
    (∃ (s : State) (bay c uid l : Nat) (cmd : CorbelCmd) (key msg : _),
      let blk := cmd.blk
      let m := (corbelOf s (12 * bay + c)).mem
      let win := InWindow s uid
      let n24 := fieldAt blk 24 4
      let a8 := fieldW blk 8
      let a16 := fieldW blk 16
      m = .sealed key (some msg) ∧ 1 ≤ n24 ∧ n24 ≤ 2 ^ 20 ∧ (a8 = a16 ∨ a8.toNat + n24 ≤ a16.toNat ∨ a16.toNat + n24 ≤
        a8.toNat) ∧ win a8 n24 1 ∧ win a16 n24 1 ∧ msg.last = false ∧ TakesUp s bay c uid l cmd 0x43 [(8, 27)] ∧
        msg.enc ≠ some true ∧ msg.decs < 64 ∧ (msg.areas.map (·.2)).foldl (· + ·) 0 + n24 ≤ 2 ^ 20) ∧
    (∃ (s : State) (bay c uid l : Nat) (cmd : CorbelCmd) (key msg : _),
      let blk := cmd.blk
      let m := (corbelOf s (12 * bay + c)).mem
      let win := InWindow s uid
      let a8 := fieldW blk 8
      TakesUp s bay c uid l cmd 0x44 [(8, 15)] ∧ m = .sealed key (some msg) ∧ win a8 16 1 ∧ msg.enc ≠ some false) ∧
    (∃ (s : State) (bay c uid l : Nat) (cmd : CorbelCmd) (key msg : _),
      let blk := cmd.blk
      let m := (corbelOf s (12 * bay + c)).mem
      let rd := winBytes s uid
      let win := InWindow s uid
      let a8 := fieldW blk 8
      let tag := gcmTag (roundKeys key) msg.iv msg.hash msg.aadLen msg.len
      TakesUp s bay c uid l cmd 0x44 [(8, 15)] ∧ m = .sealed key (some msg) ∧ win a8 16 1 ∧ msg.enc = some false ∧ rd
        a8 16 = tag) ∧
    (∃ (s : State) (bay c uid l : Nat) (cmd : CorbelCmd) (key msg : _),
      let blk := cmd.blk
      let m := (corbelOf s (12 * bay + c)).mem
      let rd := winBytes s uid
      let win := InWindow s uid
      let a8 := fieldW blk 8
      let tag := gcmTag (roundKeys key) msg.iv msg.hash msg.aadLen msg.len
      TakesUp s bay c uid l cmd 0x44 [(8, 15)] ∧ m = .sealed key (some msg) ∧ win a8 16 1 ∧ msg.enc = some false ∧ rd
        a8 16 ≠ tag ∧ (∀ a ∈ msg.areas, win a.1 a.2 1)) ∧
    (∃ (s : State) (bay c uid l : Nat) (cmd : CorbelCmd),
      let blk := cmd.blk
      TakesUp s bay c uid l cmd 0x50 [(8, 10)] ∧ fieldAt blk 8 1 ∈ [0, 10, 11] ∧ fieldAt blk 9 1 ≤ 2 ∧ fieldAt blk 10
        1 ≤ 1) ∧
    (∃ (s : State) (bay c uid l : Nat) (cmd : CorbelCmd) (fmt op excl carry : _),
      let blk := cmd.blk
      let m := (corbelOf s (12 * bay + c)).mem
      let win := InWindow s uid
      let n24 := fieldAt blk 24 4
      let a8 := fieldW blk 8
      let a16 := fieldW blk 16
      let f := tkFmt fmt
      let e := fmtBits f / 8
      m = .scan fmt op excl carry ∧ fmt ∈ [0, 10, 11] ∧ TakesUp s bay c uid l cmd 0x51 [(8, 27)] ∧ 1 ≤ n24 ∧ n24 ≤ 2 ^
        20 ∧ win a8 (n24 * e) e ∧ win a16 (n24 * e) e) ∧
    (∃ (s : State) (bay c uid l : Nat) (cmd : CorbelCmd) (fmt op excl carry : _),
      let blk := cmd.blk
      let m := (corbelOf s (12 * bay + c)).mem
      let win := InWindow s uid
      let n24 := fieldAt blk 24 4
      let a8 := fieldW blk 8
      let a16 := fieldW blk 16
      let f := tkFmt fmt
      let e := fmtBits f / 8
      let nb := fieldAt blk 28 4
      m = .scan fmt op excl carry ∧ fmt ∈ [0, 10, 11] ∧ TakesUp s bay c uid l cmd 0x52 [(8, 32)] ∧ 1 ≤ n24 ∧ n24 ≤ 2 ^
        20 ∧ fmt ≠ 0 ∧ 1 ≤ nb ∧ nb ≤ 65536 ∧ nb &&& (nb - 1) = 0 ∧ fieldAt blk 32 1 ≤ 63 ∧ win a8 (n24 * e) e ∧ win
        a16 (4 * nb) 4 ∧ (∀ k, k < nb → scrSpoiled s (s.unit uid) (a16.toNat - Config.win + 4 * k) 4 = false)) ∧
    (∃ (s : State) (bay c uid l : Nat) (cmd : CorbelCmd) (fmt op excl carry : _),
      let blk := cmd.blk
      let m := (corbelOf s (12 * bay + c)).mem
      let rd := winBytes s uid
      let win := InWindow s uid
      let a8 := fieldW blk 8
      let a16 := fieldW blk 16
      let f := tkFmt fmt
      let e := fmtBits f / 8
      let xs := fun (n : Nat) => (List.range n).map fun i => fieldAt (rd a8 (n * e)) (e * i) e
      let n32 := fieldAt blk 32 4
      let kept := ((xs n32).zip (rd a16 n32)).filter fun p => p.2 ≠ 0
      m = .scan fmt op excl carry ∧ fmt ∈ [0, 10, 11] ∧ TakesUp s bay c uid l cmd 0x53 [(8, 35)] ∧ 1 ≤ n32 ∧ n32 ≤ 2 ^
        20 ∧ win a8 (n32 * e) e ∧ win a16 n32 1 ∧ win (fieldW blk 24) (kept.length * e) e) ∧
    (∃ (s : State) (bay c uid l : Nat) (cmd : CorbelCmd) (fmt op excl carry : _),
      let blk := cmd.blk
      let m := (corbelOf s (12 * bay + c)).mem
      let win := InWindow s uid
      let a8 := fieldW blk 8
      let dir := fieldAt blk 16 1
      m = .scan fmt op excl carry ∧ fmt ∈ [0, 10, 11] ∧ TakesUp s bay c uid l cmd 0x54 [(8, 16)] ∧ win a8 8 8 ∧ dir =
        1) ∧
    (∃ (s : State) (bay c uid l : Nat) (cmd : CorbelCmd) (fmt op excl carry : _),
      let blk := cmd.blk
      let m := (corbelOf s (12 * bay + c)).mem
      let win := InWindow s uid
      let a8 := fieldW blk 8
      let dir := fieldAt blk 16 1
      m = .scan fmt op excl carry ∧ fmt ∈ [0, 10, 11] ∧ TakesUp s bay c uid l cmd 0x54 [(8, 16)] ∧ win a8 8 8 ∧ dir =
        0) ∧
    (∃ (s : State) (bay c uid l : Nat) (cmd : CorbelCmd),
      let blk := cmd.blk
      let np := fieldAt blk 16 4
      let ps := fieldAt blk 20 4
      let h := fieldAt blk 28 2
      let d := fieldAt blk 30 2
      TakesUp s bay c uid l cmd 0x60 [(8, 32)] ∧ 1 ≤ np ∧ np ≤ 65536 ∧ 4096 ≤ ps ∧ ps ≤ 2 ^ 21 ∧ ps &&& (ps - 1) = 0 ∧
        fieldAt blk 24 1 ≤ 4 ∧ fieldAt blk 25 1 ≤ 4 ∧ fieldAt blk 26 1 ≤ 1 ∧ fieldAt blk 27 1 ≤ 1 ∧ 1 ≤ h ∧ h ≤ 256 ∧
        1 ≤ d ∧ d ≤ 1024 ∧ fieldAt blk 32 1 ≤ 1 ∧ ps % (h * d * (fmtBits (tkFmt (fieldAt blk 25 1)) / 8)) = 0) ∧
    (∃ (s : State) (bay c uid l : Nat) (cmd : CorbelCmd) (cf : _),
      let blk := cmd.blk
      let m := (corbelOf s (12 * bay + c)).mem
      let rd := winBytes s uid
      let win := InWindow s uid
      let n24 := fieldAt blk 24 4
      let a8 := fieldW blk 8
      let e := fmtBits (tkFmt (fieldAt cf 24 1)) / 8
      let len := n24 * (fieldAt cf 28 2 * fieldAt cf 30 2 * e)
      let moved := rlTokens s uid cf n24 (fieldAt blk 16 8) (rd a8 len)
      TakesUp s bay c uid l cmd 0x61 [(8, 27)] ∧ m = .relay cf ∧ 1 ≤ n24 ∧ n24 ≤ 2 ^ 20 ∧ win a8 len e ∧ win (fieldW
        cf 8) (8 * fieldAt cf 16 4) 8 ∧ moved.2 = none ∧ (∀ w ∈ moved.1, win w.va w.bs.length w.e)) ∧
    (∃ (s : State) (bay : Nat) (c : Nat) (uid : Nat) (l : Nat) (cmd : CorbelCmd),
      TakesUp s bay c uid l cmd 98 []) ∧
    (∃ (s : State) (bay : Nat) (c : Nat) (uid : Nat) (l : Nat) (st : BitVec 2) (res : BitVec 32),
      let u := s.unit uid
      let L := leaseOf u l
      c < 12 ∧ (corbelOf s (12 * bay + c)).holder = some (uid, l) ∧ L.ending = some (st, res) ∧ L.running = true ∧
        (live u = true ∨ u.st = UState.suspended) ∧ writesOut u l = false) := ⟨
    ⟨tRun 3 (.clear) (tCmd [(0, 1, 0x40), (1, 1, 7)]), 0, 3, 0, 2, tCmd [(0, 1, 0x40), (1, 1, 7)],
      .slKey (0 : Nat) (3 : Nat), 0x40, [(8, 8)], by decide +kernel⟩,
    ⟨tRun 3 (.clear) (tCmd [(0, 1, 0x40), (8, 1, 3)]), 0, 3, 0, 2, tCmd [(0, 1, 0x40), (8, 1, 3)], .slKey (0 : Nat) (3 : Nat), 64, [(8, 8)], slKey, List.mem_cons_self, by unfold TakesUp; decide +kernel⟩,
    ⟨tRun 3 (.clear) (tCmd [(0, 1, 0x40), (8, 1, 3)]), 0, 3, 0, 2, tCmd [(0, 1, 0x40), (8, 1, 3)], tKey,
      by unfold TakesUp; decide +kernel⟩,
    ⟨tRun 3 (.clear) (tCmd [(0, 1, 0x40), (8, 1, 4)]), 0, 3, 0, 2, tCmd [(0, 1, 0x40), (8, 1, 4)],
      by unfold TakesUp; decide +kernel⟩,
    ⟨tRun 3 (.sealed tKey none) (tCmd [(0, 1, 0x41), (8, 8, tAt 64), (16, 8, tAt 100), (24, 4, 21)]), 0, 3, 0, 2,
      tCmd [(0, 1, 0x41), (8, 8, tAt 64), (16, 8, tAt 100), (24, 4, 21)], tKey, none,
      by unfold TakesUp InWindow; decide +kernel⟩,
    ⟨tRun 3 (.sealed tKey (some (tMsg none []))) (tCmd [(0, 1, 0x42), (8, 8, tAt 64), (16, 8, tAt 256), (24, 4, 20)]),
      0, 3, 0, 2, tCmd [(0, 1, 0x42), (8, 8, tAt 64), (16, 8, tAt 256), (24, 4, 20)], tKey, tMsg none [],
      by unfold TakesUp InWindow; decide +kernel⟩,
    ⟨tRun 3 (.sealed tKey (some (tMsg none []))) (tCmd [(0, 1, 0x43), (8, 8, tAt 64), (16, 8, tAt 256), (24, 4, 20)]),
      0, 3, 0, 2, tCmd [(0, 1, 0x43), (8, 8, tAt 64), (16, 8, tAt 256), (24, 4, 20)], tKey, tMsg none [],
      by unfold TakesUp InWindow; decide +kernel⟩,
    ⟨tRun 3 (.sealed tKey (some (tMsg none []))) (tCmd [(0, 1, 0x44), (8, 8, tAt 64)]), 0, 3, 0, 2,
      tCmd [(0, 1, 0x44), (8, 8, tAt 64)], tKey, tMsg none [], by unfold TakesUp InWindow; decide +kernel⟩,
    ⟨let s0 := tRun 3 (.sealed tKey (some (tMsg (some false) []))) (tCmd [(0, 1, 0x44), (8, 8, tAt 64)]); { s0 with mem := memPut s0.mem 0x10000000040 (gcmTag (roundKeys tKey) (tMsg (some false) []).iv (tMsg (some false) []).hash (tMsg (some false) []).aadLen (tMsg (some false) []).len) },
      0, 3, 0, 2, tCmd [(0, 1, 0x44), (8, 8, tAt 64)], tKey, tMsg (some false) [],
      by unfold TakesUp InWindow; decide +kernel⟩,
    ⟨tRun 3 (.sealed tKey (some ((tMsg (some false) [(BitVec.ofNat 64 (tAt 512), 20)])))) (tCmd [(0, 1, 0x44), (8, 8, tAt 64)]),
      0, 3, 0, 2, tCmd [(0, 1, 0x44), (8, 8, tAt 64)], tKey, tMsg (some false) [(BitVec.ofNat 64 (tAt 512), 20)],
      by unfold TakesUp InWindow; decide +kernel⟩,
    ⟨tRun 4 (.clear) (tCmd [(0, 1, 0x50), (8, 1, 10), (9, 1, 2), (10, 1, 1)]), 0, 3, 0, 2,
      tCmd [(0, 1, 0x50), (8, 1, 10), (9, 1, 2), (10, 1, 1)], by unfold TakesUp; decide +kernel⟩,
    ⟨tRun 4 (.scan 10 0 false 7) (tCmd [(0, 1, 0x51), (8, 8, tAt 64), (16, 8, tAt 512), (24, 4, 5)]), 0, 3, 0, 2,
      tCmd [(0, 1, 0x51), (8, 8, tAt 64), (16, 8, tAt 512), (24, 4, 5)], 10, 0, false, 7,
      by unfold TakesUp InWindow; decide +kernel⟩,
    ⟨tRun 4 (.scan 10 0 false 7) (tCmd [(0, 1, 0x52), (8, 8, tAt 64), (16, 8, tAt 512), (24, 4, 5), (28, 4, 8), (32, 1, 3)]),
      0, 3, 0, 2, tCmd [(0, 1, 0x52), (8, 8, tAt 64), (16, 8, tAt 512), (24, 4, 5), (28, 4, 8), (32, 1, 3)], 10, 0,
      false, 7, by unfold TakesUp InWindow; decide +kernel⟩,
    ⟨tRun 4 (.scan 10 0 false 7) (tCmd [(0, 1, 0x53), (8, 8, tAt 64), (16, 8, tAt 512), (24, 8, tAt 1024), (32, 4, 5)]),
      0, 3, 0, 2, tCmd [(0, 1, 0x53), (8, 8, tAt 64), (16, 8, tAt 512), (24, 8, tAt 1024), (32, 4, 5)], 10, 0, false,
      7, by unfold TakesUp InWindow; decide +kernel⟩,
    ⟨tRun 4 (.scan 10 0 false 7) (tCmd [(0, 1, 0x54), (8, 8, tAt 64), (16, 1, 1)]), 0, 3, 0, 2,
      tCmd [(0, 1, 0x54), (8, 8, tAt 64), (16, 1, 1)], 10, 0, false, 7, by unfold TakesUp InWindow; decide +kernel⟩,
    ⟨tRun 4 (.scan 10 0 false 7) (tCmd [(0, 1, 0x54), (8, 8, tAt 64)]), 0, 3, 0, 2,
      tCmd [(0, 1, 0x54), (8, 8, tAt 64)], 10, 0, false, 7, by unfold TakesUp InWindow; decide +kernel⟩,
    ⟨tRun 5 (.clear) (tCmd ((0, 1, 0x60) :: tRl)), 0, 3, 0, 2, tCmd ((0, 1, 0x60) :: tRl),
      by unfold TakesUp; decide +kernel⟩,
    ⟨tPages (tRun 5 (.relay (tBlk tRl)) (tCmd [(0, 1, 0x61), (8, 8, tAt 64), (16, 8, 255), (24, 4, 3)])), 0, 3, 0, 2,
      tCmd [(0, 1, 0x61), (8, 8, tAt 64), (16, 8, 255), (24, 4, 3)], tBlk tRl,
      by unfold TakesUp InWindow; decide +kernel⟩,
    ⟨tRun 5 (.relay (tBlk tRl)) (tCmd [(0, 1, 0x62)]), 0, 3, 0, 2, tCmd [(0, 1, 0x62)],
      by unfold TakesUp; decide +kernel⟩,
    ⟨(tRun 5 .clear (tCmd [(0, 1, 0x62)])).onUnit 0 fun u => { u with m := { u.m with leases := tmap (fun _ L => { L with running := true, ending := some (0, 7) }) u.m.leases } },
      0, 3, 0, 2, 0, 7, by decide +kernel⟩⟩

theorem witness_BarriersHandlesCounters :
    (∃ (s : State) (n : BitVec 9) (a : BitVec 6),
      let u := s.u
      let die := dieOf (coreOf u)
      let b := barrierOf s die n.toNat
      let count := (gOf s a).toNat
      CanIssue s [a] ∧ (b.vf = none ∨ b.vf = some u.id.vf) ∧ 1 ≤ count ∧ count ≤ 65535 ∧ b.arr = 0) ∧
    (∃ (s : State) (n : BitVec 9) (a : BitVec 6),
      let u := s.u
      let die := dieOf (coreOf u)
      let b := barrierOf s die n.toNat
      let count := (gOf s a).toNat
      CanIssue s [a] ∧ (b.vf = none ∨ b.vf = some u.id.vf) ∧ (count = 0 ∨ 65535 < count)) ∧
    (∃ (s : State) (n : BitVec 9) (a : BitVec 6),
      let u := s.u
      let die := dieOf (coreOf u)
      let b := barrierOf s die n.toNat
      let count := (gOf s a).toNat
      CanIssue s [a] ∧ (b.vf = none ∨ b.vf = some u.id.vf) ∧ 1 ≤ count ∧ count ≤ 65535 ∧ b.arr ≠ 0) ∧
    (∃ (s : State) (n : BitVec 9) (a : BitVec 6),
      let u := s.u
      let die := dieOf (coreOf u)
      let b := barrierOf s die n.toNat
      CanIssue s [a] ∧ ¬ (b.vf = none ∨ b.vf = some u.id.vf)) ∧
    (∃ (s : State) (n : BitVec 9),
      let u := s.u
      let die := dieOf (coreOf u)
      let b := barrierOf s die n.toNat
      CanIssue s [] ∧ ¬ (b.vf = none ∨ b.vf = some u.id.vf)) ∧
    (∃ (s : State) (n : BitVec 9),
      let u := s.u
      let die := dieOf (coreOf u)
      let b := barrierOf s die n.toNat
      CanIssue s [] ∧ (b.vf = none ∨ b.vf = some u.id.vf) ∧ b.exp = 0) ∧
    (∃ (s : State) (n : BitVec 9),
      let u := s.u
      let die := dieOf (coreOf u)
      let b := barrierOf s die n.toNat
      let entry := (u.m.arrivals.find? fun e => e.1 == n.toNat).map (·.2)
      CanIssue s [] ∧ (b.vf = none ∨ b.vf = some u.id.vf) ∧ b.exp ≠ 0 ∧ ¬ (b.exp ≠ 0 ∧ entry ≠ some b.gen ∧ (entry =
        none → u.m.arrivals.length < 16))) ∧
    (∃ (s : State) (n : BitVec 9),
      let u := s.u
      let die := dieOf (coreOf u)
      let b := barrierOf s die n.toNat
      let entry := (u.m.arrivals.find? fun e => e.1 == n.toNat).map (·.2)
      CanIssue s [] ∧ (b.vf = none ∨ b.vf = some u.id.vf) ∧ b.exp ≠ 0 ∧ entry ≠ some b.gen ∧ (entry = none →
        u.m.arrivals.length < 16) ∧ remotesDone u = true) ∧
    (∃ (s : State) (n : BitVec 9),
      let u := s.u
      let die := dieOf (coreOf u)
      let b := barrierOf s die n.toNat
      let mine := b.vf = none ∨ b.vf = some u.id.vf
      let entry := Option.map (fun (x : Nat × BitVec 16) => x.snd) (List.find? (fun (e : Nat × BitVec 16) => e.fst ==
        n.toNat) u.m.arrivals)
      let open_ := b.exp ≠ 0 ∧ entry ≠ some b.gen ∧ (entry = none → u.m.arrivals.length < 16)
      CanIssue s [] ∧ mine ∧ open_ ∧ remotesDone u = false ∧ MayHold s) ∧
    (∃ (s : State) (n : BitVec 9),
      let u := s.u
      let die := dieOf (coreOf u)
      let b := barrierOf s die n.toNat
      let entry := (u.m.arrivals.find? fun e => e.1 == n.toNat).map (·.2)
      CanIssue s [] ∧ (b.vf = none ∨ b.vf = some u.id.vf) ∧ entry = none) ∧
    (∃ (s : State) (n : BitVec 9) (g : _),
      let u := s.u
      let die := dieOf (coreOf u)
      let b := barrierOf s die n.toNat
      let entry := (u.m.arrivals.find? fun e => e.1 == n.toNat).map (·.2)
      CanIssue s [] ∧ (b.vf = none ∨ b.vf = some u.id.vf) ∧ entry = some g ∧ b.gen ≠ g) ∧
    (∃ (s : State) (n : BitVec 9),
      let u := s.u
      let die := dieOf (coreOf u)
      let b := barrierOf s die n.toNat
      let mine := b.vf = none ∨ b.vf = some u.id.vf
      let entry := Option.map (fun (x : Nat × BitVec 16) => x.snd) (List.find? (fun (e : Nat × BitVec 16) => e.fst ==
        n.toNat) u.m.arrivals)
      ∃ (g : BitVec 16), CanIssue s [] ∧ mine ∧ entry = some g ∧ b.gen = g ∧ MayHold s) ∧
    (∃ (s : State) (n : BitVec 9),
      let u := s.u
      let die := dieOf (coreOf u)
      let b := barrierOf s die n.toNat
      let entry := (u.m.arrivals.find? fun e => e.1 == n.toNat).map (·.2)
      let past := entry = none ∨ entry ≠ some b.gen
      CanIssue s [] ∧ (b.vf = none ∨ b.vf = some u.id.vf) ∧ past) ∧
    (∃ (s : State) (n : BitVec 9),
      let u := s.u
      let die := dieOf (coreOf u)
      let b := barrierOf s die n.toNat
      let entry := (u.m.arrivals.find? fun e => e.1 == n.toNat).map (·.2)
      let past := entry = none ∨ entry ≠ some b.gen
      CanIssue s [] ∧ (b.vf = none ∨ b.vf = some u.id.vf) ∧ ¬ past) ∧
    (∃ (s : State) (n : BitVec 9),
      let u := s.u
      let die := dieOf (coreOf u)
      let b := barrierOf s die n.toNat
      let mine := b.vf = none ∨ b.vf = some u.id.vf
      let entry := Option.map (fun (x : Nat × BitVec 16) => x.snd) (List.find? (fun (e : Nat × BitVec 16) => e.fst ==
        n.toNat) u.m.arrivals)
      let open_ := b.exp ≠ 0 ∧ entry ≠ some b.gen ∧ (entry = none → u.m.arrivals.length < 16)
      issuing u = true ∧ u.wait = some (Wait.barArrive n.toNat) ∧ mine ∧ open_ ∧ remotesDone u = true) ∧
    (∃ (s : State) (n : BitVec 9),
      let u := s.u
      let die := dieOf (coreOf u)
      let b := barrierOf s die n.toNat
      ∃ (g : BitVec 16), issuing u = true ∧ u.wait = some (Wait.barGen n.toNat g) ∧ b.gen ≠ g) ∧
    (∃ (s : State) (h : BitVec 8) (st : BitVec 2),
      let u := s.u
      let x : HState := if st = 0 then .free else if st = 1 then .filling else if st = 2 then .full else .draining
      let now := tget u.m.handles h.toNat .free
      CanIssue s [] ∧ now = x) ∧
    (∃ (s : State) (h : BitVec 8) (st : BitVec 2),
      let u := s.u
      let x := if st = 0 then HState.free else if st = 1 then HState.filling else if st = 2 then HState.full else
        HState.draining
      let now := tget u.m.handles h.toNat HState.free
      CanIssue s [] ∧ now ≠ x ∧ MayHold s) ∧
    (∃ (s : State),
      CanIssue s []) ∧
    (∃ (s : State) (h : BitVec 8) (st : BitVec 2),
      let u := s.u
      let x : HState := if st = 0 then .free else if st = 1 then .filling else if st = 2 then .full else .draining
      let now := tget u.m.handles h.toNat .free
      CanIssue s [] ∧ now ≠ x) ∧
    (∃ (s : State) (h : BitVec 8) (st : BitVec 2),
      let u := s.u
      let x := if st = 0 then HState.free else if st = 1 then HState.filling else if st = 2 then HState.full else
        HState.draining
      let now := tget u.m.handles h.toNat HState.free
      issuing u = true ∧ u.wait = some (Wait.handle h.toNat x) ∧ now = x) ∧
    (∃ (s : State) (a : BitVec 6) (lv : Level),
      let u := s.u
      let j := s.job (65536 * u.id.vf + u.id.job)
      let value := fun (x : Level) => match x with | Level.unit => u.m.counter | Level.launch => (s.recOf u.id.recNo).launchCtr | Level.graph => tget (s.vf u.id.vf).graphs (65536 * u.id.job + recGraph s u.id.recNo) 0 | Level.phase => j.phaseCtr | Level.job => j.jobCtr
      CanIssue s [a] ∧ BitVec.toNat (gOf s a) ≤ BitVec.toNat (value lv)) ∧
    (∃ (s : State) (a : BitVec 6) (lv : Level),
      let u := s.u
      let j := s.job (65536 * u.id.vf + u.id.job)
      let value := fun (x : Level) => match x with | Level.unit => u.m.counter | Level.launch => (s.recOf u.id.recNo).launchCtr | Level.graph => tget (s.vf u.id.vf).graphs (65536 * u.id.job + recGraph s u.id.recNo) 0 | Level.phase => j.phaseCtr | Level.job => j.jobCtr
      CanIssue s [a] ∧ BitVec.toNat (value lv) < BitVec.toNat (gOf s a) ∧ MayHold s) ∧
    (∃ (s : State) (lv : Level) (v : Word),
      let u := s.u
      let j := s.job (65536 * u.id.vf + u.id.job)
      let value := fun (x : Level) => match x with | Level.unit => u.m.counter | Level.launch => (s.recOf u.id.recNo).launchCtr | Level.graph => tget (s.vf u.id.vf).graphs (65536 * u.id.job + recGraph s u.id.recNo) 0 | Level.phase => j.phaseCtr | Level.job => j.jobCtr
      issuing u = true ∧ u.wait = some (Wait.counter lv v) ∧ BitVec.toNat v ≤ BitVec.toNat (value lv)) := ⟨
    ⟨tBars tBarrier [] [] none, 7, 9, by unfold CanIssue; decide +kernel⟩,
    ⟨tBars tBarrier [] [] none, 7, 10, by unfold CanIssue; decide +kernel⟩,
    ⟨tBars { tBarrier with arr := 2 } [] [] none, 7, 9, by unfold CanIssue; decide +kernel⟩,
    ⟨tBars { tBarrier with vf := some 1 } [] [] none, 7, 9, by unfold CanIssue; decide +kernel⟩,
    ⟨tBars { tBarrier with vf := some 1 } [] [] none, 7, by unfold CanIssue; decide +kernel⟩,
    ⟨tBars { tBarrier with exp := 0 } [] [] none, 7, by unfold CanIssue; decide +kernel⟩,
    ⟨tBars tBarrier [(7, 5)] [] none, 7, by unfold CanIssue; decide +kernel⟩,
    ⟨tBars tBarrier [] [] none, 7, by unfold CanIssue; decide +kernel⟩,
    ⟨tBars tBarrier [] [tRemoteOut] none, 7, by unfold CanIssue MayHold; decide +kernel⟩,
    ⟨tBars tBarrier [] [] none, 7, by unfold CanIssue; decide +kernel⟩,
    ⟨tBars tBarrier [(7, 4)] [] none, 7, 4, by unfold CanIssue; decide +kernel⟩,
    ⟨tBars tBarrier [(7, 5)] [] none, 7, 5, by unfold CanIssue MayHold; decide +kernel⟩,
    ⟨tBars tBarrier [] [] none, 7, by unfold CanIssue; decide +kernel⟩,
    ⟨tBars tBarrier [(7, 5)] [] none, 7, by unfold CanIssue; decide +kernel⟩,
    ⟨tBars tBarrier [] [] (some (.barArrive 7)), 7, by decide +kernel⟩,
    ⟨tBars tBarrier [] [] (some (.barGen 7 4)), 7, 4, by decide +kernel⟩,
    ⟨tBars tBarrier [] [] none, 5, 2, by unfold CanIssue; decide +kernel⟩,
    ⟨tBars tBarrier [] [] none, 5, 0, by unfold CanIssue MayHold; decide +kernel⟩,
    ⟨tBars tBarrier [] [] none, by unfold CanIssue; decide +kernel⟩,
    ⟨tBars tBarrier [] [] none, 5, 0, by unfold CanIssue; decide +kernel⟩,
    ⟨tBars tBarrier [] [] (some (.handle 5 .full)), 5, 2, by decide +kernel⟩,
    ⟨tBars tBarrier [] [] none, 11, .unit, by unfold CanIssue; decide +kernel⟩,
    ⟨tBars tBarrier [] [] none, 9, .unit, by unfold CanIssue MayHold; decide +kernel⟩,
    ⟨tBars tBarrier [] [] (some (.counter .unit 0)), .unit, 0, by decide +kernel⟩⟩

theorem witness_LaunchRecords :
    (∃ (s : State) (a b : BitVec 6),
      let u := s.u
      let v := s.vf u.id.vf
      let i := (gOf s a).toNat
      CanIssue s [a, b] ∧ ¬ (i < 8192 ∧ v.poolFirst ≤ i ∧ i < v.poolFirst + v.poolCount)) ∧
    (∃ (s : State) (a b : BitVec 6),
      let u := s.u
      let v := s.vf u.id.vf
      let i := (gOf s a).toNat
      let va := gOf s b
      let la := va.toNat - Config.win
      CanIssue s [a, b] ∧ i < 8192 ∧ v.poolFirst ≤ i ∧ i < v.poolFirst + v.poolCount ∧ ¬ (Config.win ≤ va.toNat ∧
        va.toNat % 64 = 0 ∧ la + 64 ≤ usable u)) ∧
    (∃ (s : State) (a b : BitVec 6),
      let u := s.u
      let v := s.vf u.id.vf
      let i := (gOf s a).toNat
      let r := s.recOf i
      let va := gOf s b
      let la := va.toNat - Config.win
      CanIssue s [a, b] ∧ i < 8192 ∧ v.poolFirst ≤ i ∧ i < v.poolFirst + v.poolCount ∧ Config.win ≤ va.toNat ∧
        va.toNat % 64 = 0 ∧ la + 64 ≤ usable u ∧ ¬ (r.st = .idle ∨ r.st = .waiting)) ∧
    (∃ (s : State) (a b : BitVec 6),
      let u := s.u
      let v := s.vf u.id.vf
      let i := (gOf s a).toNat
      let r := s.recOf i
      let va := gOf s b
      let la := va.toNat - Config.win
      CanIssue s [a, b] ∧ i < 8192 ∧ v.poolFirst ≤ i ∧ i < v.poolFirst + v.poolCount ∧ Config.win ≤ va.toNat ∧
        va.toNat % 64 = 0 ∧ la + 64 ≤ usable u ∧ (r.st = .idle ∨ r.st = .waiting) ∧ scrSpoiled s u la 64 = true) ∧
    (∃ (s : State) (a b : BitVec 6),
      let u := s.u
      let v := s.vf u.id.vf
      let i := (gOf s a).toNat
      let r := s.recOf i
      let va := gOf s b
      let la := va.toNat - Config.win
      CanIssue s [a, b] ∧ i < 8192 ∧ v.poolFirst ≤ i ∧ i < v.poolFirst + v.poolCount ∧ Config.win ≤ va.toNat ∧
        va.toNat % 64 = 0 ∧ la + 64 ≤ usable u ∧ (r.st = .idle ∨ r.st = .waiting) ∧ scrSpoiled s u la 64 = false) ∧
    (∃ (s : State) (a : BitVec 6),
      let u := s.u
      let v := s.vf u.id.vf
      let i := (gOf s a).toNat
      CanIssue s [a] ∧ ¬ (i < 8192 ∧ v.poolFirst ≤ i ∧ i < v.poolFirst + v.poolCount)) ∧
    (∃ (s : State) (a : BitVec 6),
      let u := s.u
      let v := s.vf u.id.vf
      let i := (gOf s a).toNat
      let r := s.recOf i
      CanIssue s [a] ∧ i < 8192 ∧ v.poolFirst ≤ i ∧ i < v.poolFirst + v.poolCount ∧ (r.st = .ready ∨ r.st = .active)) ∧
    (∃ (s : State) (a : BitVec 6),
      let u := s.u
      let v := s.vf u.id.vf
      let i := (gOf s a).toNat
      let r := s.recOf i
      CanIssue s [a] ∧ i < 8192 ∧ v.poolFirst ≤ i ∧ i < v.poolFirst + v.poolCount ∧ vfOfRec s i = some u.id.vf ∧ r.st
        = .waiting ∧ 2 ≤ r.live) ∧
    (∃ (s : State) (a : BitVec 6),
      let u := s.u
      let v := s.vf u.id.vf
      let i := BitVec.toNat (gOf s a)
      let mine := i < 8192 ∧ v.poolFirst ≤ i ∧ i < v.poolFirst + v.poolCount
      let r := s.recOf i
      CanIssue s [a] ∧ mine ∧ vfOfRec s i = some u.id.vf ∧ s.cur / 128 ≠ i ∧ (r.st = RecSt.waiting ∧ r.live ≤ 1 ∨ r.st
        = RecSt.idle ∧ recField s i 118 2 ≤ 1) ∧ recFails s i u.id.vf = none) ∧
    (∃ (s : State) (a : BitVec 6),
      let u := s.u
      let v := s.vf u.id.vf
      let i := BitVec.toNat (gOf s a)
      let mine := i < 8192 ∧ v.poolFirst ≤ i ∧ i < v.poolFirst + v.poolCount
      let r := s.recOf i
      ∃ (c : Nat), CanIssue s [a] ∧ mine ∧ vfOfRec s i = some u.id.vf ∧ s.cur / 128 ≠ i ∧ (r.st = RecSt.waiting ∧
        r.live ≤ 1 ∨ r.st = RecSt.idle ∧ recField s i 118 2 ≤ 1) ∧ recFails s i u.id.vf = some c) ∧
    (∃ (s : State) (a : BitVec 6),
      let u := s.u
      let v := s.vf u.id.vf
      let i := BitVec.toNat (gOf s a)
      let mine := i < 8192 ∧ v.poolFirst ≤ i ∧ i < v.poolFirst + v.poolCount
      CanIssue s [a] ∧ mine) := ⟨
    ⟨tRec .idle 0, 10, 11, by unfold CanIssue; decide +kernel⟩,
    ⟨tRec .idle 0, 9, 12, by unfold CanIssue; decide +kernel⟩,
    ⟨tRec .active 0, 9, 11, by unfold CanIssue; decide +kernel⟩,
    ⟨{ tRec .idle 0 with spoiled := [(0x10000000040, List.replicate 64 0)] }, 9, 11,
      by unfold CanIssue; decide +kernel⟩,
    ⟨tRec .idle 0, 9, 11, by unfold CanIssue; decide +kernel⟩,
    ⟨tRec .idle 0, 10, by unfold CanIssue; decide +kernel⟩,
    ⟨tRec .active 0, 9, by unfold CanIssue; decide +kernel⟩,
    ⟨tRec .waiting 2, 9, by unfold CanIssue; decide +kernel⟩,
    ⟨tGoodRec .waiting 1, 9, by unfold CanIssue; decide +kernel⟩,
    ⟨tRec .waiting 1, 9, (recFails (tRec .waiting 1) 1 0).getD 0, by unfold CanIssue; decide +kernel⟩,
    ⟨tRec .idle 0, 9, by unfold CanIssue; decide +kernel⟩⟩

theorem witness_CopyAperture :
    (∃ (s : State) (ch : BitVec 5) (x : Word),
      let u := s.u
      let die := dieOf (coreOf u)
      let c := channelOf s die ch.toNat
      CanIssue s [] ∧ ¬ (x.toNat < 2 ^ 32 ∧ x.toNat % 2 ^ 16 < 4096 ∧ c.world = (s.vf u.id.vf).world)) ∧
    (∃ (s : State) (ch : BitVec 5) (x : Word),
      let u := s.u
      let die := dieOf (coreOf u)
      let c := channelOf s die ch.toNat
      let arg := x.toNat / 2 ^ 16 % 2 ^ 16 * 64
      CanIssue s [] ∧ x.toNat < 2 ^ 32 ∧ x.toNat % 2 ^ 16 < 4096 ∧ c.world = (s.vf u.id.vf).world ∧ usable u < arg +
        64) ∧
    (∃ (s : State) (ch : BitVec 5) (x : Word),
      let u := s.u
      let die := dieOf (coreOf u)
      let c := channelOf s die ch.toNat
      let arg := BitVec.toNat x / 2 ^ 16 % 2 ^ 16 * 64
      let good := BitVec.toNat x < 2 ^ 32 ∧ BitVec.toNat x % 2 ^ 16 < 4096 ∧ c.world = (s.vf u.id.vf).world
      CanIssue s [] ∧ good ∧ arg + 64 ≤ usable u ∧ scrSpoiled s u arg 64 = true) ∧
    (∃ (s : State) (ch : BitVec 5) (x : Word),
      let u := s.u
      let die := dieOf (coreOf u)
      let c := channelOf s die ch.toNat
      let arg := BitVec.toNat x / 2 ^ 16 % 2 ^ 16 * 64
      let n := c.queue.length + c.run.isSome.toNat
      let good := BitVec.toNat x < 2 ^ 32 ∧ BitVec.toNat x % 2 ^ 16 < 4096 ∧ c.world = (s.vf u.id.vf).world
      CanIssue s [] ∧ good ∧ arg + 64 ≤ usable u ∧ scrSpoiled s u arg 64 = false ∧ n < 8) ∧
    (∃ (s : State) (ch : BitVec 5) (x : Word),
      let u := s.u
      let die := dieOf (coreOf u)
      let c := channelOf s die ch.toNat
      let arg := BitVec.toNat x / 2 ^ 16 % 2 ^ 16 * 64
      let n := c.queue.length + c.run.isSome.toNat
      let good := BitVec.toNat x < 2 ^ 32 ∧ BitVec.toNat x % 2 ^ 16 < 4096 ∧ c.world = (s.vf u.id.vf).world
      CanIssue s [] ∧ good ∧ arg + 64 ≤ usable u ∧ scrSpoiled s u arg 64 = false ∧ 8 ≤ n ∧ MayHold s) ∧
    (∃ (s : State),
      CanIssue s []) ∧
    (∃ (s : State) (ch : BitVec 5) (x : Word),
      let u := s.u
      let die := dieOf (coreOf u)
      let c := channelOf s die ch.toNat
      let n := c.queue.length + c.run.isSome.toNat
      issuing u = true ∧ u.wait = some (Wait.copySpace ch.toNat x) ∧ n < 8) := ⟨
    ⟨tCopies 1 id, 3, 0x100000000, by unfold CanIssue; decide +kernel⟩,
    ⟨tCopies 1 id, 3, 0x0C000001, by unfold CanIssue; decide +kernel⟩,
    ⟨spoil (tCopies 1 id) (scrKey tUnit 64), 3, 0x10001, by unfold CanIssue; decide +kernel⟩,
    ⟨tCopies 1 id, 3, 0x10001, by unfold CanIssue; decide +kernel⟩,
    ⟨tCopies 1 fun c => { c with queue := (List.range 8).map tCopy }, 3, 0x10001, by unfold CanIssue MayHold; decide +kernel⟩,
    ⟨tState, by unfold CanIssue; decide +kernel⟩,
    ⟨(tCopies 1 id).onUnit 0 (tWaits (.copySpace 3 0x10001)), 3, 0x10001, by decide +kernel⟩⟩

theorem witness_CopyEvents :
    (∃ (s : State) (die : Nat) (ch : Nat),
      let c := channelOf s die ch
      ∃ (r : CopyRun), c.run = none ∧ nextCopy s c = some (NextCopy.again r)) ∧
    (∃ (s : State) (die : Nat) (ch : Nat),
      let c := channelOf s die ch
      ∃ (x : Copy) (bs : List Byte),
      let u := s.unit x.uid
      let va := BitVec.ofNat 64 (recField s u.id.recNo 80 8 + 256 * x.tmpl)
      ∃ (e : Cause × Word), c.run = none ∧ nextCopy s c = some (NextCopy.fresh x) ∧ corbBusy s x.uid va 256 = false ∧
        strictRead s x.uid (granules va.toNat 256) va 256 = (bs, none) ∧ planOf bs x = Except.error e) ∧
    (Config.scaleOutEndpoint 5 = true → ∃ (s : State) (die : Nat) (ch : Nat),
      let c := channelOf s die ch
      ∃ (x : Copy) (bs : List Byte),
      let u := s.unit x.uid
      let va := BitVec.ofNat 64 (recField s u.id.recNo 80 8 + 256 * x.tmpl)
      ∃ (p : CopyPlan), c.run = none ∧ nextCopy s c = some (NextCopy.fresh x) ∧ corbBusy s x.uid va 256 = false ∧
        strictRead s x.uid (granules va.toNat 256) va 256 = (bs, none) ∧ planOf bs x = Except.ok p ∧ pathRefuses s x p =
        true) ∧
    (∃ (s : State) (die : Nat) (ch : Nat),
      let c := channelOf s die ch
      ∃ (x : Copy) (bs : List Byte),
      let u := s.unit x.uid
      let va := BitVec.ofNat 64 (recField s u.id.recNo 80 8 + 256 * x.tmpl)
      ∃ (p : CopyPlan), c.run = none ∧ nextCopy s c = some (NextCopy.fresh x) ∧ corbBusy s x.uid va 256 = false ∧
        strictRead s x.uid (granules va.toNat 256) va 256 = (bs, none) ∧ planOf bs x = Except.ok p ∧ pathRefuses s x p =
        false ∧ claimOf s ch x p = none) ∧
    (∃ (s : State) (die : Nat) (ch : Nat),
      let c := channelOf s die ch
      ∃ (x : Copy) (bs : List Byte),
      let u := s.unit x.uid
      let va := BitVec.ofNat 64 (recField s u.id.recNo 80 8 + 256 * x.tmpl)
      ∃ (p : CopyPlan) (q : DetClaim), c.run = none ∧ nextCopy s c = some (NextCopy.fresh x) ∧ corbBusy s x.uid va 256
        = false ∧ strictRead s x.uid (granules va.toNat 256) va 256 = (bs, none) ∧ planOf bs x = Except.ok p ∧
        pathRefuses s x p = false ∧ claimOf s ch x p = some q ∧ (s.die die).det.any (claimsMeet q) = true) ∧
    (∃ (s : State) (die : Nat) (ch : Nat),
      let c := channelOf s die ch
      ∃ (x : Copy) (bs : List Byte),
      let u := s.unit x.uid
      let va := BitVec.ofNat 64 (recField s u.id.recNo 80 8 + 256 * x.tmpl)
      ∃ (p : CopyPlan) (q : DetClaim), c.run = none ∧ nextCopy s c = some (NextCopy.fresh x) ∧ corbBusy s x.uid va 256
        = false ∧ strictRead s x.uid (granules va.toNat 256) va 256 = (bs, none) ∧ planOf bs x = Except.ok p ∧
        pathRefuses s x p = false ∧ claimOf s ch x p = some q ∧ (s.die die).det.any (claimsMeet q) = false ∧ (s.die
        die).det.length < 64) ∧
    (∃ (s : State) (die ch : Nat) (r h : _),
      let c := channelOf s die ch
      let want : HState := if h.act = 0 then .free else .full
      let u := s.unit r.c.uid
      c.run = some r ∧ copyLive s r.c.uid = true ∧ r.plan.prologue[r.claims]? = some h ∧ tget u.m.handles h.h .free =
        want) ∧
    (∃ (s : State) (die ch : Nat) (r h : _),
      let c := channelOf s die ch
      let want : HState := if h.act = 0 then .free else .full
      let u := s.unit r.c.uid
      c.run = some r ∧ copyLive s r.c.uid = true ∧ r.plan.prologue[r.claims]? = some h ∧ tget u.m.handles h.h .free ≠
        want) ∧
    (∃ (s : State) (die : Nat) (ch : Nat) (r : CopyRun),
      let p := r.plan
      ∃ (r' : CopyRun) (g : Nat) (e : CopyRd) (s' : State), AtCopy s die ch r ∧ r.pos < posTotal r.plan ∧
        (r.plan.gather = none ∨ r.idx ≠ []) ∧ (∀ (op f : Nat), p.reduce ≠ some (op, f, false)) ∧ collect s die ch 128 r
        = (r', some g, e) ∧ copyWrite s r die ch g (List.flatMap (fun (x : Nat × List BytePart) => x.snd) (List.filter
        (fun (x : Nat × List BytePart) => x.fst == g) r'.buf)) = CopyWr.ok s') ∧
    (∃ (s : State) (die : Nat) (ch : Nat) (r : CopyRun),
      let p := r.plan
      ∃ (op : Nat) (f : Nat) (x : Int) (bs : List Byte) (b : Nat) (s' : State), AtCopy s die ch r ∧ r.pos < posTotal
        r.plan ∧ (r.plan.gather = none ∨ r.idx ≠ []) ∧ p.reduce = some (op, f, false) ∧ rowIndex r = some x ∧
        (p.dst.kind = 0 → BitVec.toNat (dstAddr p (outAt p (countersAt p r.pos) 0).off) + unitSize (tkFmt p.dst.fmt) ≤
        usable (s.unit r.c.uid)) ∧ valueAt s r die ch (countersAt p r.pos) x = (CopyRd.ok bs, b) ∧ copyReduce s r die ch
        op (tkFmt f) { outAt p (countersAt p r.pos) 0 with b := b } = CopyWr.ok s') ∧
    (∃ (s : State) (die : Nat) (ch : Nat) (r : CopyRun),
      let p := r.plan
      let u := s.unit r.c.uid
      let f := tkFmt p.src.fmt
      let e := fmtBits f / 8
      let i := countersAt p r.pos
      let src := BitVec.toNat (p.src.base + BitVec.ofInt 64 (srcOff p i 0))
      let dst := fun (k : Nat) => BitVec.toNat (p.dst.base + BitVec.ofInt 64 (dstOff p (countersAt p k)))
      AtCopy s die ch r ∧ p.body = true ∧ p.src.kind = 0 ∧ p.dst.kind = 0 ∧ p.src.fmt = p.dst.fmt ∧ isNibble f = false
        ∧ p.conv = none ∧ p.gather = none ∧ p.reduce = none ∧ r.buf = [] ∧ r.pos < posTotal p ∧ (∀ (k : Nat), r.pos < k
        → k < posTotal p → dst k / 64 ≠ dst r.pos / 64) ∧ src + e ≤ usable u ∧ dst r.pos + e ≤ usable u ∧ dst r.pos % 64
        + e ≤ 64 ∧ scrSpoiled s u src e = false) ∧
    (∃ (s : State) (die : Nat) (ch : Nat) (r : CopyRun),
      let p := r.plan
      let u := s.unit r.c.uid
      let f := tkFmt p.src.fmt
      let e := fmtBits f / 8
      let i := countersAt p r.pos
      let src := BitVec.toNat (p.src.base + BitVec.ofInt 64 (srcOff p i 0))
      let dst := fun (k : Nat) => BitVec.toNat (p.dst.base + BitVec.ofInt 64 (dstOff p (countersAt p k)))
      AtCopy s die ch r ∧ p.body = true ∧ p.src.kind = 0 ∧ p.dst.kind = 0 ∧ p.src.fmt = p.dst.fmt ∧ isNibble f = false
        ∧ p.conv = none ∧ p.gather = none ∧ p.reduce = none ∧ r.buf = [] ∧ r.pos < posTotal p ∧ (∀ (k : Nat), r.pos < k
        → k < posTotal p → dst k / 64 ≠ dst r.pos / 64) ∧ dst r.pos + e ≤ usable u ∧ usable u < src + e) ∧
    (∃ (s : State) (die : Nat) (ch : Nat) (r : CopyRun),
      AtCopy s die ch r ∧ posTotal r.plan ≤ r.pos ∧ chanQuiet s r.c.uid die ch = true ∧ r.failed = none ∧
        r.plan.epilogue[r.epi]? = none) ∧
    (∃ (s : State) (die : Nat) (ch : Nat) (r : CopyRun) (h : CopyHandle),
      AtCopy s die ch r ∧ posTotal r.plan ≤ r.pos ∧ chanQuiet s r.c.uid die ch = true ∧ r.failed = none ∧
        r.plan.epilogue[r.epi]? = some h ∧ r.plan.epilogue[r.epi + 1]? = none ∧ h.rem = false ∧ h.act = 2) ∧
    (∃ (s : State) (die : Nat) (ch : Nat) (r : CopyRun),
      let u := s.unit r.c.uid
      ∃ (h : CopyHandle),
      let now := tget u.m.handles h.h HState.free
      AtCopy s die ch r ∧ posTotal r.plan ≤ r.pos ∧ chanQuiet s r.c.uid die ch = true ∧ r.failed = none ∧
        r.plan.epilogue[r.epi]? = some h ∧ r.plan.epilogue[r.epi + 1]? = none ∧ h.rem = false ∧ h.act ≠ 2 ∧ (now =
        HState.free ∨ now = HState.filling)) ∧
    (∃ (s : State) (die : Nat) (ch : Nat) (r : CopyRun),
      let u := s.unit r.c.uid
      ∃ (h : CopyHandle),
      let now := tget u.m.handles h.h HState.free
      AtCopy s die ch r ∧ posTotal r.plan ≤ r.pos ∧ chanQuiet s r.c.uid die ch = true ∧ r.failed = none ∧
        r.plan.epilogue[r.epi]? = some h ∧ r.plan.epilogue[r.epi + 1]? = none ∧ h.rem = false ∧ h.act ≠ 2 ∧ (now =
        HState.full ∨ now = HState.draining)) := ⟨
    ⟨tCopies 1 fun c => { c with aside := [tCopyRun 1 2 0] }, 0, 3, tCopyRun 1 2 0, by decide +kernel⟩,
    ⟨tCopies 0x80000E01 fun c => { c with queue := [tCopy 0] }, 0, 3, tCopy 0, tTemplate 0x80000E01,
      match planOf (tTemplate 0x80000E01) (tCopy 0) with | .error e => e | .ok _ => (.copyTemplate, 0),
      by simp -zeta only [eq_error]; decide +kernel⟩,
    fun h => ⟨tFarCopy, 0, 3, tCopy 0, (tTemplateOf 0x71400000 0x2A80000A 1), tPlanOf (tTemplateOf 0x71400000 0x2A80000A 1), by decide +kernel, by decide +kernel, by decide +kernel, by decide +kernel, eq_ok.2 (by decide +kernel), by
      unfold pathRefuses scaleOut
      rw [show (tPlanOf (tTemplateOf 0x71400000 0x2A80000A 1)).reduce = some (0, 10, false) by decide +kernel, show (tPlanOf (tTemplateOf 0x71400000 0x2A80000A 1)).dst.kind = 2 by decide +kernel,
        show (tget (tFarCopy.unit (tCopy 0).uid).m.caps (podCap (tPlanOf (tTemplateOf 0x71400000 0x2A80000A 1)).dst.base) blankCap).pkg.toNat = 5 by decide +kernel,
        show decide (podSize tFarCopy ≤ 5) = true by decide +kernel, h]
      rfl⟩,
    ⟨tCopies 1 fun c => { c with queue := [tCopy 0] }, 0, 3, tCopy 0, tTemplate 1, tPlan 1,
      by simp -zeta only [eq_ok]; decide +kernel⟩,
    ⟨(let s := tCopies 1 fun c => { c with queue := [{ tCopy 0 with det := true }] }; s.setDie 0 { s.die 0 with det := (claimOf (tCopies 1 id) 3 { tCopy 0 with det := true } (tPlan 1)).toList.map fun q => { q with ch := 4 } }), 0, 3, { tCopy 0 with det := true }, tTemplate 1, tPlan 1, (claimOf (tCopies 1 id) 3 { tCopy 0 with det := true } (tPlan 1)).getD ⟨0, 0, 0, 0, 0, 0⟩, by simp -zeta only [eq_ok]; decide +kernel⟩,
    ⟨(let s := tCopies 1 fun c => { c with queue := [{ tCopy 0 with det := true }] }; s.setDie 0 { s.die 0 with det := [] }), 0, 3, { tCopy 0 with det := true }, tTemplate 1, tPlan 1, (claimOf (tCopies 1 id) 3 { tCopy 0 with det := true } (tPlan 1)).getD ⟨0, 0, 0, 0, 0, 0⟩, by simp -zeta only [eq_ok]; decide +kernel⟩,
    ⟨tCopies 1 fun c => { c with run := some (tCopyRun 0x80000E00 0 0) }, 0, 3, tCopyRun 0x80000E00 0 0,
      { act := 0, rem := false, cap := 0, h := 7 }, by decide +kernel⟩,
    ⟨(tCopies 1 fun c => { c with run := some (tCopyRun 0x80000E00 0 0) }).onUnit 0 fun u => { u with m := { u.m with handles := [(7, .full)] } },
      0, 3, tCopyRun 0x80000E00 0 0, { act := 0, rem := false, cap := 0, h := 7 }, by decide +kernel⟩,
    ⟨tCopies 1 fun c => { c with run := some (tCopyRun 1 2 0) }, 0, 3, tCopyRun 1 2 0, _, 2, _, _,
      by unfold AtCopy; decide +kernel, by decide +kernel, by decide +kernel,
      fun op f => by rw [show (tCopyRun 1 2 0).plan.reduce = none by decide +kernel]; exact nofun,
      triple_eq (by decide +kernel), written (by decide +kernel)⟩,
    ⟨tCopies 0x71400000 fun c => { c with run := some (tCopyRun 0x71400000 0 0) }, 0, 3, tCopyRun 0x71400000 0 0, 0, 10, 0, [], _, _,
      by unfold AtCopy; decide +kernel, by decide +kernel, by decide +kernel, by decide +kernel, by decide +kernel, by decide +kernel, pair_eq (by decide +kernel), written (by decide +kernel)⟩,
    ⟨tCopies 1 fun c => { c with run := some (tCopyRun 1 2 0) }, 0, 3, tCopyRun 1 2 0, by
      refine ⟨by unfold AtCopy; decide +kernel, by decide +kernel, by decide +kernel, by decide +kernel, by decide +kernel, by decide +kernel, by decide +kernel, by decide +kernel, by decide +kernel, by decide +kernel, by decide +kernel, ?_, by decide +kernel, by decide +kernel, by decide +kernel, by decide +kernel⟩
      intro x h1 h2
      exact absurd (Nat.lt_of_lt_of_le h2 (by decide +kernel : posTotal _ ≤ 3)) (Nat.not_lt.2 h1)⟩,
    ⟨tCopies 1 fun c => { c with run := some (let r0 := tCopyRun 1 2 0; { r0 with plan := { r0.plan with src := { r0.plan.src with base := 0x2FFFE } } }) }, 0, 3, let r0 := tCopyRun 1 2 0; { r0 with plan := { r0.plan with src := { r0.plan.src with base := 0x2FFFE } } }, by
      refine ⟨by unfold AtCopy; decide +kernel, by decide +kernel, by decide +kernel, by decide +kernel, by decide +kernel, by decide +kernel, by decide +kernel, by decide +kernel, by decide +kernel, by decide +kernel, by decide +kernel, ?_, by decide +kernel, by decide +kernel⟩
      intro x h1 h2
      exact absurd (Nat.lt_of_lt_of_le h2 (by decide +kernel : posTotal _ ≤ 3)) (Nat.not_lt.2 h1)⟩,
    ⟨tCopies 1 fun c => { c with run := some (tCopyRun 1 3 0) }, 0, 3, tCopyRun 1 3 0,
      by unfold AtCopy; decide +kernel⟩,
    ⟨(tCopiesOf (tTemplateOf 1 0x2280000A 2281704960) fun c => { c with run := some (tCopyRunOf (tTemplateOf 1 0x2280000A 2281704960) 3 0) }).onUnit 0 id, 0, 3, tCopyRunOf (tTemplateOf 1 0x2280000A 2281704960) 3 0, { act := 2, rem := false, cap := 0, h := 7 },
      by unfold AtCopy; decide +kernel⟩,
    ⟨(tCopiesOf (tTemplateOf 1 0x2280000A 2214596096) fun c => { c with run := some (tCopyRunOf (tTemplateOf 1 0x2280000A 2214596096) 3 0) }).onUnit 0 id, 0, 3, tCopyRunOf (tTemplateOf 1 0x2280000A 2214596096) 3 0, { act := 1, rem := false, cap := 0, h := 7 },
      by unfold AtCopy; decide +kernel⟩,
    ⟨(tCopiesOf (tTemplateOf 1 0x2280000A 2214596096) fun c => { c with run := some (tCopyRunOf (tTemplateOf 1 0x2280000A 2214596096) 3 0) }).onUnit 0 (fun u => { u with m := { u.m with handles := [(7, .full)] } }), 0, 3, tCopyRunOf (tTemplateOf 1 0x2280000A 2214596096) 3 0, { act := 1, rem := false, cap := 0, h := 7 },
      by unfold AtCopy; decide +kernel⟩⟩

theorem witness_Launches :
    (∃ (s : State) (h : IsuneHdr) (first : Nat) (recs : List (List Byte)),
      let v := s.vf h.vf.toNat
      let mine := fun (i : Nat) => v.poolFirst ≤ i ∧ i < v.poolFirst + v.poolCount
      TakesCommand s h vfCmd ∧ (∀ (b : List Byte), b ∈ recs → b.length = 512) ∧ (∀ (k : Nat), k < recs.length → mine
        (first + k)) ∧ ∀ (k : Nat), k < recs.length → (s.recOf (first + k)).st = RecSt.idle) ∧
    (∃ (s : State) (h : IsuneHdr) (first : Nat) (recs : List (List Byte)),
      let v := s.vf h.vf.toNat
      let mine := fun (i : Nat) => v.poolFirst ≤ i ∧ i < v.poolFirst + v.poolCount
      ∃ (k : Nat), TakesCommand s h vfCmd ∧ (∀ (b : List Byte), b ∈ recs → b.length = 512) ∧ (∀ (k : Nat), k <
        recs.length → mine (first + k)) ∧ k < recs.length ∧ (s.recOf (first + k)).st ≠ RecSt.idle ∧ ∀ (j : Nat), j < k →
        (s.recOf (first + j)).st = RecSt.idle) ∧
    (∃ (s : State) (h : IsuneHdr) (job : Nat),
      let v := s.vf h.vf.toNat
      let mine := fun (i : Nat) => v.poolFirst ≤ i ∧ i < v.poolFirst + v.poolCount
      ∃ (is : List Nat), TakesCommand s h vfCmd ∧ (∀ (i : Nat), i ∈ is → mine i) ∧ ∀ (c : IsuneHdr × Nat), c ∈
        s.firm.cancels → c.snd ≠ 65536 * h.vf.toNat + job) ∧
    (∃ (s : State) (h : IsuneHdr) (i : Nat),
      let v := s.vf h.vf.toNat
      let mine := fun (i : Nat) => v.poolFirst ≤ i ∧ i < v.poolFirst + v.poolCount
      let n := recField s i 118 2
      Rising s.vfs ∧ TakesCommand s h vfCmd ∧ mine i ∧ vfOfRec s i = some h.vf.toNat ∧ (s.recOf i).st = RecSt.idle ∧ 2
        ≤ n ∧ s.firm.cancels = []) ∧
    (∃ (s : State) (vf : Nat) (e : ReadyEntry) (k : Nat) (pos : Nat) (segs : List Nat),
      let uid := uidOf e.recNo k
      readyHead s vf = some e ∧ (s.vf vf).st = VfSt.active ∧ e.unit = some k ∧ unitPlace s uid vf = some (pos, segs) ∧
        placeWants s uid pos = none) ∧
    (∃ (s : State) (vf : Nat) (e : ReadyEntry) (k : Nat),
      readyHead s vf = some e ∧ (s.vf vf).st = VfSt.active ∧ e.unit = some k ∧ unitPlace s (uidOf e.recNo k) vf = none) ∧
    (∃ (s : State) (vf : Nat),
      readyHead s vf = none) ∧
    (∃ (s : State) (vf : Nat) (e : ReadyEntry) (ps : List (Nat × Nat × List Nat)),
      let us := List.filter (fun (u : Nat) => (s.unit u).st == UState.ready || (s.unit u).st == UState.suspended)
        (unitsOf s e.recNo)
      let start := recField s e.recNo 104 8
      readyHead s vf = some e ∧ (s.vf vf).st = VfSt.active ∧ e.unit = none ∧ gangPlaces s vf e.recNo us = some ps ∧ (∀
        (p : Nat × Nat × List Nat), p ∈ ps → placeWants s p.fst p.snd.fst = none) ∧ (s.recOf e.recNo).st = RecSt.ready ∧
        (start = 0 ∨ BitVec.toNat s.tide + 8000 ≤ start)) ∧
    (∃ (s : State) (vf : Nat) (e : ReadyEntry) (ps : List (Nat × Nat × List Nat)),
      let us := List.filter (fun (u : Nat) => (s.unit u).st == UState.ready || (s.unit u).st == UState.suspended)
        (unitsOf s e.recNo)
      readyHead s vf = some e ∧ (s.vf vf).st = VfSt.active ∧ e.unit = none ∧ gangPlaces s vf e.recNo us = some ps ∧ (∀
        (p : Nat × Nat × List Nat), p ∈ ps → placeWants s p.fst p.snd.fst = none) ∧ (s.recOf e.recNo).st ≠ RecSt.ready) ∧
    (∃ (s : State) (vf : Nat) (x : ReadyEntry),
      x ∈ (s.vf vf).ready ∧ 2 ^ 22 ≤ x.age) ∧
    (∃ (s : State) (vf : Nat) (inVf : Nat),
      inVf ≠ vf ∧ Rising s.bays ∧ (∃ (n : Nat), (s.bay n).active = some vf ∧ (s.bay n).vfs.contains inVf = true) ∧ ∀
        (n : Nat), (s.bay n).active = some vf → (s.bay n).vfs.contains inVf = true → (s.bay n).sliceAt + (s.bay
        n).quantum ≤ BitVec.toNat s.tide) ∧
    (∃ (s : State),
      let q := saveContext s s.cur
      s.u.st = UState.running ∧ s.u.preempt = true ∧ s.u.id.gang = false ∧ atBoundary s.u = true ∧ enginesAtBoundary
        s.u = true ∧ q.snd = true) ∧
    (∃ (s : State) (core : Nat) (seg : Nat),
      let o := segOf (s.core core) seg
      let q := saveBytes o.uid (s, true) (saveArea s o.uid o.logical) (memRead s.mem (segKey core seg) 65536)
      (segOf (s.core core) seg).st = 3 ∧ q.snd = true ∧ (s.core core).occupant = none) ∧
    (∃ (s : State) (core : Nat) (seg : Nat),
      let o := segOf (s.core core) seg
      let q := saveBytes o.uid (s, true) (saveArea s o.uid o.logical) (memRead s.mem (segKey core seg) 65536)
      ∃ (uid : Nat), (segOf (s.core core) seg).st = 3 ∧ q.snd = true ∧ (s.core core).occupant = some uid) ∧
    (∃ (s : State) (s' : State) (k : Bool),
      s.u.st = UState.running ∧ s.u.restored = false ∧ s.u.id.suspendedAt ≠ 0 ∧ (segsAre s s.cur fun (st : Nat) => st
        == 1 || st == 4) = true ∧ restoreAll s s.cur = Except.ok s' ∧ contextKept s' s.cur = Except.ok k) := ⟨
    ⟨tRecords .idle, tHdr 9 0x20 1 0 0 false, 1, [List.replicate 512 5], by unfold TakesCommand; decide +kernel⟩,
    ⟨tRecords .active, tHdr 9 0x20 1 0 0 false, 1, [List.replicate 512 5], 0,
      by unfold TakesCommand; decide +kernel⟩,
    ⟨tRecords .idle, tHdr 9 0x20 1 0 0 false, 0, [1], by unfold TakesCommand; decide +kernel⟩,
    ⟨tRecords .idle, tHdr 9 0x20 1 0 0 false, 1, by unfold Rising TakesCommand; decide +kernel⟩,
    ⟨tPlace [tEntry] false, 0, tEntry, 0, ((unitPlace (tPlace [tEntry] false) 128 0).getD (0, [])).1,
      ((unitPlace (tPlace [tEntry] false) 128 0).getD (0, [])).2, by decide +kernel⟩,
    ⟨{ tPlace [tEntry] false with bays := [] }, 0, tEntry, 0, by decide +kernel⟩,
    ⟨tPlace [] false, 0, by decide +kernel⟩,
    ⟨tPlace [tGangEntry] true, 0, tGangEntry, (gangPlaces (tPlace [tGangEntry] true) 0 1 [128, 129]).getD [],
      by decide +kernel⟩,
    ⟨{ tPlace [tGangEntry] true with recs := [(1, { blankRec with st := .active })] }, 0, tGangEntry, (gangPlaces (tPlace [tGangEntry] true) 0 1 [128, 129]).getD [], by decide +kernel⟩,
    ⟨tPlace [{ tEntry with age := 2 ^ 22 }] false, 0, { tEntry with age := 2 ^ 22 }, by decide +kernel⟩,
    ⟨tPlace [] false, 0, 1, by decide, by unfold Rising; decide +kernel, ⟨0, by decide +kernel⟩, fun n h => match n, h with
      | 0, _ => fun _ => by decide +kernel
      | n + 1, h => absurd (show (none : Option Nat) = some 0 from h) nofun⟩,
    ⟨tLeaving, by decide +kernel, by decide +kernel, by decide +kernel, by decide +kernel, by decide +kernel, saveContext_unwritable .translation (by decide +kernel) (eq_error.2 (by decide +kernel)) rfl⟩,
    ⟨tState.setCore 5 { segs := [(2, ⟨3, 128, 1, some 0⟩)], occupant := none, l1 := [] }, 5, 2, by decide +kernel, congrArg Prod.snd (saveBytes_unwritable .translation (eq_error.2 (by decide +kernel)) rfl), by decide +kernel⟩,
    ⟨tState.setCore 5 { segs := [(2, ⟨3, 128, 1, some 0⟩)], occupant := some 0, l1 := [] }, 5, 2, 0, by decide +kernel, congrArg Prod.snd (saveBytes_unwritable .translation (eq_error.2 (by decide +kernel)) rfl), by decide +kernel⟩,
    ⟨tRestore, gotOk tState (restoreAll tRestore tRestore.cur), gotOk true (contextKept (gotOk tState (restoreAll tRestore tRestore.cur)) tRestore.cur), by decide +kernel, by decide +kernel, by decide +kernel, by decide +kernel, got_ok tState tRestore_segments, got_ok true tRestore_context⟩⟩

theorem witness_UnitEnds :
    (∃ (s : State),
      CanIssue s []) ∧
    (∃ (s : State),
      let u := s.u
      let i := u.id.recNo
      let others := ∃ (v : Nat), v ∈ unitsOf s i ∧ v ≠ s.cur ∧ alive (s.unit v) = true
      let last := fun (s : State) => ∀ (x : Nat), x ∈ recSucc s i → x = 65535
      let ready := u.st = UState.running ∧ u.halted = true ∧ enginesIdle u = true ∧ copiesDone s s.cur = true ∧
        frameReg u 0 &&& 8192 = 0
      ∃ (s1 : State), ready ∧ drain s s.cur = DrainRes.ok s1 ∧ earlierDone Scope.tenant s1.u = true ∧ (others ∨ last
        s1)) ∧
    (∃ (s : State),
      let u := s.u
      let ready := u.st = UState.running ∧ u.halted = true ∧ enginesIdle u = true ∧ copiesDone s s.cur = true ∧
        frameReg u 0 &&& 8192 = 0
      ∃ (s1 : State), ready ∧ drain s s.cur = DrainRes.ok s1 ∧ earlierDone Scope.tenant s1.u = false) ∧
    (∃ (s : State),
      let u := s.u
      let i := u.id.recNo
      let others := ∃ (v : Nat), v ∈ unitsOf s i ∧ v ≠ s.cur ∧ alive (s.unit v) = true
      let ready := u.st = UState.running ∧ u.halted = true ∧ enginesIdle u = true ∧ copiesDone s s.cur = true ∧
        frameReg u 0 &&& 8192 = 0
      let idle := ready ∧ u.m.pub = [] ∧ u.m.remotes = [] ∧ u.m.leases = []
      idle ∧ others) ∧
    (∃ (s : State),
      let u := s.u
      let i := u.id.recNo
      let r := s.recOf i
      let others := ∃ (v : Nat), v ∈ unitsOf s i ∧ v ≠ s.cur ∧ alive (s.unit v) = true
      let last := fun (s : State) => ∀ (x : Nat), x ∈ recSucc s i → x = 65535
      let ready := u.st = UState.running ∧ u.halted = true ∧ enginesIdle u = true ∧ copiesDone s s.cur = true ∧
        frameReg u 0 &&& 8192 = 0
      let idle := ready ∧ u.m.pub = [] ∧ u.m.remotes = [] ∧ u.m.leases = []
      Rising s.vfs ∧ idle ∧ s.cur / 128 = i ∧ ¬others ∧ last s ∧ vfOfRec s i = some u.id.vf ∧ r.job = u.id.job) ∧
    (∃ (s : State),
      let u := s.u
      let i := u.id.recNo
      let others := ∃ (v : Nat), v ∈ unitsOf s i ∧ v ≠ s.cur ∧ alive (s.unit v) = true
      let last := fun (s : State) => ∀ (x : Nat), x ∈ recSucc s i → x = 65535
      CanIssue s [] ∧ s.cur / 128 = i ∧ (others ∨ last s)) ∧
    (∃ (s : State) (h : IsuneHdr),
      TakesCommand s h vfCmd ∧ podSize s ≤ 1) ∧
    (∃ (s : State) (h : IsuneHdr),
      TakesCommand s h vfCmd ∧ 1 < podSize s) := ⟨
    ⟨tEnds id false .running, by unfold CanIssue; decide +kernel⟩,
    ⟨tEnds (fun u => { tOuts tPub [] u with halted := true }) false .running, _, by decide +kernel, drain_ok (by decide +kernel), by decide +kernel, Or.inl (by decide +kernel)⟩,
    ⟨tEnds (fun u => { tOuts tPub [{ tRemoteOut with cap := some 4 }] u with halted := true }) false .running, _, by decide +kernel, drain_ok (by decide +kernel), by decide +kernel⟩,
    ⟨tEnds (fun u => { u with halted := true }) false .running, by decide +kernel⟩,
    ⟨tEnds (fun u => { u with halted := true }) true .running, by unfold Rising; decide +kernel⟩,
    ⟨tEnds id false .running, by unfold CanIssue; decide +kernel⟩,
    ⟨tEnds (fun u => { u with halted := true }) false .running, tHdr 9 0x20 1 0 0 false,
      by unfold TakesCommand; decide +kernel⟩,
    ⟨{ tEnds id false .running with pod := { tState.pod with joined := true, dims := [2, 2, 1, 1] } },
      tHdr 9 0x20 1 0 0 false, by unfold TakesCommand; decide +kernel⟩⟩

theorem witness_Fences :
    (∃ (s : State) (sc : Scope),
      let u := s.u
      CanIssue s [] ∧ scopeDenied u.c sc = true) ∧
    (∃ (s : State) (sc : Scope),
      let u := s.u
      CanIssue s [] ∧ scopeDenied u.c sc = false ∧ u.m.pub = [] ∧ remotesDone u = true) ∧
    (∃ (s : State) (sc : Scope),
      let u := s.u
      CanIssue s [] ∧ scopeDenied u.c sc = false ∧ remotesDone u = false ∧ MayHold s) ∧
    (∃ (s : State) (sc : Scope),
      let u := s.u
      ∃ (s1 : State) (c : Cause) (a : Word), CanIssue s [] ∧ scopeDenied u.c sc = false ∧ remotesDone u = true ∧ drain
        (unpoll s) s.cur = DrainRes.fail s1 c a ∧ wanting c = false) ∧
    (∃ (s : State) (sc : Scope),
      let u := s.u
      let near := sc ≠ Scope.pod ∧ sc ≠ Scope.system
      ∃ (s1 : State), CanIssue s [] ∧ scopeDenied u.c sc = false ∧ remotesDone u = true ∧ drain (unpoll s) s.cur =
        DrainRes.ok s1 ∧ (near ∨ remotesDone s1.u = true)) ∧
    (∃ (s : State) (sc : Scope),
      let u := s.u
      let near := sc ≠ Scope.pod ∧ sc ≠ Scope.system
      ∃ (s1 : State), CanIssue s [] ∧ scopeDenied u.c sc = false ∧ remotesDone u = true ∧ drain (unpoll s) s.cur =
        DrainRes.ok s1 ∧ ¬near ∧ remotesDone s1.u = false ∧ MayHold s) ∧
    (∃ (s : State) (m : BitVec 7),
      let u := s.u
      CanIssue s [] ∧ (m.getLsbD 0 = false ∨ u.m.pub = []) ∧ queuesDone s s.cur m = true) ∧
    (∃ (s : State) (m : BitVec 7) (s1 : State) (c : Cause) (a : Word),
      CanIssue s [] ∧ m.getLsbD 0 = true ∧ queuesDone s s.cur m = true ∧ drain (unpoll s) s.cur = DrainRes.fail s1 c a
        ∧ wanting c = false) ∧
    (∃ (s : State) (m : BitVec 7) (s1 : State),
      CanIssue s [] ∧ m.getLsbD 0 = true ∧ queuesDone s s.cur m = true ∧ drain (unpoll s) s.cur = DrainRes.ok s1) ∧
    (∃ (s : State) (m : BitVec 7),
      CanIssue s [] ∧ queuesDone s s.cur m = false ∧ MayHold s) ∧
    (∃ (s : State) (sc : Scope),
      let u := s.u
      CanIssue s [] ∧ scopeDenied u.c sc = false ∧ ¬ (sc ≠ .pod ∧ sc ≠ .system) ∧ u.c.coursed = false) ∧
    (∃ (s : State) (sc : Scope),
      let u := s.u
      let near := sc ≠ Scope.pod ∧ sc ≠ Scope.system
      let may := near ∨ u.c.coursed = true ∧ scopeDenied u.c sc = false
      CanIssue s [] ∧ may ∧ arrivedGen u sc = none ∧ (remotesDone u = false ∨ queuesDone s s.cur 127 = false) ∧
        MayHold s) ∧
    (∃ (s : State) (sc : Scope),
      let u := s.u
      let quiet := u.m.pub = [] ∧ remotesDone u = true
      let owner := if farScope sc = true then 65536 * u.id.vf + u.id.job else u.id.recNo
      let dom := phaseDomain s u sc
      let p := phaseOf s sc owner dom
      let members := phaseMembers s u sc
      let near := sc ≠ Scope.pod ∧ sc ≠ Scope.system
      let may := near ∨ u.c.coursed = true ∧ scopeDenied u.c sc = false
      CanIssue s [] ∧ may ∧ arrivedGen u sc = none ∧ quiet ∧ queuesDone s s.cur 127 = true ∧ p.arrived = [] ∧ s.cur ∈
        members ∧ MayHold s ∧ ∃ (k : Nat), k ∈ members ∧ k ≠ s.cur ∧ alive (s.unit k) = true) ∧
    (∃ (s : State) (sc : Scope),
      let u := s.u
      let quiet := u.m.pub = [] ∧ remotesDone u = true
      let owner := if farScope sc = true then 65536 * u.id.vf + u.id.job else u.id.recNo
      let dom := phaseDomain s u sc
      let p := phaseOf s sc owner dom
      let members := phaseMembers s u sc
      let near := sc ≠ Scope.pod ∧ sc ≠ Scope.system
      let may := near ∨ u.c.coursed = true ∧ scopeDenied u.c sc = false
      CanIssue s [] ∧ may ∧ arrivedGen u sc = none ∧ quiet ∧ queuesDone s s.cur 127 = true ∧ p.arrived = [] ∧ s.cur ∈
        members ∧ (∀ (k : Nat), k ∈ members → k ≠ s.cur → alive (s.unit k) = false) ∧ farCount s sc p ≤ farArrived
        (s.job owner) dom (sc == Scope.system)) ∧
    (∃ (s : State) (sc : Scope),
      let u := s.u
      let quiet := u.m.pub = [] ∧ remotesDone u = true
      issuing u = true ∧ u.wait = some (Wait.fence sc) ∧ quiet) ∧
    (∃ (s : State) (sc : Scope),
      let u := s.u
      issuing u = true ∧ u.wait = some (Wait.fence sc) ∧ remotesDone u = false ∧ MayHold s) ∧
    (∃ (s : State) (sc : Scope),
      let u := s.u
      ∃ (s1 : State) (c : Cause) (a : Word), issuing u = true ∧ u.wait = some (Wait.fence sc) ∧ remotesDone u = true ∧
        drain s s.cur = DrainRes.fail s1 c a ∧ wanting c = false) ∧
    (∃ (s : State) (sc : Scope),
      let u := s.u
      let near := sc ≠ Scope.pod ∧ sc ≠ Scope.system
      ∃ (s1 : State), issuing u = true ∧ u.wait = some (Wait.fence sc) ∧ remotesDone u = true ∧ drain s s.cur =
        DrainRes.ok s1 ∧ (near ∨ remotesDone s1.u = true)) ∧
    (∃ (s : State) (sc : Scope),
      let u := s.u
      let near := sc ≠ Scope.pod ∧ sc ≠ Scope.system
      ∃ (s1 : State), issuing u = true ∧ u.wait = some (Wait.fence sc) ∧ remotesDone u = true ∧ drain s s.cur =
        DrainRes.ok s1 ∧ ¬near ∧ remotesDone s1.u = false ∧ MayHold s) ∧
    (∃ (s : State) (m : BitVec 7),
      let u := s.u
      issuing u = true ∧ u.wait = some (Wait.qfence m) ∧ (m.getLsbD 0 = false ∨ u.m.pub = []) ∧ queuesDone s s.cur m =
        true) ∧
    (∃ (s : State) (m : BitVec 7),
      let u := s.u
      ∃ (s1 : State) (c : Cause) (a : Word), issuing u = true ∧ u.wait = some (Wait.qfence m) ∧ m.getLsbD 0 = true ∧
        queuesDone s s.cur m = true ∧ drain s s.cur = DrainRes.fail s1 c a ∧ wanting c = false) ∧
    (∃ (s : State) (m : BitVec 7),
      let u := s.u
      ∃ (s1 : State), issuing u = true ∧ u.wait = some (Wait.qfence m) ∧ m.getLsbD 0 = true ∧ queuesDone s s.cur m =
        true ∧ drain s s.cur = DrainRes.ok s1) ∧
    (∃ (s : State) (m : BitVec 7),
      let u := s.u
      issuing u = true ∧ u.wait = some (Wait.qfence m) ∧ queuesDone s s.cur m = false ∧ MayHold s) ∧
    (∃ (s : State) (sc : Scope),
      let u := s.u
      issuing u = true ∧ u.wait = some (Wait.phaseArrive sc) ∧ arrivedGen u sc = none ∧ (remotesDone u = false ∨
        queuesDone s s.cur 127 = false) ∧ MayHold s) ∧
    (∃ (s : State) (sc : Scope),
      let u := s.u
      let quiet := u.m.pub = [] ∧ remotesDone u = true
      let owner := if farScope sc = true then 65536 * u.id.vf + u.id.job else u.id.recNo
      let dom := phaseDomain s u sc
      let p := phaseOf s sc owner dom
      let members := phaseMembers s u sc
      issuing u = true ∧ u.wait = some (Wait.phaseArrive sc) ∧ arrivedGen u sc = none ∧ quiet ∧ queuesDone s s.cur 127
        = true ∧ p.arrived = [] ∧ s.cur ∈ members ∧ MayHold s ∧ ∃ (k : Nat), k ∈ members ∧ k ≠ s.cur ∧ alive (s.unit k)
        = true) ∧
    (∃ (s : State) (sc : Scope),
      let u := s.u
      let quiet := u.m.pub = [] ∧ remotesDone u = true
      let owner := if farScope sc = true then 65536 * u.id.vf + u.id.job else u.id.recNo
      let dom := phaseDomain s u sc
      let p := phaseOf s sc owner dom
      let members := phaseMembers s u sc
      issuing u = true ∧ u.wait = some (Wait.phaseArrive sc) ∧ arrivedGen u sc = none ∧ quiet ∧ queuesDone s s.cur 127
        = true ∧ p.arrived = [] ∧ s.cur ∈ members ∧ (∀ (k : Nat), k ∈ members → k ≠ s.cur → alive (s.unit k) = false) ∧
        farCount s sc p ≤ farArrived (s.job owner) dom (sc == Scope.system)) ∧
    (∃ (s : State) (sc : Scope),
      let u := s.u
      let owner := if farScope sc = true then 65536 * u.id.vf + u.id.job else u.id.recNo
      let dom := phaseDomain s u sc
      let p := phaseOf s sc owner dom
      ∃ (g : Nat), issuing u = true ∧ u.wait = some (Wait.phaseMeet sc) ∧ arrivedGen u sc = some g ∧ p.gen ≠ g) ∧
    (∃ (s : State),
      let u := s.u
      live u = true ∧ u.wait = some (.retry 0) ∧ u.m.remotes = [] ∧ s.late = []) := ⟨
    ⟨tCsr (fun c => { c with scopepol := 0 }) tState, .pod, by unfold CanIssue; decide +kernel⟩,
    ⟨tFences id .running, .bay, by unfold CanIssue; decide +kernel⟩,
    ⟨tFences (tOuts [] [tRemoteOut]) .running, .bay, by unfold CanIssue MayHold; decide +kernel⟩,
    ⟨tFences (tOuts tBadPub []) .running, .bay, _, _, _, by unfold CanIssue; decide +kernel, by decide +kernel, by decide +kernel, drain_fails (by decide +kernel), by decide +kernel⟩,
    ⟨tFences (tOuts tPub []) .running, .bay, _, by unfold CanIssue; decide +kernel, by decide +kernel, by decide +kernel, drain_ok (by decide +kernel), Or.inl (by decide +kernel)⟩,
    ⟨tFar (tFences (tOuts tPub []) .running), .pod, _, by unfold CanIssue; decide +kernel, by decide +kernel, by decide +kernel, drain_ok (by decide +kernel), by decide +kernel, by decide +kernel, by unfold MayHold; decide +kernel⟩,
    ⟨tFences (id) .running, 0x7F, by unfold CanIssue; decide +kernel⟩,
    ⟨tFences (tOuts tBadPub []) .running, 1, _, _, _, by unfold CanIssue; decide +kernel, by decide +kernel, by decide +kernel, drain_fails (by decide +kernel), by decide +kernel⟩,
    ⟨tFences (tOuts tPub []) .running, 1, _, by unfold CanIssue; decide +kernel, by decide +kernel, by decide +kernel, drain_ok (by decide +kernel)⟩,
    ⟨tFences tBusy .running, 0x7F, by unfold CanIssue MayHold; decide +kernel⟩,
    ⟨tFences id .running, .pod, by unfold CanIssue; decide +kernel⟩,
    ⟨tFences (tOuts [] [tRemoteOut]) .running, .bay, by unfold CanIssue MayHold; decide +kernel⟩,
    ⟨tFences (id) .running, .bay, by unfold CanIssue; decide +kernel, by decide +kernel, by decide +kernel, by decide +kernel, by decide +kernel, by decide +kernel, by decide +kernel, by unfold MayHold; decide +kernel, 1, by decide +kernel, by decide +kernel, by decide +kernel⟩,
    ⟨tFences id .done, .bay, by unfold CanIssue; decide +kernel⟩,
    ⟨tFences (tWaits (.fence .bay)) .running, .bay, by decide +kernel⟩,
    ⟨tFences (tWaits (.fence .bay) ∘ tOuts [] [tRemoteOut]) .running, .bay, by unfold MayHold; decide +kernel⟩,
    ⟨tFences (tWaits (.fence .bay) ∘ tOuts tBadPub []) .running, .bay, _, _, _, by decide +kernel, by decide +kernel, by decide +kernel, drain_fails (by decide +kernel), by decide +kernel⟩,
    ⟨tFences (tWaits (.fence .bay) ∘ tOuts tPub []) .running, .bay, _, by decide +kernel, by decide +kernel, by decide +kernel, drain_ok (by decide +kernel), Or.inl (by decide +kernel)⟩,
    ⟨tFar (tFences (tWaits (.fence .pod) ∘ tOuts tPub []) .running), .pod, _, by decide +kernel, by decide +kernel, by decide +kernel, drain_ok (by decide +kernel), by decide +kernel, by decide +kernel, by unfold MayHold; decide +kernel⟩,
    ⟨tFences (tWaits (.qfence 0x7F)) .running, 0x7F, by decide +kernel⟩,
    ⟨tFences (tWaits (.qfence 1) ∘ tOuts tBadPub []) .running, 1, _, _, _, by decide +kernel, by decide +kernel, by decide +kernel, by decide +kernel, drain_fails (by decide +kernel), by decide +kernel⟩,
    ⟨tFences (tWaits (.qfence 1) ∘ tOuts tPub []) .running, 1, _, by decide +kernel, by decide +kernel, by decide +kernel, by decide +kernel, drain_ok (by decide +kernel)⟩,
    ⟨tFences (tWaits (.qfence 0x7F) ∘ tBusy) .running, 0x7F, by unfold MayHold; decide +kernel⟩,
    ⟨tFences (tWaits (.phaseArrive .bay) ∘ tOuts [] [tRemoteOut]) .running, .bay, by unfold MayHold; decide +kernel⟩,
    ⟨tFences (tWaits (.phaseArrive .bay)) .running, .bay, by decide +kernel, by decide +kernel, by decide +kernel, by decide +kernel, by decide +kernel, by decide +kernel, by decide +kernel, by unfold MayHold; decide +kernel, 1, by decide +kernel, by decide +kernel, by decide +kernel⟩,
    ⟨tFences (tWaits (.phaseArrive .bay)) .done, .bay, by decide +kernel⟩,
    ⟨(tFences (tWaits (.phaseMeet .bay)) .running).onUnit 0 fun u => { u with m := { u.m with phaseArrived := [(.bay, 1)] } },
      .bay, 1, by decide +kernel⟩,
    ⟨tFences (tWaits (.retry 0)) .running, by decide +kernel⟩⟩

theorem witness_Pages :
    (∃ (s : State) (a : BitVec 6),
      let g := gOf s a
      CanIssue s [a] ∧ canonical g = false) ∧
    (∃ (s : State) (a : BitVec 6),
      let g := gOf s a
      CanIssue s [a] ∧ canonical g = true ∧ Config.copyAp ≤ BitVec.toNat g) ∧
    (∃ (s : State) (a : BitVec 6),
      let u := s.u
      let vf := u.id.vf
      let g := gOf s a
      let tr := xlate s (coreOf u) vf (heapOf u) g
      ∃ (c : Cause), CanIssue s [a] ∧ canonical g = true ∧ BitVec.toNat g < Config.copyAp ∧ tr = Except.error c ∧
        wanting c = false) ∧
    (∃ (s : State) (a : BitVec 6) (t0 : _),
      let u := s.u
      let vf := u.id.vf
      let g := gOf s a
      CanIssue s [a] ∧ canonical g = true ∧ g.toNat < Config.copyAp ∧ xlate s (coreOf u) vf (heapOf u) g = .ok t0 ∧
        (t0.leaf = none ∨ (t0.res = true ∧ t0.kind = 0 ∧ ∀ l, t0.leaf = some l → bitAt l.e 6 = false))) ∧
    (∃ (s : State) (a : BitVec 6) (t0 : _),
      let u := s.u
      let vf := u.id.vf
      let g := gOf s a
      let pg := pageOf g
      let v := s.vf vf
      CanIssue s [a] ∧ canonical g = true ∧ g.toNat < Config.copyAp ∧ xlate s (coreOf u) vf (heapOf u) g = .ok t0 ∧ ¬
        (t0.leaf = none ∨ (t0.res = true ∧ t0.kind = 0 ∧ ∀ l, t0.leaf = some l → bitAt l.e 6 = false)) ∧ pageAsked s
        vf pg = false ∧ v.requests.length < 64) ∧
    (∃ (s : State) (a : BitVec 6) (t0 : _),
      let u := s.u
      let vf := u.id.vf
      let g := gOf s a
      let pg := pageOf g
      CanIssue s [a] ∧ canonical g = true ∧ g.toNat < Config.copyAp ∧ xlate s (coreOf u) vf (heapOf u) g = .ok t0 ∧ ¬
        (t0.leaf = none ∨ (t0.res = true ∧ t0.kind = 0 ∧ ∀ l, t0.leaf = some l → bitAt l.e 6 = false)) ∧ pageAsked s
        vf pg = true) ∧
    (∃ (s : State) (a : BitVec 6),
      let u := s.u
      let vf := u.id.vf
      let g := gOf s a
      let v := s.vf vf
      let tr := xlate s (coreOf u) vf (heapOf u) g
      ∃ (t0 : Tr),
      let here := t0.leaf = none ∨ t0.res = true ∧ t0.kind = 0 ∧ ∀ (l : Leaf), t0.leaf = some l → bitAt l.e 6 = false
      CanIssue s [a] ∧ canonical g = true ∧ BitVec.toNat g < Config.copyAp ∧ tr = Except.ok t0 ∧ ¬here ∧ pageAsked s
        vf (pageOf g) = false ∧ 64 ≤ v.requests.length ∧ MayHold s) ∧
    (∃ (s : State) (a : BitVec 6),
      let u := s.u
      let vf := u.id.vf
      let g := gOf s a
      let tr := xlate s (coreOf u) vf (heapOf u) g
      CanIssue s [a] ∧ canonical g = true ∧ (Config.copyAp ≤ BitVec.toNat g ∨ ∀ (c : Cause), tr = Except.error c →
        wanting c = false)) ∧
    (∃ (s : State) (a : BitVec 6),
      let u := s.u
      let g := gOf s a
      let la := g.toNat - Config.win
      CanIssue s [a] ∧ (g.toNat < Config.win ∨ usable u < la + 16)) ∧
    (∃ (s : State) (a : BitVec 6),
      let u := s.u
      let g := gOf s a
      let la := g.toNat - Config.win
      CanIssue s [a] ∧ Config.win ≤ g.toNat ∧ la + 16 ≤ usable u ∧ g.toNat % 16 ≠ 0) ∧
    (∃ (s : State) (a : BitVec 6),
      let u := s.u
      let vf := u.id.vf
      let g := gOf s a
      let v := s.vf vf
      let la := g.toNat - Config.win
      CanIssue s [a] ∧ Config.win ≤ g.toNat ∧ la + 16 ≤ usable u ∧ g.toNat % 16 = 0 ∧ watched u g 16 true = false ∧
        v.nq = []) ∧
    (∃ (s : State) (a : BitVec 6) (n rest : _),
      let u := s.u
      let vf := u.id.vf
      let g := gOf s a
      let v := s.vf vf
      let la := g.toNat - Config.win
      CanIssue s [a] ∧ Config.win ≤ g.toNat ∧ la + 16 ≤ usable u ∧ g.toNat % 16 = 0 ∧ watched u g 16 true = false ∧
        v.nq = n :: rest) ∧
    (∃ (s : State) (d : BitVec 6) (pg : BitVec 38),
      let u := s.u
      let vf := u.id.vf
      let v := s.vf vf
      issuing u = true ∧ u.wait = some (Wait.pgreq d.toNat pg) ∧ pageAsked s vf pg = false ∧ v.requests.length < 64) ∧
    (∃ (s : State) (d : BitVec 6) (pg : BitVec 38),
      let u := s.u
      let vf := u.id.vf
      issuing u = true ∧ u.wait = some (Wait.pgreq d.toNat pg) ∧ pageAsked s vf pg = true) ∧
    (∃ (s : State) (d : BitVec 6) (pg : BitVec 38),
      let u := s.u
      let vf := u.id.vf
      let v := s.vf vf
      issuing u = true ∧ u.wait = some (Wait.pgreq d.toNat pg) ∧ pageAsked s vf pg = false ∧ 64 ≤ v.requests.length ∧
        MayHold s) ∧
    (∃ (s : State) (h : IsuneHdr) (va : Word) (ipa : BitVec 48) (die : Nat) (m : Migration),
      TakesCommand s h vfCmd ∧ migrationOf s h va ipa.toNat = .ok (die, m)) ∧
    (∃ (s : State) (h : IsuneHdr) (va : Word) (ipa : BitVec 48) (c : _),
      TakesCommand s h vfCmd ∧ migrationOf s h va ipa.toNat = .error c) ∧
    (∃ (s : State) (h : IsuneHdr),
      TakesCommand s h vfCmd) ∧
    (∃ (s : State) (die : Nat) (m : Migration),
      (s.die die).migration = some m) ∧
    (∃ (s : State) (die : Nat) (m : Migration),
      (s.die die).migration = some m ∧ 2 ^ 19 ≤ m.cycles) ∧
    (∃ (s : State) (die : Nat) (m : Migration),
      (s.die die).migration = some m ∧ m.cycles < 2 ^ 19) := ⟨
    ⟨tVfs id none, 13, by unfold CanIssue; decide +kernel⟩,
    ⟨tVfs id none, 9, by unfold CanIssue; decide +kernel⟩,
    ⟨(tVfs id none).onUnit 0 (tSet [(15, 0x40050000)]), 15, .translation, by unfold CanIssue; decide +kernel, by decide +kernel, by decide +kernel, eq_error.2 (by decide +kernel), rfl⟩,
    ⟨tVfs id none, 12,
      match xlate (tVfs id none) 0 0 (heapOf (tVfs id none).u) (gOf (tVfs id none) (12 : BitVec 6)) with | .ok t => t | .error _ => tTr tState 0x40000000 .load,
      by unfold CanIssue; simp -zeta only [eq_ok]; decide +kernel⟩,
    ⟨tVfs id none, 11,
      match xlate (tVfs id none) 0 0 (heapOf (tVfs id none).u) (gOf (tVfs id none) (11 : BitVec 6)) with | .ok t => t | .error _ => tTr tState 0x40000000 .load,
      by unfold CanIssue; simp -zeta only [eq_ok]; decide +kernel⟩,
    ⟨tVfs (fun v => { v with requests := [(0x4001, [1])] }) none, 11,
      match xlate (tVfs (fun v => { v with requests := [(0x4001, [1])] }) none) 0 0 (heapOf (tVfs (fun v => { v with requests := [(0x4001, [1])] }) none).u) (gOf (tVfs (fun v => { v with requests := [(0x4001, [1])] }) none) (11 : BitVec 6)) with | .ok t => t | .error _ => tTr tState 0x40000000 .load,
      by unfold CanIssue; simp -zeta only [eq_ok]; decide +kernel⟩,
    ⟨tVfs tAsks none, 11,
      match xlate (tVfs tAsks none) 0 0 (heapOf (tVfs tAsks none).u) (gOf (tVfs tAsks none) (11 : BitVec 6)) with | .ok t => t | .error _ => tTr tState 0x40000000 .load,
      by unfold CanIssue MayHold; simp -zeta only [eq_ok]; decide +kernel⟩,
    ⟨tVfs id none, 9, by unfold CanIssue; decide +kernel, by decide +kernel, Or.inl (by decide +kernel)⟩,
    ⟨tVfs id none, 11, by unfold CanIssue; decide +kernel⟩,
    ⟨tVfs id none, 10, by unfold CanIssue; decide +kernel⟩,
    ⟨tVfs id none, 9, by unfold CanIssue; decide +kernel⟩,
    ⟨tVfs (fun v => { v with nq := [⟨1, 0x4000, 5, 1, 2⟩] }) none, 9, ⟨1, 0x4000, 5, 1, 2⟩, [],
      by unfold CanIssue; decide +kernel⟩,
    ⟨tVfs id (some (.pgreq 8 0x4000)), 8, 0x4000, by decide +kernel⟩,
    ⟨tVfs (fun v => { v with requests := [(0x4000, [1])] }) (some (.pgreq 8 0x4000)), 8, 0x4000, by decide +kernel⟩,
    ⟨tVfs tAsks (some (.pgreq 8 0x4000)), 8, 0x4000, by unfold MayHold; decide +kernel⟩,
    ⟨tVfs id none, tHdr 9 0x20 1 0 0 false, 0x40000000, 0x400000, 0,
      match migrationOf (tVfs id none) (tHdr 9 0x20 1 0 0 false) 0x40000000 0x400000 with | .ok x => x.2 | .error _ => tMig 0,
      by unfold TakesCommand; simp -zeta only [eq_ok]; decide +kernel⟩,
    ⟨tVfs id none, tHdr 9 0x20 1 0 0 false, 0x8000, 0x400000, 1,
      by unfold TakesCommand; simp -zeta only [eq_error]; decide +kernel⟩,
    ⟨tVfs id none, tHdr 9 0x20 1 0 0 false, by unfold TakesCommand; decide +kernel⟩,
    ⟨tMigrates 0, 0, tMig 0, by decide +kernel⟩,
    ⟨tMigrates (2 ^ 19), 0, tMig (2 ^ 19), by decide +kernel⟩,
    ⟨tMigrates 0, 0, tMig 0, by decide +kernel⟩⟩

theorem witness_RemoteTargets :
    (∃ (s : State) (p : Packet) (e : _),
      e ∈ [(Instr.asyncRead p, PacketKind.read), (.asyncWrite p, .write), (.asyncAtomic p, .atomic), (.asyncReduce p,
        .reduce), (.asyncHandle p, .handle)] ∧ ¬ (p.nhop.toNat ≤ p.hop.toNat) ∧ deadPort s (outPort p) = false ∧
        HasRoom s (outPort p)) ∧
    (∃ (s : State) (p : Packet),
      let here := p.nhop.toNat ≤ p.hop.toNat
      ∃ (e : Instr × PacketKind), e ∈ [(Instr.asyncRead p, PacketKind.read), (Instr.asyncWrite p, PacketKind.write),
        (Instr.asyncAtomic p, PacketKind.atomic), (Instr.asyncReduce p, PacketKind.reduce), (Instr.asyncHandle p,
        PacketKind.handle)] ∧ ¬here ∧ deadPort s (outPort p) = true ∧ CanAnswer s p) ∧
    (∃ (s : State) (p : Packet) (e r : _),
      p.nhop.toNat ≤ p.hop.toNat ∧ CanAnswer s p ∧ e ∈ [(Instr.asyncRead p, KeyNeed.read), (.asyncWrite p, .write),
        (.asyncAtomic p, .amo), (.asyncReduce p, .amo), (.asyncHandle p, .handle)] ∧ keyTarget s p e.2 = .error r) ∧
    (∃ (s : State) (p : Packet),
      let vf := p.dstVf.toNat
      let here := p.nhop.toNat ≤ p.hop.toNat
      ∃ (e : Instr × KeyNeed) (r : Nat), here ∧ CanAnswer s p ∧ e ∈ [(Instr.asyncRead p, KeyNeed.read),
        (Instr.asyncWrite p, KeyNeed.write), (Instr.asyncAtomic p, KeyNeed.amo), (Instr.asyncReduce p, KeyNeed.amo),
        (Instr.asyncHandle p, KeyNeed.handle)] ∧ keyTarget s p e.snd = Except.error r ∧ (s.vf vf).st = VfSt.teardown) ∧
    (∃ (s : State) (p : Packet) (uid la : Nat),
      let n := pktBytes p
      let u := s.unit uid
      p.nhop.toNat ≤ p.hop.toNat ∧ CanAnswer s p ∧ keyTarget s p .read = .ok (.scratch uid la) ∧ scrSpoiled s u la n =
        false) ∧
    (∃ (s : State) (p : Packet) (k : Nat) (va : Word) (tr : Tr),
      let n := pktBytes p
      let vf := p.dstVf.toNat
      p.nhop.toNat ≤ p.hop.toNat ∧ CanAnswer s p ∧ keyTarget s p .read = .ok (.va va) ∧ va.toNat % 64 + n ≤ 64 ∧
        keyTranslate s vf va .load = .ok tr ∧ tr.wb = false ∧ tr.counted = false ∧ tr.place = .mem k ∧ spoiledAt s k n
        = false) ∧
    (∃ (s : State) (p : Packet) (va : Word),
      let n := pktBytes p
      let vf := p.dstVf.toNat
      let here := p.nhop.toNat ≤ p.hop.toNat
      ∃ (bs : List Byte) (s1 : State), here ∧ CanAnswer s p ∧ keyTarget s p KeyNeed.read = Except.ok (KeyTarget.va va)
        ∧ vfBytes s vf 3 va n = Except.ok (some (bs, s1))) ∧
    (∃ (s : State) (p : Packet) (va : Word),
      let n := pktBytes p
      let vf := p.dstVf.toNat
      let here := p.nhop.toNat ≤ p.hop.toNat
      ∃ (r : Nat), here ∧ CanAnswer s p ∧ keyTarget s p KeyNeed.read = Except.ok (KeyTarget.va va) ∧ vfBytes s vf 3 va
        n = Except.error r) ∧
    (∃ (s : State) (p : Packet) (uid la : Nat),
      let n := pktBytes p
      p.nhop.toNat ≤ p.hop.toNat ∧ CanAnswer s p ∧ p.data.length = n ∧ keyTarget s p .write = .ok (.scratch uid la) ∧
        la / 65536 = (la + n - 1) / 65536) ∧
    (∃ (s : State) (p : Packet) (k : Nat) (va : Word) (tr : Tr),
      let n := pktBytes p
      let vf := p.dstVf.toNat
      p.nhop.toNat ≤ p.hop.toNat ∧ CanAnswer s p ∧ p.data.length = n ∧ keyTarget s p .write = .ok (.va va) ∧ va.toNat
        % 64 + n ≤ 64 ∧ tr.wb = false ∧ tr.counted = false ∧ k % 64 = va.toNat % 64 ∧ (∀ i, i < n → keyTranslate s vf
        (va + BitVec.ofNat 64 i) .store = .ok { tr with place := .mem (k + i) })) ∧
    (∃ (s : State) (p : Packet) (uid : Nat) (la : Nat),
      let n := pktBytes p
      let u := s.unit uid
      let here := p.nhop.toNat ≤ p.hop.toNat
      let sk := scrKey u la
      here ∧ CanAnswer s p ∧ keyTarget s p KeyNeed.amo = Except.ok (KeyTarget.scratch uid la) ∧ spoiledAt s sk n =
        false) ∧
    (∃ (s : State) (p : Packet) (uid : Nat) (la : Nat),
      let n := pktBytes p
      let u := s.unit uid
      let here := p.nhop.toNat ≤ p.hop.toNat
      let sk := scrKey u la
      let tags := tagState s (sourceId p)
      let tag := p.tag.toNat
      let fresh := ∀ (hi : Nat) (l : List Nat), tags = some (hi, l) → ¬tag ∈ l ∧ hi < tag + 256
      here ∧ CanAnswer s p ∧ keyTarget s p KeyNeed.amo = Except.ok (KeyTarget.scratch uid la) ∧ spoiledAt s sk n =
        false ∧ fresh) ∧
    (∃ (s : State) (p : Packet) (va : Word),
      let n := pktBytes p
      let vf := p.dstVf.toNat
      let here := p.nhop.toNat ≤ p.hop.toNat
      let op := p.aop.toNat
      let atomicAt := fun (op : Nat) => keyTranslate s vf va (Acc.atomic (op != 0) (isAdd64 op && n == 8))
      ∃ (r : Nat), here ∧ CanAnswer s p ∧ keyTarget s p KeyNeed.amo = Except.ok (KeyTarget.va va) ∧ atomicAt op =
        Except.error r) ∧
    (∃ (s : State) (p : Packet) (k : Nat) (va : Word) (tr : Tr),
      let n := pktBytes p
      let vf := p.dstVf.toNat
      let here := p.nhop.toNat ≤ p.hop.toNat
      let op := p.aop.toNat
      let atomicAt := fun (op : Nat) => keyTranslate s vf va (Acc.atomic (op != 0) (isAdd64 op && n == 8))
      here ∧ CanAnswer s p ∧ keyTarget s p KeyNeed.amo = Except.ok (KeyTarget.va va) ∧ atomicAt op = Except.ok tr ∧
        tr.place = Place.mem k ∧ BitVec.toNat va % n ≠ 0) ∧
    (∃ (s : State) (p : Packet) (k : Nat) (va : Word) (tr : Tr),
      let n := pktBytes p
      let vf := p.dstVf.toNat
      let op := p.aop.toNat
      p.nhop.toNat ≤ p.hop.toNat ∧ CanAnswer s p ∧ keyTarget s p .amo = .ok (.va va) ∧ keyTranslate s vf va (.atomic
        (op != 0) (isAdd64 op && n == 8)) = .ok tr ∧ tr.wb = false ∧ tr.counted = false ∧ tr.place = .mem k ∧
        spoiledAt s k n = false ∧ va.toNat % n = 0) ∧
    (∃ (s : State) (p : Packet) (k : Nat) (va : Word) (tr : Tr),
      let n := pktBytes p
      let vf := p.dstVf.toNat
      let here := p.nhop.toNat ≤ p.hop.toNat
      let rop := fieldAt p.data 8 1
      let atomicAt := fun (op : Nat) => keyTranslate s vf va (Acc.atomic (op != 0) (isAdd64 op && n == 8))
      let quiet := tr.wb = false ∧ tr.counted = false
      let at' := tr.place = Place.mem k ∧ spoiledAt s k n = false
      let tags := tagState s (sourceId p)
      let tag := p.tag.toNat
      let fresh := ∀ (hi : Nat) (l : List Nat), tags = some (hi, l) → ¬tag ∈ l ∧ hi < tag + 256
      here ∧ CanAnswer s p ∧ keyTarget s p KeyNeed.amo = Except.ok (KeyTarget.va va) ∧ atomicAt rop = Except.ok tr ∧
        fresh ∧ quiet ∧ at' ∧ BitVec.toNat va % n = 0) ∧
    (∃ (s : State) (p : Packet) (tgt : KeyTarget),
      let here := p.nhop.toNat ≤ p.hop.toNat
      let tags := tagState s (sourceId p)
      let tag := p.tag.toNat
      ∃ (hi : Nat) (l : List Nat), here ∧ CanAnswer s p ∧ keyTarget s p KeyNeed.amo = Except.ok tgt ∧ tags = some (hi,
        l) ∧ tag ∈ l ∧ heldHere s p = false) ∧
    (∃ (s : State) (p : Packet) (tgt : KeyTarget) (hi l : _),
      let tags := tagState s (sourceId p)
      let tag := p.tag.toNat
      p.nhop.toNat ≤ p.hop.toNat ∧ CanAnswer s p ∧ keyTarget s p .amo = .ok tgt ∧ tags = some (hi, l) ∧ tag ∉ l ∧ tag
        + 256 ≤ hi) ∧
    (∃ (s : State) (p : Packet) (uid hd : Nat),
      p.nhop.toNat ≤ p.hop.toNat ∧ CanAnswer s p ∧ keyTarget s p .handle = .ok (.handle uid hd) ∧ fieldAt p.data 0 1 =
        2) ∧
    (∃ (s : State) (p : Packet) (uid hd : Nat),
      let u := s.unit uid
      let x := handleOf u hd
      p.nhop.toNat ≤ p.hop.toNat ∧ CanAnswer s p ∧ keyTarget s p .handle = .ok (.handle uid hd) ∧ fieldAt p.data 0 1 ≠
        2 ∧ (x = .free ∨ x = .filling)) ∧
    (∃ (s : State) (p : Packet) (uid hd : Nat),
      let u := s.unit uid
      let x := handleOf u hd
      p.nhop.toNat ≤ p.hop.toNat ∧ CanAnswer s p ∧ keyTarget s p .handle = .ok (.handle uid hd) ∧ fieldAt p.data 0 1 ≠
        2 ∧ x ≠ .free ∧ x ≠ .filling) := ⟨
    ⟨tTarget .free [], tPacket 3 4 0 1 5 8 (toLe 8 77),
      (Instr.asyncRead (tPacket 3 4 0 1 5 8 (toLe 8 77)), PacketKind.read), by unfold HasRoom; decide +kernel⟩,
    ⟨tTarget .free [], { tPacket 3 4 0 1 5 8 (toLe 8 77) with route := 9 },
      (Instr.asyncRead ({ tPacket 3 4 0 1 5 8 (toLe 8 77) with route := 9 }), PacketKind.read), by unfold CanAnswer HasRoom; decide +kernel⟩,
    ⟨tTarget .free [], tPacket 3 4 1 3 5 8 (toLe 8 77),
      (Instr.asyncRead (tPacket 3 4 1 3 5 8 (toLe 8 77)), KeyNeed.read), 3,
      by unfold CanAnswer HasRoom; simp -zeta only [eq_error]; decide +kernel⟩,
    ⟨{ tTarget .free [] with vfs := [(0, { tVf with st := .teardown })] }, tPacket 3 4 1 2 300 8 (toLe 8 77), (Instr.asyncRead (tPacket 3 4 1 2 300 8 (toLe 8 77)), KeyNeed.read), 1,
      by unfold CanAnswer HasRoom; simp -zeta only [eq_error]; decide +kernel⟩,
    ⟨tTarget .free [], tPacket 3 4 1 1 5 8 (toLe 8 77), 0, 72,
      by unfold CanAnswer HasRoom; simp -zeta only [eq_ok]; decide +kernel⟩,
    ⟨tTarget .free [], tPacket 3 4 1 2 300 8 (toLe 8 77), 0x200008, 0x40000008,
      tKeyTr (tTarget .free []) (0x40000008 : Word) .load,
      by unfold CanAnswer HasRoom; simp -zeta only [eq_ok]; decide +kernel⟩,
    (by
      have g := got_ok none (x := vfBytes (tTarget .free []) 0 3 0x40000008 (pktBytes (tPacket 3 4 1 2 300 8 (toLe 8 77)))) (by decide +kernel)
      have e := some_pair ([], tState) (x := gotOk none (vfBytes (tTarget .free []) 0 3 0x40000008 (pktBytes (tPacket 3 4 1 2 300 8 (toLe 8 77))))) (by decide +kernel)
      rw [e] at g
      refine ⟨tTarget .free [], tPacket 3 4 1 2 300 8 (toLe 8 77), 0x40000008, _, _, by decide +kernel, ?_, ?_, g⟩
      · unfold CanAnswer HasRoom; decide +kernel
      · simp -zeta only [eq_ok]; decide +kernel),
    ⟨{ tTarget .free [] with vfs := [(0, { tVf with keys := [(2, tKeyEntry 0 0x40050000 true)] })] }, tPacket 3 4 1 2 300 8 (toLe 8 77), 0x40050008, 6,
      by unfold CanAnswer HasRoom; simp -zeta only [eq_ok, eq_error]; decide +kernel⟩,
    ⟨tTarget .free [], tPacket 3 4 1 1 5 8 (toLe 8 77), 0, 72,
      by unfold CanAnswer HasRoom; simp -zeta only [eq_ok]; decide +kernel⟩,
    ⟨tTarget .free [], tPacket 3 4 1 2 300 8 (toLe 8 77), 0x200008, 0x40000008,
      tKeyTr (tTarget .free []) (0x40000008 : Word) .load,
      by unfold CanAnswer HasRoom; simp -zeta only [eq_ok]; decide +kernel⟩,
    (by
      refine ⟨tTarget .free [], tPacket 3 4 1 1 5 8 (toLe 8 77), 0, 72, ?_⟩
      unfold CanAnswer HasRoom; simp -zeta only [eq_ok]; decide +kernel),
    (by
      refine ⟨tTarget .free [], tPacket 3 4 1 1 5 8 (toLe 8 77), 0, 72, ?_⟩
      unfold CanAnswer HasRoom; simp -zeta only [eq_ok]
      have e : tagState (tTarget .free []) (sourceId (tPacket 3 4 1 1 5 8 (toLe 8 77))) = none := by decide +kernel
      refine ⟨by decide +kernel, by decide +kernel, by decide +kernel, by decide +kernel, ?_⟩
      intro _ _ h; rw [e] at h; cases h),
    ⟨{ tTarget .free [] with vfs := [(0, { tVf with keys := [(2, tKeyEntry 0 0x40050000 true)] })] }, tPacket 3 4 1 2 300 8 (toLe 8 77), 0x40050008, 6,
      by unfold CanAnswer HasRoom; simp -zeta only [eq_ok, eq_error]; decide +kernel⟩,
    ⟨tTarget .free [], tPacket 3 4 1 2 300 12 (toLe 8 77), 0x20000C, 0x4000000C, tKeyTr (tTarget .free []) 0x4000000C (.atomic true true),
      by unfold CanAnswer HasRoom; simp -zeta only [eq_ok]; decide +kernel⟩,
    ⟨tTarget .free [], tPacket 3 4 1 2 300 8 (toLe 8 77), 0x200008, 0x40000008,
      tKeyTr (tTarget .free []) (0x40000008 : Word) .load,
      by unfold CanAnswer HasRoom; simp -zeta only [eq_ok]; decide +kernel⟩,
    (by
      refine ⟨tTarget .free [], tPacket 3 4 1 2 300 8 (toLe 8 77 ++ [4]), 0x200008, 0x40000008,
        tKeyTr (tTarget .free []) 0x40000008 (.atomic true true), ?_⟩
      unfold CanAnswer HasRoom; simp -zeta only [eq_ok]
      have e : tagState (tTarget .free []) (sourceId (tPacket 3 4 1 2 300 8 (toLe 8 77 ++ [4]))) = none := by decide +kernel
      exact ⟨by decide +kernel, by decide +kernel, by decide +kernel, by decide +kernel, fun _ _ h => (nomatch e.symm.trans h), by decide +kernel, by decide +kernel, by decide +kernel⟩),
    ⟨tTarget .free [(65539, 0, 300, [300])], tPacket 3 4 1 2 300 8 (toLe 8 77), .va 0x40000008, 300, [300],
      by unfold CanAnswer HasRoom; simp -zeta only [eq_ok]; decide +kernel⟩,
    ⟨tTarget .free [(65539, 0, 300, [300])], tPacket 3 4 1 1 5 8 (toLe 8 77), .scratch 0 72, 300, [300],
      by unfold CanAnswer HasRoom; simp -zeta only [eq_ok]; decide +kernel⟩,
    ⟨tTarget .free [], tPacket 0 0 1 1 5 9 [2], 0, 9,
      by unfold CanAnswer HasRoom; simp -zeta only [eq_ok]; decide +kernel⟩,
    ⟨tTarget .free [], tPacket 0 0 1 1 5 9 [0], 0, 9,
      by unfold CanAnswer HasRoom; simp -zeta only [eq_ok]; decide +kernel⟩,
    ⟨tTarget .full [], tPacket 0 0 1 1 5 9 [0], 0, 9,
      by unfold CanAnswer HasRoom; simp -zeta only [eq_ok]; decide +kernel⟩⟩

theorem witness_ResetState :
    (∃ (e : Nat × Machine.Unit),
      e ∈ State.reset.units) :=
    ⟨(mgmtUid 0, mgmtCore 0), by decide +kernel⟩

theorem witness_RemoteReplies :
    (∃ (s : State) (p : Packet) (e : _),
      e ∈ [(Instr.asyncReply p, PacketKind.reply), (.asyncNack p, .nack), (.asyncRetry p, .retry)] ∧ ¬ (p.nhop.toNat ≤
        p.hop.toNat) ∧ HasRoom s (outPort p)) ∧
    (∃ (s : State) (p : Packet),
      let here := p.nhop.toNat ≤ p.hop.toNat
      here ∧ answered s p = none) ∧
    (∃ (s : State) (p : Packet) (uid : Nat) (r : Remote),
      let u := s.unit uid
      let here := p.nhop.toNat ≤ p.hop.toNat
      let free := u.dbg.stopped = false
      let plain := r.far = none ∧ r.strm = none ∧ r.copyCh = none
      let mine := answered s p = some (uid, r)
      here ∧ mine ∧ free ∧ plain ∧ r.waits = false) ∧
    (∃ (s : State) (p : Packet) (uid : Nat) (r : Remote),
      let u := s.unit uid
      let here := p.nhop.toNat ≤ p.hop.toNat
      let free := u.dbg.stopped = false
      let plain := r.far = none ∧ r.strm = none ∧ r.copyCh = none
      let mine := answered s p = some (uid, r)
      here ∧ mine ∧ free ∧ plain ∧ r.waits = true ∧ live u = true) ∧
    (∃ (s : State) (p : Packet) (uid : Nat) (r : Remote),
      let u := s.unit uid
      let here := p.nhop.toNat ≤ p.hop.toNat
      let free := u.dbg.stopped = false
      let mine := answered s p = some (uid, r)
      ∃ (f : FarPlace), here ∧ mine ∧ free ∧ r.far = some f ∧ r.waits = false) ∧
    (∃ (s : State) (p : Packet) (uid : Nat) (r : Remote),
      let u := s.unit uid
      let here := p.nhop.toNat ≤ p.hop.toNat
      let free := u.dbg.stopped = false
      let plain := r.far = none ∧ r.strm = none ∧ r.copyCh = none
      let own := plain ∧ ∀ (l : Nat), r.agent ≠ Agent.corbel l
      let mine := answered s p = some (uid, r)
      here ∧ mine ∧ free ∧ own ∧ live u = true) ∧
    (∃ (s : State) (p : Packet) (uid : Nat) (r : Remote),
      let here := p.nhop.toNat ≤ p.hop.toNat
      let mine := answered s p = some (uid, r)
      here ∧ mine) ∧
    (∃ (s : State) (uid : Nat) (tag : Nat) (r : Remote),
      let u := s.unit uid
      let free := u.dbg.stopped = false
      let plain := r.far = none ∧ r.strm = none ∧ r.copyCh = none
      let own := plain ∧ ∀ (l : Nat), r.agent ≠ Agent.corbel l
      remoteOf s tag = some (uid, r) ∧ own ∧ live u = true ∧ free ∧ 2 ^ 20 ≤ r.cycles) ∧
    (∃ (s : State) (uid : Nat) (tag : Nat) (r : Remote),
      let u := s.unit uid
      let free := u.dbg.stopped = false
      let plain := r.far = none ∧ r.strm = none ∧ r.copyCh = none
      let own := plain ∧ ∀ (l : Nat), r.agent ≠ Agent.corbel l
      remoteOf s tag = some (uid, r) ∧ own ∧ live u = true ∧ free ∧ r.cycles < 2 ^ 20) ∧
    (∃ (s : State) (k : Nat) (r : Remote),
      let c := tget s.u.m.caps k blankCap
      issuing s.u = true ∧ s.u.wait = some (Wait.allowance r) ∧ r.cap = some k ∧ c.allow ≠ 0 ∧ (r.waits = false ∨
        MayHold s)) ∧
    (∃ (s : State) (k : Nat) (r : Remote),
      let c := tget s.u.m.caps k blankCap
      issuing s.u = true ∧ s.u.wait = some (Wait.allowance r) ∧ r.cap = some k ∧ c.allow = 0 ∧ MayHold s) ∧
    (∃ (s : State),
      asyncSlot (slotOf s.tide) = true) ∧
    (∃ (s : State),
      asyncSlot (slotOf s.tide) = false) := ⟨
    ⟨tReplies [] none 2 180, tPacket 2 0 0 0 5 8 (toLe 8 77),
      (Instr.asyncReply (tPacket 2 0 0 0 5 8 (toLe 8 77)), PacketKind.reply), by unfold HasRoom; decide +kernel⟩,
    ⟨tReplies [tWaiting 5 true 7] (some (.reply 5 false)) 2 24576, tPacket 2 0 1 0 6 8 (toLe 8 77), by decide +kernel⟩,
    ⟨tReplies [tWaiting 6 false (2 ^ 20)] none 2 180, tPacket 2 0 1 0 6 8 (toLe 8 77), 0, tWaiting 6 false (2 ^ 20),
      by decide +kernel⟩,
    ⟨tReplies [tWaiting 5 true 7] (some (.reply 5 false)) 2 24576, tPacket 2 0 1 0 5 8 (toLe 8 77), 0, tWaiting 5 true 7,
      by decide +kernel⟩,
    ⟨tReplies [{ tWaiting 6 false (2 ^ 20) with far := some ⟨1, 0, 5, 8, 8, none⟩ }] none 2 180, tPacket 2 0 1 0 6 8 (toLe 8 77), 0, { tWaiting 6 false (2 ^ 20) with far := some ⟨1, 0, 5, 8, 8, none⟩ },
      ⟨1, 0, 5, 8, 8, none⟩, by decide +kernel⟩,
    (by
      refine ⟨tReplies [tWaiting 5 true 7] (some (.reply 5 false)) 2 24576, tPacket 2 0 1 0 5 8 (toLe 8 77), 0, tWaiting 5 true 7,
      ?_⟩
      exact ⟨by decide +kernel, by decide +kernel, by decide +kernel, ⟨by decide +kernel, fun _ h => by cases h⟩, by decide +kernel⟩),
    ⟨tReplies [tWaiting 5 true 7] (some (.reply 5 false)) 2 24576, tPacket 2 0 1 0 5 8 (toLe 8 77), 0, tWaiting 5 true 7,
      by decide +kernel⟩,
    (by
      refine ⟨tReplies [tWaiting 6 false (2 ^ 20)] none 2 180, 0, 6, tWaiting 6 false (2 ^ 20), ?_⟩
      exact ⟨by decide +kernel, ⟨by decide +kernel, fun _ h => by cases h⟩, by decide +kernel, by decide +kernel, by decide +kernel⟩),
    (by
      refine ⟨tReplies [tWaiting 5 true 7] (some (.reply 5 false)) 2 24576, 0, 5, tWaiting 5 true 7, ?_⟩
      exact ⟨by decide +kernel, ⟨by decide +kernel, fun _ h => by cases h⟩, by decide +kernel, by decide +kernel, by decide +kernel⟩),
    ⟨tReplies [] (some (.allowance (tWaiting 5 true 7))) 2 24, 4, tWaiting 5 true 7, by unfold MayHold; decide +kernel⟩,
    ⟨tReplies [] (some (.allowance (tWaiting 5 true 7))) 0 24, 4, tWaiting 5 true 7, by unfold MayHold; decide +kernel⟩,
    ⟨tReplies [tWaiting 6 false (2 ^ 20)] none 2 180, by decide +kernel⟩,
    ⟨tReplies [tWaiting 5 true 7] (some (.reply 5 false)) 2 24576, by decide +kernel⟩⟩

theorem witness_HostAccesses :
    (∃ (s : State) (qp n : Nat) (va cmp arg : Word) (cas : Bool) (data : List Byte) (i : _),
      let three := [Instr.hostRdmaWrite qp va data, .hostRdmaRead qp va n, .hostRdmaAtomic qp va cas cmp arg]
      qpState s qp = none ∧ i ∈ three) ∧
    (∃ (s : State) (qp n vf : Nat) (va cmp arg : Word) (cas : Bool) (data : List Byte) (i : _),
      let three := [Instr.hostRdmaWrite qp va data, .hostRdmaRead qp va n, .hostRdmaAtomic qp va cas cmp arg]
      qpState s qp = some false ∧ vfOfQp s qp = some vf ∧ i ∈ three) ∧
    (∃ (s : State) (qp : Nat) (va : Word) (data : List Byte),
      let ok := qpState s qp = some true
      ∃ (s1 : State), ok ∧ rdmaWriteAll qp (granules (BitVec.toNat va) data.length) s va data = RdmaW.ok s1) ∧
    (∃ (s : State) (qp : Nat) (n : Nat) (va : Word),
      let ok := qpState s qp = some true
      ∃ (bs : List Byte) (s1 : State), ok ∧ rdmaBlocked s qp va n = false ∧ rdmaReadAll qp (granules (BitVec.toNat va)
        n) s va n = some (bs, s1)) ∧
    (∃ (s : State) (qp k : Nat) (va : Word) (data : List Byte) (tr : Tr),
      qpState s qp = some true ∧ data ≠ [] ∧ va.toNat % 64 + data.length ≤ 64 ∧ rdmaPlace s qp va .store = some tr ∧
        tr.place = .mem k ∧ tr.wb = false ∧ tr.counted = false ∧ k % 64 = va.toNat % 64) ∧
    (∃ (s : State) (qp : Nat) (va : Word) (data : List Byte),
      qpState s qp = some true ∧ data ≠ [] ∧ va.toNat % 64 + data.length ≤ 64 ∧ rdmaPlace s qp va .store = none) ∧
    (∃ (s : State) (qp n k : Nat) (va : Word) (tr : Tr),
      qpState s qp = some true ∧ 0 < n ∧ va.toNat % 64 + n ≤ 64 ∧ rdmaBlocked s qp va n = false ∧ rdmaPlace s qp va
        .load = some tr ∧ tr.place = .mem k ∧ tr.wb = false ∧ tr.counted = false ∧ spoiledAt s k n = false) ∧
    (∃ (s : State) (qp n : Nat) (va : Word),
      qpState s qp = some true ∧ 0 < n ∧ va.toNat % 64 + n ≤ 64 ∧ rdmaBlocked s qp va n = false ∧ rdmaPlace s qp va
        .load = none) ∧
    (∃ (s : State) (qp : Nat) (va : Word) (tr : Tr),
      let ok := qpState s qp = some true
      ok ∧ (rdmaPlace s qp va (Acc.atomic true true) = none ∨ rdmaPlace s qp va (Acc.atomic true true) = some tr ∧
        BitVec.toNat va % 8 ≠ 0)) ∧
    (∃ (s : State) (qp k : Nat) (va : Word) (tr : Tr),
      qpState s qp = some true ∧ rdmaPlace s qp va (.atomic true true) = some tr ∧ tr.place = .mem k ∧ tr.wb = false ∧
        tr.counted = false ∧ va.toNat % 8 = 0 ∧ spoiledAt s k 8 = false) ∧
    (∃ (s : State) (qp vf : Nat),
      vfOfQp s qp = some vf ∧ (s.vf vf).qpError = false) ∧
    (∃ (s : State) (qp vf : Nat),
      vfOfQp s qp = some vf ∧ (s.vf vf).qpError = true) ∧
    (∃ (s : State) (qp : Nat) (data : List Byte),
      let f := headerOfBytes qp (padTo data 64 0)
      vfOfQp s qp = none ∧ deviceQp s f = false) ∧
    (∃ (s : State) (qp : Nat) (data : List Byte) (h : IsuneHdr),
      let f := headerOfBytes qp (padTo data 64 0)
      vfOfQp s qp = none ∧ f = h ∧ deviceQp s h = true ∧ (h.kind ≠ 0 ∨ h.opcode.toNat ∉ opcodes) ∧ h.version = 1 ∧
        h.reserved = false ∧ h.length.toNat ≤ 2 ^ 22 ∧ h.world = (if h.qp.toNat ≤ 8 then 1 else 0)) ∧
    (∃ (s : State) (h : IsuneHdr),
      deviceQp s h = true ∧ (h.kind ≠ 0 ∨ h.opcode.toNat ∉ opcodes) ∧ ¬ (h.version = 1 ∧ h.reserved = false ∧
        h.length.toNat ≤ 2 ^ 22)) ∧
    (∃ (s : State) (h : IsuneHdr),
      deviceQp s h = true ∧ (h.kind ≠ 0 ∨ h.opcode.toNat ∉ opcodes) ∧ h.version = 1 ∧ h.reserved = false ∧
        h.length.toNat ≤ 2 ^ 22 ∧ h.world ≠ (if h.qp.toNat ≤ 8 then 1 else 0)) ∧
    (∃ (s : State) (h : IsuneHdr),
      let mine := deviceQp s h = true ∧ (h.kind ≠ 0 ∨ ¬h.opcode.toNat ∈ opcodes)
      let good := h.version = 1 ∧ h.reserved = false ∧ h.length.toNat ≤ 2 ^ 22
      mine ∧ good ∧ h.world = if h.qp.toNat ≤ 8 then 1 else 0) ∧
    (∃ (s : State) (h : IsuneHdr),
      ¬ (deviceQp s h = true ∧ (h.kind ≠ 0 ∨ h.opcode.toNat ∉ opcodes))) := ⟨
    ⟨tHost false, 77, 8, 0x40000000, 1, 3, false, toLe 8 77,
      .hostRdmaWrite (77 : Nat) (0x40000000 : Word) (toLe 8 77), by decide +kernel⟩,
    ⟨tHost true, 20, 8, 0, 0x40000000, 1, 3, false, toLe 8 77,
      .hostRdmaWrite (20 : Nat) (0x40000000 : Word) (toLe 8 77), by decide +kernel⟩,
    ⟨tHost false, 20, 0x40000000, toLe 8 77, _, by decide +kernel, rdma_ok (by decide +kernel)⟩,
    ⟨tHost false, 20, 8, 0x40000000, _, _, by decide +kernel, by decide +kernel, some_pair ([], State.reset) (by decide +kernel)⟩,
    ⟨tHost false, 20, 0x200000, 0x40000000, toLe 8 77,
      (rdmaPlace (tHost false) (20 : Nat) (0x40000000 : Word) .store).getD (tTr tState 0x40000000 .load),
      by decide +kernel⟩,
    ⟨tHost false, 20, 0x40010000, toLe 8 77, by decide +kernel⟩,
    ⟨tHost false, 20, 8, 0x200000, 0x40000000,
      (rdmaPlace (tHost false) (20 : Nat) (0x40000000 : Word) .store).getD (tTr tState 0x40000000 .load),
      by decide +kernel⟩,
    ⟨tHost false, 20, 8, 0x40010000, by decide +kernel⟩,
    ⟨tHost false, 20, 0x8000000000000000, tTr tState 0x40000000 .load, by decide +kernel, Or.inl (by decide +kernel)⟩,
    ⟨tHost false, 20, 0x200000, 0x40000000,
      (rdmaPlace (tHost false) (20 : Nat) (0x40000000 : Word) .store).getD (tTr tState 0x40000000 .load),
      by decide +kernel⟩,
    ⟨tHost false, 20, 0, by decide +kernel⟩,
    ⟨tHost true, 20, 0, by decide +kernel⟩,
    ⟨tHost false, 77, toLe 8 77, by decide +kernel⟩,
    ⟨tHost false, 9, tFrameBytes (tHdr 9 0x7777 1 0 0 false),
      headerOfBytes 9 (padTo (tFrameBytes (tHdr 9 0x7777 1 0 0 false)) 64 0), by decide +kernel⟩,
    ⟨tHost false, tHdr 9 0x7777 2 0 0 false, by decide +kernel⟩,
    ⟨tHost false, tHdr 9 0x7777 1 0 1 false, by decide +kernel⟩,
    ⟨tHost false, tHdr 9 0x7777 1 0 0 false, by decide +kernel⟩,
    ⟨tHost false, tHdr 20 0x20 1 0 0 false, by decide +kernel⟩⟩

theorem witness_LinkWords :
    (∃ (s : State) (slot desc tile mid : BitVec 12) (id : BitVec 8) (set port out : BitVec 4) (lane : BitVec 3) (ch : BitVec 6) (i : _),
      let words := [Instr.linkAt slot, .linkSlack, .linkKey id, .linkEnd, .linkSetdt set, .linkSend port desc tile,
          .linkRecv port desc tile, .linkRedw port desc tile, .linkReds port desc tile, .linkFwd port out, .linkMark
          port mid, .linkTune port lane ch]
      ¬ AtLink s ∧ i ∈ words) ∧
    (∃ (s : State) (slot : BitVec 12),
      let l := s.link s.port
      AtLink s ∧ l.period * 49152 + slot.toNat * 12 ≤ s.tide.toNat) ∧
    (∃ (s : State) (slot : BitVec 12),
      let l := s.link s.port
      AtLink s ∧ s.tide.toNat < l.period * 49152 + slot.toNat * 12) ∧
    (∃ (s : State),
      let l := s.link s.port
      let next := fun (l : Link) => (l.period + 1) * 49152 ≤ s.tide.toNat
      AtLink s ∧ next l ∧ l.switch = none) ∧
    (∃ (s : State) (k g : _),
      let l := s.link s.port
      let next := fun (l : Link) => (l.period + 1) * 49152 ≤ s.tide.toNat
      AtLink s ∧ next l ∧ l.switch = some k ∧ tfind l.sets k = some g) ∧
    (∃ (s : State),
      let l := s.link s.port
      let next := fun (l : Link) => (l.period + 1) * 49152 ≤ s.tide.toNat
      AtLink s ∧ ¬ next l) ∧
    (∃ (s : State),
      AtLink s) ∧
    (∃ (s : State) (desc : BitVec 12) (tile : BitVec 12) (port : BitVec 4) (bs : List Byte),
      let l := s.link s.port
      let d := descIn l l.set desc.toNat
      let ln := laneOf s.port d
      let ready := sourceReady s l l.set desc.toNat
      let up := fun (p q : Nat) => (lanesUp s p).contains q = true
      AtLink s ∧ (tile ≠ 0 ∨ ready = true) ∧ linkTileRead s d tile.toNat = some bs ∧ up port.toNat ln) ∧
    (∃ (s : State) (desc : BitVec 12) (tile : BitVec 12) (port : BitVec 4),
      let l := s.link s.port
      let d := descIn l l.set desc.toNat
      let ln := laneOf s.port d
      let ready := sourceReady s l l.set desc.toNat
      let up := fun (p q : Nat) => (lanesUp s p).contains q = true
      let us := s.unit (descUid d)
      AtLink s ∧ (tile = 0 ∧ ready = false ∨ linkTileRead s d tile.toNat = none) ∧ live us = true ∧ up port.toNat ln) ∧
    (∃ (s : State) (desc tile : BitVec 12) (port : BitVec 4) (op : Nat) (i : Instr),
      let l := s.link s.port
      let d := descIn l l.set desc.toNat
      let ln := laneOf s.port d
      let arrives := (l.arrived.find? fun a => a.1 == ln).map (·.2)
      AtLink s ∧ (op, i) ∈ [(0, Instr.linkRecv port desc tile), (1, .linkRedw port desc tile), (2, .linkReds port desc
        tile)] ∧ port.toNat = s.port ∧ arrives = none) ∧
    (∃ (s : State) (desc tile : BitVec 12) (port : BitVec 4) (f : Frame) (op : Nat) (i : Instr),
      let l := s.link s.port
      let d := descIn l l.set desc.toNat
      let ln := laneOf s.port d
      let arrives := (l.arrived.find? fun a => a.1 == ln).map (·.2)
      AtLink s ∧ (op, i) ∈ [(0, Instr.linkRecv port desc tile), (1, .linkRedw port desc tile), (2, .linkReds port desc
        tile)] ∧ port.toNat = s.port ∧ arrives = some f ∧ f.hcrcGood = true ∧ f.typ = 4) ∧
    (∃ (s : State) (desc tile : BitVec 12) (port : BitVec 4) (f : Frame) (op : Nat) (i : Instr),
      let l := s.link s.port
      let d := descIn l l.set desc.toNat
      let ln := laneOf s.port d
      let arrives := (l.arrived.find? fun a => a.1 == ln).map (·.2)
      AtLink s ∧ (op, i) ∈ [(0, Instr.linkRecv port desc tile), (1, .linkRedw port desc tile), (2, .linkReds port desc
        tile)] ∧ port.toNat = s.port ∧ arrives = some f ∧ f.hcrcGood = false) ∧
    (∃ (s : State) (desc : BitVec 12) (tile : BitVec 12) (port : BitVec 4) (f : Frame) (op : Nat) (i : Instr),
      let l := s.link s.port
      let d := descIn l l.set desc.toNat
      let n := tget l.uses desc.toNat 0
      let use := n / max 1 (dTiles d)
      let ln := laneOf s.port d
      let ready := sourceReady s l l.set desc.toNat
      let arrives := Option.map (fun (x : Nat × Frame) => x.snd) (List.find? (fun (a : Nat × Frame) => a.fst == ln)
        l.arrived)
      let receives := (op, i) ∈ [(0, Instr.linkRecv port desc tile), (1, Instr.linkRedw port desc tile), (2,
        Instr.linkReds port desc tile)] ∧ port.toNat = s.port
      ∃ (cur : List Byte), AtLink s ∧ receives ∧ arrives = some f ∧ frameGood f = true ∧ f.typ = 1 ∧ tilePlaced s d
        tile.toNat = true ∧ (tile = 0 → dsigReady s d = true ∧ (op ≠ 0 → ready = true)) ∧ (op ≠ 0 → l.applied.contains
        (desc.toNat, use, tile.toNat) = false) ∧ (if op = 0 then some [] else linkTileRead s d tile.toNat) = some cur) ∧
    (∃ (s : State) (port out : BitVec 4) (f : Frame),
      let up := fun (p q : Nat) => (lanesUp s p).contains q = true
      let m := s.link port.toNat
      AtLink s ∧ (m.arrived.find? fun a => a.1 == 0).map (·.2) = some f ∧ up out.toNat 0) ∧
    (∃ (s : State) (port : BitVec 4),
      let m := s.link port.toNat
      AtLink s ∧ (m.arrived.find? fun a => a.1 == 0) = none) := ⟨
    ⟨tState, 5, 0, 0, 7, 4, 1, 1, 1, 2, 5, Instr.linkSlack, by unfold AtLink; decide +kernel⟩,
    ⟨tLinks 1 98364 id, 5, by unfold AtLink; decide +kernel⟩,
    ⟨tLinks 1 98364 id, 6, by unfold AtLink; decide +kernel⟩,
    ⟨tLinks 1 147456 id, by unfold AtLink; decide +kernel⟩,
    ⟨tLinks 1 147456 fun l => { l with switch := some 1, lastKey := some 4 }, 1, tProg,
      by unfold AtLink; decide +kernel⟩,
    ⟨tLinks 1 98364 id, by unfold AtLink; decide +kernel⟩,
    ⟨tLinks 1 98364 id, by unfold AtLink; decide +kernel⟩,
    ⟨tStarted, 0, 0, 1,
      (linkTileRead tStarted (descIn (tStarted.link tStarted.port) (tStarted.link tStarted.port).set (0 : BitVec 12).toNat) (0 : BitVec 12).toNat).getD [],
      by unfold AtLink; decide +kernel⟩,
    ⟨tLinks 1 98364 id, 3, 0, 1, by unfold AtLink; decide +kernel⟩,
    ⟨tLinks 1 98364 id, 0, 0, 1, 0, .linkRecv (1 : BitVec 4) (0 : BitVec 12) (0 : BitVec 12),
      by unfold AtLink; decide +kernel⟩,
    ⟨tLinks 1 98364 (tGot (tFrame 4 true)), 0, 0, 1, tFrame 4 true, 0,
      .linkRecv (1 : BitVec 4) (0 : BitVec 12) (0 : BitVec 12), by unfold AtLink; decide +kernel⟩,
    ⟨tLinks 1 98364 (tGot (tFrame 1 false)), 0, 0, 1, tFrame 1 false, 0,
      .linkRecv (1 : BitVec 4) (0 : BitVec 12) (0 : BitVec 12), by unfold AtLink; decide +kernel⟩,
    ⟨tLinks 1 98364 (tGot (tFrame 1 true)), 0, 0, 1, tFrame 1 true, 0,
      .linkRecv (1 : BitVec 4) (0 : BitVec 12) (0 : BitVec 12), [], by unfold AtLink; decide +kernel⟩,
    ⟨tLinks 1 98364 (tGot (tFrame 1 true)), 1, 1, tFrame 1 true, by unfold AtLink; decide +kernel⟩,
    ⟨tLinks 1 98364 id, 1, by unfold AtLink; decide +kernel⟩⟩

theorem witness_LinkEvents :
    (∃ (s : State) (port : Nat),
      let l := s.link port
      let a := portSlot s port
      let pn := a % 4096
      schedSlot port pn = true ∧ l.counted ≠ some a ∧ l.dones = []) ∧
    (∃ (s : State) (port : Nat),
      let l := s.link port
      let a := portSlot s port
      let pn := a % 4096
      schedSlot port pn = false ∨ l.counted = some a) ∧
    (∃ (s : State) (port lane : Nat),
      let l := s.link port
      3 ≤ tget l.bad lane 0 ∧ (lanesUp s port).contains lane = true) ∧
    (∃ (s : State) (port lane : Nat),
      let l := s.link port
      tget l.bad lane 0 < 3) ∧
    (∃ (s : State) (port : Nat) (x : LinkTile) (bs : List Byte),
      let l := s.link port
      let now := slotOf s.tide
      let a := portSlot s port
      let d := descIn l x.set x.desc
      now = 4048 ∧ port < 8 ∧ lanesUp s port = [0] ∧ List.filter (fun (a : Nat × Frame) => a.snd.rpl) l.arrived = [] ∧
        l.reports = [x] ∧ x.lane = 0 ∧ x.period + 1 = periodOf s.tide ∧ linkTileRead s d x.tile = some bs ∧ l.dones = []
        ∧ l.counted ≠ some a) ∧
    (∃ (s : State) (port : Nat),
      let l := s.link port
      let now := slotOf s.tide
      let a := portSlot s port
      now < 4048 ∨ 4080 ≤ now ∨ l.counted = some a) ∧
    (∃ (s : State),
      let now := slotOf s.tide
      4080 ≤ now) ∧
    (∃ (s : State),
      let now := slotOf s.tide
      now < 4080) ∧
    (∃ (s : State) (port : Nat) (x : LinkTile),
      let l := s.link port
      let d := descIn l x.set x.desc
      l.releases = [x] ∧ x.period < periodOf s.tide ∧ l.reports = [] ∧ sigKind (dRsig d) = 1 ∧ (descUnit s d).isSome =
        true) ∧
    (∃ (s : State) (port : Nat) (x : LinkTile),
      let l := s.link port
      (∀ x ∈ l.releases, periodOf s.tide ≤ x.period)) ∧
    (∃ (s : State) (port lane : Nat),
      let l := s.link port
      let q := tget l.lanes lane blankLane
      q.tuning = none) ∧
    (∃ (s : State) (port lane n : Nat),
      let l := s.link port
      let q := tget l.lanes lane blankLane
      q.tuning = some n ∧ n ≤ 25000 ∧ portPlan s port = none) ∧
    (∃ (s : State) (port : Nat) (lane : Nat) (n : Nat),
      let l := s.link port
      let q := tget l.lanes lane blankLane
      q.tuning = some n ∧ n ≤ 25000) ∧
    (∃ (s : State) (port lane n : Nat),
      let l := s.link port
      let q := tget l.lanes lane blankLane
      q.tuning = some n ∧ 25000 < n) ∧
    (∃ (s : State) (port lane n : Nat),
      let l := s.link port
      let q := tget l.lanes lane blankLane
      q.tuning = some n ∧ 25000 ≤ n) ∧
    (∃ (s : State) (port lane n : Nat),
      let l := s.link port
      let q := tget l.lanes lane blankLane
      q.tuning = some n ∧ n < 25000) ∧
    (∃ (s : State),
      s.pod.plan = none) ∧
    (∃ (s : State) (p : Plan),
      s.pod.plan = some p ∧ s.tide.toNat < p.tsw.toNat) ∧
    (∃ (s : State) (p : Plan),
      s.pod.plan = some p ∧ p.tsw.toNat ≤ s.tide.toNat) ∧
    (∃ (s : State),
      let now := slotOf s.tide
      let due := s.pod.joined = true ∧ s.pod.root ≠ some s.pod.pkg ∧ s.pod.exchanged ≠ some (periodOf s.tide) ∧ 4040 ≤
        now ∧ now < 4048
      due) ∧
    (∃ (s : State),
      let now := slotOf s.tide
      let due := s.pod.joined = true ∧ s.pod.root ≠ some s.pod.pkg ∧ s.pod.exchanged ≠ some (periodOf s.tide) ∧ 4040 ≤
        now ∧ now < 4048
      ¬due) ∧
    (∃ (s : State),
      s.pod.tideBad = true ∧ BitVec.toNat s.tide % 12 = 0) ∧
    (∃ (s : State),
      s.pod.tideBad = false ∨ BitVec.toNat s.tide % 12 ≠ 0) ∧
    (∃ (s : State) (port : Nat),
      let l := s.link port
      let now := slotOf s.tide
      4032 ≤ now ∧ now < 4040 ∧ 4 ≤ l.elastic ∧ l.elastic ≤ 28) ∧
    (∃ (s : State) (port : Nat),
      let l := s.link port
      let now := slotOf s.tide
      4032 ≤ now ∧ now < 4040 ∧ (l.elastic < 4 ∨ 28 < l.elastic)) ∧
    (∃ (s : State),
      let now := slotOf s.tide
      (now < 4032 ∨ 4040 ≤ now)) := ⟨
    ⟨tSlot 1 0 id, 1, by decide +kernel⟩,
    ⟨tSlot 1 0 fun l => { l with counted := some (portSlot (tSlot 1 0 id) 1) }, 1, by decide +kernel⟩,
    ⟨tSlot 1 5 fun l => { l with bad := [(0, 3)] }, 1, 0, by decide +kernel⟩,
    ⟨tSlot 1 0 id, 1, 0, by decide +kernel⟩,
    ⟨{ tSlot 1 4048 fun l => { l with reports := [tTile1 0 1], lanes := [(0, { blankLane with lit := true })] } with mem := [] },
      1, tTile1 0 1,
      (linkTileRead ({ tSlot 1 4048 fun l => { l with reports := [tTile1 0 1], lanes := [(0, { blankLane with lit := true })] } with mem := [] }) (descIn (({ tSlot 1 4048 fun l => { l with reports := [tTile1 0 1], lanes := [(0, { blankLane with lit := true })] } with mem := [] }).link 1) 0 0) 1).getD [],
      by decide +kernel⟩,
    ⟨tSlot 1 0 id, 1, by decide +kernel⟩,
    ⟨tSlot 1 4080 id, by decide +kernel⟩,
    ⟨tSlot 1 0 id, by decide +kernel⟩,
    ⟨tSlot 1 40 fun l => { l with releases := [tTile1 3 1] }, 1, tTile1 3 1, by decide +kernel⟩,
    ⟨tSlot 1 0 id, 1, tTile1 1 1, by decide +kernel⟩,
    ⟨tSlot 9 40 id, 9, 0, by decide +kernel⟩,
    ⟨tSlot 9 40 fun l => { l with lanes := [(0, { blankLane with tuning := some 24999 })] }, 9, 0, 24999,
      by decide +kernel⟩,
    ⟨tSlot 1 0 fun l => { l with lanes := [(2, { blankLane with tuning := some 25000 })] }, 1, 2, 25000, by decide +kernel⟩,
    ⟨tSlot 9 40 fun l => { l with lanes := [(0, { blankLane with tuning := some 25001 })] }, 9, 0, 25001,
      by decide +kernel⟩,
    ⟨tSlot 9 40 fun l => { l with lanes := [(0, { blankLane with tuning := some 25001 })] }, 9, 0, 25001,
      by decide +kernel⟩,
    ⟨tSlot 9 40 fun l => { l with lanes := [(0, { blankLane with tuning := some 24999 })] }, 9, 0, 24999,
      by decide +kernel⟩,
    ⟨tSlot 1 5 id, by decide +kernel⟩,
    ⟨tPod (fun p => { p with plan := some (tPlanAt 0x1000000000000) }) (tSlot 1 5 id), tPlanAt 0x1000000000000,
      by decide +kernel⟩,
    ⟨tPod (fun p => { p with plan := some (tPlanAt 0) }) (tSlot 1 5 id), tPlanAt 0, by decide +kernel⟩,
    ⟨tSlot 1 4040 id, by decide +kernel⟩,
    ⟨tSlot 1 0 id, by decide +kernel⟩,
    ⟨tPod (fun p => { p with tideBad := true }) (tSlot 1 0 id), by decide +kernel⟩,
    ⟨tSlot 1 0 id, by decide +kernel⟩,
    ⟨tSlot 1 4032 fun l => { l with elastic := 16 }, 1, by decide +kernel⟩,
    ⟨tSlot 1 4032 fun l => { l with elastic := 2 }, 1, by decide +kernel⟩,
    ⟨tSlot 1 0 id, by decide +kernel⟩⟩

theorem witness_CyclesAndStops :
    (∃ (s : State) (d : BitVec 6),
      let u := s.u
      u.pend.contains (pendKey u d.toNat) = true) ∧
    (∃ (s : State) (d : BitVec 6),
      let u := s.u
      u.pend.contains (pendKey u d.toNat) = false) ∧
    (∃ (s : State),
      let u := s.u
      live u = true) ∧
    (∃ (s : State),
      let u := s.u
      live u = false) ∧
    (∃ (s : State),
      let u := s.u
      live u = true ∧ u.wait = none ∧ u.halted = false ∧ u.r.pc ∈ u.dbg.breaks) ∧
    (∃ (s : State),
      let u := s.u
      let brk := u.wait = none ∧ u.halted = false ∧ u.r.pc ∈ u.dbg.breaks
      live u = true ∧ ¬brk ∧ u.dbg.stopRequested = true) ∧
    (∃ (s : State),
      let u := s.u
      let brk := u.wait = none ∧ u.halted = false ∧ u.r.pc ∈ u.dbg.breaks
      live u = false ∨ ¬brk ∧ u.dbg.stopRequested = false) := ⟨
    ⟨tState.onUnit 0 fun u => { u with pend := [9] }, 9, by decide +kernel⟩,
    ⟨tState, 9, by decide +kernel⟩,
    ⟨tState, by decide +kernel⟩,
    ⟨tState.onUnit 0 fun u => { u with st := .suspended }, by decide +kernel⟩,
    ⟨tState.onUnit 0 fun u => { u with dbg := { u.dbg with breaks := [0x300000] } }, by decide +kernel⟩,
    ⟨tState.onUnit 0 fun u => { u with dbg := { u.dbg with stopRequested := true } }, by decide +kernel⟩,
    ⟨tState, by decide +kernel⟩⟩

theorem witness_FaultFramesAndKeystones :
    (∃ (s : State),
      s.firm.frames = []) ∧
    (∃ (s : State) (uid : Nat) (rest : List Nat),
      let u := s.unit uid
      let c := bits (frameReg u 0).toNat 0 8
      s.firm.frames = uid :: rest ∧ u.st = .faulted ∧ c = 0xB1) ∧
    (∃ (s : State) (uid : Nat) (rest : List Nat),
      let u := s.unit uid
      let c := bits (frameReg u 0).toNat 0 8
      let key' := 65536 * u.id.vf + u.id.job
      let j := s.job key'
      s.firm.frames = uid :: rest ∧ u.st = .faulted ∧ c ≠ 0xB1 ∧ (u.course.active = true ∨ c ∈ [0x80, 0x81, 0x84]) ∧
        j.failedAt = none ∧ j.kComplete ≠ 0 ∧ j.lastRestored ≠ some j.kComplete) ∧
    (∃ (s : State) (uid : Nat) (rest : List Nat),
      let u := s.unit uid
      let c := bits (frameReg u 0).toNat 0 8
      s.firm.frames = uid :: rest ∧ u.st = .faulted ∧ u.course.active = false ∧ c ∉ [0x80, 0x81, 0x84, 0xB1] ∧ c =
        0x07) ∧
    (∃ (s : State) (uid : Nat) (rest : List Nat),
      let u := s.unit uid
      let c := bits (frameReg u 0).toNat 0 8
      s.firm.frames = uid :: rest ∧ u.st = .faulted ∧ u.course.active = false ∧ c ∉ [0x80, 0x81, 0x84, 0xB1] ∧ c =
        0x16) ∧
    (∃ (s : State) (uid : Nat) (rest : List Nat),
      let u := s.unit uid
      let c := bits (frameReg u 0).toNat 0 8
      s.firm.frames = uid :: rest ∧ u.st = .faulted ∧ u.course.active = false ∧ c ∉ [0x80, 0x81, 0x84, 0xB1] ∧ c =
        0xB0) ∧
    (∃ (s : State) (uid : Nat) (rest : List Nat),
      let u := s.unit uid
      let c := bits (frameReg u 0).toNat 0 8
      s.firm.frames = uid :: rest ∧ u.st = .faulted ∧ u.course.active = false ∧ c ∉ [0x80, 0x81, 0x84, 0xB1] ∧ c ∉
        [0x07, 0x16, 0xB0] ∧ u.c.utvec ≠ 0 ∧ bitAt (frameReg u 0).toNat 14 = false) ∧
    (∃ (s : State) (uid : Nat) (rest : List Nat),
      let u := s.unit uid
      let c := bits (frameReg u 0).toNat 0 8
      s.firm.frames = uid :: rest ∧ u.st = .faulted ∧ u.course.active = false ∧ c ∉ [0x80, 0x81, 0x84, 0xB1] ∧ c ∉
        [0x07, 0x16, 0xB0] ∧ (u.c.utvec = 0 ∨ bitAt (frameReg u 0).toNat 14 = true)) ∧
    (∃ (s : State),
      let v := s.u
      CanIssue s [] ∧ (v.c.coursed = false ∨ v.course.active = true ∨ (s.recOf v.id.recNo).keyst = none ∨ keystBusy v
        = true)) ∧
    (∃ (s : State),
      let v := s.u
      CanIssue s [] ∧ keystForm s = true ∧ keystBusy v = false ∧ queuesDone s s.cur 0x7F = false) ∧
    (∃ (s : State),
      let v := s.u
      let jv := s.job (65536 * v.id.vf + v.id.job)
      CanIssue s [] ∧ keystForm s = true ∧ keystBusy v = false ∧ v.m.pub = [] ∧ queuesDone s s.cur 0x7F = true ∧
        jv.kComplete < v.m.kcount) ∧
    (∃ (s : State),
      let v := s.u
      let jv := s.job (65536 * v.id.vf + v.id.job)
      CanIssue s [] ∧ keystForm s = true ∧ keystBusy v = false ∧ v.m.pub = [] ∧ queuesDone s s.cur 0x7F = true ∧
        v.m.kcount ≤ jv.kComplete) ∧
    (∃ (s : State) (id : BitVec 8) (kc : KeystConf),
      let v := s.u
      let jv := s.job (65536 * v.id.vf + v.id.job)
      let still := v.m.pub = [] ∧ queuesDone s s.cur 127 = true
      issuing v = true ∧ v.wait = some (Wait.keyst id) ∧ (s.recOf v.id.recNo).keyst = some kc ∧ still ∧ v.m.kcount ≤
        jv.kComplete) ∧
    (∃ (s : State) (i : Nat) (kc : KeystConf),
      (s.recOf i).keyst = some kc ∧ commonKey s i ≠ 0 ∧ headerOf s i (commonKey s i) = none) ∧
    (∃ (s : State) (i : Nat),
      ((s.recOf i).keyst = none ∨ commonKey s i = 0)) ∧
    (∃ (s : State) (key : Nat),
      let J := s.job key
      J.failedAt = none) ∧
    (∃ (s : State) (key p : Nat),
      let J := s.job key
      J.failedAt = some p ∧ periodOf s.tide < p + 3) ∧
    (∃ (s : State) (key p : Nat),
      let J := s.job key
      J.failedAt = some p ∧ J.restored = false ∧ p + 3 ≤ periodOf s.tide ∧ selectSet s key = none) ∧
    (∃ (s : State) (key p : Nat) (x : Saved) (set : _),
      let J := s.job key
      let K := J.kComplete
      let hs := restoredRecs s key K
      let xs := savedOf s hs K
      J.failedAt = some p ∧ J.restored = false ∧ p + 3 ≤ periodOf s.tide ∧ selectSet s key = some set ∧ (∀ x ∈ xs,
        partGood s x = true)) ∧
    (∃ (s : State) (key p : Nat),
      let J := s.job key
      J.failedAt = some p ∧ (periodOf s.tide < p + 4 ∨ J.restored = false)) ∧
    (∃ (s : State) (key p : Nat),
      let J := s.job key
      J.failedAt = some p ∧ J.restored = true ∧ p + 4 ≤ periodOf s.tide) := ⟨
    ⟨tState, by decide +kernel⟩,
    ⟨tFaulted 0xB1 id id, 0, [1], by decide +kernel⟩,
    ⟨tFaulted 0x80 id fun j => { j with kComplete := 3 }, 0, [1], by decide +kernel⟩,
    ⟨tFaulted 0x07 id id, 0, [1], by decide +kernel⟩,
    ⟨tFaulted 0x16 id id, 0, [1], by decide +kernel⟩,
    ⟨tFaulted 0xB0 id id, 0, [1], by decide +kernel⟩,
    ⟨tFaulted 0x11 (fun u => { u with c := { u.c with utvec := 0x300000 } }) id, 0, [1], by decide +kernel⟩,
    ⟨tFaulted 0x11 id id, 0, [1], by decide +kernel⟩,
    ⟨tState, by unfold CanIssue; decide +kernel⟩,
    ⟨tKeyst (fun u => { u with ve := { u.ve with queue := [tVeEntry] } }) (fun j => j) (some tConf),
      by unfold CanIssue; decide +kernel⟩,
    ⟨tKeyst (fun u => { u with m := { u.m with kcount := 1 } }) id (some tConf), by unfold CanIssue; decide +kernel⟩,
    ⟨tKeyst id id (some tConf), by unfold CanIssue; decide +kernel⟩,
    ⟨tKeyst (tWaits (.keyst 3)) (fun j => j) (some tConf), 3, tConf, by decide +kernel⟩,
    ⟨tWrote, 0, tConf, by decide +kernel⟩,
    ⟨tKeyst id id none, 0, by decide +kernel⟩,
    ⟨tRolled 0 8 false, 0, by decide +kernel⟩,
    ⟨tRolled 5 7 false, 0, 5, by decide +kernel⟩,
    ⟨tPod (fun p => { p with failed := [(0, 0, 0)] }) (tRolled 5 8 false), 0, 5, by decide +kernel⟩,
    ⟨tRolled 5 8 false, 0, 5, ⟨0, 1, 0x40000000, tUnit, []⟩, (selectSet (tRolled 5 8 false) 0).getD 0,
      by decide +kernel⟩,
    ⟨tRolled 5 7 false, 0, 5, by decide +kernel⟩,
    ⟨tRolled 5 9 true, 0, 5, by decide +kernel⟩⟩

theorem witness_Tenants :
    (∃ (s : State) (h : IsuneHdr) (p : VfSpec),
      let made := s.vf p.vf.toNat
      TakesCommand s h (have __src := anyCmd
      { secure := __src.secure, vf := __src.vf, early := __src.early, create := true }) ∧ made.st = VfSt.quarantine) ∧
    (∃ (s : State) (h : IsuneHdr) (p : VfSpec),
      let made := s.vf p.vf.toNat
      TakesCommand s h (have __src := anyCmd
      { secure := __src.secure, vf := __src.vf, early := __src.early, create := true }) ∧ (made.st = VfSt.active ∨
        made.st = VfSt.teardown)) ∧
    (∃ (s : State) (h : IsuneHdr) (p : VfSpec),
      let made := s.vf p.vf.toNat
      TakesCommand s h (have __src := anyCmd
      { secure := __src.secure, vf := __src.vf, early := __src.early, create := true }) ∧ made.st = VfSt.absent ∧
        p.world = true ∧ 8 < h.qp.toNat) ∧
    (∃ (s : State) (h : IsuneHdr) (p : VfSpec),
      let made := s.vf p.vf.toNat
      TakesCommand s h (have __src := anyCmd
      { secure := __src.secure, vf := __src.vf, early := __src.early, create := true }) ∧ made.st = VfSt.absent ∧
        (p.world = false ∨ h.qp.toNat ≤ 8) ∧ qpsForm p = false) ∧
    (∃ (s : State) (h : IsuneHdr) (p : VfSpec),
      let made := s.vf p.vf.toNat
      TakesCommand s h (have __src := anyCmd
      { secure := __src.secure, vf := __src.vf, early := __src.early, create := true }) ∧ made.st = VfSt.absent ∧
        (p.world = false ∨ h.qp.toNat ≤ 8) ∧ qpsForm p = true ∧ qpsTaken s p = true) ∧
    (∃ (s : State) (h : IsuneHdr) (p : VfSpec),
      let made := s.vf p.vf.toNat
      TakesCommand s h (have __src := anyCmd
      { secure := __src.secure, vf := __src.vf, early := __src.early, create := true }) ∧ made.st = VfSt.absent ∧
        (p.world = false ∨ h.qp.toNat ≤ 8) ∧ qpsForm p = true ∧ qpsTaken s p = false ∧ poolFree s p = false) ∧
    (∃ (s : State) (h : IsuneHdr) (p : VfSpec),
      let made := s.vf p.vf.toNat
      TakesCommand s h (have __src := anyCmd
      { secure := __src.secure, vf := __src.vf, early := __src.early, create := true }) ∧ made.st = VfSt.absent ∧
        (p.world = false ∨ h.qp.toNat ≤ 8) ∧ qpsForm p = true ∧ qpsTaken s p = false ∧ poolFree s p = true) ∧
    (∃ (s : State) (h : IsuneHdr) (q : PartitionSpec) (b : _),
      let n := h.vf.toNat
      let v := s.vf n
      TakesCommand s h vfCmd ∧ partForm q = true ∧ q.world = v.world ∧ q.bays.find? (fun b => otherWorld s n (s.bay
        b).vfs) = some b) ∧
    (∃ (s : State) (h : IsuneHdr) (q : PartitionSpec),
      let n := h.vf.toNat
      let v := s.vf n
      TakesCommand s h vfCmd ∧ partForm q = true ∧ q.world = v.world ∧ (∀ b ∈ q.bays, otherWorld s n (s.bay b).vfs =
        false) ∧ (∀ b ∈ q.barriers, (barrierOf s b.1 b.2).vf = none ∨ (barrierOf s b.1 b.2).vf = some n)) ∧
    (∃ (s : State) (h : IsuneHdr) (q : PartitionSpec),
      let n := h.vf.toNat
      let v := s.vf n
      TakesCommand s h vfCmd ∧ partForm q = true ∧ q.world ≠ v.world) ∧
    (∃ (s : State) (h : IsuneHdr) (rs : List Nat) (w : Bool) (r : Remote),
      let n := h.vf.toNat
      let v := s.vf n
      TakesCommand s h vfCmd ∧ (∀ r ∈ rs, r < 64) ∧ w = v.world ∧ (∀ r ∈ rs, tfind s.regionVf r = none ∨ tfind
        s.regionVf r = some n)) ∧
    (∃ (s : State) (h : IsuneHdr) (rs : List Nat) (w : Bool) (r : _),
      let n := h.vf.toNat
      let v := s.vf n
      TakesCommand s h vfCmd ∧ (∀ x ∈ rs, x < 64) ∧ w = v.world ∧ rs = [r] ∧ (∃ m, tfind s.regionVf r = some m ∧ m ≠
        n)) ∧
    (∃ (s : State) (h : IsuneHdr) (es : List RangeEntry),
      TakesCommand s h vfCmd ∧ (∀ e ∈ es, rangeForm e = true) ∧ es.length ≤ 32 ∧ rangeOverlap es = none) ∧
    (∃ (s : State) (h : IsuneHdr) (es : List RangeEntry) (k : _),
      TakesCommand s h vfCmd ∧ (∀ e ∈ es, rangeForm e = true) ∧ es.length ≤ 32 ∧ rangeOverlap es = some k) ∧
    (∃ (s : State) (h : IsuneHdr) (es : List RangeEntry),
      TakesCommand s h vfCmd ∧ (∀ e ∈ es, rangeForm e = true) ∧ 32 < es.length) ∧
    (∃ (s : State) (h : IsuneHdr),
      TakesCommand s h vfCmd) ∧
    (∃ (s : State) (h : IsuneHdr) (slot : Nat) (key : List Byte),
      TakesCommand s h { vfCmd with secure := true } ∧ slot < 16 ∧ key.length = 32) ∧
    (∃ (s : State) (h : IsuneHdr) (slot : Nat) (key : List Byte),
      TakesCommand s h { vfCmd with secure := true } ∧ (16 ≤ slot ∨ key.length ≠ 32)) ∧
    (∃ (s : State) (h' : IsuneHdr) (vf : Nat),
      let o := s.vf vf
      o.st = .teardown ∧ o.destroyHdr = some h' ∧ (∀ l ∈ s.links, linkNames l.2 vf = false ∨ linkAtBoundary l.2 =
        true)) ∧
    (∃ (s : State) (vf : Nat),
      let o := s.vf vf
      o.st ≠ .teardown) ∧
    (∃ (s : State) (vf : Nat) (pkg : Nat),
      let heard := 4032 ≤ slotOf s.tide ∧ ∃ (x : Nat × Nat × Nat), x ∈ s.pod.torn ∧ x.fst = pkg ∧ x.snd.fst = vf ∧
        x.snd.snd ≤ periodOf s.tide * 49152 + 48384
      heard) ∧
    (∃ (s : State) (vf : Nat) (pkg : Nat) (uid : Nat) (r : Remote),
      let heard := 4032 ≤ slotOf s.tide ∧ ∃ (x : Nat × Nat × Nat), x ∈ s.pod.torn ∧ x.fst = pkg ∧ x.snd.fst = vf ∧
        x.snd.snd ≤ periodOf s.tide * 49152 + 48384
      heard ∧ s.units = [(uid, s.unit uid)] ∧ (s.unit uid).m.remotes = [r] ∧ capNames (s.unit uid) pkg vf r = true ∧
        r.far = none ∧ r.strm = none ∧ r.copyCh = none ∧ (∀ (l : Nat), r.agent ≠ Agent.corbel l) ∧ live (s.unit uid) =
        true) ∧
    (∃ (s : State) (vf : Nat) (pkg : Nat),
      let heard := 4032 ≤ slotOf s.tide ∧ ∃ (x : Nat × Nat × Nat), x ∈ s.pod.torn ∧ x.fst = pkg ∧ x.snd.fst = vf ∧
        x.snd.snd ≤ periodOf s.tide * 49152 + 48384
      ¬heard) ∧
    (∃ (s : State) (vf : Nat),
      let o := s.vf vf
      o.st = .quarantine ∧ o.slacks ≤ s.tide.toNat) ∧
    (∃ (s : State) (vf : Nat),
      let o := s.vf vf
      (o.st ≠ .quarantine ∨ s.tide.toNat < o.slacks)) := ⟨
    ⟨tTen .quarantine, tVfHdr 9 1, tSpec, by unfold TakesCommand; decide +kernel⟩,
    ⟨tTen .active, tVfHdr 9 1, tSpec, by unfold TakesCommand; decide +kernel⟩,
    ⟨tTen .absent, tVfHdr 9 1, { tSpec with world := true }, by unfold TakesCommand; decide +kernel⟩,
    ⟨tTen .absent, tVfHdr 9 1, { tSpec with qps := [5] }, by unfold TakesCommand; decide +kernel⟩,
    ⟨tTen .absent, tVfHdr 9 1, { tSpec with qps := [20] }, by unfold TakesCommand; decide +kernel⟩,
    ⟨tTen .absent, tVfHdr 9 1, { tSpec with poolFirst := 8 }, by unfold TakesCommand; decide +kernel⟩,
    ⟨tTen .absent, tVfHdr 9 1, tSpec, by unfold TakesCommand; decide +kernel⟩,
    ⟨tTen .active, tVfHdr 9 1, { tPart with bays := [1] }, 1, by unfold TakesCommand; decide +kernel⟩,
    ⟨tTen .active, tVfHdr 9 1, tPart, by unfold TakesCommand; decide +kernel⟩,
    ⟨tTen .active, tVfHdr 9 1, { tPart with world := true }, by unfold TakesCommand; decide +kernel⟩,
    ⟨tTen .active, tVfHdr 9 1, [1], false, tRemoteOut, by unfold TakesCommand; decide +kernel⟩,
    ⟨tTen .active, tVfHdr 9 1, [0], false, 0, by unfold TakesCommand; decide +kernel⟩,
    ⟨tTen .active, tVfHdr 9 1, [tRange 0 0x20000], by unfold TakesCommand; decide +kernel⟩,
    ⟨tTen .active, tVfHdr 9 1, [tRange 0 0x20000, tRange 0x10000 0x10000], 1, by unfold TakesCommand; decide +kernel⟩,
    ⟨tTen .active, tVfHdr 9 1, (List.range 33).map fun i => tRange (i * 65536) 65536,
      by unfold TakesCommand; decide +kernel⟩,
    ⟨tTen .active, tVfHdr 9 1, by unfold TakesCommand; decide +kernel⟩,
    ⟨tTen .active, tVfHdr 3 1, 1, tKey, by unfold TakesCommand; decide +kernel⟩,
    ⟨tTen .active, tVfHdr 3 1, 16, tKey, by unfold TakesCommand; decide +kernel⟩,
    ⟨tTen .teardown, tHdr 3 0x20 1 0 1 false, 1, by decide +kernel⟩,
    ⟨tTen .active, 1, by decide +kernel⟩,
    ⟨{ tLast with pod := { tLast.pod with torn := [(3, 7, 48000)] } }, 7, 3, by decide +kernel⟩,
    ⟨{ tLast with pod := { tLast.pod with torn := [(3, 7, 48000)] } }, 7, 3, 0, { tRemoteOut with cap := some 4, pkg := 3 }, by decide +kernel, by decide +kernel, by decide +kernel, by decide +kernel, by decide +kernel, by decide +kernel, by decide +kernel, (fun _ h => by cases h), by decide +kernel⟩,
    ⟨{ tState with tide := 0 }, 7, 3, by decide +kernel⟩,
    ⟨tTen .quarantine, 1, by decide +kernel⟩,
    ⟨tTen .active, 1, by decide +kernel⟩⟩

theorem witness_Sessions :
    (∃ (s : State) (h : IsuneHdr) (x : CounterSel),
      let w := s.vf x.vf
      TakesCommand s h anyCmd ∧ w.st = .absent) ∧
    (∃ (s : State) (h : IsuneHdr) (x : CounterSel),
      let w := s.vf x.vf
      TakesCommand s h anyCmd ∧ w.st ≠ .absent ∧ w.world = true ∧ 8 < h.qp.toNat) ∧
    (∃ (s : State) (h : IsuneHdr) (x : CounterSel),
      let w := s.vf x.vf
      let u := s.unit (uidOf x.recNo x.unit)
      let entry := policyEntry w (counterEvent u.ctr x.counter / 256) 0
      TakesCommand s h anyCmd ∧ w.st ≠ .absent ∧ (w.world = false ∨ h.qp.toNat ≤ 8) ∧ x.counter < 32 ∧ x.unit < 128 ∧
        inRange w x.recNo = true ∧ entry = none) ∧
    (∃ (s : State) (h : IsuneHdr) (x : CounterSel) (e : PolicyEntry),
      let w := s.vf x.vf
      let u := s.unit (uidOf x.recNo x.unit)
      let entry := policyEntry w (counterEvent u.ctr x.counter / 256) 0
      TakesCommand s h anyCmd ∧ w.st ≠ .absent ∧ (w.world = false ∨ h.qp.toNat ≤ 8) ∧ x.counter < 32 ∧ x.unit < 128 ∧
        inRange w x.recNo = true ∧ entry = some e ∧ e.gran = 0) ∧
    (∃ (s : State) (h : IsuneHdr) (x : CounterSel) (e : PolicyEntry),
      let w := s.vf x.vf
      let u := s.unit (uidOf x.recNo x.unit)
      let entry := policyEntry w (counterEvent u.ctr x.counter / 256) 0
      TakesCommand s h anyCmd ∧ w.st ≠ .absent ∧ (w.world = false ∨ h.qp.toNat ≤ 8) ∧ x.counter < 32 ∧ x.unit < 128 ∧
        inRange w x.recNo = true ∧ entry = some e ∧ e.gran = 1) ∧
    (∃ (s : State) (h : IsuneHdr) (x : CounterSel) (e : PolicyEntry),
      let w := s.vf x.vf
      let u := s.unit (uidOf x.recNo x.unit)
      let entry := policyEntry w (counterEvent u.ctr x.counter / 256) 0
      TakesCommand s h anyCmd ∧ w.st ≠ .absent ∧ (w.world = false ∨ h.qp.toNat ≤ 8) ∧ x.counter < 32 ∧ x.unit < 128 ∧
        inRange w x.recNo = true ∧ entry = some e ∧ e.gran = 2) ∧
    (∃ (s : State) (h : IsuneHdr) (x : CounterSel) (e : PolicyEntry),
      let w := s.vf x.vf
      let u := s.unit (uidOf x.recNo x.unit)
      let entry := policyEntry w (counterEvent u.ctr x.counter / 256) 0
      ∃ (r : Nat × Nat), TakesCommand s h anyCmd ∧ w.st ≠ VfSt.absent ∧ (w.world = false ∨ h.qp.toNat ≤ 8) ∧ x.counter
        < 32 ∧ x.unit < 128 ∧ inRange w x.recNo = true ∧ entry = some e ∧ r ∈ [(3, x.recNo), (4, 65536 + (s.recOf
        x.recNo).job)] ∧ e.gran.toNat = r.fst ∧ finishedSum w r.snd x.counter = none) ∧
    (∃ (s : State) (h : IsuneHdr) (x : CounterSel) (e : PolicyEntry),
      let w := s.vf x.vf
      let u := s.unit (uidOf x.recNo x.unit)
      let entry := policyEntry w (counterEvent u.ctr x.counter / 256) 0
      ∃ (r : Nat × Nat) (q : Nat), TakesCommand s h anyCmd ∧ w.st ≠ VfSt.absent ∧ (w.world = false ∨ h.qp.toNat ≤ 8) ∧
        x.counter < 32 ∧ x.unit < 128 ∧ inRange w x.recNo = true ∧ entry = some e ∧ r ∈ [(3, x.recNo), (4, 65536 +
        (s.recOf x.recNo).job)] ∧ e.gran.toNat = r.fst ∧ finishedSum w r.snd x.counter = some q) ∧
    (∃ (s : State) (h : IsuneHdr) (x : CounterSel) (e : PolicyEntry),
      let w := s.vf x.vf
      let u := s.unit (uidOf x.recNo x.unit)
      let entry := policyEntry w (counterEvent u.ctr x.counter / 256) 0
      TakesCommand s h anyCmd ∧ w.st ≠ .absent ∧ (w.world = false ∨ h.qp.toNat ≤ 8) ∧ x.counter < 32 ∧ x.unit < 128 ∧
        inRange w x.recNo = true ∧ entry = some e ∧ e.gran = 5) ∧
    (∃ (s : State) (h : IsuneHdr),
      let n := h.vf.toNat
      let v := s.vf n
      let shown := fun (r : TraceRec) => policyGran v (fieldAt r.bytes 0 2 / 256) 1 = 1
      TakesCommand s h vfCmd ∧ (∀ r ∈ v.trace, shown r)) ∧
    (∃ (s : State) (h : IsuneHdr),
      let n := h.vf.toNat
      let v := s.vf n
      let shown := fun (r : TraceRec) => policyGran v (fieldAt r.bytes 0 2 / 256) 1 = 1
      TakesCommand s h vfCmd ∧ (∀ r ∈ v.trace, ¬ shown r)) ∧
    (∃ (s : State) (h : IsuneHdr) (p : SessionSpec) (i : _),
      TakesCommand s h vfCmd ∧ i ∈ [Instr.counterSessionOpen h p, .traceSessionOpen h p] ∧ sessionForm p = false) ∧
    (∃ (s : State) (h : IsuneHdr) (p : SessionSpec) (i : _),
      let n := h.vf.toNat
      TakesCommand s h vfCmd ∧ i ∈ [Instr.counterSessionOpen h p, .traceSessionOpen h p] ∧ sessionForm p = true ∧
        ringGood s n p = false) ∧
    (∃ (s : State) (h : IsuneHdr) (p : SessionSpec) (i : _),
      let n := h.vf.toNat
      TakesCommand s h vfCmd ∧ i ∈ [Instr.counterSessionOpen h p, .traceSessionOpen h p] ∧ sessionForm p = true ∧
        ringGood s n p = true) ∧
    (∃ (s : State) (h : IsuneHdr) (i : _),
      TakesCommand s h vfCmd ∧ i ∈ [Instr.counterSessionClose h, .traceSessionClose h]) ∧
    (∃ (s : State) (h : IsuneHdr) (i : _),
      let n := h.vf.toNat
      let v := s.vf n
      TakesCommand s h vfCmd ∧ i ∈ [Instr.counterSessionExport h, .traceSessionExport h] ∧ v.session = none) ∧
    (∃ (s : State) (h : IsuneHdr),
      let n := h.vf.toNat
      let v := s.vf n
      ∃ (i : Instr) (y : Session), TakesCommand s h vfCmd ∧ i ∈ [Instr.counterSessionExport h,
        Instr.traceSessionExport h] ∧ v.session = some y) ∧
    (∃ (s : State) (h : IsuneHdr) (b : SessionBlob) (i' : _),
      TakesCommand s h vfCmd ∧ i' ∈ [Instr.counterSessionImport h b, .traceSessionImport h b] ∧ sessionForm b.spec =
        false) ∧
    (∃ (s : State) (h : IsuneHdr) (b : SessionBlob),
      let n := h.vf.toNat
      ∃ (i' : Instr), TakesCommand s h vfCmd ∧ i' ∈ [Instr.counterSessionImport h b, Instr.traceSessionImport h b] ∧
        sessionForm b.spec = true ∧ ringGood s n b.spec = true) ∧
    (∃ (s : State) (h : IsuneHdr) (x : CounterSel) (b : SessionBlob) (k : Nat) (ws : List Word) (c : Word) (i' : _),
      let n := h.vf.toNat
      let u := s.unit (uidOf x.recNo x.unit)
      TakesCommand s h vfCmd ∧ i' ∈ [Instr.counterSessionImport h b, .traceSessionImport h b] ∧ sessionForm b.spec =
        true ∧ ringGood s n b.spec = true ∧ b.fixed = [(x.recNo, x.unit, ws)] ∧ b.selected = [] ∧ (tfind s.units
        (uidOf x.recNo x.unit)).isSome = true ∧ u.id.vf = n ∧ k < 16 ∧ ws[k]? = some c) := ⟨
    ⟨tSess false [] .absent none, tVfHdr 9 255, ⟨0, 0, 0, 2⟩, by unfold TakesCommand; decide +kernel⟩,
    ⟨tSess true [] .active none, tVfHdr 9 255, ⟨0, 0, 0, 2⟩, by unfold TakesCommand; decide +kernel⟩,
    ⟨tSess false [] .active none, tHdr 9 0x20 1 0 0 false, ⟨0, 0, 0, 2⟩, by unfold TakesCommand; decide +kernel⟩,
    ⟨tSess false [(tPol 0)] .active none, tHdr 9 0x20 1 0 0 false, ⟨0, 0, 0, 17⟩, tPol 0,
      by unfold TakesCommand; decide +kernel⟩,
    ⟨tSess false [(tPol 1)] .active none, tHdr 9 0x20 1 0 0 false, ⟨0, 0, 0, 17⟩, tPol 1,
      by unfold TakesCommand; decide +kernel⟩,
    ⟨tSess false [(tPol 2)] .active none, tHdr 9 0x20 1 0 0 false, ⟨0, 0, 0, 17⟩, tPol 2,
      by unfold TakesCommand; decide +kernel⟩,
    ⟨tSess false [(tPol 4)] .active none, tHdr 9 0x20 1 0 0 false, ⟨0, 0, 0, 17⟩, tPol 4, (4, 65536),
      by unfold TakesCommand; decide +kernel⟩,
    ⟨{ tSess false [(tPol 3)] .active none with vfs := (tSess false [(tPol 3)] .active none).vfs.map fun e => (e.1, { e.2 with finished := [(0, List.replicate 32 9)] }) }, tHdr 9 0x20 1 0 0 false, ⟨0, 0, 0, 17⟩, tPol 3, (3, 0), 9,
      by unfold TakesCommand; decide +kernel⟩,
    ⟨tSess false [(tPol 5)] .active none, tHdr 9 0x20 1 0 0 false, ⟨0, 0, 0, 17⟩, tPol 5,
      by unfold TakesCommand; decide +kernel⟩,
    ⟨tSess false [{ tPol 1 with kind := 1 }] .active none, tHdr 9 0x20 1 0 0 false,
      by unfold TakesCommand; decide +kernel⟩,
    ⟨tSess false [] .active none, tHdr 9 0x20 1 0 0 false, by unfold TakesCommand; decide +kernel⟩,
    ⟨tSess false [] .active none, tHdr 9 0x20 1 0 0 false, { tSp with ringSize := 1 },
      .counterSessionOpen (tHdr 9 0x20 1 0 0 false) ({ tSp with ringSize := 1 }),
      by unfold TakesCommand; decide +kernel⟩,
    ⟨tSess false [] .active none, tHdr 9 0x20 1 0 0 false, { tSp with ringVa := 0x40010000 },
      .counterSessionOpen (tHdr 9 0x20 1 0 0 false) ({ tSp with ringVa := 0x40010000 }),
      by unfold TakesCommand; decide +kernel⟩,
    ⟨tSess false [] .active none, tHdr 9 0x20 1 0 0 false, tSp, .counterSessionOpen (tHdr 9 0x20 1 0 0 false) tSp,
      by unfold TakesCommand; decide +kernel⟩,
    ⟨tSess false [] .active none, tHdr 9 0x20 1 0 0 false, .counterSessionClose (tHdr 9 0x20 1 0 0 false),
      by unfold TakesCommand; decide +kernel⟩,
    ⟨tSess false [] .active none, tHdr 9 0x20 1 0 0 false, .counterSessionExport (tHdr 9 0x20 1 0 0 false),
      by unfold TakesCommand; decide +kernel⟩,
    ⟨tSess false [] .active (some { spec := tSp, last := [], dropped := [] }), tHdr 9 0x20 1 0 0 false,
      .counterSessionExport (tHdr 9 0x20 1 0 0 false), { spec := tSp, last := [], dropped := [] },
      by unfold TakesCommand; decide +kernel⟩,
    ⟨tSess false [] .active none, tHdr 9 0x20 1 0 0 false, tBlob { tSp with ringSize := 1 },
      .counterSessionImport (tHdr 9 0x20 1 0 0 false) (tBlob { tSp with ringSize := 1 }),
      by unfold TakesCommand; decide +kernel⟩,
    ⟨tSess false [] .active none, tHdr 9 0x20 1 0 0 false, tBlob tSp, .counterSessionImport (tHdr 9 0x20 1 0 0 false) (tBlob tSp),
      by unfold TakesCommand; decide +kernel⟩,
    ⟨tSess false [] .active none, tHdr 9 0x20 1 0 0 false, ⟨0, 0, 0, 2⟩, tBlob tSp, 0, [5, 6, 7], 5,
      .counterSessionImport (tHdr 9 0x20 1 0 0 false) (tBlob tSp), by unfold TakesCommand; decide +kernel⟩⟩

theorem witness_Firmware :
    (∃ (s : State) (h : IsuneHdr),
      TakesCommand s h earlyCmd) ∧
    (∃ (s : State) (h : IsuneHdr) (nonce : List Byte),
      TakesCommand s h earlyCmd ∧ nonce.length ≠ 32) ∧
    (∃ (s : State) (h : IsuneHdr) (nonce : List Byte) (vf : BitVec 8),
      TakesCommand s h earlyCmd ∧ nonce.length = 32 ∧ vf ≠ 0xFF ∧ (s.vf vf.toNat).st ≠ .active) ∧
    (∃ (s : State) (h : IsuneHdr) (nonce : List Byte) (vf : BitVec 8),
      let f := s.firm
      TakesCommand s h earlyCmd ∧ nonce.length = 32 ∧ (vf = 0xFF ∨ ((s.vf vf.toNat).st = .active ∧ ((s.vf
        vf.toNat).world = false ∨ h.qp.toNat ≤ 8))) ∧ f.bring ≠ 5) ∧
    (∃ (s : State) (h : IsuneHdr) (nonce : List Byte) (vf : BitVec 8),
      let f := s.firm
      TakesCommand s h earlyCmd ∧ nonce.length = 32 ∧ (vf = 0xFF ∨ ((s.vf vf.toNat).st = .active ∧ ((s.vf
        vf.toNat).world = false ∨ h.qp.toNat ≤ 8))) ∧ f.bring = 5 ∧ 32768 ≤ f.topLeaf) ∧
    (∃ (s : State) (h : IsuneHdr) (nonce : List Byte) (vf : BitVec 8),
      let f := s.firm
      TakesCommand s h earlyCmd ∧ nonce.length = 32 ∧ (vf = 0xFF ∨ ((s.vf vf.toNat).st = .active ∧ ((s.vf
        vf.toNat).world = false ∨ h.qp.toNat ≤ 8))) ∧ f.bring = 5 ∧ f.topLeaf < 32768) ∧
    (∃ (s : State) (h : IsuneHdr) (blob : List Byte),
      TakesCommand s h vfCmd ∧ policyForm blob = false) ∧
    (∃ (s : State) (h : IsuneHdr) (blob : List Byte),
      let n := h.vf.toNat
      TakesCommand s h vfCmd ∧ policyForm blob = true ∧ fieldAt blob 6 1 ≠ n) ∧
    (∃ (s : State) (h : IsuneHdr) (blob : List Byte),
      let n := h.vf.toNat
      let v := s.vf n
      TakesCommand s h vfCmd ∧ policyForm blob = true ∧ fieldAt blob 6 1 = n ∧ policySigned v.pubKey blob = false) ∧
    (∃ (s : State) (h : IsuneHdr) (blob : List Byte) (q : _),
      let n := h.vf.toNat
      let v := s.vf n
      TakesCommand s h vfCmd ∧ policyForm blob = true ∧ fieldAt blob 6 1 = n ∧ policySigned v.pubKey blob = true ∧
        v.policy = some q ∧ fieldAt blob 8 8 ≤ q.serial.toNat) ∧
    (∃ (s : State) (h : IsuneHdr) (blob : List Byte),
      let n := h.vf.toNat
      let v := s.vf n
      TakesCommand s h vfCmd ∧ policyForm blob = true ∧ fieldAt blob 6 1 = n ∧ policySigned v.pubKey blob = true ∧ (∀
        q, v.policy = some q → q.serial.toNat < fieldAt blob 8 8)) ∧
    (∃ (s : State) (e : _),
      let f := s.firm
      let steps := [(Instr.powerOn, [0, 6]), (.hbmTrained, [2]), (.hostLinkUp, [3]), (.bringUpReady, [4])]
      e ∈ steps ∧ f.bring ∉ e.2) ∧
    (∃ (s : State),
      let f := s.firm
      (f.bring = 0 ∨ f.bring = 6)) ∧
    (∃ (s : State),
      let f := s.firm
      f.bring = 2) ∧
    (∃ (s : State),
      let f := s.firm
      f.bring = 3) ∧
    (∃ (s : State),
      let f := s.firm
      f.bring = 4) ∧
    (∃ (s : State),
      let f := s.firm
      f.bring = 4 ∧ f.attests = [] ∧ f.resetHdr = none ∧ f.topLeaf < 32768) ∧
    (∃ (s : State) (h : IsuneHdr),
      let f := s.firm
      f.bring = 4 ∧ f.attests = [] ∧ f.resetHdr = some h) ∧
    (∃ (s : State) (h : IsuneHdr),
      TakesCommand s h secureCmd) ∧
    (∃ (s : State) (temp : BitVec 16),
      let f := s.firm
      220 ≤ temp.toNat ∧ f.bring ≠ 6) ∧
    (∃ (s : State) (temp : BitVec 16),
      let f := s.firm
      (temp.toNat < 220 ∨ f.bring = 6)) ∧
    (∃ (pv : BitVec 16) (i : Instr),
      i ∈ [Instr.smbusPcapWrite pv, Instr.smbusRegisterWrite 33 pv]) ∧
    (∃ (pv : BitVec 16),
      pv.getLsbD 5 = true) ∧
    (∃ (pv : BitVec 16),
      pv.getLsbD 5 = false) ∧
    (∃ (reg : BitVec 8),
      reg ≠ 0x21 ∧ reg ≠ 0x30) := ⟨
    ⟨tFirm 5 5 .active, tHdr 9 0x20 1 0 0 false, by unfold TakesCommand; decide +kernel⟩,
    ⟨tFirm 5 5 .active, tHdr 9 0x20 1 0 0 false, [], by unfold TakesCommand; decide +kernel⟩,
    ⟨tFirm 5 5 .absent, tVfHdr 3 255, List.replicate 32 5, 0, by unfold TakesCommand; decide +kernel⟩,
    ⟨tFirm 4 5 .active, tHdr 9 0x20 1 0 0 false, List.replicate 32 5, 0xFF, by unfold TakesCommand; decide +kernel⟩,
    ⟨tFirm 5 32768 .active, tHdr 9 0x20 1 0 0 false, List.replicate 32 5, 0xFF,
      by unfold TakesCommand; decide +kernel⟩,
    ⟨tFirm 5 5 .active, tHdr 9 0x20 1 0 0 false, List.replicate 32 5, 0xFF, by unfold TakesCommand; decide +kernel⟩,
    ⟨tFirm 5 5 .active, tHdr 9 0x20 1 0 0 false, [], by unfold TakesCommand; decide +kernel⟩,
    ⟨tFirm 5 5 .active, tHdr 9 0x20 1 0 0 false, (tPolicy 7).set 6 1, by unfold TakesCommand; decide +kernel⟩,
    ⟨tFirm 5 5 .active, tHdr 9 0x20 1 0 0 false, tPolicy 7, by unfold TakesCommand; decide +kernel⟩,
    ⟨tFirmKey (some (policyOf tSigned)), tHdr 9 0x20 1 0 0 false, tSigned, policyOf tSigned,
      by unfold TakesCommand; exact ⟨by decide +kernel, by decide +kernel, by decide +kernel, tPolicy_signed, by decide +kernel, by decide +kernel⟩⟩,
    ⟨tFirmKey none, tHdr 9 0x20 1 0 0 false, tSigned,
      by unfold TakesCommand; exact ⟨by decide +kernel, by decide +kernel, by decide +kernel, tPolicy_signed, fun q h => by cases h⟩⟩,
    ⟨tFirm 5 5 .active, (Instr.powerOn, [0, 6]), by decide +kernel⟩,
    ⟨tFirm 0 5 .active, by decide +kernel⟩,
    ⟨tFirm 2 5 .active, by decide +kernel⟩,
    ⟨tFirm 3 5 .active, by decide +kernel⟩,
    ⟨tFirm 4 4 .active, by decide +kernel⟩,
    ⟨tFirm 4 5 .active, by decide +kernel⟩,
    ⟨let s0 := tFirm 4 5 .active; { s0 with firm := { s0.firm with resetHdr := some (tVfHdr 3 255) } }, tVfHdr 3 255,
      by decide +kernel⟩,
    ⟨tFirm 5 5 .active, tVfHdr 3 255, by unfold TakesCommand; decide +kernel⟩,
    ⟨tFirm 5 5 .active, 220, by decide +kernel⟩,
    ⟨tFirm 5 5 .active, 0, by decide +kernel⟩,
    ⟨5, .smbusPcapWrite 5, List.mem_cons_self⟩,
    ⟨0x20, by decide +kernel⟩,
    ⟨0, by decide +kernel⟩,
    ⟨0x10, by decide +kernel⟩⟩

theorem witness_PodCommands :
    (∃ (s : State) (h : IsuneHdr) (dims coords : List Nat) (parent : Nat) (routes : List RouteSpec),
      TakesCommand s h secureCmd ∧ (joinForm dims coords parent = false ∨ routesForm routes = false)) ∧
    (∃ (s : State) (h : IsuneHdr) (dims coords : List Nat) (parent : Nat) (routes : List RouteSpec),
      TakesCommand s h secureCmd ∧ joinForm dims coords parent = true ∧ routesForm routes = true) ∧
    (∃ (s : State) (h : IsuneHdr) (root : Nat),
      TakesCommand s h secureCmd ∧ root < podSize s) ∧
    (∃ (s : State) (h : IsuneHdr) (root : Nat),
      TakesCommand s h secureCmd ∧ podSize s ≤ root) ∧
    (∃ (s : State) (h : IsuneHdr) (routes : List RouteSpec) (ports : List ChordSpec),
      TakesCommand s h secureCmd ∧ (∀ c ∈ ports, chordForm c = true) ∧ routesForm routes = true ∧ s.pod.plan.isSome =
        true) ∧
    (∃ (s : State) (h : IsuneHdr) (routes : List RouteSpec) (ports : List ChordSpec) (k : _),
      TakesCommand s h secureCmd ∧ (∀ c ∈ ports, chordForm c = true) ∧ routesForm routes = true ∧ s.pod.plan = none ∧
        ports.findIdx? (fun c => !chordGood c) = some k) ∧
    (∃ (s : State) (h : IsuneHdr) (tsw : Word) (routes : List RouteSpec) (ports : List ChordSpec),
      TakesCommand s h secureCmd ∧ (∀ c ∈ ports, chordForm c = true) ∧ routesForm routes = true ∧ s.pod.plan = none ∧
        (∀ c ∈ ports, chordGood c = true) ∧ tsw.toNat % 49152 = 0 ∧ s.tide.toNat ≤ tsw.toNat) ∧
    (∃ (s : State) (h : IsuneHdr) (tsw : Word) (routes : List RouteSpec) (ports : List ChordSpec),
      TakesCommand s h secureCmd ∧ (∀ c ∈ ports, chordForm c = true) ∧ routesForm routes = true ∧ s.pod.plan = none ∧
        (∀ c ∈ ports, chordGood c = true) ∧ (tsw.toNat % 49152 ≠ 0 ∨ tsw.toNat < s.tide.toNat)) ∧
    (∃ (s : State) (h : IsuneHdr) (progs : List LinkProg),
      TakesCommand s h anyCmd ∧ progsForm progs = false) ∧
    (∃ (s : State) (h : IsuneHdr) (set : Nat) (progs : List LinkProg) (k : _),
      let w := decide (h.qp.toNat ≤ 8)
      let pass := fun (set : Nat) => progsForm progs = true ∧ vfBreak s progs = false ∧ worldBreak s set w progs =
          false ∧ ∀ g ∈ progs, (s.link g.port).world = w ∨ (s.link g.port).running = false
      TakesCommand s h anyCmd ∧ pass 0 ∧ loadFails s 0 progs = some k) ∧
    (∃ (s : State) (h : IsuneHdr) (set : Nat) (progs : List LinkProg),
      let w := decide (h.qp.toNat ≤ 8)
      let pass := fun (set : Nat) => progsForm progs = true ∧ vfBreak s progs = false ∧ worldBreak s set w progs =
          false ∧ ∀ g ∈ progs, (s.link g.port).world = w ∨ (s.link g.port).running = false
      TakesCommand s h anyCmd ∧ pass 0 ∧ loadFails s 0 progs = none) ∧
    (∃ (s : State) (h : IsuneHdr) (set : Nat),
      TakesCommand s h anyCmd ∧ (set = 0 ∨ 15 < set)) ∧
    (∃ (s : State) (h : IsuneHdr) (set : Nat) (tree : List Byte),
      TakesCommand s h anyCmd ∧ 1 ≤ set ∧ set ≤ 15 ∧ tree ≠ s.pod.tree) ∧
    (∃ (s : State) (h : IsuneHdr) (set : Nat) (progs : List LinkProg) (tree : List Byte) (k : _),
      let w := decide (h.qp.toNat ≤ 8)
      let pass := fun (set : Nat) => progsForm progs = true ∧ vfBreak s progs = false ∧ worldBreak s set w progs =
          false ∧ ∀ g ∈ progs, (s.link g.port).world = w ∨ (s.link g.port).running = false
      TakesCommand s h anyCmd ∧ 1 ≤ set ∧ set ≤ 15 ∧ tree = s.pod.tree ∧ pass set ∧ loadFails s set progs = some k) ∧
    (∃ (s : State) (h : IsuneHdr) (set : Nat) (progs : List LinkProg) (tree : List Byte),
      let w := decide (h.qp.toNat ≤ 8)
      let pass := fun (set : Nat) => progsForm progs = true ∧ vfBreak s progs = false ∧ worldBreak s set w progs =
          false ∧ ∀ g ∈ progs, (s.link g.port).world = w ∨ (s.link g.port).running = false
      TakesCommand s h anyCmd ∧ 1 ≤ set ∧ set ≤ 15 ∧ tree = s.pod.tree ∧ pass set ∧ loadFails s set progs = none) ∧
    (∃ (s : State) (h : IsuneHdr) (i vf : Nat),
      TakesCommand s h anyCmd ∧ vfOfRec s i = some vf ∧ (h.vf = 0xFF ∨ h.vf.toNat = vf) ∧ ((s.vf vf).world = false ∨
        h.world ≠ 0) ∧ recCoursed s i = false) ∧
    (∃ (s : State) (h : IsuneHdr) (i vf : Nat) (slotA : Word),
      let fits := fun (va : Word) => slotForm s vf i va = true
      TakesCommand s h anyCmd ∧ vfOfRec s i = some vf ∧ (h.vf = 0xFF ∨ h.vf.toNat = vf) ∧ ((s.vf vf).world = false ∨
        h.world ≠ 0) ∧ recCoursed s i = true ∧ ¬ fits slotA) ∧
    (∃ (s : State) (h : IsuneHdr) (i vf : Nat) (slotA slotB : Word),
      let fits := fun (va : Word) => slotForm s vf i va = true
      TakesCommand s h anyCmd ∧ vfOfRec s i = some vf ∧ (h.vf = 0xFF ∨ h.vf.toNat = vf) ∧ ((s.vf vf).world = false ∨
        h.world ≠ 0) ∧ recCoursed s i = true ∧ fits slotA ∧ ¬ fits slotB) ∧
    (∃ (s : State) (h : IsuneHdr) (i vf : Nat) (slotA slotB : Word),
      let fits := fun (va : Word) => slotForm s vf i va = true
      TakesCommand s h anyCmd ∧ vfOfRec s i = some vf ∧ (h.vf = 0xFF ∨ h.vf.toNat = vf) ∧ ((s.vf vf).world = false ∨
        h.world ≠ 0) ∧ recCoursed s i = true ∧ fits slotA ∧ fits slotB) := ⟨
    ⟨tCmds, tVfHdr 3 255, [2, 2], [1, 0, 0, 0], 0, [], by unfold TakesCommand; decide +kernel⟩,
    ⟨tCmds, tVfHdr 3 255, [2, 2, 1, 1], [1, 0, 0, 0], 0, [], by unfold TakesCommand; decide +kernel⟩,
    ⟨tCmds, tVfHdr 3 255, 0, by unfold TakesCommand; decide +kernel⟩,
    ⟨tCmds, tVfHdr 3 255, 4, by unfold TakesCommand; decide +kernel⟩,
    ⟨tPod (fun p => { p with plan := some (tPlanAt 0) }) tCmds, tVfHdr 3 255, [], [tChord 8 true],
      by unfold TakesCommand; decide +kernel⟩,
    ⟨tCmds, tVfHdr 3 255, [], [tChord 8 true, tChord 9 false], 1, by unfold TakesCommand; decide +kernel⟩,
    ⟨tCmds, tVfHdr 3 255, 98304000000, [], [tChord 8 true], by unfold TakesCommand; decide +kernel⟩,
    ⟨tCmds, tVfHdr 3 255, 1, [], [tChord 8 true], by unfold TakesCommand; decide +kernel⟩,
    ⟨tCmds, tVfHdr 3 255, [{ tLinkProg with port := 12 }], by unfold TakesCommand; decide +kernel⟩,
    ⟨tCmds, tVfHdr 3 255, 1, [{ tLinkProg with descs := [] }], 6, by unfold TakesCommand; decide +kernel⟩,
    ⟨tCmds, tVfHdr 9 255, 1, [tLinkProg], by unfold TakesCommand; decide +kernel⟩,
    ⟨tCmds, tVfHdr 3 255, 0, by unfold TakesCommand; decide +kernel⟩,
    ⟨tCmds, tVfHdr 3 255, 1, [8], by unfold TakesCommand; decide +kernel⟩,
    ⟨tCmds, tVfHdr 3 255, 1, [{ tLinkProg with descs := [] }], [7], 6, by unfold TakesCommand; decide +kernel⟩,
    ⟨tCmds, tVfHdr 9 255, 1, [tLinkProg], [7], by unfold TakesCommand; decide +kernel⟩,
    ⟨{ tCmds with mem := tMem }, tVfHdr 3 255, 0, 0, by unfold TakesCommand; decide +kernel⟩,
    ⟨tCmds, tVfHdr 3 255, 0, 0, 0x40000008, by unfold TakesCommand; dsimp only; decide +kernel⟩,
    ⟨tCmds, tVfHdr 3 255, 0, 0, 0x40000000, 0x40000008, by unfold TakesCommand; dsimp only; decide +kernel⟩,
    ⟨tCmds, tVfHdr 3 255, 0, 0, 0x40000000, 0x40000000, by unfold TakesCommand; dsimp only; decide +kernel⟩⟩

theorem witness_StepRunsDecoded :
    (∃ (s : State) (ts : List Turn) (uid : Nat),
      let u := s.unit uid
      let atSq := nextTurn s = some (Turn.sq uid, ts) ∨ s.agenda = [] ∧ ts = [] ∧ s.cur = uid ∧ ∀ (n : Nat), n < 64 →
        n ≠ 0 → u.pend.contains (pendKey u n) = false
      atSq ∧ issuing u = true ∧ u.sup = false ∧ uiTakeable u = true) ∧
    (∃ (s : State) (ts : List Turn) (uid : Nat) (e : Wait),
      let u := s.unit uid
      let atSq := nextTurn s = some (Turn.sq uid, ts) ∨ s.agenda = [] ∧ ts = [] ∧ s.cur = uid ∧ ∀ (n : Nat), n < 64 →
        n ≠ 0 → u.pend.contains (pendKey u n) = false
      atSq ∧ issuing u = true ∧ u.sup = false ∧ uiTakeable u = false ∧ u.wait = some e) ∧
    (∃ (s : State) (ts : List Turn) (uid : Nat),
      let u := s.unit uid
      let atSq := nextTurn s = some (Turn.sq uid, ts) ∨ s.agenda = [] ∧ ts = [] ∧ s.cur = uid ∧ ∀ (n : Nat), n < 64 →
        n ≠ 0 → u.pend.contains (pendKey u n) = false
      atSq ∧ issuing u = true ∧ u.sup = false ∧ uiTakeable u = false ∧ u.wait = none ∧ u.halted = true) ∧
    (∃ (s : State) (ts : List Turn) (uid : Nat),
      let u := s.unit uid
      let atSq := nextTurn s = some (Turn.sq uid, ts) ∨ s.agenda = [] ∧ ts = [] ∧ s.cur = uid ∧ ∀ (n : Nat), n < 64 →
        n ≠ 0 → u.pend.contains (pendKey u n) = false
      let brk := u.r.pc ∈ u.dbg.breaks ∨ u.dbg.stopRequested = true
      atSq ∧ issuing u = true ∧ u.sup = false ∧ uiTakeable u = false ∧ u.wait = none ∧ u.halted = false ∧ brk) ∧
    (∃ (s : State) (ts : List Turn) (uid : Nat) (k : Nat) (i : Instr) (w : Code),
      let s1 := { s with cur := uid, agenda := ts }
      let u := s.unit uid
      let atSq := nextTurn s = some (Turn.sq uid, ts) ∨ s.agenda = [] ∧ ts = [] ∧ s.cur = uid ∧ ∀ (n : Nat), n < 64 →
        n ≠ 0 → u.pend.contains (pendKey u n) = false
      let brk := u.r.pc ∈ u.dbg.breaks ∨ u.dbg.stopRequested = true
      atSq ∧ issuing u = true ∧ u.sup = false ∧ uiTakeable u = false ∧ u.wait = none ∧ u.halted = false ∧ ¬brk ∧
        fetchKey s1 uid = some k ∧ w = BitVec.ofNat 32 (memNat s.mem k 4) ∧ codeChanged s1 u.id.recNo k = false ∧ decode
        CodeKind.scalar w = Except.ok i) ∧
    (∃ (s : State) (ts : List Turn) (uid : Nat) (k : Nat) (w : Code),
      let s1 := { s with cur := uid, agenda := ts }
      let u := s.unit uid
      let atSq := nextTurn s = some (Turn.sq uid, ts) ∨ s.agenda = [] ∧ ts = [] ∧ s.cur = uid ∧ ∀ (n : Nat), n < 64 →
        n ≠ 0 → u.pend.contains (pendKey u n) = false
      let brk := u.r.pc ∈ u.dbg.breaks ∨ u.dbg.stopRequested = true
      ∃ (e : Reserved), atSq ∧ issuing u = true ∧ u.sup = false ∧ uiTakeable u = false ∧ u.wait = none ∧ u.halted =
        false ∧ ¬brk ∧ fetchKey s1 uid = some k ∧ w = BitVec.ofNat 32 (memNat s.mem k 4) ∧ codeChanged s1 u.id.recNo k =
        false ∧ decode CodeKind.scalar w = Except.error e) ∧
    (∃ (s : State) (ts : List Turn) (uid : Nat) (k : Nat) (w : Code),
      let s1 := { s with cur := uid, agenda := ts }
      let u := s.unit uid
      let atSq := nextTurn s = some (Turn.sq uid, ts) ∨ s.agenda = [] ∧ ts = [] ∧ s.cur = uid ∧ ∀ (n : Nat), n < 64 →
        n ≠ 0 → u.pend.contains (pendKey u n) = false
      let brk := u.r.pc ∈ u.dbg.breaks ∨ u.dbg.stopRequested = true
      atSq ∧ issuing u = true ∧ u.sup = false ∧ uiTakeable u = false ∧ u.wait = none ∧ u.halted = false ∧ ¬brk ∧
        fetchKey s1 uid = some k ∧ w = BitVec.ofNat 32 (memNat s.mem k 4) ∧ codeChanged s1 u.id.recNo k = true) ∧
    (∃ (s : State) (ts : List Turn) (uid : Nat) (c : Cause),
      let s1 := { s with cur := uid, agenda := ts }
      let u := s.unit uid
      let atSq := nextTurn s = some (Turn.sq uid, ts) ∨ s.agenda = [] ∧ ts = [] ∧ s.cur = uid ∧ ∀ (n : Nat), n < 64 →
        n ≠ 0 → u.pend.contains (pendKey u n) = false
      let brk := u.r.pc ∈ u.dbg.breaks ∨ u.dbg.stopRequested = true
      atSq ∧ issuing u = true ∧ u.sup = false ∧ uiTakeable u = false ∧ u.wait = none ∧ u.halted = false ∧ ¬brk ∧
        fetchPlace s1 uid = Except.error c) ∧
    (∃ (s : State) (ts : List Turn) (uid : Nat) (k : Nat),
      let s1 := { s with cur := uid, agenda := ts }
      let u := s.unit uid
      let atSq := nextTurn s = some (Turn.sq uid, ts) ∨ s.agenda = [] ∧ ts = [] ∧ s.cur = uid ∧ ∀ (n : Nat), n < 64 →
        n ≠ 0 → u.pend.contains (pendKey u n) = false
      let brk := u.r.pc ∈ u.dbg.breaks ∨ u.dbg.stopRequested = true
      atSq ∧ issuing u = true ∧ u.sup = false ∧ uiTakeable u = false ∧ u.wait = none ∧ u.halted = false ∧ ¬brk ∧
        fetchPlace s1 uid = Except.ok (Place.mem k) ∧ spoiledAt s1 k 4 = true) ∧
    (∃ (s : State) (ts : List Turn) (uid : Nat),
      let s1 := { s with cur := uid, agenda := ts }
      let u := s.unit uid
      let atSq := nextTurn s = some (Turn.sq uid, ts) ∨ s.agenda = [] ∧ ts = [] ∧ s.cur = uid ∧ ∀ (n : Nat), n < 64 →
        n ≠ 0 → u.pend.contains (pendKey u n) = false
      let brk := u.r.pc ∈ u.dbg.breaks ∨ u.dbg.stopRequested = true
      ∃ (p : Nat) (v : Nat) (key : BitVec 32) (o : BitVec 56) (bs : List Byte), atSq ∧ issuing u = true ∧ u.sup =
        false ∧ uiTakeable u = false ∧ u.wait = none ∧ u.halted = false ∧ ¬brk ∧ fetchPlace s1 uid = Except.ok
        (Place.pod p v key o) ∧ farBytes s1 u p v key 3 o 4 = Except.ok bs) ∧
    (∃ (s : State) (ts : List Turn) (uid : Nat) (col : Nat) (i : Instr) (w : Code),
      let u := s.unit uid
      nextTurn s = some (Turn.column uid col, ts) ∧ Option.map (fun (x : VWord) => x.code) (tget u.ve.cols col
        []).head? = some w ∧ decode CodeKind.vector w = Except.ok i) ∧
    (∃ (s : State) (ts : List Turn) (uid : Nat) (col : Nat) (w : Code),
      let u := s.unit uid
      ∃ (e : Reserved), nextTurn s = some (Turn.column uid col, ts) ∧ Option.map (fun (x : VWord) => x.code) (tget
        u.ve.cols col []).head? = some w ∧ decode CodeKind.vector w = Except.error e) ∧
    (∃ (s : State) (ts : List Turn) (uid : Nat) (w : Code) (r : VeRun),
      let u := s.unit uid
      nextTurn s = some (Turn.router uid, ts) ∧ u.ve.run = some r ∧ r.words[r.widx]? = some w ∧ bits (BitVec.toNat w)
        29 3 < 6) ∧
    (∃ (s : State) (ts : List Turn) (uid : Nat) (i : Instr) (w : Code) (r : VeRun),
      let u := s.unit uid
      nextTurn s = some (Turn.router uid, ts) ∧ u.ve.run = some r ∧ r.words[r.widx]? = some w ∧ 6 ≤ bits (BitVec.toNat
        w) 29 3 ∧ decode CodeKind.vector w = Except.ok i) ∧
    (∃ (s : State) (ts : List Turn) (uid : Nat) (w : Code) (r : VeRun),
      let u := s.unit uid
      ∃ (e : Reserved), nextTurn s = some (Turn.router uid, ts) ∧ u.ve.run = some r ∧ r.words[r.widx]? = some w ∧ 6 ≤
        bits (BitVec.toNat w) 29 3 ∧ decode CodeKind.vector w = Except.error e) ∧
    (∃ (s : State) (ts : List Turn) (uid : Nat) (i : Instr) (w : Code) (m : MeRun),
      let u := s.unit uid
      nextTurn s = some (Turn.me uid, ts) ∧ u.me.run = some m ∧ m.words[m.widx]? = some w ∧ decode CodeKind.matrix w =
        Except.ok i) ∧
    (∃ (s : State) (ts : List Turn) (uid : Nat) (w : Code) (m : MeRun),
      let u := s.unit uid
      ∃ (e : Reserved), nextTurn s = some (Turn.me uid, ts) ∧ u.me.run = some m ∧ m.words[m.widx]? = some w ∧ decode
        CodeKind.matrix w = Except.error e) ∧
    (∃ (s : State) (ts : List Turn) (port : Nat) (i : Instr) (w : Code),
      nextTurn s = some (Turn.link port, ts) ∧ (s.link port).running = true ∧ (linkWords (s.link port))[(s.link
        port).widx]? = some w ∧ decode CodeKind.link w = Except.ok i) ∧
    (∃ (s : State) (ts : List Turn) (port : Nat) (w : Code) (e : Reserved),
      nextTurn s = some (Turn.link port, ts) ∧ (s.link port).running = true ∧ (linkWords (s.link port))[(s.link
        port).widx]? = some w ∧ decode CodeKind.link w = Except.error e) ∧
    (∃ (s : State) (ts : List Turn) (uid : Nat) (i : Instr),
      nextTurn s = some (Turn.event uid i, ts)) ∧
    (∃ (s : State) (x : Turn),
      s.agenda = [x]) ∧
    (∃ (s : State) (ts : List Turn) (v : Nat),
      s.agenda = Turn.event v Instr.coreCycle :: ts) ∧
    (∃ (s : State) (ts : List Turn) (x : Turn) (v : Nat),
      s.agenda = x :: Turn.event v Instr.coreCycle :: ts) ∧
    (∃ (s : State) (ts : List Turn) (x : Turn),
      let s0 := { s with agenda := [] }
      s.agenda = x :: ts ∧ endsCycle x = false ∧ turnClaims s0 x = [] ∧ turnAgent s0 x = none) ∧
    (∃ (s : State) (x : Turn) (y : Turn),
      let s0 := { s with agenda := [] }
      s.agenda = [x, y] ∧ x ≠ y ∧ endsCycle x = false ∧ endsCycle y = false ∧ goesBefore (turnClaims s0 y) (turnClaims
        s0 x) = true ∧ ∀ (v r : Nat), turnAgent s0 y = some (v, r) → stops s0 v y = false) ∧
    (∃ (s : State),
      s.agenda = [] ∧ (issuing s.u = false ∨ s.u.sup = true)) := ⟨
    ⟨{ tUi id with agenda := [.sq 0] }, [], 0, by decide +kernel⟩,
    ⟨{ tState.onUnit 0 (tWaits .waiti) with agenda := [.sq 0] }, [], 0, .waiti, by decide +kernel⟩,
    ⟨{ tState.onUnit 0 (fun u => { u with halted := true }) with agenda := [.sq 0] }, [], 0, by decide +kernel⟩,
    ⟨{ tState.onUnit 0 (fun u => { u with dbg := { u.dbg with stopRequested := true } }) with agenda := [.sq 0] }, [], 0, by decide +kernel⟩,
    ⟨{ tBlock3 0x02084180 with agenda := [.sq 0] }, [], 0, 0x300000, .add 1 2 3, 0x02084180, by simp -zeta only [eq_ok]; decide +kernel⟩,
    ⟨{ tBlock3 0x1E000000 with agenda := [.sq 0] }, [], 0, 0x300000, 0x1E000000, .opcode, by simp -zeta only [eq_error]; decide +kernel⟩,
    ⟨{ tBlock3 0x02084180 with recs := [(0, { blankRec with st := .active, code := some (memPut tMem 0x300000 [9]) })], agenda := [.sq 0] }, [], 0,
      0x300000, 0x02084180, by decide +kernel⟩,
    ⟨{ tState.onUnit 0 (fun u => { u with r := { u.r with pc := 0x900000 } }) with agenda := [.sq 0] }, [], 0, .fetchBounds,
      by simp -zeta only [eq_error]; decide +kernel⟩,
    ⟨{ tState with spoiled := [(0x300000, memRead tMem 0x300000 64)], agenda := [.sq 0] }, [], 0, 0x300000, by simp -zeta only [eq_ok]; decide +kernel⟩,
    ⟨{ (tFar (tState.onUnit 0 (fun u => { u with far := [(.sq, ⟨5, 0, 0x11, 0x300000, 4, none⟩, [1, 2, 3, 4])] }))) with vfs := [(0, { tVf with ranges := { tPodRange with base := 0x300000 } :: tVf.ranges })], agenda := [.sq 0] }, [], 0, 5, 0, 0x11, 0x300000, [1, 2, 3, 4], by simp -zeta only [eq_ok]; decide +kernel⟩,
    ⟨{ tColumn 0 { tWord 0 0 with code := 0x00091800 } tState with agenda := [.column 0 0] }, [], 0, 0, .vadd 0 tOps,
      0x00091800, by simp -zeta only [eq_ok]; decide +kernel⟩,
    ⟨{ tColumn 0 { tWord 0 0 with code := 0xFFFFFFFF } tState with agenda := [.column 0 0] }, [], 0, 0,
      0xFFFFFFFF, .opcode, by simp -zeta only [eq_error]; decide +kernel⟩,
    ⟨{ tRouter (0x00091800 : Code) 0 0 with agenda := [.router 0] }, [], 0, 0x00091800,
      { tVeRun with words := [(0x00091800 : Code), 0xC0000F80] }, by decide +kernel⟩,
    ⟨{ tRouter (0xC0000F80 : Code) 0 0 with agenda := [.router 0] }, [], 0, .shapeN 31 0, 0xC0000F80,
      { tVeRun with words := [(0xC0000F80 : Code), 0xC0000F80] }, by simp -zeta only [eq_ok]; decide +kernel⟩,
    ⟨{ tRouter (0xFFFFFFFF : Code) 0 0 with agenda := [.router 0] }, [], 0, 0xFFFFFFFF,
      { tVeRun with words := [(0xFFFFFFFF : Code), 0xC0000F80] }, .opcode, by simp -zeta only [eq_error]; decide +kernel⟩,
    ⟨{ tMe (some ({ tMeRun 0 with words := [(0x2E000000 : Code)] })) [] id with agenda := [.me 0] }, [], 0,
      .mzero 3 0, 0x2E000000, { tMeRun 0 with words := [(0x2E000000 : Code)] },
      by simp -zeta only [eq_ok]; decide +kernel⟩,
    ⟨{ tMe (some ({ tMeRun 0 with words := [(0xFFFFFFFF : Code)] })) [] id with agenda := [.me 0] }, [], 0,
      0xFFFFFFFF, { tMeRun 0 with words := [(0xFFFFFFFF : Code)] }, .opcode,
      by simp -zeta only [eq_error]; decide +kernel⟩,
    ⟨{ tLinks 1 98364 id with agenda := [.link 1] }, [], 1, .linkAt 5, 0x0C000005,
      by simp -zeta only [eq_ok]; decide +kernel⟩,
    ⟨{ tLinks 1 98364 (fun l => { l with sets := [(0, { tProg with words := [0xFFFFFFFF] })] }) with agenda := [.link 1] }, [], 1, 0xFFFFFFFF, .opcode,
      by simp -zeta only [eq_error]; decide +kernel⟩,
    ⟨{ tState with agenda := [.event 0 (.add 1 2 3)] }, [], 0, .add 1 2 3, by decide +kernel⟩,
    ⟨{ tState with agenda := [.sq 0] }, .sq 0, rfl⟩,
    ⟨{ tState with agenda := [.event 0 .coreCycle, .sq 0] }, [.sq 0], 0, rfl⟩,
    ⟨{ tState with agenda := [.sq 0, .event 0 .coreCycle] }, [], .sq 0, 0, rfl⟩,
    ⟨{ tLinks 1 98364 id with agenda := [.link 1, .sq 0] }, [.sq 0], .link 1, by decide +kernel⟩,
    (by
      refine ⟨{ tState with agenda := [.event 0 (.hset 1 1), .event 0 (.hwait 1 0)] }, .event 0 (.hset 1 1), .event 0 (.hwait 1 0),
        by decide +kernel, by decide +kernel, by decide +kernel, by decide +kernel, by decide +kernel, ?_⟩
      intro v r h
      have e : turnAgent { ({ tState with agenda := [.event 0 (.hset 1 1), .event 0 (.hwait 1 0)] } : State) with agenda := [] }
        (.event 0 (.hwait 1 0)) = some (0, 0) := by decide +kernel
      cases e.symm.trans h
      decide +kernel),
    ⟨{ tState.onUnit 0 (fun u => { u with st := .faulted }) with agenda := [] }, by decide +kernel⟩⟩

theorem witness_StreamAccesses :
    (∃ (s : State) (n : BitVec 4) (a : Act),
      let st := streamOf s.u n.toNat
      let f := a.f
      let nb := max 1 (elemBytes f)
      let place := fun (e : Nat) => elemAt f (actBase f) e
      let ready := st.acts = [a] ∧ a.started = true ∧ (gated f = true → a.granted = true) ∧ a.half = false ∧ (actDir a
        ≠ 0 → a.wrote < a.total)
      let p := place a.issued
      issuing s.u = true ∧ s.u.stopMask.getLsbD 1 = false ∧ ready ∧ actDir a ≠ 1 ∧ pendingWrite a = none ∧ a.issued <
        a.total ∧ roomFor st a a.issued = true ∧ Machine.kindOf f = 0 ∧ s.spoiled = [] ∧ 0 ≤ p.fst ∧ p.fst.toNat + nb ≤
        usable s.u ∧ blkLen f = 0) ∧
    (∃ (s : State) (n : BitVec 4) (a : Act),
      let st := streamOf s.u n.toNat
      let f := a.f
      let nb := max 1 (elemBytes f)
      let place := fun (e : Nat) => elemAt f (actBase f) e
      let ready := st.acts = [a] ∧ a.started = true ∧ (gated f = true → a.granted = true) ∧ a.half = false ∧ (actDir a
        ≠ 0 → a.wrote < a.total)
      let p := place a.issued
      let sa := scaleAt f (↑(sbaseOf f)) a.issued
      issuing s.u = true ∧ s.u.stopMask.getLsbD 1 = false ∧ ready ∧ actDir a ≠ 1 ∧ pendingWrite a = none ∧ a.issued <
        a.total ∧ roomFor st a a.issued = true ∧ Machine.kindOf f = 0 ∧ s.spoiled = [] ∧ 0 ≤ p.fst ∧ p.fst.toNat + nb ≤
        usable s.u ∧ blkLen f ≠ 0 ∧ 0 ≤ sa ∧ sa.toNat + scaleBytes f ≤ usable s.u) ∧
    (∃ (s : State) (n : BitVec 4) (a : Act),
      let st := streamOf s.u n.toNat
      let f := a.f
      let place := fun (e : Nat) => elemAt f (actBase f) e
      let ready := st.acts = [a] ∧ a.started = true ∧ (gated f = true → a.granted = true) ∧ a.half = false ∧ (actDir a
        ≠ 0 → a.wrote < a.total)
      let p := place a.issued
      ∃ (tr : Tr) (k : Nat), issuing s.u = true ∧ s.u.stopMask.getLsbD 1 = false ∧ ready ∧ actDir a ≠ 1 ∧ pendingWrite
        a = none ∧ a.issued < a.total ∧ roomFor st a a.issued = true ∧ Machine.kindOf f = 1 ∧ blkLen f = 0 ∧ s.spoiled =
        [] ∧ translate s s.cur (BitVec.ofInt 64 p.fst) Acc.load = Except.ok tr ∧ tr.place = Place.mem k ∧ tr.wb = false
        ∧ tr.res = true) ∧
    (∃ (s : State) (n : BitVec 4) (a : Act),
      let st := streamOf s.u n.toNat
      let f := a.f
      let place := fun (e : Nat) => elemAt f (actBase f) e
      let ready := st.acts = [a] ∧ a.started = true ∧ (gated f = true → a.granted = true) ∧ a.half = false ∧ (actDir a
        ≠ 0 → a.wrote < a.total)
      let p := place a.issued
      ∃ (tr : Tr) (k : Nat), issuing s.u = true ∧ s.u.stopMask.getLsbD 1 = false ∧ ready ∧ actDir a ≠ 1 ∧ pendingWrite
        a = none ∧ a.issued < a.total ∧ roomFor st a a.issued = true ∧ Machine.kindOf f = 1 ∧ blkLen f = 0 ∧ s.spoiled =
        [] ∧ translate s s.cur (BitVec.ofInt 64 p.fst) Acc.load = Except.ok tr ∧ tr.place = Place.mem k ∧ tr.wb = false
        ∧ tr.res = false ∧ actDir a = 0) ∧
    (∃ (s : State) (n : BitVec 4) (a : Act),
      let st := streamOf s.u n.toNat
      let f := a.f
      let ready := st.acts = [a] ∧ a.started = true ∧ (gated f = true → a.granted = true) ∧ a.half = false ∧ (actDir a
        ≠ 0 → a.wrote < a.total)
      let t := baseOf f / 16384
      let i := ↑(baseOf f % 16384) + nestOffset f 6 0 a.issued
      issuing s.u = true ∧ s.u.stopMask.getLsbD 1 = false ∧ ready ∧ actDir a ≠ 1 ∧ pendingWrite a = none ∧ a.issued <
        a.total ∧ roomFor st a a.issued = true ∧ Machine.kindOf f = 2 ∧ blkLen f = 0 ∧ 0 ≤ i ∧ i < 16384 ∧ tget
        s.u.me.wrote t 0 ≤ a.cov) ∧
    (∃ (s : State) (n : BitVec 4) (a : Act),
      let st := streamOf s.u n.toNat
      let f := a.f
      let place := fun (e : Nat) => elemAt f (actBase f) e
      let ready := st.acts = [a] ∧ a.started = true ∧ (gated f = true → a.granted = true) ∧ a.half = false ∧ (actDir a
        ≠ 0 → a.wrote < a.total)
      let p := place a.issued
      let ci := baseOf f / 2 ^ 56
      let c := tget s.u.m.caps ci blankCap
      let off := BitVec.ofInt 56 p.fst
      issuing s.u = true ∧ s.u.stopMask.getLsbD 1 = false ∧ ready ∧ actDir a ≠ 1 ∧ pendingWrite a = none ∧ a.issued <
        a.total ∧ roomFor st a a.issued = true ∧ Machine.kindOf f = 3 ∧ blkLen f = 0 ∧ c.v = true ∧ c.r = true ∧ c.allow
        ≠ 0 ∧ (routeFor s c.pkg.toNat off).isSome = true) ∧
    (∃ (s : State) (n : BitVec 4) (a : Act),
      let st := streamOf s.u n.toNat
      let f := a.f
      let nb := max 1 (elemBytes f)
      let place := fun (e : Nat) => elemAt f (actBase f) e
      let ready := st.acts = [a] ∧ a.started = true ∧ (gated f = true → a.granted = true) ∧ a.half = false ∧ (actDir a
        ≠ 0 → a.wrote < a.total)
      ∃ (e : Elem),
      let p := place a.wrote
      issuing s.u = true ∧ s.u.stopMask.getLsbD 1 = false ∧ ready ∧ actDir a ≠ 0 ∧ a.outq = [e] ∧ mayWrite a a.wrote =
        true ∧ (blkLen f = 0 ∨ e.scale = none) ∧ Machine.kindOf f = 0 ∧ 0 ≤ p.fst ∧ p.fst.toNat + nb ≤ usable s.u ∧
        p.fst % ↑nb = 0 ∧ elemBytes f ≠ 0) ∧
    (∃ (s : State) (n : BitVec 4) (a : Act),
      let st := streamOf s.u n.toNat
      let f := a.f
      let nb := max 1 (elemBytes f)
      let place := fun (e : Nat) => elemAt f (actBase f) e
      let ready := st.acts = [a] ∧ a.started = true ∧ (gated f = true → a.granted = true) ∧ a.half = false ∧ (actDir a
        ≠ 0 → a.wrote < a.total)
      ∃ (e : Elem),
      let p := place a.wrote
      issuing s.u = true ∧ s.u.stopMask.getLsbD 1 = false ∧ ready ∧ actDir a ≠ 0 ∧ a.outq = [e] ∧ mayWrite a a.wrote =
        true ∧ (blkLen f = 0 ∨ e.scale = none) ∧ Machine.kindOf f = 0 ∧ 0 ≤ p.fst ∧ p.fst.toNat + nb ≤ usable s.u ∧
        elemBytes f = 0) ∧
    (∃ (s : State) (n : BitVec 4) (a : Act),
      let st := streamOf s.u n.toNat
      let f := a.f
      let ready := st.acts = [a] ∧ a.started = true ∧ (gated f = true → a.granted = true) ∧ a.half = false ∧ (actDir a
        ≠ 0 → a.wrote < a.total)
      ∃ (e : Elem),
      let t := baseOf f / 16384
      let i := ↑(baseOf f % 16384) + nestOffset f 6 0 a.wrote
      issuing s.u = true ∧ s.u.stopMask.getLsbD 1 = false ∧ ready ∧ actDir a ≠ 0 ∧ a.outq = [e] ∧ mayWrite a a.wrote =
        true ∧ (blkLen f = 0 ∨ e.scale = none) ∧ Machine.kindOf f = 2 ∧ 0 ≤ i ∧ i < 16384 ∧ tget s.u.me.used t 0 ≤ a.cov
        ∧ meNames s t = false) ∧
    (∃ (s : State) (n : BitVec 4) (a : Act),
      let st := streamOf s.u n.toNat
      ∃ (e : Elem) (rest : List Elem), issuing s.u = true ∧ s.u.stopMask.getLsbD 1 = false ∧ st.acts = [a] ∧
        a.inflight = e :: rest ∧ flying s.u n.toNat a = false ∧ (a.half = true → rest ≠ [])) := ⟨
    ⟨tStreams [(2, tAct 0 0 4)] tState, 2, tAct 0 0 4,
      by decide +kernel⟩,
    ⟨tStreams [(2, { tAct 0 0 4 with f := [(0, 0), (1, 0x40), (2, 4), (8, 1), (14, 2), (15, 0x80)] })] tState, 2, { tAct 0 0 4 with f := [(0, 0), (1, 0x40), (2, 4), (8, 1), (14, 2), (15, 0x80)] },
      by decide +kernel⟩,
    ⟨tStreams [(2, { tAct 0 0 4 with f := [(0, 4), (1, 0x40000008), (2, 4), (8, 1)] })] tState, 2, { tAct 0 0 4 with f := [(0, 4), (1, 0x40000008), (2, 4), (8, 1)] },
      tTr (tStreams [(2, { tAct 0 0 4 with f := [(0, 4), (1, 0x40000008), (2, 4), (8, 1)] })] tState) 0x40000008 .load, 0x200008,
      by simp -zeta only [eq_ok]; decide +kernel⟩,
    ⟨tStreams [(2, { tAct 0 0 4 with f := [(0, 4), (1, 0x40010008), (2, 4), (8, 1)] })] tState, 2, { tAct 0 0 4 with f := [(0, 4), (1, 0x40010008), (2, 4), (8, 1)] },
      tTr (tStreams [(2, { tAct 0 0 4 with f := [(0, 4), (1, 0x40010008), (2, 4), (8, 1)] })] tState) 0x40010008 .load, 0x210008,
      by simp -zeta only [eq_ok]; decide +kernel⟩,
    ⟨tStreams [(2, { tAct 0 0 4 with f := [(0, 8), (1, 0x4005), (2, 4), (8, 1)] })] tState, 2, { tAct 0 0 4 with f := [(0, 8), (1, 0x4005), (2, 4), (8, 1)] },
      by decide +kernel⟩,
    ⟨tStreams [(2, { tAct 0 0 4 with f := [(0, 12), (1, 0x0100000000001238), (2, 4), (8, 1)] })] tRemote, 2, { tAct 0 0 4 with f := [(0, 12), (1, 0x0100000000001238), (2, 4), (8, 1)] },
      by decide +kernel⟩,
    ⟨tStreams [(2, tOut)] tState, 2, tOut,
      tEl 0x11223344,
      by decide +kernel⟩,
    ⟨tStreams [(2, { tOut with f := [(0, 81), (1, 0x40), (2, 1), (8, 1)] })] tState, 2, { tOut with f := [(0, 81), (1, 0x40), (2, 1), (8, 1)] },
      tEl 0x11223344,
      by decide +kernel⟩,
    ⟨tStreams [(2, { tOut with f := [(0, 9), (1, 0x4005), (2, 1), (8, 1)] })] tState, 2, { tOut with f := [(0, 9), (1, 0x4005), (2, 1), (8, 1)] },
      tEl 0x11223344,
      by decide +kernel⟩,
    ⟨tStreams [(2, tIn)] tState, 2, tIn,
      tEl 5, [tEl 6],
      by decide +kernel⟩⟩

end Sys2Proof.Tests
end

namespace Sys2Proof.Laws.RoundTrip

/-- The round trip of every instruction: a word's by its own lemma, and an event has no word. -/
theorem statement (i : Instr) : Statement i := by
  cases i with
  | ill => exact ill | add => exact add _ _ _ | sub => exact sub _ _ _ | mul => exact mul _ _ _
  | mulhs => exact mulhs _ _ _ | mulhu => exact mulhu _ _ _ | divs => exact divs _ _ _
  | divu => exact divu _ _ _ | rems => exact rems _ _ _ | remu => exact remu _ _ _ | and => exact and _ _ _
  | or => exact or _ _ _ | xor => exact xor _ _ _ | andn => exact andn _ _ _ | shl => exact shl _ _ _
  | shr => exact shr _ _ _ | sar => exact sar _ _ _ | rol => exact rol _ _ _ | mins => exact mins _ _ _
  | minu => exact minu _ _ _ | maxs => exact maxs _ _ _ | maxu => exact maxu _ _ _ | clz => exact clz _ _
  | ctz => exact ctz _ _ | popc => exact popc _ _ | bswap => exact bswap _ _ | sextb => exact sextb _ _
  | sexth => exact sexth _ _ | sextw => exact sextw _ _ | addi => exact addi _ _ _ | andi => exact andi _ _ _
  | ori => exact ori _ _ _ | xori => exact xori _ _ _ | shli => exact shli _ _ _ | shri => exact shri _ _ _
  | sari => exact sari _ _ _ | muli => exact muli _ _ _ | movi => exact movi _ _ | movk => exact movk _ _ _
  | cmp => exact cmp _ _ _ _ _ | cmpi => exact cmpi _ _ _ _ _ | pand => exact pand _ _ _
  | por => exact por _ _ _ | pxor => exact pxor _ _ _ | pandn => exact pandn _ _ _ | pmov => exact pmov _ _
  | pnot => exact pnot _ _ | pset => exact pset _ | br => exact br _ _ _ | call => exact call _ _ _
  | jr => exact jr _ | callr => exact callr _ | ret => exact ret | brstg => exact brstg _
  | brcl => exact brcl _ _ _ | pcl => exact pcl _ _ _ | ldu => exact ldu _ _ _ _ | lds => exact lds _ _ _ _
  | st => exact st _ _ _ _ | ldm => exact ldm _ _ _ _ | stm => exact stm _ _ _ _ | amoLd => exact amoLd _ _ _ _
  | amoSt => exact amoSt _ _ _ _ | amoSwap => exact amoSwap _ _ _ _ _ | amoCas => exact amoCas _ _ _ _ _
  | amoAdd => exact amoAdd _ _ _ _ _ | amoAnd => exact amoAnd _ _ _ _ _ | amoOr => exact amoOr _ _ _ _ _
  | amoXor => exact amoXor _ _ _ _ _ | amoMins => exact amoMins _ _ _ _ _ | amoMinu => exact amoMinu _ _ _ _ _
  | amoMaxs => exact amoMaxs _ _ _ _ _ | amoMaxu => exact amoMaxu _ _ _ _ _
  | amoFadd => exact amoFadd _ _ _ _ _ | rld => exact rld _ _ _ _ | rst => exact rst _ _ _ _
  | ramoLd => exact ramoLd _ _ _ | ramoSt => exact ramoSt _ _ _ | ramoSwap => exact ramoSwap _ _ _ _
  | ramoCas => exact ramoCas _ _ _ _ | ramoAdd => exact ramoAdd _ _ _ _ | ramoAnd => exact ramoAnd _ _ _ _
  | ramoOr => exact ramoOr _ _ _ _ | ramoXor => exact ramoXor _ _ _ _ | ramoMins => exact ramoMins _ _ _ _
  | ramoMinu => exact ramoMinu _ _ _ _ | ramoMaxs => exact ramoMaxs _ _ _ _
  | ramoMaxu => exact ramoMaxu _ _ _ _ | ramoFadd => exact ramoFadd _ _ _ _ | nop => exact nop
  | trap => exact trap _ | eret => exact eret | uiret => exact uiret | waiti => exact waiti
  | halt => exact halt | fence => exact fence _ | qfence => exact qfence _ | phase => exact phase _
  | tide => exact tide _ | keyst => exact keyst _ | uipoll => exact uipoll | cancel => exact cancel _
  | csrr => exact csrr _ _ | csrw => exact csrw _ _ | csrs => exact csrs _ _ _ | csrc => exact csrc _ _ _
  | vrun => exact vrun _ _ | mrun => exact mrun _ _ _ | sopen => exact sopen _ | sclose => exact sclose _
  | swait => exact swait _ | crun => exact crun _ _ _ | mtokw => exact mtokw _ | vtokw => exact vtokw _
  | sset => exact sset _ _ _ | sget => exact sget _ _ _ | vkset => exact vkset _ _ | gnset => exact gnset _ _ _
  | gnsetFaddr => exact gnsetFaddr _ _ | gnget => exact gnget _ _ _ | gnpeek => exact gnpeek _ _ _ _
  | ntset => exact ntset _ _ _ _ | binit => exact binit _ _ | barr => exact barr _ | bwait => exact bwait _
  | btest => exact btest _ _ | cwaitc => exact cwaitc _ _ | cread => exact cread _ _
  | lrpatch => exact lrpatch _ _ | lrarm => exact lrarm _ | lrstat => exact lrstat _ _
  | lease => exact lease _ _ _ _ _ | lrel => exact lrel _ | lstat => exact lstat _ _ | lwait => exact lwait _
  | hwait => exact hwait _ _ | hset => exact hset _ _ | htest => exact htest _ _ _ | pgreq => exact pgreq _ _
  | pgstat => exact pgstat _ _ | nqpop => exact nqpop _ _ | mclr => exact mclr _ | mset => exact mset _
  | mpop => exact mpop _ _ | mfirst => exact mfirst _ _ | mand => exact mand _ _ _ | cstart => exact cstart _
  | cend => exact cend | cwait => exact cwait _ | vadd => exact vadd _ _ | vsub => exact vsub _ _
  | vmul => exact vmul _ _ | vfma => exact vfma _ _ | vmin => exact vmin _ _ | vmax => exact vmax _ _
  | vabs => exact vabs _ _ | vneg => exact vneg _ _ | vand => exact vand _ _ | vor => exact vor _ _
  | vxor => exact vxor _ _ | vshl => exact vshl _ _ | vshr => exact vshr _ _ | vsar => exact vsar _ _
  | vsel => exact vsel _ _ | vcmp => exact vcmp _ _ _ | vaddk => exact vaddk _ _ | vmulk => exact vmulk _ _
  | vfmak => exact vfmak _ _ | vmink => exact vmink _ _ | vmaxk => exact vmaxk _ _ | vfill => exact vfill _ _
  | vsfuExp => exact vsfuExp _ | vsfuExp2 => exact vsfuExp2 _ | vsfuLog => exact vsfuLog _
  | vsfuLog2 => exact vsfuLog2 _ | vsfuRcp => exact vsfuRcp _ | vsfuRsqrt => exact vsfuRsqrt _
  | vsfuSqrt => exact vsfuSqrt _ | vsfuTanh => exact vsfuTanh _ | vsfuSigm => exact vsfuSigm _
  | vsfuSin => exact vsfuSin _ | vsfuCos => exact vsfuCos _ | vsfuErf => exact vsfuErf _ | vcvt => exact vcvt _
  | vqnt => exact vqnt _ | vdqnt => exact vdqnt _ | vsrnd => exact vsrnd _ | vrsum => exact vrsum _
  | vrmax => exact vrmax _ | vrmin => exact vrmin _ | vramax => exact vramax _ | vrssq => exact vrssq _
  | vargmx => exact vargmx _ | vscan => exact vscan _ | vmov => exact vmov _ | viota => exact viota _
  | vgath => exact vgath _ | vscat => exact vscat _ | vbcast => exact vbcast _ | vrev => exact vrev _
  | vilv => exact vilv _ | vdilv => exact vdilv _ | vcomb => exact vcomb _ | vgen => exact vgen _
  | shapeN => exact shapeN _ _ | shapeM => exact shapeM _ _ | nest => exact nest _ _ _ _
  | vtok => exact vtok _ _ | vwtok => exact vwtok _ _ | vnop => exact vnop _ | mnop => exact mnop _
  | mma => exact mma _ | mlatch => exact mlatch _ | mswap => exact mswap _ _ _ | mgath => exact mgath _ _ _ _
  | mzero => exact mzero _ _ | mdrain => exact mdrain _ _ _ _ _ _ | mdrainrq => exact mdrainrq _ _ _ _ _
  | mrsum => exact mrsum _ _ _ | mcsum => exact mcsum _ _ _ | mwscl => exact mwscl _ _ _
  | mtok => exact mtok _ _ | mwtok => exact mwtok _ _ | mxlatch => exact mxlatch _ | linkAt => exact linkAt _
  | linkSend => exact linkSend _ _ _ | linkRecv => exact linkRecv _ _ _ | linkFwd => exact linkFwd _ _
  | linkRedw => exact linkRedw _ _ _ | linkReds => exact linkReds _ _ _ | linkMark => exact linkMark _ _
  | linkKey => exact linkKey _ | linkSlack => exact linkSlack | linkEnd => exact linkEnd
  | linkSetdt => exact linkSetdt _ | linkTune => exact linkTune _ _ _
  | _ => exact of_event rfl

end Sys2Proof.Laws.RoundTrip

/-- Settles O57: by the round trip of each word. -/
theorem encodedWordsDecode : Obligations.EncodedWordsDecode := Sys2Proof.Laws.RoundTrip.statement

/-- Settles O56: the words are decoded one by one. -/
theorem writtenWordsDecode : Obligations.WrittenWordsDecode := by
  unfold Obligations.WrittenWordsDecode
  refine ⟨rfl, rfl, rfl, rfl, rfl, rfl, rfl, rfl, rfl, rfl, rfl, rfl, rfl, rfl⟩

namespace Sys2Proof.Machine

/-! ### A state that differs in its acting unit alone -/

theorem OnlyUnit.refl (s : State) : OnlyUnit s s := ⟨rfl, fun _ _ => rfl⟩

theorem OnlyUnit.eq_units {s t : State} (h : OnlyUnit s t) : t = { s with units := t.units } := by
  rw [← h.1]

theorem OnlyUnit.cur {s t : State} (h : OnlyUnit s t) : t.cur = s.cur := by rw [h.eq_units]

/-! ### Taking an exception (R419, R422) -/

/-- The acting unit as a fault leaves it, with its frame. -/
def faultedAs (fr : Tab Word) (u : Unit) : Unit :=
  { dropFars (fun _ => true) u with
    st := .faulted, c := { u.c with frame := fr }, stash := u.wait, wait := none, poll := false, halted := false }

theorem stopUnit_u (s : State) (f : FaultInfo) :
    (stopUnit s s.cur f).u = faultedAs (frameOf (setAside s s.cur) s.cur f) s.u :=
  State.u_putUnit_cur (setAside s s.cur) _

/-- A fault that stops the acting unit, met by an agent after its word has been counted or has left a wait. -/
theorem stoppedBy_stopUnit {s t : State} (h : OnlyUnit s t)
    (hu : { t.u with ctr := s.u.ctr, wait := s.u.wait, poll := s.u.poll } = s.u) (f : FaultInfo) :
    StoppedBy f.agent f.precise s (stopUnit t t.cur f) f.cause f.addr f.detail f.fpc := by
  have ht := h.eq_units
  have hr : t.u.r = s.u.r := by rw [← hu]
  have hc : t.u.c = s.u.c := by rw [← hu]
  have hframe : ∀ n, frameReg (stopUnit t t.cur f).u n = tget (frameOf (setAside t t.cur) t.cur f) n 0 := fun n => by
    rw [stopUnit_u]; rfl
  refine ⟨by rw [stopUnit_u]; rfl, by rw [ht]; rfl, ?_, ?_, ?_, ?_, ?_, by rw [ht]; rfl, ?_, ?_⟩
  · rw [hframe, ← hc]; rfl
  · rw [hframe]; rfl
  · rw [hframe]; rfl
  · rw [hframe, ← hr]; rfl
  · rw [hframe]; show t.tide = s.tide; rw [ht]
  · intro k hk
    rw [← h.2 k hk]
    exact (State.unit_putUnit (setAside t t.cur) t.cur k _).trans (if_neg (h.cur ▸ hk))
  · rw [stopUnit_u, ← hu]; rfl

theorem raiseFault_stops {s : State} {f : FaultInfo} (hl : live s.u = true) (hf : ∀ p, f.cause ≠ .elsewhere p) :
    raiseFault s s.cur f = stopUnit s s.cur f := by
  rw [raiseFault, if_pos (show live (s.unit s.cur) = true from hl)]
  split
  · rename_i p hp; exact absurd hp (hf p)
  · rfl

theorem live_of_issuing {u : Unit} (h : issuing u = true) : live u = true := by
  simp only [issuing, Bool.and_eq_true] at h
  exact h.1

/-- A fault of an agent other than the sequencer. -/
theorem agentFault_stops {s : State} (hl : live s.u = true) (a : Agent) {c : Cause} (hc : ∀ p, c ≠ .elsewhere p)
    (va : Word) (d : Nat) : StoppedBy a false s (agentFault s s.cur a c va d) c va d s.u.r.pc := by
  rw [agentFault, raiseFault_stops hl hc]
  exact stoppedBy_stopUnit (OnlyUnit.refl s) rfl _

theorem sqFault_traps {s t : State} (h : OnlyUnit s t)
    (hu : { t.u with wait := s.u.wait, poll := s.u.poll } = s.u) (hl : live s.u = true)
    {c : Cause} (hc : ∀ p, c ≠ .elsewhere p) (va : Word) (d : Nat) : Traps s (sqFault c va d t) c va d := by
  have hl' : live t.u = true := by rw [← hu] at hl; exact hl
  let v := t.putUnit t.cur { t.u with wait := none }
  have hv : v.u = { t.u with wait := none } := State.u_putUnit_cur _ _
  have hov : OnlyUnit s v :=
    ⟨h.1, fun k hk => (State.unit_putUnit t t.cur k _).trans ((if_neg (h.cur ▸ hk)).trans (h.2 k hk))⟩
  have hs : sqFault c va d t = stopUnit v v.cur ⟨c, .sq, true, va, d, s.u.r.pc, none⟩ := by
    rw [show s.u.r.pc = v.u.r.pc by rw [hv, ← hu]]
    exact raiseFault_stops (s := v) (f := ⟨c, .sq, true, va, d, v.u.r.pc, none⟩) (by rw [hv]; exact hl') hc
  have hvu : { v.u with ctr := s.u.ctr, wait := s.u.wait, poll := s.u.poll } = s.u := by rw [hv, ← hu]
  rw [hs]
  refine ⟨stoppedBy_stopUnit hov hvu _, ?_⟩
  rw [stopUnit_u, hv, ← hu]; rfl

/-! ### What a scalar word that issues leaves (R109, R114, R134) -/

theorem onlyUnit_unpoll (s : State) : OnlyUnit s (unpoll s) := by rw [unpoll_eq]; exact onlyUnit_putUnit s _

theorem onlyUnit_unpoll_putUnit (s : State) (u : Unit) : OnlyUnit s ((unpoll s).putUnit s.cur u) := by
  rw [unpoll_eq, State.putUnit_putUnit]; exact onlyUnit_putUnit s _

theorem issuing_of_canIssue {s : State} {rs : List (BitVec 6)} (h : CanIssue s rs) : issuing s.u = true :=
  (sqIdle_false h.1).1

/-- A word whose body raises a cause. -/
theorem sqWord_traps {s : State} {rs : List (BitVec 6)} {body : State → SqRes} {c : Cause} {va : Word} {d : Nat}
    (h : CanIssue s rs) (hb : body (unpoll s) = .trap c va d) (hc : ∀ p, c ≠ .elsewhere p) :
    ∃ t, sqWord rs body s = .next t ∧ Traps s t c va d := by
  refine ⟨_, sqWord_issue h body, ?_⟩
  rw [hb]
  exact sqFault_traps (onlyUnit_unpoll s) (by rw [unpoll_u]) (live_of_issuing (issuing_of_canIssue h)) hc va d

theorem u_retireAs {t : State} (h : t.u.st = .running) (gov : Bool) : (retireAs gov t).u = completed gov t.u := by
  rw [retireAs_eq h, State.u_putUnit_cur]

/-- A word completes when its own effect has left the registers as they were. -/
theorem advanced_retireAs {s t : State} {gov : Bool} (hst : t.u.st = .running) (hr : t.u.r = s.u.r)
    (hi : issueCounted t.u = issueCounted s.u) (hg : gov = (s.u.r.clsCount != 0)) :
    Advanced s (retireAs gov t) ∧ KeptRegs s (retireAs gov t) := by
  have hcls : (completed gov t.u).r.clsCount = clsAfter s.u.r := by
    simp only [completed, clsDown, clsAfter, hr, hg]
    split <;> simp_all
  rw [Advanced, KeptRegs, u_retireAs hst]
  refine ⟨⟨?_, hcls, ?_, rfl, hi⟩, ?_⟩
  · rw [← hr]; rfl
  · rw [← hr]; cases gov <;> rfl
  · rw [← hr]; cases gov <;> rfl

/-- A word's completion, when its own effect f is on the acting unit and on none of its registers. -/
theorem changes_retireAs {s t : State} {f : Unit → Unit} {gov : Bool} (ht : OnlyUnit s t) (hst : t.u.st = .running)
    (hr : t.u.r = s.u.r) (hi : issueCounted t.u = issueCounted s.u) (hu : back s t.u = f s.u)
    (hg : gov = (s.u.r.clsCount != 0)) : Changes s (retireAs gov t) f := by
  obtain ⟨hadv, hkept⟩ := advanced_retireAs hst hr hi hg
  refine ⟨?_, hadv, hkept, ?_⟩
  · rw [retireAs_eq hst]
    exact ⟨ht.1, fun k hk => (State.unit_putUnit t t.cur k _).trans ((if_neg (ht.cur ▸ hk)).trans (ht.2 k hk))⟩
  · rw [u_retireAs hst, ← hu]; rfl

/-- A word that issues and whose body has the effect f on the acting unit. -/
theorem sqWord_changes {s t : State} {rs : List (BitVec 6)} {body : State → SqRes} {f : Unit → Unit}
    (h : CanIssue s rs) (hb : body (unpoll s) = .done t) (ht : OnlyUnit s t) (hst : t.u.st = s.u.st)
    (hr : t.u.r = s.u.r) (hi : issueCounted t.u = issueCounted s.u) (hu : back s t.u = f s.u) :
    ∃ x, sqWord rs body s = .next x ∧ Changes s x f := by
  have hrun := issuing_running (issuing_of_canIssue h)
  refine ⟨_, sqWord_issue h body, ?_⟩
  rw [hb]
  exact changes_retireAs ht (hst.trans hrun) hr hi hu (by rw [governed, unpoll_u])

/-- A word without an effect of its own only advances. -/
theorem onlyAdvances_of_changes {s x : State} (h : Changes s x id) : OnlyAdvances s x := by
  obtain ⟨h1, h2, h3, h4⟩ := h
  exact ⟨⟨h1, h4⟩, h2, h3⟩

theorem slipUp_le {c : Course} (h : c.slip.toNat < c.slipmax.toNat) : ¬ c.slipmax < (slipUp c).slip := by
  have hmax := c.slipmax.isLt
  have hne : c.slip ≠ BitVec.allOnes 32 := by
    intro he
    rw [he, BitVec.toNat_allOnes] at h
    omega
  rw [slipUp, if_neg hne, BitVec.lt_def, BitVec.toNat_add, show (1 : BitVec 32).toNat = 1 from rfl]
  omega

/-- A count changes a unit's counters alone. -/
theorem unit_count (s : State) (uid ev n : Nat) :
    ∃ c, (count s uid ev n).unit uid = { s.unit uid with ctr := c } := by
  rw [count_eq]
  split
  · exact ⟨_, rfl⟩
  · rw [State.unit_putUnit, if_pos rfl]
    split <;> exact ⟨_, rfl⟩

@[simp] theorem count_mem (s : State) (uid ev n : Nat) : (count s uid ev n).mem = s.mem := by
  rw [count_eq]
  split <;> rfl

@[simp] theorem count_cur (s : State) (uid ev n : Nat) : (count s uid ev n).cur = s.cur := by
  rw [count_eq]
  split <;> rfl

/-- A hold cycle within the slip budget stops nothing (R148). -/
theorem holdCycle_keeps {s : State} (a : Agent) (h : s.u.course.slip.toNat < s.u.course.slipmax.toNat) :
    (holdCycle s s.cur a).u.r = s.u.r ∧ (holdCycle s s.cur a).u.wait = s.u.wait ∧
    (holdCycle s s.cur a).mem = s.mem := by
  let v := s.putUnit s.cur { s.u with st := .held, course := slipUp s.u.course }
  let t := count v s.cur 0x0801 1
  obtain ⟨c, hc⟩ := unit_count v s.cur 0x0801 1
  have hu : t.u = { s.u with st := .held, course := slipUp s.u.course, ctr := c } := by
    rw [State.u, count_cur, show v.cur = s.cur from rfl, hc, show v.unit s.cur = _ from State.u_putUnit_cur s _]
  have hk : holdCycle s s.cur a = t := by
    refine if_neg (?_ : ¬ (t.unit s.cur).course.slipmax < (t.unit s.cur).course.slip)
    rw [show t.unit s.cur = t.u by rw [State.u, count_cur]; rfl, hu]
    exact slipUp_le h
  rw [hk, hu]
  exact ⟨rfl, rfl, count_mem _ _ _ _⟩

/-- A word that waits, outside a hold cycle. -/
theorem finish_hold {s t : State} {w : Wait} (h : sqHeld { t.u with wait := some w } = false) :
    finish s (.hold w t) = t.putUnit t.cur { t.u with wait := some w } := by
  let v := t.putUnit t.cur { t.u with wait := some w }
  have hv : v.u = { t.u with wait := some w } := State.u_putUnit_cur _ _
  show (if sqHeld v.u && v.u.st == .running then holdCycle v v.cur .sq else v) = v
  rw [hv, h]; rfl

/-- A word that must wait: its course has room for a hold cycle, if one runs (R147, R148). -/
theorem waitsIn_finish {s s' t : State} (w : Wait) (hm : MayHold s) (hr : t.u.r = s.u.r) (hmem : t.mem = s.mem)
    (hcourse : t.u.course = s.u.course) : WaitsIn s (finish s' (.hold w t)) w := by
  let v := t.putUnit t.cur { t.u with wait := some w }
  have hv : v.u = { t.u with wait := some w } := State.u_putUnit_cur _ _
  show WaitsIn s (if sqHeld v.u && v.u.st == .running then holdCycle v v.cur .sq else v) w
  split
  · rename_i hheld
    have hact : s.u.course.active = true := by
      simp only [sqHeld, Bool.and_eq_true, hv, hcourse] at hheld
      exact hheld.1.1
    have hslip : v.u.course.slip.toNat < v.u.course.slipmax.toNat := by rw [hv]; simpa [hcourse] using hm hact
    obtain ⟨h1, h2, h3⟩ := holdCycle_keeps .sq hslip
    exact ⟨h2.trans (by rw [hv]), h1.trans (by rw [hv]; exact hr), h3.trans hmem⟩
  · refine ⟨by rw [hv], by rw [hv]; exact hr, hmem⟩

/-! ### Reserved words (R36 to R38) -/

theorem reservedScalar_traps {s : State} (h : sqIdle s.u = false) :
    Traps s (reservedScalar s) .illegalOpcode 0 0 := by
  rw [reservedScalar, if_neg (by simp [h])]
  exact sqFault_traps (OnlyUnit.refl s) rfl (live_of_issuing (sqIdle_false h).1) (fun _ => Cause.noConfusion) 0 0

theorem agentFault_ctr {s : State} (hl : live s.u = true) (a : Agent) {c : Cause} (hc : ∀ p, c ≠ .elsewhere p)
    (va : Word) (d : Nat) : (agentFault s s.cur a c va d).u.ctr = s.u.ctr := by
  rw [agentFault, raiseFault_stops hl hc, stopUnit_u]; rfl

theorem reservedIn_stops {s : State} (a : Agent) (h : live s.u = true) :
    StoppedBy a false s (reservedIn a s) .illegalOpcode 0 0 s.u.r.pc ∧ (reservedIn a s).u.ctr = s.u.ctr :=
  ⟨agentFault_stops h a (fun _ => Cause.noConfusion) 0 0, agentFault_ctr h a (fun _ => Cause.noConfusion) 0 0⟩

/-- Settles O10: the sequencer meets a reserved word before its clause, an engine as a fault of its own. -/
theorem reservedWordsTrap : Obligations.ReservedWordsTrap := by
  intro s w
  refine ⟨fun h => ⟨_, rfl, reservedScalar_traps h⟩, fun h => ⟨_, rfl, reservedScalar_traps h⟩,
    fun h => ⟨_, rfl, reservedIn_stops _ h⟩, fun h => ⟨_, rfl, reservedIn_stops _ h⟩, rfl, rfl⟩

/-! ### The two banks of G24 to G31 (R135) -/

theorem tget_append {α : Type} (a b : Tab α) (k : Nat) (d : α) : tget (a ++ b) k d = tget a k (tget b k d) := by
  induction a with
  | nil => rfl
  | cons e a ih =>
    obtain ⟨j, v⟩ := e
    simp only [List.cons_append, tget, ih]

theorem tget_filter {α : Type} (p : Nat → Bool) (t : Tab α) (k : Nat) (d : α) :
    tget (t.filter fun e => p e.1) k d = if p k then tget t k d else d := by
  induction t with
  | nil => simp
  | cons e t ih =>
    obtain ⟨j, v⟩ := e
    by_cases hj : j = k
    · subst hj
      by_cases hp : p j <;> simp [hp, tget, ih]
    · by_cases hp : p j <;> simp [hp, tget, hj, ih]

/-- The registers that a name reads after the banks are exchanged. -/
theorem getG_swapBanks (r : Regs) {n : Nat} (hn : n < 64) :
    getG (swapBanks r) n = if 24 ≤ n ∧ n < 32 then tget r.shadow n 0 else getG r n := by
  have hp : physG (swapBanks r) n = physG r n := rfl
  have hname : n < 32 → physG r n = n := fun h => if_pos h
  have hring : 32 ≤ n → 32 ≤ physG r n := fun h => by rw [physG, if_neg (by omega)]; omega
  by_cases h0 : n = 0
  · subst h0; rfl
  · rw [getG, if_neg h0, hp, getG, if_neg h0, swapBanks, tget_append, tget_append,
      tget_filter (fun k => decide (k < 24)), tget_filter (fun k => decide (24 ≤ k) && decide (k < 32)),
      tget_filter (fun k => decide (32 ≤ k))]
    rcases Nat.lt_or_ge n 24 with h | h
    · simp [hname (by omega), h, Nat.not_le.2 h, Nat.not_le.2 (Nat.lt_trans h (by decide : 24 < 32))]
    · rcases Nat.lt_or_ge n 32 with h' | h'
      · simp [hname h', h, h', Nat.not_lt.2 h, Nat.not_le.2 h']
      · have h1 := hring h'
        simp [h1, h, Nat.not_lt.2 h', Nat.not_lt.2 h1, Nat.not_lt.2 (Nat.le_trans (by decide : 24 ≤ 32) h1)]

/-- The general registers of a state whose acting unit has exchanged its banks. -/
theorem gOf_swapped {s x : State} (hg : x.u.r.g = (swapBanks s.u.r).g) (ho : x.u.r.goff = s.u.r.goff) (n : BitVec 6) :
    gOf x n = if 24 ≤ n.toNat ∧ n.toNat < 32 then tget s.u.r.shadow n.toNat 0 else gOf s n := by
  have h : gOf x n = getG (swapBanks s.u.r) n.toNat := by
    simp only [gOf, getG, physG, hg, ho]; rfl
  rw [h, getG_swapBanks _ n.isLt]; rfl

/-! ### The returns of a handler (R136, R428, R430) -/

theorem bitAt_eq_getLsbD (w : Word) (i : Nat) : bitAt w.toNat i = w.getLsbD i := by
  rw [bitAt, BitVec.getLsbD, Nat.testBit_eq_decide_div_mod_eq]
  rfl

/-- The return with no reflected fault open. -/
theorem returnUi_plain {u : Unit} (h : frameReg u 0 &&& reflectedBit = 0) :
    returnUi u = { u with c := { u.c with inui := false }
                          r := { swapBanks u.r with pc := u.c.uipc &&& ~~~(3 : Word) } } :=
  if_pos h

/-- The return that ends a reflected fault. -/
theorem returnUi_reflected {u : Unit} (h : frameReg u 0 &&& reflectedBit ≠ 0) :
    returnUi u = { u with
      c := { u.c with inui := false, frame := tset u.c.frame 0 (frameReg u 0 &&& ~~~reflectedBit) }
      r := { swapBanks u.r with pc := u.c.uipc &&& ~~~(3 : Word), clsCount := BitVec.ofNat 4 (frameReg u 3).toNat,
                                clsPred := bitAt (frameReg u 3).toNat 4 }
      stopMask := 0, stash := none
      wait := if u.c.uipc &&& ~~~(3 : Word) = tget (tset u.c.frame 0 (frameReg u 0 &&& ~~~reflectedBit)) 1 0
        then u.stash else none } :=
  if_neg h

/-- UIRET of a running unit, as one change of it. -/
theorem uiret_eq {s : State} (h : s.u.st = .running) :
    uiret s = s.putUnit s.cur { returnUi { dropFar .sq s.u with wait := none, r := clsDown (governed s) s.u.r } with
      ctr := issueCounted s.u } := by
  have hw : ∀ w : Unit, (returnUi w).st = w.st ∧ issueCounted (returnUi w) = issueCounted w := fun w => by
    by_cases hf : frameReg w 0 &&& reflectedBit = 0
    · rw [returnUi_plain hf]; exact ⟨rfl, rfl⟩
    · rw [returnUi_reflected hf]; exact ⟨rfl, rfl⟩
  obtain ⟨hst, hi⟩ := hw { dropFar .sq s.u with wait := none, r := clsDown (governed s) s.u.r }
  simp only [uiret, count_eq, State.onU_eq, State.unit_putUnit, if_true, State.putUnit_putUnit,
    if_neg (show ¬ (1 = 0) by decide)]
  rw [counted_running (hst.trans h), hi]
  rfl

/-! ### The sequencer's control words (R135 to R138, R430 to R432) -/

theorem does_nop {s : State} (h : CanIssue s []) : Does .nop s (OnlyAdvances s) := by
  obtain ⟨x, hx, hc⟩ := sqWord_changes (body := fun s => .done s) (f := id) h rfl (onlyUnit_unpoll s)
    (by rw [unpoll_u]) (by rw [unpoll_u]) (by rw [unpoll_u]; rfl) (by rw [unpoll_u]; rfl)
  exact ⟨x, hx, onlyAdvances_of_changes hc⟩

/-- A word that only completes, at whose boundary an interrupt may enter. -/
theorem polls_retireAs {s t : State} {gov : Bool} (ht : OnlyUnit s t) (hst : t.u.st = .running)
    (hu : { t.u with poll := s.u.poll } = s.u) (hg : gov = (s.u.r.clsCount != 0)) :
    OnlyAdvances s (retireAs gov (asPoll t)) ∧ (retireAs gov (asPoll t)).u.poll = true := by
  have hv : (asPoll t).u = { t.u with poll := true } := State.u_putUnit_cur _ _
  have ho : OnlyUnit s (asPoll t) :=
    ⟨ht.1, fun k hk => (State.unit_putUnit t t.cur k _).trans ((if_neg (ht.cur ▸ hk)).trans (ht.2 k hk))⟩
  have hrun : (asPoll t).u.st = .running := by rw [hv]; exact hst
  refine ⟨onlyAdvances_of_changes (changes_retireAs ho hrun ?_ ?_ ?_ hg), ?_⟩
  · rw [hv, ← hu]
  · rw [hv, ← hu]; rfl
  · rw [hv]; exact (congrArg (back s) hu : _)
  · rw [u_retireAs hrun, hv]; rfl

theorem governed_unpoll (s : State) : governed (unpoll s) = (s.u.r.clsCount != 0) := by rw [governed, unpoll_u]

theorem running_unpoll {s : State} {rs : List (BitVec 6)} (h : CanIssue s rs) : (unpoll s).u.st = .running := by
  rw [unpoll_u]; exact issuing_running (issuing_of_canIssue h)

theorem does_uipoll {s : State} (h : CanIssue s []) :
    Does .uipoll s (fun x => OnlyAdvances s x ∧ x.u.poll = true) :=
  ⟨_, sqWord_issue h (fun s => .done (asPoll s)),
    polls_retireAs (onlyUnit_unpoll s) (running_unpoll h) (by rw [unpoll_u]) (governed_unpoll s)⟩

/-- The count of an issue (R468). -/
theorem count_issue {t : State} (h : t.u.st = .running) :
    count t t.cur 0x0102 1 = t.putUnit t.cur { t.u with ctr := issueCounted t.u } := by
  rw [count_eq, if_neg (by decide)]
  exact congrArg (t.putUnit t.cur) (counted_running h)

theorem does_trap {s : State} (imm : BitVec 8) (h : CanIssue s []) : Does (.trap imm) s (fun x =>
    Trapped s x .userTrap 0 imm.toNat (s.u.r.pc + 4) ∧ x.u.ctr = issueCounted s.u) := by
  have hi := issuing_of_canIssue h
  let v := s.putUnit s.cur { s.u with poll := false, ctr := issueCounted s.u }
  have hv : v.u = { s.u with poll := false, ctr := issueCounted s.u } := State.u_putUnit_cur s _
  have hc : count (unpoll s) (unpoll s).cur 0x0102 1 = v := by
    rw [count_issue (running_unpoll h), unpoll_u, unpoll_cur, unpoll_eq, State.putUnit_putUnit]; rfl
  have hx : userTrap imm (unpoll s) = stopUnit v v.cur ⟨.userTrap, .sq, true, 0, imm.toNat, s.u.r.pc + 4, none⟩ := by
    rw [userTrap, hc, unpoll_u]
    exact raiseFault_stops (s := v) (f := ⟨.userTrap, .sq, true, 0, imm.toNat, s.u.r.pc + 4, none⟩)
      (by rw [hv]; exact live_of_issuing hi) (fun _ => Cause.noConfusion)
  refine ⟨_, sqWord_issue h (fun s => .stop (userTrap imm s)), ?_⟩
  show Trapped s (userTrap imm (unpoll s)) _ _ _ _ ∧ (userTrap imm (unpoll s)).u.ctr = _
  rw [hx]
  refine ⟨stoppedBy_stopUnit (onlyUnit_putUnit s _) (by rw [hv]) _, ?_⟩
  rw [stopUnit_u, hv]; rfl

/-- The traps of ERET at level U and of UIRET outside a handler. -/
theorem does_eret_user {s : State} (h : CanIssue s []) (hu : s.u.sup = false) :
    Does .eret s (Traps s · .privileged 0 0) :=
  sqWord_traps h (body := fun s => if s.u.sup then .done (eretS s) else .trap .privileged 0 0)
    (by simp only [unpoll_u, hu]; rfl) (fun _ => Cause.noConfusion)

theorem does_uiret_outside {s : State} (h : CanIssue s []) (hu : s.u.c.inui = false) :
    Does .uiret s (Traps s · .uiretState 0 0) :=
  sqWord_traps h (body := fun s => if s.u.c.inui then .stop (uiret s) else .trap .uiretState 0 0)
    (by simp only [unpoll_u, hu]; rfl) (fun _ => Cause.noConfusion)

/-! ### WAITI (R137) -/

theorem uiPending_iff (u : Unit) : uiPending u = true ↔ u.c.uipend &&& u.c.uimask ≠ 0 := by simp [uiPending]

theorem does_waiti_pending {s : State} (h : CanIssue s []) (hp : s.u.c.uipend &&& s.u.c.uimask ≠ 0) :
    Does .waiti s (fun x => OnlyAdvances s x ∧ x.u.poll = true) := by
  have hb : tryWaiti (unpoll s) = .done (asPoll (unpoll s)) :=
    if_pos ((uiPending_iff _).2 (by rw [unpoll_u]; exact hp))
  refine ⟨_, sqWord_issue h tryWaiti, ?_⟩
  rw [hb]
  exact polls_retireAs (onlyUnit_unpoll s) (running_unpoll h) (by rw [unpoll_u]) (governed_unpoll s)

theorem does_waitiWake {s : State} (h : issuing s.u = true) (hw : s.u.wait = some .waiti)
    (hp : s.u.c.uipend &&& s.u.c.uimask ≠ 0) :
    Does .waitiWake s (fun x => OnlyAdvances s x ∧ x.u.poll = true) := by
  have hpend := (uiPending_iff s.u).2 hp
  have hb : tryWaiti s = .done (asPoll s) := if_pos hpend
  refine ⟨finish s (tryWaiti s), congrArg _ (if_pos (by simp [h, hw, hpend])), ?_⟩
  rw [hb]
  exact polls_retireAs (OnlyUnit.refl s) (issuing_running h) rfl (show governed s = _ from rfl)

theorem does_waiti_waits {s : State} (h : CanIssue s []) (hp : ¬ s.u.c.uipend &&& s.u.c.uimask ≠ 0) :
    Does .waiti s (fun x => OnlyUnit s x ∧ { x.u with poll := s.u.poll } = { s.u with wait := some .waiti }) := by
  have hb : tryWaiti (unpoll s) = .hold .waiti (unpoll s) :=
    if_neg (fun hq => hp (by have := (uiPending_iff _).1 hq; rwa [unpoll_u] at this))
  let v := (unpoll s).putUnit (unpoll s).cur { (unpoll s).u with wait := some .waiti }
  have hv : v.u = { (unpoll s).u with wait := some .waiti } := State.u_putUnit_cur (unpoll s) _
  have hf : finish (unpoll s) (.hold .waiti (unpoll s)) = v := finish_hold (Bool.and_false _)
  refine ⟨v, ?_, onlyUnit_unpoll_putUnit s _, ?_⟩
  · rw [← hf, ← hb]; exact sqWord_issue h tryWaiti
  · rw [hv, unpoll_u]

/-! ### ERET at level S (R430) -/

/-- A faulted unit after firmware has resumed it: where its frame says, with the clause of its frame. -/
theorem resumeFrame_faulted {u : Unit} (h : u.st = .faulted) :
    (resumeFrame u).st = .running ∧ (resumeFrame u).stopMask = 0 ∧
    (resumeFrame u).r = { u.r with pc := tget u.c.frame 1 0 &&& ~~~(3 : Word)
                                   clsPred := (tget u.c.frame 3 0).getLsbD 4
                                   clsCount := BitVec.ofNat 4 (tget u.c.frame 3 0).toNat } ∧
    { resumeFrame u with st := u.st, stopMask := u.stopMask, wait := u.wait, stash := u.stash, r := u.r } = u := by
  rw [resumeFrame, if_pos h]
  refine ⟨rfl, rfl, ?_, rfl⟩
  simp only [bitAt_eq_getLsbD, frameReg]

theorem does_eret_resumes {s : State} (h : CanIssue s []) (hs : s.u.sup = true) {k : Nat} {rest : List Nat}
    (hf : s.firm.frames = k :: rest) (hk : k ≠ s.cur) :
    Does .eret s (fun x => x.firm.frames = rest ∧ x.unit k = resumeFrame (s.unit k) ∧ Advanced s x ∧
      ∀ j, j ≠ k → j ≠ s.cur → x.unit j = s.unit j) := by
  let t : State := { (unpoll s).putUnit k (resumeFrame (s.unit k)) with firm := { s.firm with frames := rest } }
  have hother : ∀ j, j ≠ s.cur → (unpoll s).unit j = s.unit j := (onlyUnit_unpoll s).2
  have hb : eretS (unpoll s) = t := by
    rw [eretS, show (unpoll s).firm.frames = k :: rest from hf]
    simp only [State.onUnit_eq, hother k hk]
    rfl
  have htj : ∀ j, t.unit j = if j = k then resumeFrame (s.unit k) else (unpoll s).unit j :=
    fun j => State.unit_putUnit (unpoll s) k j _
  have htu : t.u = { s.u with poll := false } := by
    rw [← unpoll_u]; exact (htj s.cur).trans (if_neg hk.symm)
  have hrun : t.u.st = .running := by rw [htu]; exact issuing_running (issuing_of_canIssue h)
  have hx : exec .eret s = .next (retireAs (governed (unpoll s)) t) := by
    rw [← hb]
    refine (sqWord_issue h (fun s => if s.u.sup then .done (eretS s) else .trap .privileged 0 0)).trans ?_
    rw [if_pos (by rw [unpoll_u]; exact hs)]; rfl
  have hxj : ∀ j, j ≠ s.cur → (retireAs (governed (unpoll s)) t).unit j = t.unit j := fun j hj => by
    rw [retireAs_eq hrun]; exact (State.unit_putUnit t s.cur j _).trans (if_neg hj)
  refine ⟨_, hx, ?_, ?_, ?_, ?_⟩
  · rw [retireAs_eq hrun]; rfl
  · rw [hxj k hk, htj k, if_pos rfl]
  · exact (advanced_retireAs hrun (by rw [htu]) (by rw [htu]; rfl) (governed_unpoll s)).1
  · intro j hjk hjs
    rw [hxj j hjs, htj j, if_neg hjk, hother j hjs]

/-! ### The entry and the return of a user interrupt (R135, R136, R428) -/

theorem does_userInterruptEntry {s : State} (ht : uiTakeable s.u = true) :
    Does .userInterruptEntry s (fun x => OnlyUnit s x ∧ x.u = takeUi s.u) :=
  ⟨s.onU takeUi, congrArg _ (if_pos ht), onlyUnit_putUnit s _, State.u_putUnit_cur s _⟩

theorem uiTakeable_of {u : Unit} (hl : live u = true) (hh : u.halted = false) (hp : u.c.uipend &&& u.c.uimask ≠ 0)
    (hi : u.c.inui = false) (hc : u.r.clsCount = 0) (hu : u.c.uihandler ≠ 0) (hb : u.c.coursed = false ∨ u.poll = true)
    (hw : ∀ w, u.wait = some w → interruptible w = true) : uiTakeable u = true := by
  have hat : (!u.c.coursed || u.poll) = true := by rcases hb with hb | hb <;> simp [hb]
  cases hwt : u.wait with
  | none => simp [uiTakeable, hl, hh, (uiPending_iff u).2 hp, hi, hc, hat, hwt]; exact hu
  | some w => simp [uiTakeable, hl, hh, (uiPending_iff u).2 hp, hi, hc, hat, hwt, hw w hwt]; exact hu

/-- The acting unit as its UIRET comes to the return: its clause has counted down. -/
def returning (s : State) : Unit :=
  { used s with poll := false, wait := none, r := clsDown (s.u.r.clsCount != 0) s.u.r }

theorem clsDown_banks (gov : Bool) (r : Regs) :
    (swapBanks (clsDown gov r)).g = (swapBanks r).g ∧ (clsDown gov r).goff = r.goff := by
  cases gov <;> exact ⟨rfl, rfl⟩

/-- The clause after the word at the PC has completed (R114). -/
theorem clsDown_clsCount (r : Regs) : (clsDown (r.clsCount != 0) r).clsCount = clsAfter r := by
  simp only [clsDown, clsAfter]
  split <;> simp_all

/-- UIRET in a handler: the acting unit returns, and its issue is counted. -/
theorem does_uiret {s : State} (h : CanIssue s []) (hi : s.u.c.inui = true) :
    Does .uiret s (fun x => OnlyUnit s x ∧
      x.u = { returnUi (returning s) with ctr := issueCounted s.u }) := by
  have hx : uiret (unpoll s) = (unpoll s).putUnit s.cur
      { returnUi (returning s) with ctr := issueCounted s.u } := by
    rw [uiret_eq (running_unpoll h), unpoll_u, governed_unpoll]; rfl
  refine ⟨uiret (unpoll s), ?_, ?_⟩
  · refine (sqWord_issue h (fun s => if s.u.c.inui then .stop (uiret s) else .trap .uiretState 0 0)).trans ?_
    rw [if_pos (by rw [unpoll_u]; exact hi)]; rfl
  · rw [hx]; exact ⟨onlyUnit_unpoll_putUnit s _, State.u_putUnit_cur (unpoll s) _⟩

/-- Settles O11: each control word by its own lemma, interrupts by what entry and return make of the acting unit. -/
theorem controlWordsAndInterrupts : Obligations.ControlWordsAndInterrupts := by
  refine ⟨fun s imm h => ⟨does_nop h, does_uipoll h, does_trap imm h, does_eret_user h, ?_, does_uiret_outside h,
    does_waiti_pending h, does_waiti_waits h⟩, fun s => ⟨?_, ?_, ?_, does_waitiWake⟩⟩
  · intro hs k rest hf hk hst
    obtain ⟨x, hx, hfr, hxk, hadv, hother⟩ := does_eret_resumes h hs hf hk
    exact ⟨x, hx, hfr, hxk ▸ resumeFrame_faulted hst, hadv, hother⟩
  · intro hl hh hp hi hc hu hb hw
    obtain ⟨x, hx, ho, hxu⟩ := does_userInterruptEntry (uiTakeable_of hl hh hp hi hc hu hb hw)
    refine ⟨x, hx, ho, ?_, ?_, gOf_swapped ?_ ?_, ?_⟩ <;> (rw [hxu]; rfl)
  · intro h hi hf
    obtain ⟨x, hx, ho, hxu⟩ := does_uiret h hi
    rw [returnUi_plain (u := returning s) hf] at hxu
    refine ⟨x, hx, ho, by rw [hxu]; rfl, by rw [hxu]; rfl, gOf_swapped ?_ ?_, ?_, by rw [hxu]; rfl, by rw [hxu],
      by rw [hxu]; rfl⟩ <;> rw [hxu]
    · exact (clsDown_banks _ s.u.r).1
    · exact (clsDown_banks _ s.u.r).2
    · exact clsDown_clsCount s.u.r
  · intro h hi hf
    obtain ⟨x, hx, ho, hxu⟩ := does_uiret h hi
    rw [returnUi_reflected (u := returning s) hf] at hxu
    refine ⟨x, hx, ho, by rw [hxu], by rw [hxu]; rfl, gOf_swapped ?_ ?_, ?_, ?_, ?_, by rw [hxu]⟩ <;> rw [hxu]
    · exact (clsDown_banks _ s.u.r).1
    · exact (clsDown_banks _ s.u.r).2
    · exact BitVec.toNat_ofNat _ _
    · exact bitAt_eq_getLsbD _ _
    · show tget (tset _ 0 (_ &&& ~~~reflectedBit)) 0 0 &&& reflectedBit = 0
      rw [tget_tset_same, BitVec.and_assoc, BitVec.and_comm (~~~_), BitVec.and_not_self]
      exact BitVec.and_zero

/-! ### A misaligned address without a route (R109) -/

/-- A VF whose addresses are a range of pod kind, to an endpoint that has no route. -/
def podVf : Vf :=
  { blankVf with
    ranges := [{ base := 0, limit := 0x10000, offset := 0, world := 0, kind := 2, path := 0, pkg := 1,
                 vfn := 0, key := 0 }] }

/-- A running unit of that VF whose heap is page 0, with the odd address 1 in G1. -/
def oddUnit : Unit :=
  { blankUnit with
    st := .running, restored := true, r := { blankRegs with g := [(1, 1)] }, c := { blankCsrs with heapl := 1 } }

/-- That unit alone, on the reset state. -/
def unroutedState : State := { State.reset with units := [(0, oddUnit)], vfs := [(0, podVf)] }

/-- A load of two bytes at G1: ENDPOINT_UNREACHABLE (0x72) comes before the misalignment. -/
theorem unrouted_misaligned_load {x : State} (hx : exec (.ldu 1 1 1 0) unroutedState = .next x) :
    frameReg x.u 0 = 0x1772 := by
  have h : (match exec (.ldu 1 1 1 0) unroutedState with
    | .next t => frameReg t.u 0 == 0x1772
    | _ => false) = true := by decide +kernel
  rw [hx] at h
  exact eq_of_beq h

/-- Refutes O13: a misaligned load in a range of pod kind without a route raises ENDPOINT_UNREACHABLE, which the
priority of R109 puts above DATA_MISALIGNED. -/
theorem not_accessTrapsAndAtomics : ¬ Obligations.AccessTrapsAndAtomics := by
  rintro ⟨hload, -⟩
  have hissue : ∀ rs ∈ [[1, 1], [(1 : BitVec 6)]], CanIssue unroutedState rs := by unfold CanIssue; decide
  obtain ⟨hmis, -⟩ := hload unroutedState 1 1 1 0 (hissue _ (by simp)) (hissue _ (by simp)) rfl
  obtain ⟨⟨x, hx, ⟨-, -, hframe, -⟩, -⟩, -⟩ := hmis (by decide) (by decide)
  have hmisaligned : frameReg x.u 0 = 0x1110 := hframe
  exact absurd (hmisaligned.symm.trans (unrouted_misaligned_load hx)) (by decide)

/-! ### Every instruction answers a next state -/

/-- An answer that is a next state. -/
def GoesOn (r : Res) : Prop := ∃ t, r = .next t
@[simp] theorem goesOn_next (t : State) : GoesOn (.next t) := ⟨t, rfl⟩

theorem goesOn_ite {p : Prop} [Decidable p] {x y : Res} (hx : GoesOn x) (hy : GoesOn y) :
    GoesOn (if p then x else y) := by
  split <;> assumption

@[simp] theorem goesOn_happens (g : Bool) (s' s : State) : GoesOn (happens g s' s) := goesOn_next _

theorem goesOn_sqWord (rs : List (BitVec 6)) (body : State → SqRes) (s : State) : GoesOn (sqWord rs body s) :=
  goesOn_ite (goesOn_next _) (goesOn_ite (goesOn_next _) (goesOn_ite (goesOn_next _) (goesOn_next _)))

theorem goesOn_completes (s : State) (mine : Wait → Bool) (f : Wait → State → SqRes) : GoesOn (completes s mine f) := by
  unfold completes
  split
  · exact goesOn_next _
  · exact goesOn_happens _ _ _

theorem goesOn_command (n : CmdNeeds) (h : IsuneHdr) (body : State → CmdAns) (s : State) :
    GoesOn (command n h body s) := by
  refine goesOn_ite (goesOn_next _) ?_
  split
  · exact goesOn_next _
  · split <;> exact goesOn_next _

theorem goesOn_linkWord (ready : Link → Bool) (body : State → State) (s : State) : GoesOn (linkWord ready body s) :=
  goesOn_ite (goesOn_next _) (goesOn_next _)

theorem goesOn_receive (op port : Nat) (d t : BitVec 12) (s : State) : GoesOn (receive op port d t s) :=
  goesOn_linkWord _ _ _

theorem goesOn_onTarget (k : PacketKind) (need : KeyNeed) (p : Packet) (act : KeyTarget → State → State) (s : State) :
    GoesOn (onTarget k need p act s) := by
  refine goesOn_ite (goesOn_next _) ?_
  split <;> exact goesOn_next _
@[simp] theorem goesOn_onQp (qp : Nat) (act : State → State) (s : State) : GoesOn (onQp qp act s) := by
  unfold onQp
  split <;> exact goesOn_next _

theorem goesOn_aluWord (f : Word → Word → Word) (d a b : BitVec 6) (s : State) : GoesOn (aluWord f d a b s) :=
  goesOn_sqWord _ _ _

theorem goesOn_aluUnary (f : Word → Word) (d a : BitVec 6) (s : State) : GoesOn (aluUnary f d a s) :=
  goesOn_sqWord _ _ _

theorem goesOn_aluImm (f : Word → Word → Word) (d a : BitVec 6) (imm : BitVec 13) (s : State) :
    GoesOn (aluImm f d a imm s) := goesOn_sqWord _ _ _

theorem goesOn_predWord (f : Bool → Bool → Bool) (pd pa pb : BitVec 4) (s : State) : GoesOn (predWord f pd pa pb s) :=
  goesOn_sqWord _ _ _

theorem goesOn_csrReadWord (d : BitVec 6) (n : BitVec 12) (s : State) : GoesOn (csrReadWord d n s) :=
  goesOn_sqWord _ _ _

theorem goesOn_csrModify (f : Word → Word → Word) (d : BitVec 6) (csr : BitVec 12) (a : BitVec 6) (s : State) :
    GoesOn (csrModify f d csr a s) := goesOn_sqWord _ _ _

theorem goesOn_amoWord (o : Sys2Proof.Ord) (aop : Nat) (d a b : BitVec 6) (sc : Scope) (s : State) :
    GoesOn (amoWord o aop d a b sc s) :=
  goesOn_sqWord _ _ _

theorem goesOn_ramoWord (aop : Nat) (d a b : BitVec 6) (sc : Scope) (s : State) : GoesOn (ramoWord aop d a b sc s) :=
  goesOn_sqWord _ _ _

/-- By the shape of each instruction's meaning: a state, or what one of the shared forms answers. -/
theorem goesOn_exec (i : Instr) (s : State) : GoesOn (exec i s) := by
  unfold exec
  cases i with
  | ill | vadd | vsub | vmul | vfma | vmin | vmax | vabs | vneg | vand | vor | vxor | vshl | vshr | vsar | vsel
  | vcmp | vaddk | vmulk | vfmak | vmink | vmaxk | vfill | vsfuExp | vsfuExp2 | vsfuLog | vsfuLog2 | vsfuRcp
  | vsfuRsqrt | vsfuSqrt | vsfuTanh | vsfuSigm | vsfuSin | vsfuCos | vsfuErf | vcvt | vqnt | vdqnt | vsrnd
  | vrsum | vrmax | vrmin | vramax | vrssq | vargmx | vscan | vmov | viota | vgath | vscat | vbcast | vrev
  | vilv | vdilv | vcomb | vgen | shapeN | shapeM | nest | vtok | vwtok | vnop | mnop | mma | mlatch | mswap
  | mgath | mzero | mdrain | mdrainrq | mrsum | mcsum | mwscl | mtok | mwtok | mxlatch | tkInit | tkFeed
  | tkEmit | tkSample | tkReset | xpConf | xpTile | ifBook | ifRun | ifReset | slKey | slIv | slEnc | slDec
  | slFin | scConf | scRun | scHist | scCompact | scCarry | rlDesc | rlMove | rlFlush | emergencySample
  | markerReceive | scrubError | isuneUnknownOpcode | smbusPcapWrite | smbusRegisterWrite | reservedWord
  | coreCycle | powerLoss => exact goesOn_next _
  | add | sub | mul | mulhs | mulhu | divs | divu | rems | remu | and | or | xor | andn | shl | shr | sar | rol
  | mins | minu | maxs | maxu => exact goesOn_aluWord _ _ _ _ _
  | clz | ctz | popc | bswap | sextb | sexth | sextw => exact goesOn_aluUnary _ _ _ _
  | addi | andi | ori | xori | shli | shri | sari | muli => exact goesOn_aluImm _ _ _ _ _
  | movi | movk | cmp | cmpi | br | call | jr | callr | ret | brstg | brcl | pcl | ldu | lds | st | ldm | stm
  | rld | rst | nop | trap | eret | uiret | waiti | halt | fence | qfence | phase | tide | keyst | uipoll
  | cancel | csrw | vrun | mrun | sopen | sclose | swait | crun | mtokw | vtokw | sset | sget | vkset | gnset
  | gnsetFaddr | gnget | gnpeek | ntset | binit | barr | bwait | btest | cwaitc | cread | lrpatch | lrarm
  | lrstat | lease | lrel | lstat | lwait | hwait | hset | htest | pgreq | pgstat | nqpop | mclr | mset | mpop
  | mfirst | mand | cstart | cend | cwait | copyStart | copyStatusRead => exact goesOn_sqWord _ _ _
  | pand | por | pxor | pandn | pmov | pnot | pset => exact goesOn_predWord _ _ _ _ _
  | amoLd | amoSt | amoSwap | amoCas | amoAdd | amoAnd | amoOr | amoXor | amoMins | amoMinu | amoMaxs | amoMaxu
  | amoFadd => exact goesOn_amoWord _ _ _ _ _ _ _
  | ramoLd | ramoSt | ramoSwap | ramoCas | ramoAdd | ramoAnd | ramoOr | ramoXor | ramoMins | ramoMinu
  | ramoMaxs | ramoMaxu | ramoFadd => exact goesOn_ramoWord _ _ _ _ _ _
  | csrr | tidelRead | counterLowRead => exact goesOn_csrReadWord _ _ _
  | csrs | csrc => exact goesOn_csrModify _ _ _ _ _
  | userInterruptEntry | waitiWake | loadDataReturn | courseSlip | courseCcOverflow | streamAccess
  | segmentSaveComplete | segmentRestoreComplete | loopBufferExit | leaseAging | corbelWarmTimeout
  | thermalTrip | copyTakeUp | readyQueueAging | sliceEnd | preemptionComplete | asyncSlot | rsigRelease
  | linkFailed | replaySlot | alarmSlot | tideExchange | elasticRecentre | tideLost | machineCheck
  | teardownReconcile | quarantineEnd | powerOn | hbmTrained | hostLinkUp | bringUpReady | scheduledSlot =>
    exact goesOn_happens _ _ _
  | dispatchQueueSpace | courseStart | courseEndComplete | cwaitComplete | swaitComplete | vtokwComplete
  | mtokwComplete | ntsetComplete | freqTableLoaded | crunAppend | lwaitComplete | lrelComplete | hwaitComplete
  | cwaitcComplete | barrArrival | bwaitComplete | pgreqPost | phaseDepart | fenceComplete | qfenceComplete
  | remoteSend | keystoneWrite => exact goesOn_completes _ _ _
  | launchPoolWrite | jobStart | jobCancel | migratePage | migratePageRefuse | deviceInfo | attest
  | measureRead | vfCreate | vfDestroy | partitionAssign | regionMap | rangeSet | policyInstall | scopepolSet
  | keySlotLoad | counterRead | counterSessionOpen | counterSessionClose | counterSessionExport
  | counterSessionImport | traceRead | traceSessionOpen | traceSessionClose | traceSessionExport
  | traceSessionImport | podJoin | tideRoot | chordPlanLoad | scheduleLoad | detourLoad | keystoneConf | reset =>
    exact goesOn_command _ _ _ _
  | hostRdmaWrite | hostRdmaRead | hostRdmaAtomic => exact goesOn_onQp _ _ _
  | asyncRead | asyncWrite | asyncHandle => exact goesOn_onTarget _ _ _ _ _
  | linkAt | linkSend | linkFwd | linkMark | linkKey | linkSlack | linkEnd | linkSetdt | linkTune =>
    exact goesOn_linkWord _ _ _
  | linkRecv | linkRedw | linkReds => exact goesOn_receive _ _ _ _ _
  | asyncAtomic | asyncReduce =>
    simp only [execAsyncAtomic, execAsyncReduce]
    exact goesOn_onTarget _ _ _ _ _
  | holdCycle | activationAttach | activationStart | streamGateGrant | streamAccessReturn | activationFinish
  | streamClose | veEntryStart | routerDispatch | veEntryFinish | vtokAdd | vwtokComplete | meEntryStart
  | meEntryFinish | mtokAdd | mwtokComplete | leaseQueueGrant | corbelWakeEnd | corbelCommandEnd
  | copyPrologueClaim | copyComplete | unitPlacement | gangPlacement | unitDone | migrationCopyEnd
  | migrationTimeout | retryResend | hostSend | asyncReply | asyncNack | asyncRetry | remoteReplyTimeout
  | laneRelock | laneRelockTimeout | routeSwap | faultFrameTaken | keystoneHeaderWrite | rollbackRestore
  | rollbackResume | debugStop | vfTeardownComplete | copyMove =>
    -- Each of these looks its subject up; found or not, a next state is the answer.
    simp only [execHoldCycle, execActivationAttach, execActivationStart, execStreamGateGrant,
      execStreamAccessReturn, execActivationFinish, execStreamClose, execVeEntryStart, execRouterDispatch,
      execVeEntryFinish, execVtokAdd, execVwtokComplete, execMeEntryStart, execMeEntryFinish, execMtokAdd,
      execMwtokComplete, execLeaseQueueGrant, execCorbelWakeEnd, execCorbelCommandEnd, execCopyPrologueClaim,
      execCopyComplete, execUnitPlacement, execGangPlacement, execUnitDone, execMigrationCopyEnd,
      execMigrationTimeout, execRetryResend, execHostSend, execAsyncReply, execAsyncNack, execAsyncRetry,
      execRemoteReplyTimeout, execLaneRelock, execLaneRelockTimeout, execRouteSwap, execFaultFrameTaken,
      execKeystoneHeaderWrite, execRollbackRestore, execRollbackResume, execDebugStop, execVfTeardownComplete,
      execCopyMove]
    repeat' split
    all_goals simp only [goesOn_next, goesOn_happens, goesOn_onQp]

/-- Settles O59: the step is exec of an instruction, or stays. -/
theorem everyStepGoesOn : Obligations.EveryStepGoesOn := by
  intro s
  unfold SafeStep step
  split
  · exact goesOn_exec _ _
  · exact goesOn_next _

/-! ### The next turn (log 1) -/

theorem nextTurn_now {s : State} {t : Turn} {ts : List Turn} (ha : s.agenda = t :: ts)
    (h : endsCycle t = true ∨ ts.takeWhile (!endsCycle ·) = []) : nextTurn s = some (t, ts) := by
  rw [nextTurn, ha]
  have hc : (endsCycle t || (ts.takeWhile (!endsCycle ·)).isEmpty) = true := by
    rcases h with h | h <;> simp [h]
  simp only [hc, if_true, List.erase_cons_head]

theorem goesBefore_nil (xs : List Claim) : goesBefore xs [] = false := by simp [goesBefore]

/-- A turn without a claim lets no other go before it. -/
theorem ahead_unclaimed (s : State) (x : Turn) (ts : List Turn) : ahead s (x, []) ts = (x, []) := by
  induction ts with
  | nil => rfl
  | cons t ts ih => simp only [ahead, goesBefore_nil, Bool.false_eq_true, if_false, ih]

theorem firstFault_agentless {s : State} {t : Turn} (h : turnAgent s t = none) (ts : List Turn) :
    firstFault s t ts = t := by
  rw [firstFault, h]

theorem firstFault_faultless {s : State} {t : Turn} (h : ∀ v r, turnAgent s t = some (v, r) → stops s v t = false)
    (ts : List Turn) : firstFault s t ts = t := by
  cases ha : turnAgent s t with
  | none => exact firstFault_agentless ha ts
  | some a =>
    obtain ⟨v, r⟩ := a
    simp only [firstFault, ha, h v r ha, Bool.not_false, Bool.or_true, if_true]

theorem nextTurn_first {s : State} {x : Turn} {ts : List Turn} (ha : s.agenda = x :: ts)
    (hc : turnClaims { s with agenda := [] } x = []) (hg : turnAgent { s with agenda := [] } x = none) :
    nextTurn s = some (x, ts) := by
  rw [nextTurn, ha]
  simp only [hc, ahead_unclaimed, firstFault_agentless hg, ite_self, List.erase_cons_head]

theorem nextTurn_second {s : State} {x y : Turn} (ha : s.agenda = [x, y]) (hne : x ≠ y) (hx : endsCycle x = false)
    (hy : endsCycle y = false)
    (hb : goesBefore (turnClaims { s with agenda := [] } y) (turnClaims { s with agenda := [] } x) = true)
    (hf : ∀ v r, turnAgent { s with agenda := [] } y = some (v, r) → stops { s with agenda := [] } v y = false) :
    nextTurn s = some (y, [x]) := by
  rw [nextTurn, ha]
  have hnow : [y].takeWhile (!endsCycle ·) = [y] := by simp [hy]
  have herase : [x, y].erase y = [x] := by
    rw [List.erase_cons_tail (by simpa using hne), List.erase_cons_head]
  simp only [hnow, hx, ahead, hb, if_true, firstFault_faultless hf, Bool.false_or, List.isEmpty_cons,
    Bool.false_eq_true, if_false, herase]

/-! ### The step at a turn -/

theorem step_performs {s t : State} {i : Instr} (h : nextInstr s = (t, some i)) : step s = exec i t := by
  rw [step, h]

theorem step_stays {s t : State} (h : nextInstr s = (t, none)) : step s = .next t := by
  rw [step, h]

theorem step_of_turn {s s' : State} {t : Turn} {ts : List Turn} {i : Instr} (h : nextTurn s = some (t, ts))
    (hi : turnInstr { s with agenda := ts } t = (s', some i)) : step s = exec i s' :=
  step_performs (by rw [nextInstr, h]; exact hi)

theorem nextInstr_idle {s : State} (h : s.agenda = []) : nextInstr s = idleTurn s := by
  simp only [nextInstr, nextTurn, h]

theorem idleTurn_sq {s : State} (hi : issuing s.u = true) (hu : s.u.sup = false)
    (hp : ∀ n, n < 64 → n ≠ 0 → s.u.pend.contains (pendKey s.u n) = false) : idleTurn s = sqTurn s := by
  have hreg : pendingReg s.u = none := by
    rw [pendingReg, List.find?_eq_none]
    intro n hn
    by_cases h0 : n = 0
    · simp [h0]
    · simp only [hp n (List.mem_range.1 hn) h0, Bool.and_false, Bool.false_eq_true, not_false_eq_true]
  simp only [idleTurn, hi, hu, hreg, Bool.not_true, Bool.or_self, Bool.false_eq_true, if_false]

/-- The turn of a unit's sequencer, named by the agenda or with no turn named. -/
theorem nextInstr_sq {s : State} {ts : List Turn} {uid : Nat}
    (hat : nextTurn s = some (.sq uid, ts) ∨
      (s.agenda = [] ∧ ts = [] ∧ s.cur = uid ∧
        ∀ n, n < 64 → n ≠ 0 → (s.unit uid).pend.contains (pendKey (s.unit uid) n) = false))
    (hi : issuing (s.unit uid) = true) (hu : (s.unit uid).sup = false) :
    nextInstr s = sqTurn { s with agenda := ts, cur := uid } := by
  rcases hat with h | ⟨ha, rfl, rfl, hp⟩
  · rw [nextInstr, h]; rfl
  · rw [show { s with agenda := [], cur := s.cur } = s by rw [← ha], nextInstr_idle ha]
    exact idleTurn_sq hi hu hp

/-- A step that meets a word runs what it decodes to, a reserved word as such (R37). -/
theorem runs_decoded {s t : State} {k : CodeKind} {w : Code} (h : step s = exec (instrOf k w) t) :
    (∀ i, decode k w = .ok i → step s = exec i t) ∧ ∀ e, decode k w = .error e → step s = exec (.reservedWord k w) t :=
  ⟨fun i hd => h.trans (by rw [instrOf, hd]), fun e hd => h.trans (by rw [instrOf, hd])⟩

/-! ### The turn of the sequencer (R34, R36, R109, R135) -/

theorem atBreak_iff {u : Unit} (hi : issuing u = true) (hw : u.wait = none) (hh : u.halted = false) :
    atBreak u = true ↔ u.r.pc ∈ u.dbg.breaks := by
  simp [atBreak, live_of_issuing hi, hw, hh]

section SequencerTurn

variable {s : State} (hi : issuing s.u = true) (hs : s.u.sup = false)

include hi hs

theorem sqTurn_interrupt (h : uiTakeable s.u = true) : sqTurn s = (s, some .userInterruptEntry) := by
  simp only [sqTurn, hi, hs, h, Bool.not_true, Bool.or_self, Bool.false_eq_true, if_false, if_true]

variable (hui : uiTakeable s.u = false)

include hui

theorem sqTurn_waiting {e : Wait} (h : s.u.wait = some e) : sqTurn s = (s, some (waitEvent e)) := by
  simp only [sqTurn, hi, hs, hui, h, Bool.not_true, Bool.or_self, Bool.false_eq_true, if_false]

variable (hw : s.u.wait = none)

include hw

theorem sqTurn_halted (h : s.u.halted = true) : sqTurn s = (s, some .unitDone) := by
  simp only [sqTurn, hi, hs, hui, hw, h, Bool.not_true, Bool.or_self, Bool.false_eq_true, if_false, if_true]

variable (hh : s.u.halted = false)

include hh

theorem sqTurn_stopped (h : s.u.r.pc ∈ s.u.dbg.breaks ∨ s.u.dbg.stopRequested = true) :
    sqTurn s = (s, some .debugStop) := by
  have hb : (atBreak s.u || s.u.dbg.stopRequested) = true := by rwa [Bool.or_eq_true, atBreak_iff hi hw hh]
  simp only [sqTurn, hi, hs, hui, hw, hh, hb, Bool.not_true, Bool.or_self, Bool.false_eq_true, if_false, if_true]

variable (hb : ¬ (s.u.r.pc ∈ s.u.dbg.breaks ∨ s.u.dbg.stopRequested = true))

include hb

theorem sqTurn_word {w : Code} (h : fetchWord s = .word w) : sqTurn s = (s, some (instrOf .scalar w)) := by
  rw [← atBreak_iff hi hw hh, ← Bool.or_eq_true] at hb
  simp only [sqTurn, hi, hs, hui, hw, hh, hb, h, Bool.not_true, Bool.or_self, Bool.false_eq_true, if_false]

theorem sqTurn_changed (h : fetchWord s = .changed) :
    sqTurn s = ((freeVal s).2, some (instrOf .scalar ((freeVal s).1.setWidth 32))) := by
  rw [← atBreak_iff hi hw hh, ← Bool.or_eq_true] at hb
  simp only [sqTurn, hi, hs, hui, hw, hh, hb, h, Bool.not_true, Bool.or_self, Bool.false_eq_true, if_false]

theorem sqTurn_cause {c : Cause} (h : fetchWord s = .cause c) : sqTurn s = (sqFault c s.u.r.pc 0 s, none) := by
  rw [← atBreak_iff hi hw hh, ← Bool.or_eq_true] at hb
  simp only [sqTurn, hi, hs, hui, hw, hh, hb, h, Bool.not_true, Bool.or_self, Bool.false_eq_true, if_false]

end SequencerTurn

/-! ### The fetch (R34, R352) -/

theorem fetchKey_eq_some {s : State} {uid k : Nat} (h : fetchKey s uid = some k) :
    fetchPlace s uid = .ok (.mem k) ∧ spoiledAt s k 4 = false := by
  unfold fetchKey at h
  split at h
  · rename_i k' hp
    split at h
    · cases h
    · rename_i hsp
      cases h
      exact ⟨hp, by simpa using hsp⟩
  · cases h

theorem fetchWord_key {s : State} {k : Nat} (h : fetchKey s s.cur = some k) :
    fetchWord s = if codeChanged s s.u.id.recNo k then .changed else .word (BitVec.ofNat 32 (memNat s.mem k 4)) := by
  obtain ⟨hp, hsp⟩ := fetchKey_eq_some h
  simp only [fetchWord, hp, hsp, Bool.false_eq_true, if_false]

theorem fetchWord_error {s : State} {c : Cause} (h : fetchPlace s s.cur = .error c) : fetchWord s = .cause c := by
  rw [fetchWord, h]

theorem fetchWord_spoiled {s : State} {k : Nat} (h : fetchPlace s s.cur = .ok (.mem k)) (hs : spoiledAt s k 4 = true) :
    fetchWord s = .cause .uncorrectable := by
  simp only [fetchWord, h, hs, if_true]

theorem fetchWord_far {s : State} {p v : Nat} {key : BitVec 32} {o : BitVec 56} {bs : List Byte}
    (h : fetchPlace s s.cur = .ok (.pod p v key o)) (hb : farBytes s s.u p v key 3 o 4 = .ok bs) :
    fetchWord s = .word (BitVec.ofNat 32 (leNat bs)) := by
  simp only [fetchWord, h, hb]

/-! ### The other agents -/

theorem turnInstr_column (s : State) (uid col : Nat) {w : Code}
    (h : (tget (s.unit uid).ve.cols col []).head?.map (·.code) = some w) :
    turnInstr s (.column uid col) = ({ s with cur := uid }, some (instrOf .vector w)) := by
  rw [turnInstr, columnWord, show State.u { s with cur := uid } = s.unit uid from rfl, h]; rfl

theorem routerInstr_eq {u : Unit} {r : VeRun} {w : Code} (hr : u.ve.run = some r) (hw : r.words[r.widx]? = some w) :
    routerInstr u = if bits w.toNat 29 3 < 6 then some .routerDispatch else some (instrOf .vector w) := by
  simp only [routerInstr, hr, hw]

theorem turnInstr_me (s : State) (uid : Nat) {m : MeRun} {w : Code} (hm : (s.unit uid).me.run = some m)
    (hw : m.words[m.widx]? = some w) :
    turnInstr s (.me uid) = ({ s with cur := uid }, some (instrOf .matrix w)) := by
  have h : meWord (s.unit uid) = some w := by rw [meWord, hm]; exact hw
  rw [turnInstr, show State.u { s with cur := uid } = s.unit uid from rfl, h]; rfl

theorem turnInstr_link (s : State) (port : Nat) {w : Code} (hr : (s.link port).running = true)
    (hw : (linkWords (s.link port))[(s.link port).widx]? = some w) :
    turnInstr s (.link port) = ({ s with port := port }, some (instrOf .link w)) := by
  have h : linkWordAt (s.link port) = some w := by rw [linkWordAt, if_pos hr, hw]
  rw [turnInstr, show State.link { s with port := port } port = s.link port from rfl, h]; rfl

/-- Settles O58: each clause is the turn's own lemma, or one of the agenda's order. -/
theorem stepRunsDecoded : Obligations.StepRunsDecoded := by
  intro s ts x y uid k col port v i w c r m e s0 s1 s2 u atSq brk
  refine ⟨?_, ?_, ?_, ?_, ?_, fun h => step_of_turn h rfl, fun ha => nextTurn_now ha (.inr rfl),
    fun ha => nextTurn_now ha (.inl rfl), fun ha => nextTurn_now ha (.inr rfl), fun ha _ => nextTurn_first ha,
    nextTurn_second, ?_⟩
  · intro hat hi hs
    have hnext := nextInstr_sq hat hi hs
    have hstep : ∀ {t : State} {j : Instr}, sqTurn s1 = (t, some j) → step s = exec j t :=
      fun ht => step_performs (hnext.trans ht)
    refine ⟨fun h => hstep (sqTurn_interrupt (s := s1) hi hs h),
      fun hui h => hstep (sqTurn_waiting (s := s1) hi hs hui h),
      fun hui hw h => hstep (sqTurn_halted (s := s1) hi hs hui hw h),
      fun hui hw hh h => hstep (sqTurn_stopped (s := s1) hi hs hui hw hh h), fun hui hw hh hb => ?_⟩
    have hword : ∀ {w : Code}, fetchWord s1 = .word w → step s = exec (instrOf .scalar w) s1 :=
      fun h => hstep (sqTurn_word (s := s1) hi hs hui hw hh hb h)
    have hcause : ∀ {c : Cause}, fetchWord s1 = .cause c → step s = .next (sqFault c u.r.pc 0 s1) :=
      fun h => step_stays (hnext.trans (sqTurn_cause (s := s1) hi hs hui hw hh hb h))
    refine ⟨fun hk hkw => ⟨fun hc => ?_, fun hc => ?_⟩, fun h => hcause (fetchWord_error (s := s1) h),
      fun h hsp => hcause (fetchWord_spoiled (s := s1) h hsp),
      fun p v key o bs h hbs => hword (fetchWord_far (s := s1) h hbs)⟩
    · have hf : fetchWord s1 = .word w := by
        rw [hkw]; exact (fetchWord_key (s := s1) hk).trans (if_neg (by rw [Bool.not_eq_true]; exact hc))
      exact (runs_decoded (hword hf)).imp_left (· i)
    · exact ⟨_, hstep (sqTurn_changed (s := s1) hi hs hui hw hh hb ((fetchWord_key (s := s1) hk).trans (if_pos hc)))⟩
  · intro h hw
    exact (runs_decoded (step_of_turn h (turnInstr_column { s with agenda := ts } uid col hw))).imp_left (· i)
  · intro h hr hw
    have ht : ∀ {j : Instr}, routerInstr u = some j → step s = exec j s1 := fun hj =>
      step_of_turn h (congrArg (Prod.mk s1) hj)
    rw [routerInstr_eq hr hw] at ht
    exact ⟨fun hb => ht (if_pos hb), fun hb => (runs_decoded (ht (if_neg (by omega)))).imp_left (· i)⟩
  · intro h hm hw
    exact (runs_decoded (step_of_turn h (turnInstr_me { s with agenda := ts } uid hm hw))).imp_left (· i)
  · intro h hr hw
    exact (runs_decoded (step_of_turn h (turnInstr_link { s with agenda := ts } port hr hw))).imp_left (· i)
  · intro ha h
    refine step_performs ((nextInstr_idle ha).trans (if_pos ?_))
    rcases h with h | h <;> simp [h]

/-! ### Work on behalf of a unit that leaves its engines alone -/

/-- The unit w is u but for its control registers, its counters and its requests to other packages. -/
def KeepsEngines (u w : Unit) : Prop :=
  ∃ c ctr remotes, w = { u with c := c, ctr := ctr, m := { u.m with remotes := remotes } }

/-- The same unit acts, and every unit keeps its engines. -/
def Aside (s t : State) : Prop := t.cur = s.cur ∧ ∀ k, KeepsEngines (s.unit k) (t.unit k)

theorem KeepsEngines.refl (u : Unit) : KeepsEngines u u := ⟨_, _, _, rfl⟩

theorem KeepsEngines.trans {u v w : Unit} (h : KeepsEngines u v) (h' : KeepsEngines v w) : KeepsEngines u w := by
  obtain ⟨_, _, _, rfl⟩ := h
  obtain ⟨_, _, _, rfl⟩ := h'
  exact ⟨_, _, _, rfl⟩

theorem Aside.trans {s t v : State} (h : Aside s t) (h' : Aside t v) : Aside s v :=
  ⟨h'.1.trans h.1, fun k => (h.2 k).trans (h'.2 k)⟩

theorem Aside.of_units {s t : State} (hc : t.cur = s.cur) (hu : t.units = s.units) : Aside s t :=
  ⟨hc, fun k => by rw [show t.unit k = s.unit k by rw [State.unit, State.unit, hu]]; exact KeepsEngines.refl _⟩

theorem Aside.refl (s : State) : Aside s s := .of_units rfl rfl

theorem Aside.putUnit {s : State} {k : Nat} {u : Unit} (h : KeepsEngines (s.unit k) u) : Aside s (s.putUnit k u) :=
  ⟨rfl, fun j => by
    rw [State.unit_putUnit]
    split
    · rename_i hj; rw [hj]; exact h
    · exact KeepsEngines.refl _⟩

theorem Aside.ite {s t v : State} {p : Prop} [Decidable p] (ht : Aside s t) (hv : Aside s v) :
    Aside s (if p then t else v) := by
  split <;> assumption

/-- The acting unit's engines. -/
theorem Aside.engines {s t : State} (h : Aside s t) : KeepsEngines s.u t.u := by
  have hk := h.2 s.cur
  rwa [State.u, State.u, h.1]

theorem aside_count (s : State) (k ev n : Nat) : Aside s (count s k ev n) := by
  rw [count_eq]
  split
  · exact .refl s
  · apply Aside.putUnit
    split
    · exact ⟨_, _, _, rfl⟩
    · exact .refl _

/-! #### Writes of the trace rings (R480 to R482) -/

theorem aside_tlbFill (s : State) (core vf : Nat) (va : Word) (t : Tr) : Aside s (tlbFill s core vf va t) := by
  simp only [tlbFill]
  split
  · exact .refl s
  · exact .of_units rfl rfl

theorem aside_hold {s t : State} {vf : Nat} {va : Word} {op : HeldOp} (h : Machine.hold s vf va op = some t) :
    Aside s t := by
  unfold Machine.hold at h
  split at h
  · cases h
  · split at h
    · split at h
      · cases h
      · cases h; exact .of_units rfl rfl
    · cases h

theorem aside_writeRun {s s' : State} {vf : Nat} {va : Word} {t : Tr} {bs : List Byte}
    (h : writeRun s vf va t bs = some s') : Aside s s' := by
  unfold writeRun writeGranule writeParts at h
  split at h
  · cases h; exact .refl s
  · split at h
    · exact aside_hold h
    · cases h; exact .of_units rfl rfl

/-- A request noted at its unit, in a state with the same units. -/
theorem aside_addRemote {s t : State} (hc : t.cur = s.cur) (hu : t.units = s.units) (k : Nat) (r : Remote) :
    Aside s (t.onUnit k fun u => { u with m := { u.m with remotes := u.m.remotes ++ [r] } }) :=
  (Aside.of_units hc hu).trans (.putUnit ⟨_, _, _, rfl⟩)

theorem toPort_units {s t : State} {port : Nat} {p : Pkt} (h : toPort s port p = some t) :
    t.cur = s.cur ∧ t.units = s.units := by
  simp only [toPort] at h
  split at h
  · cases h
  · cases h; exact ⟨rfl, rfl⟩

theorem aside_sendRemote (s : State) (k : Nat) (r : Remote) : Aside s (sendRemote s k r) := by
  unfold sendRemote
  refine Aside.trans ?_ (aside_count _ k 0x0701 1)
  refine .ite (aside_addRemote rfl rfl k _) (.ite (aside_addRemote rfl rfl k _) ?_)
  split
  · rename_i t ht
    obtain ⟨hc, hu⟩ := toPort_units ht
    exact aside_addRemote hc hu k _
  · exact aside_addRemote rfl rfl k _

theorem aside_engWrite {s t : State} {k : Nat} {a : Agent} {va : Word} {bs : List Byte}
    (h : engWrite s k a va bs = .ok t) : Aside s t := by
  simp only [engWrite] at h
  split at h
  · cases h
  · split at h
    · cases h; exact aside_sendRemote s k _
    · split at h
      · rename_i hw
        cases h
        exact (aside_writeRun hw).trans (aside_tlbFill _ _ _ _ _)
      · cases h

theorem aside_engWriteAll (k : Nat) (a : Agent) (n : Nat) (s : State) (va : Word) (bs : List Byte) :
    Aside s (engWriteAll k a n s va bs).1 := by
  induction n generalizing s va bs with
  | zero => exact .refl s
  | succ n ih =>
    simp only [engWriteAll]
    split
    · exact .refl s
    · split
      · rename_i hw
        exact (aside_engWrite hw).trans (ih _ _ _)
      · exact .refl s
      · exact .refl s

theorem aside_ringWrite (s : State) (k : Nat) (sp : SessionSpec) (bs : List Byte) : Aside s (ringWrite s k sp bs) := by
  simp only [ringWrite]
  split
  · exact .refl s
  · exact ((aside_engWriteAll _ _ _ _ _ _).trans (aside_engWriteAll _ _ _ _ _ _)).trans
      ((aside_engWriteAll _ _ _ _ _ _).trans (.of_units rfl rfl))

theorem aside_operatorCopy (s : State) (k cls : Nat) (bs : Nat → List Byte) : Aside s (operatorCopy s k cls bs) := by
  simp only [operatorCopy]
  split
  · split
    · exact .refl s
    · split <;> exact .of_units rfl rfl
  · exact .refl s

theorem aside_traceEntry (s : State) (k eng : Nat) (fin : Bool) (ord word : Nat) :
    Aside s (traceEntry s k eng fin ord word) := by
  simp only [traceEntry]
  split
  · exact .refl s
  · split
    · exact .refl s
    · exact ((aside_ringWrite _ _ _ _).trans (aside_operatorCopy _ _ _ _)).trans (aside_count _ _ _ _)

/-- A unit without a session leaves no trace. -/
theorem traceEntry_sessionless {s : State} {k : Nat} (h : (s.unit k).sess = none) (eng : Nat) (fin : Bool)
    (ord word : Nat) : traceEntry s k eng fin ord word = s := by
  rw [traceEntry, h]

/-! #### Reads of the course table (R140, R366) -/

theorem keepsEngines_tmap {f : Nat → Unit → Unit} (hf : ∀ k u, KeepsEngines u (f k u)) (t : Tab Unit) (k : Nat)
    (d : Unit) : KeepsEngines (tget t k d) (tget (tmap f t) k d) := by
  induction t with
  | nil => exact .refl d
  | cons e t ih =>
    obtain ⟨j, u⟩ := e
    by_cases h : j = k
    · simpa [tmap, tget, h] using hf k u
    · simpa [tmap, tget, h] using ih

theorem aside_notifyUnits (s : State) (vf : Nat) : Aside s (notifyUnits s vf) := by
  refine ⟨rfl, fun k => keepsEngines_tmap (f := fun _ u => if u.id.vf = vf && u.st != .done && u.st != .cancelled
    then setPend u 5 else u) (fun _ u => ?_) s.units k blankUnit⟩
  split
  · exact ⟨_, _, _, rfl⟩
  · exact .refl u

theorem aside_postNotif (s : State) (vf : Nat) (kind : BitVec 4) (page : BitVec 38) (cnt : Nat) :
    Aside s (postNotif s vf kind page cnt) := by
  simp only [postNotif]
  split
  · exact .of_units rfl rfl
  · split
    · exact (Aside.of_units rfl rfl).trans (aside_notifyUnits _ vf)
    · exact .of_units rfl rfl

theorem aside_countAccess (s : State) (vf : Nat) (va : Word) (t : Tr) (n : Nat) :
    Aside s (countAccess s vf va t n) := by
  simp only [countAccess]
  split
  · refine .ite (.refl s) (.ite ?_ (.of_units rfl rfl))
    exact (Aside.of_units rfl rfl).trans (aside_postNotif _ _ _ _ _)
  · exact .refl s

theorem aside_countRun (s : State) (k n : Nat) (va : Word) (m : Nat) : Aside s (countRun s k n va m) := by
  induction n generalizing s va m with
  | zero => exact .refl s
  | succ n ih =>
    refine Aside.ite (.refl s) (Aside.trans ?_ (ih _ _ _))
    split
    · exact .ite ((aside_countAccess _ _ _ _ _).trans (aside_tlbFill _ _ _ _ _)) (.refl s)
    · exact .refl s

theorem aside_flagAbsent (s : State) (va : Word) : Aside s (flagAbsent s va) := by
  unfold flagAbsent
  split
  · refine .ite (.refl s) (.putUnit ?_)
    dsimp only
    split
    · exact ⟨_, _, _, rfl⟩
    · split
      · exact ⟨_, _, _, rfl⟩
      · exact .refl _
  · exact .refl s

theorem aside_courseRead {s t : State} {off n : Nat} {bs : List Byte} (h : courseRead s off n = .ok (bs, t)) :
    Aside s t := by
  simp only [courseRead] at h
  split at h
  · cases h
  · cases h
    exact ((aside_flagAbsent _ _).trans (aside_flagAbsent _ _)).trans (aside_countRun _ _ _ _ _)

/-- A course entry taken moves the acting unit's course on, and leaves its registers and its engines alone. -/
theorem courseTake_keeps {s t : State} {eng : Nat} {due : Option Nat} (ha : s.u.course.active = true)
    (h : courseTake s eng = .ok (due, t)) :
    t.u.st = s.u.st ∧ t.u.r = s.u.r ∧ t.u.ve = s.u.ve ∧ t.u.ae = s.u.ae := by
  simp only [courseTake, ha, Bool.not_true, Bool.false_eq_true, if_false] at h
  split at h
  · cases h
  · split at h
    · cases h
    · rename_i v hv
      split at h
      · cases h
      · cases h
        obtain ⟨c, ctr, remotes, hu⟩ := (aside_courseRead hv).engines
        rw [State.onU_eq, State.u_putUnit_cur, hu]
        exact ⟨rfl, rfl, rfl, rfl⟩

theorem courseTake_idle {s : State} (h : s.u.course.active = false) (eng : Nat) :
    courseTake s eng = .ok (none, s) := by
  simp only [courseTake, h, Bool.not_false, if_true]

/-! ### The entries of the dispatch queues (R145, R190 to R192, R220) -/

/-- A unit with an entry more in the queue of its vector engine. -/
def withVe (e : VeEntry) (u : Unit) : Unit :=
  { u with ve := { u.ve with queue := u.ve.queue ++ [e], ord := u.ve.ord + 1 } }

/-- A unit with an entry more in the queue of its access engine. -/
def withAe (e : AeEntry) (u : Unit) : Unit := { u with ae := { u.ae with queue := u.ae.queue ++ [e] } }

theorem tryVe_taken {s t : State} {due : Option Nat} (e : VeEntry) (hroom : s.u.ve.queue.length < Config.queueCap)
    (h : courseTake s 1 = .ok (due, t)) : tryVe e s = .done (t.putUnit t.cur (withVe { e with due := due } t.u)) := by
  simp only [tryVe, dispatch, decide_eq_false (Nat.not_le.2 hroom), Bool.false_eq_true, if_false, h]
  rfl

theorem tryAe_taken {s t : State} {due : Option Nat} (e : AeEntry) (hroom : s.u.ae.queue.length < Config.queueCap)
    (h : courseTake s 0 = .ok (due, t)) : tryAe e s = .done (t.putUnit t.cur (withAe { e with due := due } t.u)) := by
  simp only [tryAe, dispatch, decide_eq_false (Nat.not_le.2 hroom), Bool.false_eq_true, if_false, h]
  rfl

theorem tryVe_refused {s : State} {c : Cause} {va : Word} (e : VeEntry) (hroom : s.u.ve.queue.length < Config.queueCap)
    (h : courseTake s 1 = .error (c, va)) : tryVe e s = .trap c va 0 := by
  simp only [tryVe, dispatch, decide_eq_false (Nat.not_le.2 hroom), Bool.false_eq_true, if_false, h]

theorem tryVe_full {s : State} (e : VeEntry) (hroom : ¬ s.u.ve.queue.length < Config.queueCap) :
    tryVe e s = .hold (.veSpace e) s := by
  simp only [tryVe, dispatch, decide_eq_true (Nat.not_lt.1 hroom), if_true]

/-- A dispatch word completes whose entry stands in the unit w, in a state that its course entry has left. -/
theorem entered_retireAs {s t : State} {w : Unit} (gov : Bool) (hst : w.st = .running) (hr : w.r = s.u.r) :
    (retireAs gov (t.putUnit t.cur w)).u = completed gov w ∧
    (retireAs gov (t.putUnit t.cur w)).u.r.pc = s.u.r.pc + 4 ∧ KeptRegs s (retireAs gov (t.putUnit t.cur w)) := by
  have hw : (t.putUnit t.cur w).u = w := State.u_putUnit_cur t w
  have hx : (retireAs gov (t.putUnit t.cur w)).u = completed gov w := by
    rw [u_retireAs (by rw [hw]; exact hst), hw]
  refine ⟨hx, ?_, ?_⟩
  · rw [hx, ← hr]; rfl
  · rw [KeptRegs, hx, ← hr]
    cases gov <;> rfl

/-- The entry of a vector block completes its word in a course. -/
theorem withVe_retireAs {s v t : State} {due : Option Nat} (e : VeEntry) (gov : Bool)
    (hv : { v.u with poll := s.u.poll } = s.u) (hst : s.u.st = .running)
    (ha : s.u.course.active = true) (h : courseTake v 1 = .ok (due, t)) :
    let x := retireAs gov (t.putUnit t.cur (withVe { e with due := due } t.u))
    x.u.ve = (withVe { e with due := due } s.u).ve ∧ x.u.course = t.u.course ∧ x.u.r.pc = s.u.r.pc + 4 ∧
    x.u.wait = none ∧ KeptRegs s x := by
  have hva : v.u.course.active = true := by rw [← hv] at ha; exact ha
  obtain ⟨h1, h2, h3, -⟩ := courseTake_keeps hva h
  have hvst : v.u.st = s.u.st := by rw [← hv]
  have hvr : v.u.r = s.u.r := by rw [← hv]
  have hvve : v.u.ve = s.u.ve := by rw [← hv]
  obtain ⟨hx, hpc, hkept⟩ := entered_retireAs (s := s) (t := t) (w := withVe { e with due := due } t.u) gov
    ((h1.trans hvst).trans hst) (h2.trans hvr)
  refine ⟨?_, by rw [hx]; rfl, hpc, by rw [hx]; rfl, hkept⟩
  rw [hx]
  show (withVe _ t.u).ve = _
  rw [withVe, withVe, h3, hvve]

/-- The entry of an activation completes its word in a course. -/
theorem withAe_retireAs {s t : State} {due : Option Nat} (e : AeEntry) (gov : Bool) (hst : s.u.st = .running)
    (ha : s.u.course.active = true) (h : courseTake s 0 = .ok (due, t)) :
    let x := retireAs gov (t.putUnit t.cur (withAe { e with due := due } t.u))
    x.u.ae = (withAe { e with due := due } s.u).ae ∧ x.u.course = t.u.course ∧ x.u.r.pc = s.u.r.pc + 4 ∧
    x.u.wait = none ∧ KeptRegs s x := by
  obtain ⟨h1, h2, -, h4⟩ := courseTake_keeps ha h
  obtain ⟨hx, hpc, hkept⟩ := entered_retireAs (s := s) (t := t) (w := withAe { e with due := due } t.u) gov
    (h1.trans hst) h2
  refine ⟨?_, by rw [hx]; rfl, hpc, by rw [hx]; rfl, hkept⟩
  rw [hx]
  show (withAe _ t.u).ae = _
  rw [withAe, withAe, h4]

/-! #### VKSET and VRUN -/

/-- A word that issues and whose body puts the unit w in the place of the acting one. -/
theorem sqWord_puts {s : State} {rs : List (BitVec 6)} {body : State → SqRes} {f : Unit → Unit} {w : Unit}
    (h : CanIssue s rs) (hb : body (unpoll s) = .done ((unpoll s).putUnit s.cur w)) (hst : w.st = s.u.st)
    (hr : w.r = s.u.r) (hi : issueCounted w = issueCounted s.u) (hu : back s w = f s.u) :
    ∃ x, sqWord rs body s = .next x ∧ Changes s x f := by
  have hw : ((unpoll s).putUnit s.cur w).u = w := State.u_putUnit_cur (unpoll s) w
  exact sqWord_changes h hb (onlyUnit_unpoll_putUnit s w) (by rw [hw]; exact hst) (by rw [hw]; exact hr)
    (by rw [hw]; exact hi) (by rw [hw]; exact hu)

theorem does_vkset {s : State} {a : BitVec 6} (kn : BitVec 4) (h : CanIssue s [a]) :
    Does (.vkset kn a) s (Changes s · (fun u => { u with
      ve := { u.ve with k := tset u.ve.k kn.toNat ((gOf s a).setWidth 32) } })) := by
  show ∃ t, execVkset kn a s = .next t ∧ _
  unfold execVkset
  refine sqWord_puts (w := { s.u with
    poll := false, ve := { s.u.ve with k := tset s.u.ve.k kn.toNat ((gOf s a).setWidth 32) } }) h ?_ rfl rfl rfl rfl
  simp only [gOf_unpoll, State.onU_eq, unpoll_u, unpoll_cur]

theorem blockCause_unpoll (s : State) (o : Nat) (off : Word) (n : Nat) :
    blockCause (unpoll s) o off n = if off.toNat + n ≤ (sectionOf s s.u o).2 / 4
      then codeCause (unpoll s) ((sectionOf s s.u o).1 + 4 * off.toNat) (4 * n) else some (.fetchBounds, 0) := by
  have hsec : sectionOf (unpoll s) (unpoll s).u o = sectionOf s s.u o := by rw [unpoll_u]; rfl
  by_cases h : off.toNat + n ≤ (sectionOf s s.u o).2 / 4
  · simp only [blockCause, hsec, if_neg (Nat.not_lt.2 h), if_pos h]
  · simp only [blockCause, hsec, if_pos (Nat.not_le.1 h), if_neg h]

theorem vrun_refused {s : State} {a : BitVec 6} {n1 : BitVec 8} {c : Cause} {va : Word} (h : CanIssue s [a])
    (hb : blockCause (unpoll s) 16 (gOf s a) (n1.toNat + 1) = some (c, va)) (hc : ∀ p, c ≠ .elsewhere p) :
    Does (.vrun a n1) s (Traps s · c va 0) := by
  show ∃ t, execVrun a n1 s = .next t ∧ _
  unfold execVrun
  refine sqWord_traps h ?_ hc
  simp only [gOf_unpoll, hb]

/-- VRUN of a block whose pages are resident comes to its dispatch. -/
theorem exec_vrun {s : State} {a : BitVec 6} {n1 : BitVec 8} (h : CanIssue s [a])
    (hb : blockCause (unpoll s) 16 (gOf s a) (n1.toNat + 1) = none) :
    exec (.vrun a n1) s =
      .next (finish (unpoll s) (tryVe (veEntry s (gOf s a).toNat (n1.toNat + 1)) (unpoll s))) := by
  have he : ∀ off n, veEntry (unpoll s) off n = veEntry s off n := fun off n => by simp only [veEntry, unpoll_u]
  show execVrun a n1 s = _
  unfold execVrun
  rw [sqWord_issue h]
  simp only [gOf_unpoll, hb, he]

/-! #### The end of a wait for a place in a queue -/

theorem exec_dispatchQueueSpace_ve {s : State} {e : VeEntry} (hi : issuing s.u = true)
    (hw : s.u.wait = some (.veSpace e)) : exec .dispatchQueueSpace s = .next (finish s (tryVe e s)) := by
  show execDispatchQueueSpace s = _
  simp only [execDispatchQueueSpace, completes, hw, happens, hi, Bool.and_self, if_true, veSpaceTry]

theorem exec_dispatchQueueSpace_ae {s : State} {e : AeEntry} (hi : issuing s.u = true)
    (hw : s.u.wait = some (.aeSpace e)) : exec .dispatchQueueSpace s = .next (finish s (tryAe e s)) := by
  show execDispatchQueueSpace s = _
  simp only [execDispatchQueueSpace, completes, hw, happens, hi, Bool.and_self, if_true, veSpaceTry]

/-- A word that has waited completes with the unit w in the place of the acting one. -/
theorem waited_changes {s : State} {f : Unit → Unit} {w : Unit} (hi : issuing s.u = true) (hst : w.st = s.u.st)
    (hr : w.r = s.u.r) (hc : issueCounted w = issueCounted s.u) (hu : back s w = f s.u) :
    Changes s (finish s (.done (s.putUnit s.cur w))) f := by
  have hw : (s.putUnit s.cur w).u = w := State.u_putUnit_cur s w
  exact changes_retireAs (onlyUnit_putUnit s w) (by rw [hw, hst]; exact issuing_running hi) (by rw [hw]; exact hr)
    (by rw [hw]; exact hc) (by rw [hw]; exact hu) rfl

/-! #### The start of an entry (R190, R218) -/

theorem drawWords_known (ws : List Code) (s : State) : drawWords s (ws.map some) = (ws, s) := by
  induction ws with
  | nil => rfl
  | cons w ws ih => simp only [List.map_cons, drawWords, ih]

/-- The words drawn stand where the block's words are any, and nothing but the count of such words changes. -/
theorem drawWords_spec (cs : List (Option Code)) (s : State) :
    (drawWords s cs).1.length = cs.length ∧
    (∀ (i : Nat) c, cs[i]? = some (some c) → (drawWords s cs).1[i]? = some c) ∧
    ∃ n, (drawWords s cs).2 = { s with free := n } := by
  induction cs generalizing s with
  | nil => exact ⟨rfl, fun i c h => by simp at h, s.free, rfl⟩
  | cons w cs ih =>
    cases w with
    | some c =>
      obtain ⟨hlen, hpos, hfree⟩ := ih s
      refine ⟨congrArg (· + 1) hlen, fun i d h => ?_, hfree⟩
      cases i with
      | zero => exact Option.some.inj h
      | succ i => exact hpos i d h
    | none =>
      obtain ⟨hlen, hpos, n, hfree⟩ := ih (freeVal s).2
      refine ⟨congrArg (· + 1) hlen, fun i d h => ?_, n, hfree⟩
      cases i with
      | zero => simp at h
      | succ i => exact hpos i d h

section EntryStart

variable {s : State} {e : VeEntry} {q : List VeEntry} (hq : s.u.ve.queue = e :: q) (hrun : s.u.ve.run = none)
  (hl : routerLive s.u = true) (hdue : dueHere s.u e.due = true)

include hq hrun hl hdue

theorem exec_veEntryStart_fetchFault {c : Cause} {va : Word} (h : blockWords s 16 e.off e.n = .error (c, va)) :
    exec .veEntryStart s = .next (agentFault s s.cur .router c va 0) := by
  show execVeEntryStart s = _
  simp only [execVeEntryStart, hq, hrun, hl, hdue, h, happens, Option.isNone_none, Bool.and_self, if_true]

theorem exec_veEntryStart_badNest {cs : List (Option Code)} {ws : List Code} {t : State}
    (h : blockWords s 16 e.off e.n = .ok cs) (hd : drawWords s cs = (ws, t))
    (hn : nestBad (headersOf e.k ws) ws.length = true) :
    exec .veEntryStart s = .next (agentFault t t.cur .router .nestForm 0 0) := by
  show execVeEntryStart s = _
  simp only [execVeEntryStart, hq, hrun, hl, hdue, h, hd, hn, happens, Option.isNone_none, Bool.and_self, if_true]

theorem exec_veEntryStart {cs : List (Option Code)} {ws : List Code} {t : State}
    (h : blockWords s 16 e.off e.n = .ok cs) (hd : drawWords s cs = (ws, t))
    (hn : nestBad (headersOf e.k ws) ws.length = false) :
    exec .veEntryStart s = .next (traceEntry
      (t.setU { dropFar .router t.u with ve := { t.u.ve with queue := q, run := some (veRunOf t.u e ws) } })
      t.cur 1 false e.ord e.off) := by
  show execVeEntryStart s = _
  simp only [execVeEntryStart, hq, hrun, hl, hdue, h, hd, hn, happens, Option.isNone_none, Bool.and_self, if_true,
    Bool.false_eq_true, if_false]
  rfl

end EntryStart

theorem dueHere_of {u : Unit} {due : Option Nat}
    (h : due = none ∨ u.course.active = false ∨ ∃ d, due = some d ∧ d ≤ u.course.cc.toNat) : dueHere u due = true := by
  cases due with
  | none => rfl
  | some d =>
    simp only [dueHere, Bool.or_eq_true, Bool.not_eq_true', decide_eq_true_eq]
    rcases h with h | h | ⟨d', hd, hle⟩
    · cases h
    · exact .inl h
    · cases hd; exact .inr hle

theorem live_of_routerLive {u : Unit} (h : routerLive u = true) : live u = true := by
  simp only [routerLive, Bool.and_eq_true] at h
  exact live_of_issuing h.1

/-- The trace of an entry leaves the unit as the entry has put it, but for its counters and requests. -/
theorem traceEntry_setU {s : State} (w : Unit) (eng : Nat) (fin : Bool) (ord word : Nat) :
    KeepsEngines w (traceEntry (s.setU w) s.cur eng fin ord word).u := by
  have h := (aside_traceEntry (s.setU w) s.cur eng fin ord word).engines
  rwa [State.setU_eq, State.u_putUnit_cur] at h

theorem traceEntry_setU_sessionless {s : State} {w : Unit} (h : w.sess = none) (eng : Nat) (fin : Bool)
    (ord word : Nat) : traceEntry (s.setU w) s.cur eng fin ord word = s.setU w :=
  traceEntry_sessionless (by rw [show (s.setU w).unit s.cur = w from State.u_putUnit_cur s w]; exact h) _ _ _ _

/-! #### Tokens and the end of an entry (R196, R220, R221) -/

/-- The acting unit once it has taken one from a token (R196). -/
def tokenTaken (s : State) (t : Nat) (u : Unit) : Unit :=
  { u with ve := { u.ve with toks := tset u.ve.toks t (tokOf u t - 1) }, me := coverTok u.me t
           m := { u.m with snap := s.mem } }

theorem tryTok_taken {s : State} {w : Nat → Wait} {t : Nat} (h : tokOf s.u t ≠ 0) :
    tryTok w t s = .done (s.putUnit s.cur (tokenTaken s t s.u)) := by
  rw [tryTok, if_neg h]
  simp only [refresh, State.onU_eq, State.onUnit_eq, State.putUnit_putUnit]
  congr 2
  rw [show (s.putUnit s.cur (takeTok s.u t)).unit s.cur = takeTok s.u t from State.u_putUnit_cur s _]
  rfl

theorem does_vtokw {s : State} {t : BitVec 8} (h : CanIssue s []) (ht : tokOf s.u t.toNat ≠ 0) :
    Does (.vtokw t) s (Changes s · (tokenTaken s t.toNat)) :=
  sqWord_puts (body := tryTok .vtok t.toNat) (w := tokenTaken s t.toNat { s.u with poll := false }) h
    (by rw [tryTok_taken (by rw [unpoll_u]; exact ht), unpoll_u]; rfl) rfl rfl rfl rfl

theorem does_vtokw_waits {s : State} {t : BitVec 8} (h : CanIssue s []) (ht : tokOf s.u t.toNat = 0) (hm : MayHold s) :
    Does (.vtokw t) s (WaitsIn s · (.vtok t.toNat)) := by
  have hb : tryTok .vtok t.toNat (unpoll s) = .hold (.vtok t.toNat) (unpoll s) := if_pos (by rw [unpoll_u]; exact ht)
  refine ⟨_, sqWord_issue h (tryTok .vtok t.toNat), ?_⟩
  rw [hb]
  exact waitsIn_finish _ hm (by rw [unpoll_u]) rfl (by rw [unpoll_u])

theorem does_vtokwComplete {s : State} {t : Nat} (hi : issuing s.u = true) (hw : s.u.wait = some (.vtok t))
    (ht : tokOf s.u t ≠ 0) : Does .vtokwComplete s (Changes s · (tokenTaken s t)) := by
  refine ⟨finish s (tryTok .vtok t s), ?_, ?_⟩
  · show execVtokwComplete s = _
    simp only [execVtokwComplete, completes, hw, happens, hi, Bool.and_self, if_true]
  · rw [tryTok_taken ht]
    exact waited_changes hi rfl rfl rfl rfl

/-- The words before a token add have left their columns. -/
theorem colWords_left {u : Unit} {n : Nat} (h : ∀ v ∈ colWords u, n ≤ v.seq) :
    (colWords u).all (fun v => decide (n ≤ v.seq)) = true := by
  simpa using h

section TokenAdd

variable {s : State} {a : TokAdd} {rest : List TokAdd} (ha : s.u.ve.adds = a :: rest) (hl : live s.u = true)
  (hleft : ∀ v ∈ colWords s.u, a.seq ≤ v.seq)

include ha hl hleft

theorem exec_vtokAdd_notes (hg : a.given = none) : exec .vtokAdd s = .next (s.setU
    { flushTo s.u (givenOf s.u a.streams) with
      ve := { (flushTo s.u (givenOf s.u a.streams)).ve with
        adds := { a with given := some (givenOf s.u a.streams) } :: rest } }) := by
  have hall := colWords_left hleft
  show execVtokAdd s = _
  simp only [execVtokAdd, ha, hg, happens, hl, hall, Bool.and_self, if_true, State.onU_eq, State.setU_eq,
    State.putUnit_cur, State.putUnit_putUnit, State.u_putUnit_cur]

variable {g : List (Nat × Nat × Nat)} (hg : a.given = some g) (hp : g.all (performedTo s.u) = true)

include hg hp

theorem exec_vtokAdd_adds (ht : tokOf s.u a.tok ≠ 0xFFFF) : exec .vtokAdd s = .next (s.setU { s.u with
    ve := { s.u.ve with toks := tset s.u.ve.toks a.tok (tokOf s.u a.tok + 1), adds := rest } }) := by
  have hall := colWords_left hleft
  show execVtokAdd s = _
  simp only [execVtokAdd, ha, hg, hp, happens, hl, hall, Bool.and_self, if_true, addTok, if_neg ht, State.onU_eq,
    State.setU_eq, State.putUnit_cur, State.putUnit_putUnit, State.u_putUnit_cur, setTok]

theorem exec_vtokAdd_overflow (ht : tokOf s.u a.tok = 0xFFFF) :
    exec .vtokAdd s = .next (agentFault s s.cur .router .tokenOverflow 0 a.tok) := by
  have hall := colWords_left hleft
  show execVtokAdd s = _
  simp only [execVtokAdd, ha, hg, hp, happens, hl, hall, Bool.and_self, if_true, addTok, if_pos ht]

end TokenAdd

theorem exec_veEntryFinish {s : State} {r : VeRun} (hr : s.u.ve.run = some r) (he : r.atEnd = true)
    (hc : colWords s.u = []) (hl : routerLive s.u = true) : exec .veEntryFinish s = .next (traceEntry
      (s.setU { s.u with ve := { s.u.ve with run := none }, m := { s.u.m with counter := s.u.m.counter + 1 } })
      s.cur 1 true r.e.ord r.e.off) := by
  show execVeEntryFinish s = _
  simp only [execVeEntryFinish, hr, he, hc, hl, happens, List.isEmpty_nil, Bool.and_self, if_true, unitCounts, putRun,
    State.onU_eq, State.setU_eq, State.putUnit_cur, State.putUnit_putUnit, State.u_putUnit_cur]

/-! #### The clauses of a dispatch -/

section Vrun

variable {s : State} {a : BitVec 6} {n1 : BitVec 8} (h : CanIssue s [a])

include h

theorem does_vrun_outside (hin : ¬ (gOf s a).toNat + (n1.toNat + 1) ≤ (sectionOf s s.u 16).2 / 4) :
    Does (.vrun a n1) s (Traps s · .fetchBounds 0 0) :=
  vrun_refused h ((blockCause_unpoll s 16 _ _).trans (if_neg hin)) (fun _ => Cause.noConfusion)

variable (hin : (gOf s a).toNat + (n1.toNat + 1) ≤ (sectionOf s s.u 16).2 / 4)

include hin

theorem does_vrun_page {c : Cause} {va : Word}
    (hp : codeCause (unpoll s) ((sectionOf s s.u 16).1 + 4 * (gOf s a).toNat) (4 * (n1.toNat + 1)) = some (c, va))
    (hc : ∀ p, c ≠ .elsewhere p) : Does (.vrun a n1) s (Traps s · c va 0) :=
  vrun_refused h (((blockCause_unpoll s 16 _ _).trans (if_pos hin)).trans hp) hc

variable (hp : codeCause (unpoll s) ((sectionOf s s.u 16).1 + 4 * (gOf s a).toNat) (4 * (n1.toNat + 1)) = none)

include hp

/-- VRUN of a block whose pages are resident comes to its dispatch. -/
theorem exec_vrun_dispatch : exec (.vrun a n1) s =
    .next (finish (unpoll s) (tryVe (veEntry s (gOf s a).toNat (n1.toNat + 1)) (unpoll s))) :=
  exec_vrun h (((blockCause_unpoll s 16 _ _).trans (if_pos hin)).trans hp)

theorem does_vrun_waits (hroom : ¬ s.u.ve.queue.length < Config.queueCap) (hm : MayHold s) :
    Does (.vrun a n1) s (WaitsIn s · (.veSpace (veEntry s (gOf s a).toNat (n1.toNat + 1)))) := by
  refine ⟨_, exec_vrun_dispatch h hin hp, ?_⟩
  rw [tryVe_full _ (by rw [unpoll_u]; exact hroom)]
  exact waitsIn_finish _ hm (by rw [unpoll_u]) rfl (by rw [unpoll_u])

variable (hroom : s.u.ve.queue.length < Config.queueCap)

include hroom

theorem does_vrun_enters (ha : s.u.course.active = false) :
    Does (.vrun a n1) s (Changes s · (withVe (veEntry s (gOf s a).toNat (n1.toNat + 1)))) := by
  refine ⟨_, exec_vrun_dispatch h hin hp, ?_⟩
  rw [tryVe_taken _ (by rw [unpoll_u]; exact hroom) (courseTake_idle (by rw [unpoll_u]; exact ha) 1)]
  have hw := State.u_putUnit_cur (unpoll s)
    (withVe { veEntry s (gOf s a).toNat (n1.toNat + 1) with due := none } (unpoll s).u)
  refine changes_retireAs (onlyUnit_unpoll_putUnit s _) ?_ ?_ ?_ ?_ (governed_unpoll s)
  · rw [hw]; exact running_unpoll h
  · rw [hw, unpoll_u]; rfl
  · rw [hw, unpoll_u]; rfl
  · rw [hw, unpoll_u]; rfl

theorem does_vrun_course (ha : s.u.course.active = true) {due : Option Nat} {t : State}
    (ht : courseTake (unpoll s) 1 = .ok (due, t)) : Does (.vrun a n1) s (fun x =>
      x.u.ve = (withVe { veEntry s (gOf s a).toNat (n1.toNat + 1) with due := due } s.u).ve ∧
      x.u.course = t.u.course ∧ x.u.r.pc = s.u.r.pc + 4 ∧ x.u.wait = none ∧ KeptRegs s x) := by
  refine ⟨_, exec_vrun_dispatch h hin hp, ?_⟩
  rw [tryVe_taken _ (by rw [unpoll_u]; exact hroom) ht]
  exact withVe_retireAs _ _ (by rw [unpoll_u]) (issuing_running (issuing_of_canIssue h)) ha ht

theorem does_vrun_courseTable (ht : courseTake (unpoll s) 1 = .error (.courseTable, 0)) :
    Does (.vrun a n1) s (Traps s · .courseTable 0 0) := by
  refine ⟨_, exec_vrun_dispatch h hin hp, ?_⟩
  rw [tryVe_refused _ (by rw [unpoll_u]; exact hroom) ht]
  exact sqFault_traps (onlyUnit_unpoll s) (by rw [unpoll_u]) (live_of_issuing (issuing_of_canIssue h))
    (fun _ => Cause.noConfusion) 0 0

end Vrun

section QueueSpace

variable {s : State} (hi : issuing s.u = true)

include hi

theorem does_dispatchQueueSpace_ve {e : VeEntry} (hw : s.u.wait = some (.veSpace e))
    (hroom : s.u.ve.queue.length < Config.queueCap) :
    (s.u.course.active = false → Does .dispatchQueueSpace s (Changes s · (withVe { e with due := none }))) ∧
    ∀ due t, s.u.course.active = true → courseTake s 1 = .ok (due, t) → Does .dispatchQueueSpace s (fun x =>
      x.u.ve = (withVe { e with due := due } s.u).ve ∧ x.u.course = t.u.course ∧ x.u.r.pc = s.u.r.pc + 4 ∧
      x.u.wait = none ∧ KeptRegs s x) := by
  have hx := exec_dispatchQueueSpace_ve hi hw
  refine ⟨fun ha => ⟨_, hx, ?_⟩, fun due t ha ht => ⟨_, hx, ?_⟩⟩
  · rw [tryVe_taken e hroom (courseTake_idle ha 1)]
    exact waited_changes hi rfl rfl rfl rfl
  · rw [tryVe_taken e hroom ht]
    exact withVe_retireAs e _ rfl (issuing_running hi) ha ht

theorem does_dispatchQueueSpace_ae {e : AeEntry} (hw : s.u.wait = some (.aeSpace e))
    (hroom : s.u.ae.queue.length < Config.queueCap) :
    (s.u.course.active = false → Does .dispatchQueueSpace s (Changes s · (withAe { e with due := none }))) ∧
    ∀ due t, s.u.course.active = true → courseTake s 0 = .ok (due, t) → Does .dispatchQueueSpace s (fun x =>
      x.u.ae = (withAe { e with due := due } s.u).ae ∧ x.u.course = t.u.course ∧ x.u.r.pc = s.u.r.pc + 4 ∧
      x.u.wait = none ∧ KeptRegs s x) := by
  have hx := exec_dispatchQueueSpace_ae hi hw
  refine ⟨fun ha => ⟨_, hx, ?_⟩, fun due t ha ht => ⟨_, hx, ?_⟩⟩
  · rw [tryAe_taken e hroom (courseTake_idle ha 0)]
    exact waited_changes hi rfl rfl rfl rfl
  · rw [tryAe_taken e hroom ht]
    exact withAe_retireAs e _ (issuing_running hi) ha ht

end QueueSpace

/-! #### The clauses of an entry's start and end -/

/-- The acting unit once the entry at the head of its vector queue runs. -/
def entryRuns (s : State) (e : VeEntry) (q : List VeEntry) (ws : List Code) : Unit :=
  { dropFar .router s.u with ve := { s.u.ve with queue := q, run := some (veRunOf s.u e ws) } }

section StartClauses

variable {s : State} {e : VeEntry} {q : List VeEntry} (hq : s.u.ve.queue = e :: q) (hrun : s.u.ve.run = none)
  (hl : routerLive s.u = true) (hdue : dueHere s.u e.due = true) {cs : List (Option Code)}
  (hcs : blockWords s 16 e.off e.n = .ok cs)

include hq hrun hl hdue hcs

theorem does_veEntryStart_runs {ws : List Code} (hw : cs = ws.map some)
    (hn : nestBad (headersOf e.k ws) ws.length = false) : Does .veEntryStart s (fun x =>
      (x.u.r = s.u.r ∧ x.u.ve = (entryRuns s e q ws).ve) ∧ (s.u.sess = none → x = s.setU (entryRuns s e q ws))) := by
  refine ⟨_, exec_veEntryStart hq hrun hl hdue hcs (by rw [hw, drawWords_known]) hn, ?_,
    fun hs => traceEntry_setU_sessionless (w := entryRuns s e q ws) hs 1 false e.ord e.off⟩
  obtain ⟨c, ctr, remotes, hu⟩ := traceEntry_setU (s := s) (entryRuns s e q ws) 1 false e.ord e.off
  constructor
  · exact (congrArg Unit.r hu : _)
  · exact (congrArg Unit.ve hu : _)

theorem does_veEntryStart_badNest {ws : List Code} (hw : cs = ws.map some)
    (hn : nestBad (headersOf e.k ws) ws.length = true) :
    Does .veEntryStart s (fun x => StoppedBy .router false s x .nestForm 0 0 s.u.r.pc) :=
  ⟨_, exec_veEntryStart_badNest hq hrun hl hdue hcs (by rw [hw, drawWords_known]) hn,
    agentFault_stops (live_of_routerLive hl) .router (fun _ => Cause.noConfusion) 0 0⟩

/-- With words changed under the launch, any words are met in their places. -/
theorem does_veEntryStart_any : Does .veEntryStart s (fun x => ∃ ws, ws.length = cs.length ∧
    (∀ (i : Nat) c, cs[i]? = some (some c) → ws[i]? = some c) ∧
    if nestBad (headersOf e.k ws) ws.length then x.u.st = .faulted
    else x.u.r = s.u.r ∧ x.u.ve = (entryRuns s e q ws).ve) := by
  obtain ⟨hlen, hpos, n, hfree⟩ := drawWords_spec cs s
  generalize hd : drawWords s cs = d at hlen hpos hfree
  obtain ⟨ws, t⟩ := d
  obtain rfl : t = { s with free := n } := hfree
  cases hn : nestBad (headersOf e.k ws) ws.length with
  | true =>
    refine ⟨_, exec_veEntryStart_badNest hq hrun hl hdue hcs hd hn, ws, hlen, hpos, ?_⟩
    rw [if_pos hn]
    exact (agentFault_stops (s := { s with free := n }) (live_of_routerLive hl) .router
      (fun _ => Cause.noConfusion) 0 0).1
  | false =>
    refine ⟨_, exec_veEntryStart hq hrun hl hdue hcs hd hn, ws, hlen, hpos, ?_⟩
    rw [if_neg (by rw [hn]; exact Bool.false_ne_true)]
    obtain ⟨c, ctr, remotes, hu⟩ :=
      traceEntry_setU (s := { s with free := n }) (entryRuns s e q ws) 1 false e.ord e.off
    exact ⟨(congrArg Unit.r hu : _), (congrArg Unit.ve hu : _)⟩

end StartClauses

theorem does_veEntryFinish {s : State} {r : VeRun} (hr : s.u.ve.run = some r) (he : r.atEnd = true)
    (hc : colWords s.u = []) (hl : routerLive s.u = true) : Does .veEntryFinish s (fun x =>
      x.u.r = s.u.r ∧ x.u.ve = { s.u.ve with run := none } ∧ x.u.m.counter = s.u.m.counter + 1 ∧
      (s.u.sess = none → x = s.setU
        { s.u with ve := { s.u.ve with run := none }, m := { s.u.m with counter := s.u.m.counter + 1 } })) := by
  let w : Unit := { s.u with ve := { s.u.ve with run := none }, m := { s.u.m with counter := s.u.m.counter + 1 } }
  obtain ⟨c, ctr, remotes, hu⟩ := traceEntry_setU (s := s) w 1 true r.e.ord r.e.off
  refine ⟨_, exec_veEntryFinish hr he hc hl, ?_, ?_, ?_, fun hs => traceEntry_setU_sessionless (w := w) hs 1 true _ _⟩
  · exact (congrArg Unit.r hu : _)
  · exact (congrArg Unit.ve hu : _)
  · exact (congrArg (·.m.counter) hu : _)

/-- Settles O28: each clause is the lemma of its word or event; a course entry and a trace leave the engines alone. -/
theorem vectorEntries : Obligations.VectorEntries := by
  intro s a kn n1 t u len off entry sec inside pages room ve ae taken onward
  refine ⟨does_vkset kn, fun h hin hp hroom => ⟨does_vrun_enters h hin hp hroom, fun ha => ⟨fun due s' ht => ?_, ?_⟩⟩,
    fun h hin hp hroom hm => does_vrun_waits h hin hp hroom hm,
    fun h hin c va hp hc => does_vrun_page h hin hp hc, fun h hin => does_vrun_outside h hin,
    fun e hi hw hroom => does_dispatchQueueSpace_ve hi hw hroom,
    fun e hi hw hroom => does_dispatchQueueSpace_ae hi hw hroom, ?_, ?_, ?_,
    fun r hr he hc hl => does_veEntryFinish hr he hc hl, does_vtokw, does_vtokw_waits,
    fun hi hw ht => does_vtokwComplete hi hw ht⟩
  · exact does_vrun_course h hin hp hroom ha ht
  · exact does_vrun_courseTable h hin hp hroom
  · intro e q cs hq hrun hl hdue hcs
    have hd := dueHere_of hdue
    exact ⟨fun ws => does_veEntryStart_runs hq hrun hl hd hcs, fun ws => does_veEntryStart_badNest hq hrun hl hd hcs,
      does_veEntryStart_any hq hrun hl hd hcs⟩
  · intro e q c va hq hrun hl hdue hb hc
    exact ⟨_, exec_veEntryStart_fetchFault hq hrun hl (dueHere_of hdue) hb,
      agentFault_stops (live_of_routerLive hl) .router hc va 0⟩
  · intro x rest hl ha hleft
    refine ⟨exec_vtokAdd_notes ha hl hleft, fun g hg hp => ⟨exec_vtokAdd_adds ha hl hleft hg hp, fun ht => ?_⟩⟩
    exact ⟨_, exec_vtokAdd_overflow ha hl hleft hg hp ht,
      agentFault_stops hl .router (fun _ => Cause.noConfusion) 0 x.tok⟩

end Sys2Proof.Machine
